-- ==== Sys2Proof/Word.lean ====
section
/-! DEFINITION. The word types of the module and their plainest arithmetic. -/

namespace Sys2Proof

/-- A byte. -/
abbrev Byte := BitVec 8

/-- A 32-bit word: a register, a ring index, a handle, an accumulator entry. -/
abbrev W32 := BitVec 32

/-- A 64-bit word: a counter, a register, a time. -/
abbrev W64 := BitVec 64

/-- A flit, or a memory line of 64 bytes (09 R254, 08 R222). -/
abbrev Line := BitVec 512

/-- A request slot or a ring record of 512 bytes (12 R362, R364). -/
abbrev Image512 := BitVec 4096

/-- The body of a request or of a ring record: 432 bytes (12 R362). -/
abbrev Body := BitVec 3456

/-- A tenant identity: the SHA-384 digest of a public key (14 R400). -/
abbrev Ident := BitVec 384

/-- A sparse table by number, sorted by key: what an unlisted key reads as is fixed by each use. -/
abbrev SMap (α : Type) := List (Nat × α)

/-- Byte memory: strictly rising addresses, and no entry equal to 0, which an unlisted address reads as. -/
abbrev Mem := List Host.Cell

end Sys2Proof
end

