-- ==== Sys2Proof/Syntax.lean ====
section
/-! DEFINITION. The commands of the module: every row of the spec's opcode table is a constructor of `Instr`, with
the row's operands. -/

namespace Sys2Proof

/-- Which head of a queue a sync command is about. -/
inductive HeadRef where
  /-- the head of a command queue of a logical tile (06 R180) -/
  | queue (tile : Fin 480) (queue : Fin 8)
  /-- the head of a copy or collective channel (08 R233, 10 R287) -/
  | chan (h : W32)
  deriving DecidableEq, Repr

/-- What the Reed–Solomon check of a line finds (08 R222). -/
inductive EccOutcome where
  /-- no error -/
  | clean
  /-- one symbol corrected -/
  | corrected
  /-- uncorrectable, also when read once more -/
  | uncorrectable
  deriving DecidableEq, Repr

/-- What an M-die manager does of its own accord (17 R490). -/
inductive AutoSpare where
  /-- it moves a line into the line-sparing store -/
  | line (line : Nat)
  /-- it applies a soft repair to a row that holds four spared lines -/
  | row (channel bank : BitVec 8) (row : W32) (l0 l1 l2 l3 : Nat)
  deriving DecidableEq, Repr

/-- What an IP packet carries, as far as a port tells packets apart (12 R353). -/
inductive IpBody where
  /-- an ICMP or ICMPv6 echo request, with its identifier, sequence number and data -/
  | echo (data : List (BitVec 8))
  /-- an ICMPv6 neighbour solicitation for an address -/
  | solicit (target : BitVec 128)
  /-- an ICMPv6 neighbour advertisement, or an ICMP echo reply or error -/
  | notice
  /-- a RoCE v2 packet of the reliable-connected transport for a queue pair, or of the communication manager -/
  | roce (qp : BitVec 24)
  /-- a RoCE v2 packet of another transport -/
  | roceOther
  /-- an IEEE 1588-2019 message -/
  | ptp
  /-- any other protocol, DHCP, DHCPv6 and router advertisements (SLAAC) among them -/
  | other
  deriving DecidableEq, Repr

/-- What an Ethernet frame carries, as far as a port tells frames apart (12 R353). -/
inductive EthBody where
  /-- EAPOL-MKA -/
  | mka
  /-- a pause frame of IEEE 802.3 annex 31B -/
  | pause
  /-- an ARP request for an IPv4 address -/
  | arp (target : BitVec 32)
  /-- an IPv4 packet: its source, destination, whether it has options, is a fragment and carries the ECN mark, and its body -/
  | ipv4 (src dst : BitVec 32) (options fragment marked : Bool) (body : IpBody)
  /-- an IPv6 packet: its source, destination, whether it has extension headers, is a fragment and carries the ECN mark, and its body -/
  | ipv6 (src dst : BitVec 128) (extensions fragment marked : Bool) (body : IpBody)
  /-- any other frame -/
  | other
  deriving DecidableEq, Repr

/-- A frame that arrives on an Ethernet port (12 R353, R354). -/
structure EthFrame where
  /-- It carries MACsec. -/
  protected_ : Bool
  /-- Its MACsec tag verifies under the port's key. -/
  verifies : Bool
  /-- Its length in bytes. -/
  len : BitVec 16
  /-- Its IEEE 802.1Q tags (PCP and VID), outermost first. -/
  tags : List (BitVec 16)
  /-- The priority under which it is received. -/
  prio : Fin 8
  /-- With this frame, the receive buffer of its priority crosses its threshold. -/
  crosses : Bool
  /-- What it carries. -/
  body : EthBody
  deriving DecidableEq, Repr

/-- How the write of an image into its flash slot goes (13 R387, "When manager events meet"). -/
inductive FlashWrite where
  /-- the image reads back equal -/
  | equal
  /-- the read-back differs after three writes -/
  | differs
  /-- `MOD_RESET_N` is asserted during the write, so the slot is left incomplete -/
  | cut
  deriving DecidableEq, Repr

/-- What the hardware finds in a boot step (13 R383, R384). -/
structure BootFacts where
  /-- Step 1: the root of trust passes its self-test. -/
  selfTest : Bool
  /-- Step 1: the repair record on flash device A passes its check. -/
  copyA : Bool
  /-- Step 1: the repair record on flash device B passes its check. -/
  copyB : Bool
  /-- Flash slots whose contents are found changed when they are verified: class, slot (false A, true B), and the bytes
  that stand there now, or none. -/
  altered : List (Fin 6 × Bool × Option (List (BitVec 8)))
  /-- Step 7: M-dies with a stack or package that failed its training twice; step 9: dies that failed `QUICK`. -/
  failed : BitVec 88
  /-- Step 9: the number of SRAM repairs found on each die that has some. -/
  repairs : List (Fin 88 × BitVec 32)
  /-- Step 11: Ethernet ports whose link and key agreement succeed. -/
  eth : BitVec 8
  deriving DecidableEq, Repr

/-- What the weir of a die reads and reckons in one microsecond (15 R435 to R437). -/
structure WeirReading where
  /-- Draw of each of the eight tiles at its full clock, in 0.1 W, tile 0 in the low bits. -/
  demand : BitVec 128
  /-- Highest junction reading of the die, in °C, signed. -/
  tj : BitVec 8
  /-- Stretch that the limits of the main input ask of every running tile of the module, in 1/256. -/
  panelRaise : BitVec 8
  /-- Stretch that the slack of the core rail asks of this die, in 1/256. -/
  railRaise : BitVec 8
  /-- Main input current, in 0.1 A. -/
  current : BitVec 16
  /-- Conditions that have held for 1 ms: bit 0 junction temperature, 1 rail slack, 2 input power at its limit, 3 input
  current. -/
  lasted : BitVec 4
  deriving DecidableEq, Repr

/-- What is measured or found at one place (16 R453, R470; 01 R26, R35). -/
inductive Sample where
  /-- a gauge of an object samples a value -/
  | gauge (id obj : BitVec 32) (v : BitVec 64)
  /-- a read finds an error in a 64-bit scratchpad word of a physical tile: a single-bit or a double-bit one -/
  | spError (tile : Fin 512) (word : Fin 1048576) (double : Bool)
  /-- a transfer over a ford of a C-die fails its check and is retried -/
  | fordRetry (die : Fin 64) (edge : Fin 4)
  /-- an error is corrected in another SRAM of a die -/
  | sramCorrection (die : Fin 88)
  deriving DecidableEq, Repr

/-- Times of one port and virtual channel in a flow-gauge window, in ns (09 R282). -/
structure FlowTimes where
  /-- Port. -/
  port : Fin 12
  /-- Virtual channel. -/
  vc : Fin 8
  /-- `CREDIT_WAIT_NS`. -/
  creditWait : BitVec 32
  /-- `BUSY_NS`. -/
  busy : BitVec 32
  /-- `HEAD_WAIT_MAX_NS`. -/
  headWait : BitVec 32
  deriving DecidableEq, Repr

/-- The end of a flow-gauge window (09 R282). -/
structure FlowWindow where
  /-- Times measured in it. -/
  times : List FlowTimes
  /-- Length set for the windows from now on, in ns. -/
  set : Option (BitVec 24)
  deriving DecidableEq, Repr

/-- What a cold restart finds (13 R383, R385; 14 R395). -/
structure ColdStart where
  /-- Level of `PRIMARY_SEL`. -/
  primarySel : Bool
  /-- Entries of the sealed store that fail authentication: bit 0 the ownership certificate, bit 1 the pending one, bit 2 + j the
      connectivity key of Ethernet port j. -/
  unsealed : BitVec 10
  deriving DecidableEq, Repr

/-- One optical reading (16 R468). -/
inductive Optical where
  /-- receive and transmit power of the nine lanes of a port, in 0.01 dBm, signed, 16 bits each -/
  | lanes (port : Fin 12) (rx tx : BitVec 144)
  /-- bias of a laser source, in 0.01 mA -/
  | bias (source : Fin 16) (bias : BitVec 16)
  deriving DecidableEq, Repr

/-- The object of a distance-to-limit measure (16 R472). -/
inductive Measure where
  /-- 0: dense GEMM, the module -/
  | gemm
  /-- 1: Tier F streaming, a stack -/
  | stream (stack : Fin 20)
  /-- 2: torus payload, a port and a direction -/
  | torus (port : Fin 12) (rx : Bool)
  /-- 3: a reduce-scatter of a context -/
  | scatter (ctx : Fin 64)
  /-- 4: conversion, the module -/
  | conversion
  deriving DecidableEq, Repr

/-- The commands: one constructor for each row of the table. -/
inductive Instr where
  /-- `HELLO` (R370). Agrees the interface revision for the session and reports the module identity and state. -/
  | hello (sess : Fin 64) (seq : W32)
  /-- `BYE` (R371). Closes the session after every other result of the session has been written. -/
  | bye (sess : Fin 64) (seq : W32)
  /-- `PING` (R373). Returns the next expected SEQ, the tide, the package state and DEGRADED. -/
  | ping (sess : Fin 64) (seq : W32)
  /-- `CTX_CREATE` (R160). Allocates the lowest free context ID and records the seed and the starting step count. -/
  | ctxCreate (sess : Fin 64) (seq : W32)
  /-- `CTX_BIND` (R160). Binds tiles, the sync space, windows and the partition to a context, and loads its
      compiled tables from the bind table. -/
  | ctxBind (sess : Fin 64) (seq : W32)
  /-- `CTX_QUIESCE` (R160). Stops fetching on every channel of a running context and lets issued work complete. -/
  | ctxQuiesce (sess : Fin 64) (seq : W32)
  /-- `CTX_QUIESCE_DONE` (R160). Completes a quiesce once no operation of the context is in flight, and the
      context becomes QUIESCED. -/
  | ctxQuiesceDone (ctx : Fin 64)
  /-- `CTX_DESTROY` (R161). Moves a context to DESTROYING, abandons its operations, retires its handles and starts
      clearing its tiles and keys. -/
  | ctxDestroy (sess : Fin 64) (seq : W32)
  /-- `CTX_CLEAR_COMPLETE` (R161). Completes the clearing of a destroyed context, frees its ID and unbinds its
      tiles. -/
  | ctxClearComplete (ctx : Fin 64)
  /-- `CHAN_CREATE` (R171). Creates a channel, window or sync space of the named kind and returns its handle. -/
  | chanCreate (sess : Fin 64) (seq : W32)
  /-- `WINDOW_ZERO_FILL_DONE` (R228). Completes the zero-fill of a new memory window's frames, which lets its
      CHAN_CREATE complete. -/
  | windowZeroFillDone (window : W32)
  /-- `CHAN_START` (R171). Starts or resumes a channel, optionally at a restart index, and arms its write-watch. -/
  | chanStart (sess : Fin 64) (seq : W32)
  /-- `CHAN_STOP` (R171). Stops fetching on a channel, or moves a FAULTED channel to STOPPED. -/
  | chanStop (sess : Fin 64) (seq : W32)
  /-- `CHAN_STOP_DONE` (R171). Completes a channel stop once the last issued operation has written its record. -/
  | chanStopDone (chan : W32)
  /-- `CHAN_DESTROY` (R171). Disarms the write-watch and retires the handle of a channel, window, sync space,
      subscription or grant. -/
  | chanDestroy (sess : Fin 64) (seq : W32)
  /-- `CHAN_QUERY` (R373). Returns the state, fault and ring indices of a handle. -/
  | chanQuery (sess : Fin 64) (seq : W32)
  /-- `QP_CREATE` (R356). Creates a data queue pair for a context on one port and returns its number and service
      ID. -/
  | qpCreate (sess : Fin 64) (seq : W32)
  /-- `QP_MODIFY` (R358). Re-points an idle data queue pair to a new partner. -/
  | qpModify (sess : Fin 64) (seq : W32)
  /-- `QP_DESTROY` (R356). Destroys a data queue pair. -/
  | qpDestroy (sess : Fin 64) (seq : W32)
  /-- `PART_SET_COORD` (R322). Writes FAB_CFG with the module's fabric coordinate and the extent and closure of
      each axis. -/
  | partSetCoord (sess : Fin 64) (seq : W32)
  /-- `PART_JOIN` (R323). Joins, changes or leaves a partition by writing PART_CFG. -/
  | partJoin (sess : Fin 64) (seq : W32)
  /-- `LINK_EXPECT` (R264). Installs, clears, fences or releases the expected neighbour entries of ports, and may
      install the fabric key. -/
  | linkExpect (sess : Fin 64) (seq : W32)
  /-- `TRANSIT_GRANT` (R333). Verifies and installs a signed grant to carry another partition's traffic, and
      returns its handle. -/
  | transitGrant (sess : Fin 64) (seq : W32)
  /-- `FAULT_MODE_SET` (R341). Sets the partition's fault-scope mode to FENCE or REPLAY. -/
  | faultModeSet (sess : Fin 64) (seq : W32)
  /-- `LEVEE_RAISE` (R340). Raises or lowers levees on the named ports. -/
  | leveeRaise (sess : Fin 64) (seq : W32)
  /-- `NET_CONFIG` (R372). Sets the addresses, VLAN, priorities, DSCP values or MACsec key of one Ethernet port. -/
  | netConfig (sess : Fin 64) (seq : W32)
  /-- `GAUGE_SUBSCRIBE` (R458). Creates a telemetry subscription with its filters and export interval. -/
  | gaugeSubscribe (sess : Fin 64) (seq : W32)
  /-- `SNAPSHOT_SCHEDULE` (R464). Schedules one snapshot instant or a series of them. -/
  | snapshotSchedule (sess : Fin 64) (seq : W32)
  /-- `TIME_ROLE_SET` (R445). Sets the module's PTP and torus time roles. -/
  | timeRoleSet (sess : Fin 64) (seq : W32)
  /-- `FW_STAGE` (R387). Reads, verifies and writes an image into its class's inactive flash slot; `data` is what the read
      returns, `equal` says that the slot reads back equal within three writes, `cut` that a reset falls into the write. -/
  | fwStage (sess : Fin 64) (seq : W32) (data : List (BitVec 8)) (equal cut : Bool)
  /-- `FW_ACTIVATE` (R388). Starts, or defers, the restart of the named die managers on the staged slot. -/
  | fwActivate (sess : Fin 64) (seq : W32)
  /-- `BIST_RUN` (R478). Runs a self-test of the chosen kind on a fenced die. -/
  | bistRun (sess : Fin 64) (seq : W32)
  /-- `DIE_FENCE` (R474). Fences a die, stopping its tiles, memory controllers or ports according to its class. -/
  | dieFence (sess : Fin 64) (seq : W32)
  /-- `DIE_RELEASE` (R476). Releases a fenced die and restarts its manager, returning the die to service. -/
  | dieRelease (sess : Fin 64) (seq : W32)
  /-- `DIE_SPARE` (R484). Starts moving a die's logical tiles, or one tile, to a spare target. -/
  | dieSpare (sess : Fin 64) (seq : W32)
  /-- `HBM_REPAIR` (R489). Applies a soft or hard row repair, a lane repair or a frame retirement to a memory
      device. -/
  | hbmRepair (sess : Fin 64) (seq : W32) (resource : Bool)
  /-- `ATTEST` (R405). Answers one SPDM 1.3 request as a responder. -/
  | attest (sess : Fin 64) (seq : W32)
  /-- `SESSION_KEY` (R407). Carries one message of the SPDM key-exchange flow, which assigns the session its role
      at FINISH. -/
  | sessionKey (sess : Fin 64) (seq : W32)
  /-- `CTX_KEY_INSTALL` (R409). Installs a context's memory key on all M-dies and holds its partition key. -/
  | ctxKeyInstall (sess : Fin 64) (seq : W32)
  /-- `POWER_ENVELOPE_SET` (R431). Sets the sustained power envelope E. -/
  | powerEnvelopeSet (sess : Fin 64) (seq : W32)
  /-- `DEBUG_OPEN` (R420). Verifies a debug authorization, destroys every context and opens a debug session. -/
  | debugOpen (sess : Fin 64) (seq : W32)
  /-- `REG_READ` (R373). Returns up to 54 words of control and status space inside a debug session. -/
  | regRead (sess : Fin 64) (seq : W32)
  /-- `REG_WRITE` (R421). Writes a masked word of control and status space inside a debug session. -/
  | regWrite (sess : Fin 64) (seq : W32)
  /-- `DEBUG_SESSION_END` (R421). Ends a debug session with its Aidar session and destroys the contexts created
      inside it. -/
  | debugSessionEnd
  /-- `AIDAR_CONNECT` (R360). Accepts a communication-manager connection under the Aidar service ID and opens a
      session. -/
  | aidarConnect (port : Fin 8) (ringVa : BitVec 64) (rkey : W32) (log2 : BitVec 8)
  /-- `SESSION_END` (R421). Ends an Aidar session on BYE, on a queue-pair error or on STANDBY, and discards its
      records and keys. -/
  | sessionEnd (sess : Fin 64)
  /-- `SLOT_POST` (R362). A host write of OWNER = POSTED to a request slot fires the package manager's write-
      watch. -/
  | slotPost (sess : Fin 64) (slot : Fin 32) (image : BitVec 4096)
  /-- `REQUEST_TAKE` (R363). The package manager takes the next request in SEQ order, frees the slot and starts
      the checks of R368. -/
  | requestTake (sess : Fin 64) (slot : Fin 32)
  /-- `COMMAND_COMPLETE` (R365). Writes the result record of a long-running command when it completes. -/
  | commandComplete (sess : Fin 64) (seq : W32)
  /-- `RING_CONSUMER_WRITE` (R364). A host write of RING_CONSUMER frees ring entries and lets waiting records be
      written. -/
  | ringConsumerWrite (sess : Fin 64) (value : W32)
  /-- `QP_CONNECT` (R356). Accepts the single communication-manager connection of a data queue pair from its named
      partner. -/
  | qpConnect (qp : BitVec 24) (partner : BitVec 128)
  /-- `RDMA_WRITE` (R357). Stores the ciphertext of an RDMA WRITE into a window named by its R_Key, or refuses it
      with a NAK. -/
  | rdmaWrite (qp : BitVec 24) (rkey : W32) (va : BitVec 64) (data : List (BitVec 8))
  /-- `RDMA_READ` (R411). Returns stored ciphertext for an RDMA READ, or answers a NAK on a refusal or a poisoned
      line. -/
  | rdmaRead (qp : BitVec 24) (rkey : W32) (va : BitVec 64) (len : W32)
  /-- `QP_RETRY_EXHAUSTED` (R359). A queue pair whose RoCE retries are exhausted enters its error state. -/
  | qpRetryExhausted (qp : BitVec 24)
  /-- `ETH_FRAME_RX` (R353). Receives an Ethernet frame, verifies it under MACsec and drops any frame that uses an
      unimplemented feature. -/
  | ethFrameRx (port : Fin 8) (frame : EthFrame)
  /-- `PFC_PAUSE_RX` (R354). Stops sending on a priority within 1 µs of receiving a PFC pause. -/
  | pfcPauseRx (port : Fin 8) (prio : Fin 8) (on : Bool)
  /-- `PRODUCER_WRITE` (R169). A write to the first line of a channel's control block fires its write-watch and
      starts fetching. -/
  | producerWrite (chan : W32) (value : W32)
  /-- `DESCRIPTOR_FETCH` (R176). Fetches descriptors of a compute channel in ring order into command queues. -/
  | descriptorFetch (chan : W32)
  /-- `CPL_CONSUMER_WRITE` (R174). A software advance of CPL_CONSUMER releases completed operations held for a
      full completion ring. -/
  | cplConsumerWrite (chan : W32) (value : W32)
  /-- `MATMUL` (R88). Runs C = A × Bᵀ on the array in passes over column blocks and chunks. -/
  | matmul (tile : Fin 480) (queue : Fin 8)
  /-- `EW_MUL` (R98). Multiplies two tensors element by element on the array into accumulator memory. -/
  | ewMul (tile : Fin 480) (queue : Fin 8)
  /-- `DRAIN_ROW` (R117). Reads, converts and writes one accumulator row to scratchpad once its port and banks are
      free. -/
  | drainRow (op : Nat)
  /-- `OPERATION_COMPLETE` (R173). Writes an operation's completion record, releases its footprint and sends its
      signal unless withheld. -/
  | operationComplete (op : Nat)
  /-- `VCONVERT` (R512). Converts stream A to the output format, deriving or reading KB8 units and MX scales. -/
  | vconvert (tile : Fin 480) (queue : Fin 8)
  /-- `VADD` (R142). Adds streams A and B element by element. -/
  | vadd (tile : Fin 480) (queue : Fin 8)
  /-- `VSUB` (R142). Subtracts stream B from stream A. -/
  | vsub (tile : Fin 480) (queue : Fin 8)
  /-- `VMUL` (R142). Multiplies streams A and B. -/
  | vmul (tile : Fin 480) (queue : Fin 8)
  /-- `VFMA` (R142). Forms A × B + C, rounded once. -/
  | vfma (tile : Fin 480) (queue : Fin 8)
  /-- `VAXPBY` (R142). Forms α × A + β × B, rounded once. -/
  | vaxpby (tile : Fin 480) (queue : Fin 8)
  /-- `VMAX` (R142). Writes the larger of A and B. -/
  | vmax (tile : Fin 480) (queue : Fin 8)
  /-- `VMIN` (R142). Writes the smaller of A and B. -/
  | vmin (tile : Fin 480) (queue : Fin 8)
  /-- `VDIV` (R142). Divides A by B. -/
  | vdiv (tile : Fin 480) (queue : Fin 8)
  /-- `VCLAMP` (R142). Clamps A between CLAMP_LO and CLAMP_HI. -/
  | vclamp (tile : Fin 480) (queue : Fin 8)
  /-- `VSCALE` (R142). Forms α × A + β, rounded once. -/
  | vscale (tile : Fin 480) (queue : Fin 8)
  /-- `VCMP` (R142). Writes mask rows comparing A with B under the relation that SUB selects. -/
  | vcmp (tile : Fin 480) (queue : Fin 8)
  /-- `VEXP` (R144). Computes e to the power A. -/
  | vexp (tile : Fin 480) (queue : Fin 8)
  /-- `VLOG` (R144). Computes ln A. -/
  | vlog (tile : Fin 480) (queue : Fin 8)
  /-- `VRSQRT` (R144). Computes 1 / √A. -/
  | vrsqrt (tile : Fin 480) (queue : Fin 8)
  /-- `VRECIP` (R144). Computes 1 / A. -/
  | vrecip (tile : Fin 480) (queue : Fin 8)
  /-- `VSQRT` (R144). Computes √A. -/
  | vsqrt (tile : Fin 480) (queue : Fin 8)
  /-- `VTANH` (R144). Computes tanh A. -/
  | vtanh (tile : Fin 480) (queue : Fin 8)
  /-- `VSIGMOID` (R144). Computes the logistic sigmoid of A. -/
  | vsigmoid (tile : Fin 480) (queue : Fin 8)
  /-- `VGELU` (R144). Computes A × Φ(A). -/
  | vgelu (tile : Fin 480) (queue : Fin 8)
  /-- `VSILU` (R144). Computes A × sigmoid(A). -/
  | vsilu (tile : Fin 480) (queue : Fin 8)
  /-- `NORM_APPLY` (R142). Applies normalisation through row-statistics records. -/
  | normApply (tile : Fin 480) (queue : Fin 8)
  /-- `SOFTMAX_APPLY` (R142). Applies the soft maximum through row-statistics records. -/
  | softmaxApply (tile : Fin 480) (queue : Fin 8)
  /-- `SOFTMAX_BWD` (R142). Forms the soft-maximum backward product B × (A − DOT). -/
  | softmaxBwd (tile : Fin 480) (queue : Fin 8)
  /-- `NORM_BWD` (R142). Forms the normalisation backward result from the records. -/
  | normBwd (tile : Fin 480) (queue : Fin 8)
  /-- `TOPK` (R126). Selects the k largest elements of each row with their indices. -/
  | topk (tile : Fin 480) (queue : Fin 8)
  /-- `TOPK_MERGE` (R126). Merges top-k records of column-split rows into one record per row. -/
  | topkMerge (tile : Fin 480) (queue : Fin 8)
  /-- `ROW_STATS` (R152). Writes one row-statistics record per row in two passes. -/
  | rowStats (tile : Fin 480) (queue : Fin 8)
  /-- `ROW_STATS_MERGE` (R154). Combines P row-statistics records per row into one. -/
  | rowStatsMerge (tile : Fin 480) (queue : Fin 8)
  /-- `ROW_DOT` (R152). Writes DOT and GSUM of each row into its record. -/
  | rowDot (tile : Fin 480) (queue : Fin 8)
  /-- `COL_SUM` (R151). Writes column sums added in ascending row order. -/
  | colSum (tile : Fin 480) (queue : Fin 8)
  /-- `AMAX` (R151). Writes the largest magnitude over all elements. -/
  | amax (tile : Fin 480) (queue : Fin 8)
  /-- `COMPRESS` (R157). Gathers rows or active elements into dense output rows by an index list. -/
  | compress (tile : Fin 480) (queue : Fin 8)
  /-- `EXPAND` (R157). Spreads input rows to the output rows of an index list, in place or weighted. -/
  | expand (tile : Fin 480) (queue : Fin 8)
  /-- `ROUTE_BUILD` (R156). Builds per-expert index lists from top-k records up to capacity, and counts every
      route. -/
  | routeBuild (tile : Fin 480) (queue : Fin 8)
  /-- `MR_GRANT` (R121). A receiving millrace part's grant reaches its sender and lets rows be sent. -/
  | mrGrant (k : Nat)
  /-- `MILLRACE_SEND` (R122). The sender reads and sends one accumulator row after its last accumulation and the
      grant. -/
  | millraceSend (op : Nat)
  /-- `MR_ROW` (R122). A millrace row lands in the receiver's region, sets its landed bit and is acknowledged. -/
  | mrRow (k : Nat)
  /-- `MR_ACK` (R122). An acknowledgement or rejection of a millrace row reaches the sender. -/
  | mrAck (k : Nat)
  /-- `SYNC_SIGNAL` (R186). A signal reaches the home of a sync and adds ADD to its count. -/
  | syncSignal (k : Nat)
  /-- `SYNC_WAIT` (R186). A wait reaches the home and is granted when the count is at least TAKE. -/
  | syncWait (head : HeadRef)
  /-- `WAIT_RETRY` (R188). A requester repeats a remote wait 64 cycles after the home refused it for a full
      pending table. -/
  | waitRetry (head : HeadRef)
  /-- `XLATE_READ_DONE` (R188). A translation or cell-allocation read of a sync-space entry returns from Tier F. -/
  | xlateReadDone (k : Nat)
  /-- `UC_SIGNAL` (R190). A utility-core write signals a virtual sync ID or a local sync register. -/
  | ucSignal (tile : Fin 480) (loc : Bool) (id : BitVec 16)
  /-- `UC_TAKE` (R190). A utility-core write starts a take, which is granted or refused at once. -/
  | ucTake (tile : Fin 480) (loc : Bool) (id : BitVec 16)
  /-- `UC_FAULT` (R192). A utility-core exception traps to mtvec or halts the core and faults the tile's compute
      channels. -/
  | ucFault (tile : Fin 480) (pc : BitVec 48) (mcause : BitVec 8)
  /-- `UC_WFI_WAKE` (R192). Wakes a utility core from WFI on a take completion, a HEAD_REASON change or 1 µs. -/
  | ucWfiWake (tile : Fin 480)
  /-- `QUEUE_PARK` (R193). A queue passes its GATE_THRESH and counts as parked. -/
  | queuePark (tile : Fin 480) (queue : Fin 8)
  /-- `TILE_POWER_OFF` (R193). Powers off a tile's engines after OFF_DELAY clock-gated. -/
  | tilePowerOff (tile : Fin 480)
  /-- `TILE_WAKE` (R196). Wakes a parked tile on an event that can let a head issue. -/
  | tileWake (tile : Fin 480)
  /-- `WAKE_TOKEN_REQUEST` (R429). A powered-off tile requests a die token, then a panel token. -/
  | wakeTokenRequest (tile : Fin 480)
  /-- `WAKE_TOKEN_GRANT` (R429). A token pool grants a free token to the earliest waiting request. -/
  | wakeTokenGrant (pool : Option (Fin 64))
  /-- `TILE_POWER_UP` (R430). Powers up a tile's engines in stages once it holds both tokens, then returns the
      tokens. -/
  | tilePowerUp (tile : Fin 480)
  /-- `STEP_VERDICT` (R198). A FLAG_OR with STEP samples and clears STEP_HEALTH and ORs it over the partition. -/
  | stepVerdict (ch : W32)
  /-- `VERDICT_SET` (R199). Sets VERDICT to COMMIT or SKIP when the verdict collective completes. -/
  | verdictSet (op : Nat)
  /-- `PRIV_AGREEMENT` (R211). A SCALE_MAX with PRIV reads and clears every PRIV_AMAX and agrees the maxima for
      the next close. -/
  | privAgreement (ch : W32)
  /-- `TABLE_AGREEMENT` (R306). A SCALE_MAX with TABLE agrees AMAX over the ranks and updates each agreed-scale
      entry. -/
  | tableAgreement (ch : W32)
  /-- `STEP_CLOSE` (R216). A BARRIER with CLOSE completes and starts the close, holding new accesses to banked
      ranges. -/
  | stepClose (op : Nat)
  /-- `CLOSE_FLIP` (R216). Once no banked access is in flight, flips BANK_SEL or counts a skip, pushes maxima and
      releases the held accesses. -/
  | closeFlip (ctx : Fin 64)
  /-- `ALL_GATHER` (R307). Converts the own shard to the wire format and multicasts it along the axis in both
      directions. -/
  | allGather (ch : W32)
  /-- `REDUCE_SCATTER` (R297). Divides shards among strands and adds contributions along chains in fixed rank
      order. -/
  | reduceScatter (ch : W32)
  /-- `ALL_REDUCE` (R309). Runs a reduce-scatter and then an all-gather of each owner's result. -/
  | allReduce (ch : W32)
  /-- `PERMUTE` (R311). Moves each rank's shard unchanged to its destination rank, or holds as an epoch fence. -/
  | permute (ch : W32)
  /-- `BROADCAST` (R310). Sends the root's whole tensor to every rank. -/
  | broadcast (ch : W32)
  /-- `BARRIER` (R312). Completes once every rank of the box has started it. -/
  | barrier (ch : W32)
  /-- `FLAG_OR` (R312). ORs one 32-bit word over the ranks of the axes. -/
  | flagOr (ch : W32)
  /-- `SCALE_MAX` (R312). Takes the maximum of FP32 values over the ranks of the axes. -/
  | scaleMax (ch : W32)
  /-- `COLL_SIGNATURE` (R288). Receives a start-round signature and, once all have arrived, starts data or
      completes with SIG_MISMATCH. -/
  | collSignature (k : Nat)
  /-- `COLL_DATA` (R301). Receives collective data into a receive slot or writes it to its place in DST. -/
  | collData (k : Nat)
  /-- `COLL_HOP_ADD` (R301). Adds a received slot to the local contribution on the add tile's vector engine and
      sends it on or writes it. -/
  | collHopAdd (op slot : Nat)
  /-- `COLL_CREDIT` (R301). Returns a receive credit to the upstream sender of a collective. -/
  | collCredit (k : Nat)
  /-- `COLL_DRAINED` (R317). A rank of an epoch fence, finding no older collective in flight, sends its drained
      message to every rank. -/
  | collDrained (ch : W32)
  /-- `EPOCH_ADVANCE` (R317). Sets the axis's current epoch and starts the fence PERMUTE when n drained messages
      are counted. -/
  | epochAdvance (ch : W32)
  /-- `COLL_ABORTED` (R319). Completes a collective on every rank after a fault on one rank, and returns credits. -/
  | collAborted (k : Nat)
  /-- `COLLECTIVE_COMPLETE` (R289). Completes a collective once its outputs are accepted and its packets are
      credited back. -/
  | collectiveComplete (op : Nat)
  /-- `COPY` (R235). Copies rows from source to destination, in direct mode or with conversion. -/
  | copy (ch : W32)
  /-- `TRANSPOSE` (R235). Writes destination (c, r) from source (r, c) through the layout engine. -/
  | transpose (ch : W32)
  /-- `RETILE` (R518). Writes the source as row-major blocks, one block per destination row. -/
  | retile (ch : W32)
  /-- `LOWER` (R240). Lowers an NHWC convolution input into matrix rows under a lowering block. -/
  | lower (ch : W32)
  /-- `RILL_GATHER` (R241). Gathers 32-byte table entries by an index list through the rill path. -/
  | rillGather (ch : W32)
  /-- `RILL_SCATTER` (R241). Scatters rows to table entries by an index list through the rill path. -/
  | rillScatter (ch : W32)
  /-- `RILL_QUEUE_FREE` (R243). A freed rill-queue entry lets a held channel head issue its next access. -/
  | rillQueueFree (stack : Fin 20)
  /-- `COPY_WR` (R517). A remote write packet is checked and written at the destination, then acknowledged. -/
  | copyWr (k : Nat)
  /-- `COPY_WR_ACK` (R517). The acceptance of a remote write reaches the engine M-die and counts the write as
      accepted. -/
  | copyWrAck (k : Nat)
  /-- `COPY_RD_REQ` (R517). A remote read request is served at the source module with response packets. -/
  | copyRdReq (k : Nat)
  /-- `COPY_RD_RSP` (R517). Read data from a peer module is written to the copy's destination. -/
  | copyRdRsp (k : Nat)
  /-- `LINE_READ` (R222). An M-die reads a line, corrects, retries or poisons it under the Reed–Solomon check. -/
  | lineRead (line : Nat) (outcome : EccOutcome)
  /-- `SCRUB` (R223). Reads and corrects device lines in the background within the scrub periods. -/
  | scrub (dev : Fin 60) (outcome : EccOutcome)
  /-- `LC_INTERVAL` (R232). Starts a new 1 µs interval of each device's latency-critical cap. -/
  | lcInterval
  /-- `LINE_SPARE` (R247). Moves a line into the line-sparing store, holding its accesses for at most 2 µs. -/
  | lineSpare (dev : Fin 60) (line : Nat)
  /-- `AUTO_LINE_SPARE` (R490). An M-die manager spares a line after three corrections in 24 h, or soft-repairs a
      row with four spared lines. -/
  | autoLineSpare (dev : Fin 60) (act : AutoSpare)
  /-- `DEV_TEMP_READ` (R220). Reads each device's temperature every 1 ms and sets its refresh rate. -/
  | devTempRead (dev : Fin 60) (temp : BitVec 16)
  /-- `REMAP_CHANGE` (R41). Writes the new remap table into inactive banks and holds traffic to moving logical
      tiles. -/
  | remapChange (src : Fin 64) (tile : Option (Fin 8))
  /-- `REMAP_FLIP` (R41). Once no packet for the moving tiles remains, flips ACTIVE_BANK, advances GENERATION and
      releases held traffic. -/
  | remapFlip
  /-- `SPARE_PREPARE` (R485). Releases and quick-tests a sparing target, or fails it and chooses the next one. -/
  | sparePrepare (src : Fin 64) (tile : Option (Fin 8)) (passes : Bool) (repairs : BitVec 32)
  /-- `WARM_MOVE` (R486). Stops the moving tiles, copies their state and rebinds them to the target. -/
  | warmMove (src : Fin 64) (tile : Option (Fin 8))
  /-- `COLD_MOVE` (R487). Clears the target tiles, reloads compiled tables and rebinds the moving tiles. -/
  | coldMove (src : Fin 64) (tile : Option (Fin 8))
  /-- `BIST_DONE` (R479). A BIST run ends and its signature is compared with the manifest. -/
  | bistDone (die : Fin 88) (signature : BitVec 64) (repairable : Bool) (repairs us : BitVec 32)
  /-- `FRAME_RX` (R256). Receives a link frame, accepts it in sequence or discards it and sets NAK, and takes
      credits and acknowledgements. -/
  | frameRx (port : Fin 12) (slots : BitVec 8192) (trailer : BitVec 256)
  /-- `LINK_SILENCE` (R257). A port with no good frame for 4 µs, or 16 fruitless resends, enters RETRAIN. -/
  | linkSilence (port : Fin 12)
  /-- `LANE_SPARE` (R251). Moves a failed lane's traffic onto the spare lane at an agreed frame sequence number. -/
  | laneSpare (port : Fin 12) (lane : Fin 9)
  /-- `LANE_FAIL_NO_SPARE` (R252). A lane fails with the spare in use, and the port retrains on four lanes. -/
  | laneFailNoSpare (port : Fin 12) (lane : Fin 9) (best : BitVec 9)
  /-- `LIGHT_DETECT` (R264). An enabled port sees light on its receive lanes and begins a training attempt. -/
  | lightDetect (port : Fin 12)
  /-- `TRAINING_ATTEMPT_END` (R264). A training attempt completes and the port measures its loop and sends IDENT,
      or fails. -/
  | trainingAttemptEnd (port : Fin 12) (loop : Option (BitVec 16)) (lanes : BitVec 9)
  /-- `TRAINING_RETRY` (R264). Retries a failed training attempt after 1 s. -/
  | trainingRetry (port : Fin 12)
  /-- `IDENT` (R266). Receives a peer IDENT and brings the port UP or puts it in QUARANTINE. -/
  | ident (port : Fin 12)
  /-- `IDENT_REFRESH` (R265). Sends IDENT every 100 ms while the port is UP or in QUARANTINE. -/
  | identRefresh (port : Fin 12)
  /-- `RETRAIN_REALIGNED` (R264). A retraining port realigns and returns to IDENTIFY. -/
  | retrainRealigned (port : Fin 12)
  /-- `RETRAIN_TIMEOUT` (R264). A port 10 ms in RETRAIN clears its retry buffer after failover and returns to
      TRAINING. -/
  | retrainTimeout (port : Fin 12)
  /-- `LINK_FENCED` (R264). Fences a port on an expectation, a P-die fence or eight retrains in 60 s. -/
  | linkFenced (port : Fin 12)
  /-- `PARTNER_TAKEOVER` (R269). The partner port carries a whole direction when its pair leaves UP, or after 1 ms
      in RETRAIN. -/
  | partnerTakeover (port : Fin 12)
  /-- `LINK_CTRL` (R270). Receives the failover report and resends over the partner from the first packet beyond
      it. -/
  | linkCtrl (port : Fin 12)
  /-- `FAILBACK` (R271). Moves traffic back to a returned port once the partner's queued traffic is acknowledged. -/
  | failback (port : Fin 12)
  /-- `PACKET_ROUTE` (R272). Forwards or delivers a unicast packet by dimension order, port letter and virtual
      channel. -/
  | packetRoute (port : Fin 12) (vc : Fin 6)
  /-- `MULTICAST` (R279). Delivers a multicast packet to every partition member of its span and forwards it on. -/
  | multicast (port : Fin 12) (vc : Fin 6)
  /-- `PASSAGE` (R280). Carries a passing packet across the panel from ingress to egress P-die once credit is
      held. -/
  | passage (port : Fin 12) (vc : Fin 6)
  /-- `PACKET_OPEN` (R415). Opens a sealed packet at its destination under the nearest matching generation, or
      drops it. -/
  | packetOpen (k : Nat)
  /-- `FLOW_GAUGE_WINDOW` (R282). Writes one flow-gauge record per port and virtual channel at the end of each
      window. -/
  | flowGaugeWindow (window : FlowWindow)
  /-- `NEIGHBOUR_LOST` (R343). Declares a neighbour lost after both ports of a direction are out of UP for 10 ms. -/
  | neighbourLost (dir : Fin 6)
  /-- `TILE_FENCED` (R345). A C-die fault fences the die, completes its operations and aborts the context's
      collectives. -/
  | tileFenced (die : Fin 64)
  /-- `MOD_RESET_ASSERT` (R380). Asserting MOD_RESET_N or losing the main input moves the package to STANDBY. -/
  | modResetAssert (mainLost : Bool)
  /-- `COLD_RESTART` (R383). Releasing MOD_RESET_N with inputs in range starts the boot sequence. -/
  | coldRestart (how : ColdStart)
  /-- `BOOT_STEP_END` (R383). A boot step ends, BOOT_STEP advances and the next step starts, or READY is entered. -/
  | bootStepEnd (facts : BootFacts)
  /-- `SAFE_ENTRY` (R382). Enters SAFE on a cause of R382, stopping fetch and asserting ALERT_N. -/
  | safeEntry
  /-- `SAFE_EXIT` (R380). Returns from SAFE to READY once every cause has been clear for 1 s. -/
  | safeExit
  /-- `STANDBY_LOW` (R497). Turns main conversion off when the standby input stays below 10.8 V for 10 µs. -/
  | standbyLow
  /-- `WATCHDOG_EXPIRY` (R379). Resets a manager that fails to service its watchdog for 10 ms. -/
  | watchdogExpiry (mgr : Fin 89)
  /-- `MGR_RESTARTED` (R391). A crashed die manager runs again from its recorded slot. -/
  | mgrRestarted (die : Fin 88)
  /-- `PKG_MANAGER_RESTART` (R393). The package manager runs again and completes open commands with ST_RESTARTED. -/
  | pkgManagerRestart
  /-- `ACTIVATION_WAVE` (R388). Restarts a wave of up to eight die managers on the staged slot after the previous
      wave reports running. -/
  | activationWave (cls : Fin 6)
  /-- `ACTIVATION_RESUME` (R389). Starts a deferred or paused activation once limits have been clear of emergency
      for 100 ms. -/
  | activationResume (cls : Fin 6)
  /-- `FW_ACTIVATION_EXPIRED` (R389). Cancels the pending waves when the activation window ends. -/
  | fwActivationExpired (cls : Fin 6)
  /-- `FW_ROLLED_BACK` (R390). Restarts a die manager on its previous slot when the new image does not run or
      crashes early. -/
  | fwRolledBack (die : Fin 88)
  /-- `BUDGET_REPORT` (R433). Each die manager sends its USE, DEMAND and STRETCH report every 100 µs. -/
  | budgetReport (die : Fin 88) (use demand : BitVec 16)
  /-- `ALLOCATION` (R433). A die receives an allocation and applies it within 1 µs. -/
  | allocation (die : Fin 88) (alloc : BitVec 16) (shares : BitVec 128)
  /-- `STALE_ALLOC` (R434). A die with no allocation for 1 ms sets STALE_ALLOC and keeps its last allocation. -/
  | staleAlloc (die : Fin 88)
  /-- `WEIR_UPDATE` (R435). The weir estimates each tile's draw every 1 µs and sets its stretch and loans. -/
  | weirUpdate (die : Fin 88) (reading : WeirReading)
  /-- `WEIR_CLEAR` (R438). The emergency clears after 100 ms with no condition held. -/
  | weirClear
  /-- `THERM_TRIP` (R439). A junction at 115 °C stops the die's clocks and asserts THERM_TRIP_N. -/
  | thermTrip (die : Fin 88) (tj : BitVec 8)
  /-- `TRIP_RECOVER` (R439). Restarts a tripped die's clocks once every sensor reads below 100 °C. -/
  | tripRecover (die : Fin 88) (tj : BitVec 8)
  /-- `TRIP_SHUTDOWN` (R439). Turns main conversion off when a tripped die still reads 120 °C after 100 ms. -/
  | tripShutdown (die : Fin 88) (tj : BitVec 8)
  /-- `INPUT_RANGE` (R440). The main input leaves its range, entering SAFE or turning main conversion off. -/
  | inputRange (volts : BitVec 16) (held : Bool)
  /-- `LASER_FAILED` (R493). When a laser source leaves, its partner reaches full power within 10 µs. -/
  | laserFailed (bay : Fin 16)
  /-- `LASER_SWAPPED` (R493). Brings a newly inserted laser source to half power. -/
  | laserSwapped (bay : Fin 16)
  /-- `PPS_EDGE` (R447). Aligns a grandmaster's whole second of tide to a valid PPS_IN rising edge. -/
  | ppsEdge
  /-- `PPS_OUT` (R447). Drives PPS_OUT at each whole second of tide. -/
  | ppsOut
  /-- `PTP_EVENT_MESSAGE` (R446). Stamps a PTP event message sent or received on a network B port. -/
  | ptpEventMessage (port : Fin 4) (sent oneStep : Bool) (correction : BitVec 64) (theta : Option (BitVec 64))
  /-- `TIDE_EXCHANGE` (R449). A follower sends its parent a TIDE request every 125 µs. -/
  | tideExchange
  /-- `TIDE` (R449). Receives a TIDE request or response, answering or updating the servo and lock. -/
  | tide (port : Fin 12)
  /-- `TIME_HOLDOVER` (R450). Holds over at the last learned rate when the time parent or source is lost. -/
  | timeHoldover
  /-- `SEAL_GENERATION` (R413). Advances the sealing generation every 2³³ ns of tide and restarts packet counts. -/
  | sealGeneration
  /-- `GAUGE_SAMPLE` (R453). Records one gauge sample into COUNT, SUM, MIN, MAX and its bin. -/
  | gaugeSample (sample : Sample)
  /-- `GAUGE_PERIOD` (R454). Resets every gauge's MIN and MAX at each 10 ms boundary. -/
  | gaugePeriod
  /-- `LIVE_EXPORT` (R460). Forms live, health and limit records at the close of every k-th gauge period. -/
  | liveExport
  /-- `DATAGRAM_SEND` (R462). Sends one telemetry datagram of a subscription in rotation. -/
  | datagramSend
  /-- `SNAPSHOT_INSTANT` (R465). Copies every counter, gauge, W1C flag and step state into the shadow bank at the
      instant. -/
  | snapshotInstant
  /-- `SNAPSHOT_EXPORT` (R467). Exports the records of a snapshot to subscribed sessions. -/
  | snapshotExport (bank : Bool) (count : BitVec 16)
  /-- `HEALTH_DECAY` (R470). Multiplies every health score by 2^(−1/86,400) at each whole second. -/
  | healthDecay
  /-- `HEALTH_PERSIST` (R470). Writes health scores and states to the repair record every 10 min. -/
  | healthPersist
  /-- `EYE_SCAN` (R468). Scans each lane's eye every 10 s and acts on its margins. -/
  | eyeScan (port : Fin 12) (v h : BitVec 144)
  /-- `SER_WINDOW` (R468). Counts each lane's pre-FEC symbol errors over each 1 ms. -/
  | serWindow (port : Fin 12) (errors : BitVec 288)
  /-- `OPTICAL_READ` (R468). Reads optical powers and laser bias every 100 ms. -/
  | opticalRead (reading : Optical)
  /-- `SLACK_REPORT` (R468). Each voltage domain reports its critical-path slack every 10 µs. -/
  | slackReport (die : Fin 88) (domain : Fin 4) (slack : W32)
  /-- `LIMIT_INTERVAL` (R472). Ends an interval of a distance-to-limit measure and counts it against the floor. -/
  | limitInterval (measure : Measure) (fraction : W32) (held : Bool)
  /-- `W1C_CLEAR` (R15). A software write of 1 clears a W1C flag unless hardware sets it in the same cycle. -/
  | w1cClear (agent : Option (Fin 480)) (addr : BitVec 48) (value : W32) (sets : List (Fin 32))
  /-- `REGISTER_WRITE` (R13). A write to a register field with no row of its own takes effect under its access
      code. -/
  | registerWrite (agent : Option (Fin 480)) (addr : BitVec 48) (value : W32)
  /-- `I3C_PRIVATE_WRITE` (R502). A one-byte private write sets the read offset of the baseboard link. -/
  | i3cPrivateWrite (addr : BitVec 7) (bytes : List (BitVec 8))
  /-- `I3C_PRIVATE_READ` (R502). A private read returns baseboard link bytes from the read offset onward. -/
  | i3cPrivateRead (addr : BitVec 7) (count : BitVec 8)
  /-- `ENTDAA` (R502). Takes part in dynamic address assignment on the I3C bus. -/
  | entdaa (addr : Option (BitVec 7))
  /-- `SETDASA` (R502). Sets the dynamic address from the static address 0x3A. -/
  | setdasa (static addr : BitVec 7)
  /-- `RSTDAA` (R502). Resets the dynamic address. -/
  | rstdaa
  /-- `ENEC` (R502). Enables target events such as in-band interrupts. -/
  | enec (addr : Option (BitVec 7)) (events : BitVec 8)
  /-- `DISEC` (R502). Disables target events. -/
  | disec (addr : Option (BitVec 7)) (events : BitVec 8)
  /-- `GETPID` (R502). Returns the provisioned ID. -/
  | getpid (addr : BitVec 7)
  /-- `GETBCR` (R502). Returns the bus characteristics register. -/
  | getbcr (addr : BitVec 7)
  /-- `GETDCR` (R502). Returns the device characteristics register. -/
  | getdcr (addr : BitVec 7)
  /-- `GETSTATUS` (R502). Returns the target status. -/
  | getstatus (addr : BitVec 7)
  /-- `BB_READING_UPDATE` (R503). Updates the baseboard link readings every 100 ms. -/
  | bbReadingUpdate (mainV mainI stbyV inputW coolIn coolOut : BitVec 16)
  /-- `BYPASS` (R494). The IEEE 1149.1 BYPASS instruction. -/
  | bypass (tdi : BitVec 32)
  /-- `IDCODE` (R494). The IEEE 1149.1 IDCODE instruction, which returns 0x1B02_0A5F. -/
  | idcode
  /-- `STANDBY_INPUT_PRESENT` (R380). The standby input becomes present and the package enters STANDBY with its
      headwater domains running. -/
  | standbyInputPresent
  /-- `MAIN_INPUT_RETURN` (R496). The main 48 V input is connected again and soft-starts before BOOT. -/
  | mainInputReturn
  /-- `REF10M_IN_VALID` (R425). A valid 10 MHz signal appears at REF10M_IN and the reference PLL locks to it. -/
  | ref10mInValid (valid : Bool)
  /-- `UNRECOVERABLE_TRAP` (R379). A manager that takes an unrecoverable trap is reset by hardware, counting a
      crash. -/
  | unrecoverableTrap (mgr : Fin 89)
  /-- `ROUTER_FAILURE` (R28). The router of a C-die fails, taking the whole module out of service and making the
      die FAILED. -/
  | routerFailure (die : Fin 64)
  /-- `SEND_OR_ATOMIC_REQUEST` (R356). A SEND or atomic request arrives at a data queue pair and is answered with
      an invalid-request NAK. -/
  | sendOrAtomicRequest (qp : BitVec 24)
  deriving DecidableEq, Repr

end Sys2Proof
end

