-- ==== Sys2Proof/Decode.lean ====
section
/-! DEFINITION. The decoder of table words.  The spec's table gives no row any bits: commands reach the module as register
writes, packets, mailbox slots and events on pins, and each rule names what it reads from them, so no word spells a
command. -/

namespace Sys2Proof

/-- The command that a word of `nbits` bits spells by the table's bits: none, since the table gives no row bits. -/
def decodeTableWord (nbits w : Nat) : Option Instr :=
  match nbits, w with
  | _, _ => none

end Sys2Proof
end

