-- ==== Sys2Proof/Machine/Bits.lean ====
section
/-! DEFINITION. Bit fields, byte order (00 R12: little-endian), sign extension and small list helpers. -/

namespace Sys2Proof.Machine

/-- Bits [hi:lo] of a word, as a number. -/
def fieldN {w : Nat} (x : BitVec w) (hi lo : Nat) : Nat := (x.toNat >>> lo) % 2 ^ (hi + 1 - lo)

/-- Bit `i` of a word. -/
def bitN {w : Nat} (x : BitVec w) (i : Nat) : Bool := x.getLsbD i

/-- A word with `v` in bits [hi:lo] and zeros elsewhere; bits of `v` that do not fit are dropped. -/
def place (w hi lo v : Nat) : BitVec w := BitVec.ofNat w ((v % 2 ^ (hi + 1 - lo)) <<< lo)

/-- The word whose fields are listed as (hi, lo, value). -/
def pack (w : Nat) (fs : List (Nat × Nat × Nat)) : BitVec w :=
  fs.foldl (fun acc f => acc ||| place w f.1 f.2.1 f.2.2) 0

/-- A Bool as the number 0 or 1. -/
def b2n (b : Bool) : Nat := if b then 1 else 0

/-- The signed value of the low `w` bits of `n`. -/
def signedN (w n : Nat) : Int := (BitVec.ofNat w n).toInt

/-- The low `w` bits of a signed number, in two's complement. -/
def unsignedN (w : Nat) (i : Int) : Nat := (BitVec.ofInt w i).toNat

/-- Byte `i` of a number, little-endian. -/
def byteOf (n i : Nat) : Byte := BitVec.ofNat 8 (n >>> (8 * i))

/-- The `k` bytes of a number, little-endian (00 R12). -/
def toBytes (k n : Nat) : List Byte := (List.range k).map (byteOf n)

/-- The number that a list of bytes holds, little-endian (00 R12). -/
def ofBytes : List Byte → Nat
  | [] => 0
  | b :: bs => b.toNat + 256 * ofBytes bs

/-- ⌈a / b⌉. -/
def cdiv (a b : Nat) : Nat := (a + b - 1) / b

/-- `n` rounded up to a multiple of `k`. -/
def roundUp (n k : Nat) : Nat := cdiv n k * k

/-- A list with entry `i` changed; unchanged where there is no such entry. -/
def modAt {α : Type} (l : List α) (i : Nat) (f : α → α) : List α := l.modify i f

/-- Take out the first entry that meets `p`, with the rest. -/
def takeFirst {α : Type} (p : α → Bool) : List α → Option (α × List α)
  | [] => none
  | a :: as =>
    if p a then some (a, as)
    else match takeFirst p as with
      | none => none
      | some (b, bs) => some (b, a :: bs)

/-- Put an entry into a list that is ordered by a number, before equal ones. -/
def insertBy {α : Type} (key : α → Nat) (a : α) : List α → List α
  | [] => [a]
  | b :: bs => if key a ≤ key b then a :: b :: bs else b :: insertBy key a bs

/-- A list ordered by a number, equal entries in the order they had. -/
def sortBy {α : Type} (key : α → Nat) (l : List α) : List α := l.foldr (insertBy key) []

/-- Two 4-byte words of a 64-bit register: word 0 is the low one (00 R12). -/
def half32 (x : W64) (hiHalf : Bool) : W32 := BitVec.ofNat 32 (x.toNat >>> (if hiHalf then 32 else 0))

end Sys2Proof.Machine
end

