-- ==== Sys2Proof/Machine/Mem.lean ====
section
/-! DEFINITION. Sparse tables and byte memories in their one canonical form: keys strictly rising, and no entry equal
to what an unlisted key reads as. -/

namespace Sys2Proof.Machine

/-! ### Tables by number -/

/-- The entry of a key. -/
def smGet? {α : Type} : SMap α → Nat → Option α
  | [], _ => none
  | (k, v) :: t, n => if k = n then some v else if n < k then none else smGet? t n

/-- The entry of a key, or the value that an unlisted key reads as. -/
def smGet {α : Type} (d : α) (m : SMap α) (n : Nat) : α := (smGet? m n).getD d

/-- Write an entry, in its place in the order. -/
def smPut {α : Type} : SMap α → Nat → α → SMap α
  | [], n, v => [(n, v)]
  | (k, w) :: t, n, v =>
    if k = n then (n, v) :: t
    else if n < k then (n, v) :: (k, w) :: t
    else (k, w) :: smPut t n v

/-- Remove an entry. -/
def smErase {α : Type} : SMap α → Nat → SMap α
  | [], _ => []
  | (k, w) :: t, n =>
    if k = n then t
    else if n < k then (k, w) :: t
    else (k, w) :: smErase t n

/-- Write an entry, keeping out of the table the value that an unlisted key reads as. -/
def smPutD {α : Type} [DecidableEq α] (d : α) (m : SMap α) (n : Nat) (v : α) : SMap α :=
  if v = d then smErase m n else smPut m n v

/-- Change an entry that is listed. -/
def smMod {α : Type} (m : SMap α) (n : Nat) (f : α → α) : SMap α :=
  match smGet? m n with
  | none => m
  | some v => smPut m n (f v)

/-- Keys strictly rising, all above `lo` (as lower bound, exclusive, when given). -/
def smSortedFrom {α : Type} : Nat → SMap α → Bool
  | _, [] => true
  | lo, (k, _) :: t => decide (lo ≤ k) && smSortedFrom (k + 1) t

/-- Keys strictly rising. -/
def smSorted {α : Type} (m : SMap α) : Bool := smSortedFrom 0 m

/-! ### Byte memories -/

/-- Read one byte: an unlisted address reads 0. -/
def memGet (m : Mem) (a : Nat) : Byte := smGet 0 m a

/-- Write one byte. -/
def memPut (m : Mem) (a : Nat) (b : Byte) : Mem := smPutD 0 m a b

/-- The canonical form of a byte memory. -/
def memWf (m : Mem) : Bool := smSorted m && m.all (fun c => decide (c.2 ≠ 0))

/-- Read `k` bytes from `a`, little-endian. -/
def memReadN (m : Mem) (a k : Nat) : Nat := ofBytes ((List.range k).map (fun i => memGet m (a + i)))

/-- Write bytes from `a` on. -/
def memWrite (m : Mem) (a : Nat) : List Byte → Mem
  | [] => m
  | b :: bs => memWrite (memPut m a b) (a + 1) bs

/-- Write a number of `k` bytes at `a`, little-endian. -/
def memWriteN (m : Mem) (a k n : Nat) : Mem := memWrite m a (toBytes k n)

/-- Fill `k` bytes from `a` with zeros: their entries go. -/
def memClear (m : Mem) (a k : Nat) : Mem := m.filter (fun c => decide (c.1 < a) || decide (a + k ≤ c.1))

/-- Write cells in order. -/
def memWriteCells (m : Mem) (cs : List (Nat × Byte)) : Mem := cs.foldl (fun m c => memPut m c.1 c.2) m

/-! ### Writes of single bits, as packed elements and mask rows make them -/

/-- A write of `len` bits of `val` at bit address `off`. -/
structure BitSeg where
  /-- Bit address: 8 times the byte address, plus the bit. -/
  off : Nat
  /-- Number of bits. -/
  len : Nat
  /-- The bits. -/
  val : Nat
  deriving DecidableEq, Repr

/-- The bytes that a segment touches: (byte address, bits of the byte, mask of the bits written). -/
def BitSeg.bytes (g : BitSeg) : List (Nat × Nat × Nat) :=
  let b0 := g.off / 8
  let n := cdiv (g.off % 8 + g.len) 8
  let v := (g.val % 2 ^ g.len) <<< (g.off % 8)
  let k := (2 ^ g.len - 1) <<< (g.off % 8)
  (List.range n).map (fun i => (b0 + i, (v >>> (8 * i)) % 256, (k >>> (8 * i)) % 256))

/-- Segments gathered by byte: later segments win on the bits they share. -/
def gatherBits (gs : List BitSeg) : SMap (Nat × Nat) :=
  gs.foldl (fun t g => g.bytes.foldl (fun t e =>
    let o := smGet (0, 0) t e.1
    smPut t e.1 ((o.1 &&& (255 - e.2.2)) ||| (e.2.1 &&& e.2.2), o.2 ||| e.2.2)) t) []

/-- Write segments: a byte keeps the bits that no segment covers. -/
def memWriteBits (m : Mem) (gs : List BitSeg) : Mem :=
  (gatherBits gs).foldl (fun m e =>
    memPut m e.1 (BitVec.ofNat 8 (((memGet m e.1).toNat &&& (255 - e.2.2)) ||| e.2.1))) m

/-- The 64-bit words of which the segments write every byte (01 R36). -/
def fullWords (gs : List BitSeg) : List Nat :=
  let t := gatherBits gs
  ((t.map (fun e => e.1 / 8)).eraseDups).filter (fun w =>
    (List.range 8).all (fun i => (smGet (0, 0) t (8 * w + i)).2 == 255))

/-- `len` bits at bit address `off`. -/
def memReadBits (m : Mem) (off len : Nat) : Nat :=
  (memReadN m (off / 8) (cdiv (off % 8 + len) 8) >>> (off % 8)) % 2 ^ len

end Sys2Proof.Machine
end

