-- ==== Sys2Proof/Config.lean ====
section
/-! DEFINITION. The free values: what the spec leaves open, or states only as a property, and the standard
cryptographic functions that the spec names and does not define.  Every constant here is opaque: nothing in Lean
can evaluate it, so a statement about it holds for every value of it. -/

namespace Sys2Proof.Config

/-- The `n`-th free value of `w` bits (DESIGN CHOICE, log 13): a result or a content that the spec leaves
unspecified.  `State.draw` counts the values used. -/
opaque freeBits (w n : Nat) : BitVec w

/-- The `n`-th free number (DESIGN CHOICE, log 13): an open count or an open order. -/
opaque freeNat (n : Nat) : Nat

/-- 05 R144: for function opcode `op` and the exact input `x`, whether the stepping's mapping gives the bracketing
value of larger magnitude. -/
opaque fnPick (op : Nat) (x : Rat) : Bool

/-- Where the choice of a service ID for a data queue pair starts (12 R356: unique, and otherwise not fixed). -/
opaque serviceId (qp : Nat) : BitVec 64

/-- The base MAC address of the eight Ethernet ports (18 R511 gives no value). -/
opaque baseMac : BitVec 48

/-- The ID that telemetry records of a kind carry and that filters match: 3 `FLOW`, 4 `HEALTH`, 5 `LIMIT` (16 R456, R458:
no number is given for these kinds). -/
opaque recordId (kind : Nat) : BitVec 32

/-- The signature that a `MANIFEST` image, named by its header, holds for a die class, a BIST kind and stepping B
(17 R479). -/
opaque manifestEntry (header : BitVec 512) (dieClass kind : Nat) : BitVec 64

/-- The fibre and transceiver asymmetry that a `CAL` image, named by its header, holds for a torus port, in 2^-16 ns
(15 R449). -/
opaque calAsym (header : BitVec 512) (port : Nat) : Int

/-- One less than the end-to-end credits that the request queue of a peer module gives (09 R276 gives no number). -/
opaque readCredits : Nat

/-- The I3C provisioned ID (18 R502 gives no value). -/
opaque i3cPid : BitVec 48

/-- The I3C bus characteristics register (18 R502 gives no value). -/
opaque i3cBcr : BitVec 8

/-- The I3C device characteristics register (18 R502 gives no value). -/
opaque i3cDcr : BitVec 8

/-- The least slack that a `CAL` image, named by its header, asks of a voltage domain of a die, in ps (16 R469: S_cal). -/
opaque calSlack (header : BitVec 512) (die domain : Nat) : Int

/-- The launch power of a torus lane at the beginning of its life, in 0.01 dBm, as a `CAL` image holds it (16 R469). -/
opaque calTxPower (header : BitVec 512) (port lane : Nat) : Int

/-- The bias of a laser source at the beginning of its life, in 0.01 mA, as a `CAL` image holds it (16 R469). -/
opaque calBias (header : BitVec 512) (source : Nat) : Nat

/-- The filtered offset of up to 16 exchanges, oldest first, in 2^-16 ns (15 R449 gives the length of the filter only). -/
opaque tideFilter (offsets : List Int) : Int

/-- The rate that the servo asks for, from the filtered offset and the present rate, in 2^-16 ns per 0.5 ns (15 R444
bounds it, and R449 names no law). -/
opaque servoRate (offset rate : Int) : Int

/-- SHA-384 of a message of `bits` bits (14 R402, R404). -/
opaque sha384 (bits : Nat) (msg : Nat) : BitVec 384

/-- HMAC-SHA-384 under a key, as the truncated tags of IDENT and of key wrapping use it (09 R265, 14 R417). -/
opaque hmac384 (key : BitVec 256) (bits : Nat) (msg : Nat) : BitVec 384

/-- HKDF-SHA-384: `bits` bits derived from key material and a label (14 R408, R413). -/
opaque hkdf (key : BitVec 512) (label : Nat) (bits : Nat) : Nat

/-- ECDSA P-384 verification of a message of `bits` bits under a public key (14 R399, R420, 11 R333). -/
opaque ecdsaOk (key : BitVec 768) (bits : Nat) (msg : Nat) (sig : BitVec 768) : Bool

/-- LMS verification, under parameter set LMS_SHA256_M32_H20 with LMOTS_SHA256_N32_W8, of the 64 header bytes of an image
(14 R401, R402). -/
opaque lmsOk (key : BitVec 448) (msg : BitVec 512) (sig : BitVec 14176) : Bool

/-- The digests of the two Penua image keys that the mask ROM holds: ECDSA, LMS (14 R402). -/
opaque romImageKeys : BitVec 384 × BitVec 384

/-- The ECDSA P-384 private key that derives from the unique device secret and further values (14 R398). -/
opaque deriveKey (secret : BitVec 384) (values : List Nat) : BitVec 384

/-- The public key of an ECDSA P-384 private key. -/
opaque ecdsaPublic (key : BitVec 384) : BitVec 768

/-- ECDSA P-384 signature of a message under a private key; `n` numbers the random value that it takes (14 R398, R406). -/
opaque ecdsaSign (key : BitVec 384) (n : Nat) (msg : List (BitVec 8)) : BitVec 768

/-- AES-256-GCM: ciphertext and tag of `bits` bits of plaintext under a key, an IV and additional data (14 R408). -/
opaque gcmSeal (key : BitVec 256) (iv : BitVec 96) (aadBits aad bits plain : Nat) : Nat × BitVec 128

/-- AES-256-GCM opening: the plaintext, or none when the tag does not verify (14 R408). -/
opaque gcmOpen (key : BitVec 256) (iv : BitVec 96) (aadBits aad bits cipher : Nat) (tag : BitVec 128) : Option Nat

/-- AES-256-XTS encryption of a 64-byte line under a key of 512 bits and a tweak (08 R230, 14 R409). -/
opaque xtsEnc (key : BitVec 512) (tweak : Nat) (line : BitVec 512) : BitVec 512

/-- AES-256-XTS decryption of a 64-byte line (08 R230, 14 R409). -/
opaque xtsDec (key : BitVec 512) (tweak : Nat) (line : BitVec 512) : BitVec 512

/-- The CRC-32 under the polynomial 0x04C1_1DB7 over a message of `bits` bits (09 R255, 10 R288: the rules give neither its
initial value nor its bit order, so its value is free). -/
opaque crc32 (bits : Nat) (msg : Nat) : BitVec 32

/-- SPDM 1.3: the bytes, up to its signature, of the responder's answer to a request of a session (14 R405).  `chain` are
the subject keys and signatures of the certificates of R398, `blocks` the measurement blocks of R406, and `n` numbers the
free values that the answer draws. -/
opaque spdmAnswer (sess n : Nat) (msg : List (BitVec 8)) (chain blocks : List Nat) : List (BitVec 8)

/-- SPDM 1.3: the transcript that the signature of an answer covers, the requester's nonce within it (14 R406). -/
opaque spdmTranscript (sess : Nat) (msg answer : List (BitVec 8)) : List (BitVec 8)

/-- SPDM 1.3: `CTExponent`, and the largest message that the responder takes (14 R405 gives neither). -/
opaque spdmLimits : BitVec 8 × BitVec 32

/-- SPDM 1.3: what a message of the key-exchange flow is for a responder that stands at `progress`: 1 a `KEY_EXCHANGE`, 2
an encapsulated message that leaves the requester's chain unverified, 3 the one that verifies it, 4 a `FINISH` that
verifies; any other value is a message that fails (14 R407). -/
opaque spdmMeaning (sess n progress : Nat) (msg : List (BitVec 8)) : Nat

/-- The key in which a verified certificate chain ends, and the public key of its leaf (14 R400). -/
opaque spdmChain (sess n : Nat) (msg : List (BitVec 8)) : BitVec 768 × BitVec 768

/-- The ownership certificate that a message of the key-exchange flow presents, when it holds one that verifies under
Penua's root: serial, issue number and operator root key (14 R399). -/
opaque spdmOwner (sess n : Nat) (msg : List (BitVec 8)) : Option (BitVec 64 × BitVec 32 × BitVec 768)

/-- SHA-384 of the mask-ROM code of the root of trust (14 R406). -/
opaque romDigest : BitVec 384

/-- SHA-384 of a sequence of values, for the measurement blocks whose message format no rule gives (14 R406). -/
opaque digest (values : List Nat) : BitVec 384

end Sys2Proof.Config
end

