-- ==== Sys2Proof/Machine/Num.lean ====
section
/-! DEFINITION. Numbers: the formats of 02 R52, their encodings, exact values, and rounding (02 R54 to R67). -/

namespace Sys2Proof.Machine

/-- The formats of 02 R52. -/
inductive Fmt where
  | fp32 | bf16 | fp16 | e4m3 | e5m2 | mxE4m3 | mxE3m2 | mxE2m3 | mxE2m1 | int8 | int32 | kb8 | int16
  deriving DecidableEq, Repr

/-- The format of a 4-bit code (02 R52); none where the code is reserved. -/
def Fmt.ofCode : Nat → Option Fmt
  | 0 => some .fp32 | 1 => some .bf16 | 2 => some .fp16 | 3 => some .e4m3 | 4 => some .e5m2
  | 5 => some .mxE4m3 | 6 => some .mxE3m2 | 7 => some .mxE2m3 | 8 => some .mxE2m1
  | 9 => some .int8 | 10 => some .int32 | 11 => some .kb8 | 12 => some .int16
  | _ => none

/-- Bits of one stored element (02 R54, R59, R60). -/
def Fmt.width : Fmt → Nat
  | .fp32 | .int32 => 32
  | .bf16 | .fp16 | .int16 => 16
  | .e4m3 | .e5m2 | .mxE4m3 | .int8 | .kb8 => 8
  | .mxE3m2 | .mxE2m3 => 6
  | .mxE2m1 => 4

/-- An MX format (02 R58). -/
def Fmt.isMx : Fmt → Bool
  | .mxE4m3 | .mxE3m2 | .mxE2m3 | .mxE2m1 => true
  | _ => false

/-- An integer format. -/
def Fmt.isInt : Fmt → Bool
  | .int8 | .int16 | .int32 => true
  | _ => false

/-- A format with a scale or unit array (02 R59, R60). -/
def Fmt.scaled (f : Fmt) : Bool := f.isMx || f == .kb8

/-- Exponent bits of a floating format or MX element (02 R54). -/
def Fmt.expBits : Fmt → Nat
  | .fp32 | .bf16 => 8
  | .fp16 | .e5m2 => 5
  | .e4m3 | .mxE4m3 => 4
  | .mxE3m2 => 3
  | .mxE2m3 | .mxE2m1 => 2
  | _ => 0

/-- Fraction bits of a floating format or MX element (02 R54). -/
def Fmt.fracBits : Fmt → Nat
  | .fp32 => 23 | .bf16 => 7 | .fp16 => 10 | .e4m3 | .mxE4m3 => 3 | .e5m2 => 2
  | .mxE3m2 => 2 | .mxE2m3 => 3 | .mxE2m1 => 1
  | _ => 0

/-- Exponent bias (02 R54). -/
def Fmt.bias : Fmt → Nat
  | .fp32 | .bf16 => 127
  | .fp16 | .e5m2 => 15
  | .e4m3 | .mxE4m3 => 7
  | .mxE3m2 => 3
  | .mxE2m3 | .mxE2m1 => 1
  | _ => 0

/-- The format has infinities (02 R54). -/
def Fmt.hasInf : Fmt → Bool
  | .fp32 | .bf16 | .fp16 | .e5m2 => true
  | _ => false

/-- The exponent of the largest finite value, as 02 R64 uses it. -/
def Fmt.emax : Fmt → Int
  | .mxE4m3 => 8 | .mxE3m2 => 4 | .mxE2m3 => 2 | .mxE2m1 => 2
  | _ => 0

/-- 2^e, exactly. -/
def pow2 (e : Int) : Rat := if 0 ≤ e then ((2 ^ e.toNat : Nat) : Rat) else mkRat 1 (2 ^ (-e).toNat)

/-- The largest finite value of a format, in units of its code (02 R54, R60). -/
def Fmt.maxFinite : Fmt → Rat
  | .fp32 => (2 - pow2 (-23)) * pow2 127
  | .bf16 => (2 - pow2 (-7)) * pow2 127
  | .fp16 => 65504
  | .e4m3 | .mxE4m3 => 448
  | .e5m2 => 57344
  | .mxE3m2 => 28
  | .mxE2m3 => mkRat 15 2
  | .mxE2m1 => 6
  | .int8 | .kb8 => 127
  | .int16 => 32767
  | .int32 => 2147483647

/-- An exact value: a NaN, an infinity, or a finite number.  `negZero` marks −0 and means nothing unless `q` is 0. -/
inductive Val where
  | nan
  | inf (neg : Bool)
  | fin (q : Rat) (negZero : Bool)
  deriving DecidableEq, Repr

/-- +0. -/
def Val.zero : Val := .fin 0 false

/-- A finite value with the sign of a zero taken as +. -/
def Val.ofRat (q : Rat) : Val := .fin q false

/-- The value is finite. -/
def Val.isFinite : Val → Bool
  | .fin _ _ => true
  | _ => false

/-- The sign of a value (a NaN has none, and gives +). -/
def Val.neg : Val → Bool
  | .nan => false
  | .inf n => n
  | .fin q nz => decide (q < 0) || (decide (q = 0) && nz)

/-- |q|. -/
def absQ (q : Rat) : Rat := if q < 0 then -q else q

/-- ⌊log₂ x⌋ of a positive rational. -/
def log2Floor (x : Rat) : Int :=
  let n := x.num.toNat
  let d := x.den
  let e : Int := (Nat.log2 n : Int) - (Nat.log2 d : Int)
  if x < pow2 e then e - 1 else e

/-- ⌈log₂ x⌉ of a positive rational. -/
def log2Ceil (x : Rat) : Int :=
  let e := log2Floor x
  if x = pow2 e then e else e + 1

/-! ### Decoding -/

/-- The exact value of a floating code (02 R54 to R56): sign, exponent and fraction fields. -/
def decodeFloat (f : Fmt) (code : Nat) : Val :=
  let e := (code >>> f.fracBits) % 2 ^ f.expBits
  let m := code % 2 ^ f.fracBits
  let s := (code >>> (f.fracBits + f.expBits)) % 2 == 1
  let top := 2 ^ f.expBits - 1
  if f.hasInf && e == top then (if m == 0 then .inf s else .nan)
  else if (f == .e4m3 || f == .mxE4m3) && e == top && m == 2 ^ f.fracBits - 1 then .nan
  else
    let q : Rat :=
      if e == 0 then (m : Rat) * pow2 (1 - (f.bias : Int) - (f.fracBits : Int))
      else ((2 ^ f.fracBits + m : Nat) : Rat) * pow2 ((e : Int) - (f.bias : Int) - (f.fracBits : Int))
    .fin (if s then -q else q) s

/-- The exact value of one stored code, before any scale or unit: KB8 0x80 reads as the canonical NaN (02 R60, R63). -/
def decode (f : Fmt) (code : Nat) : Val :=
  match f with
  | .int8 => .ofRat ((signedN 8 code : Int) : Rat)
  | .int16 => .ofRat ((signedN 16 code : Int) : Rat)
  | .int32 => .ofRat ((signedN 32 code : Int) : Rat)
  | .kb8 => if code % 256 == 0x80 then .nan else .ofRat ((signedN 8 code : Int) : Rat)
  | _ => decodeFloat f code

/-- The value of an element under its block's E8M0 scale or unit byte: 0xFF marks every element (02 R58, R60). -/
def scaleVal (s : Nat) (v : Val) : Val :=
  if s == 0xFF then .nan
  else match v with
    | .fin q nz => .fin (q * pow2 ((s : Int) - 127)) nz
    | o => o

/-- FP32 pattern to exact value. -/
def ofF32 (x : W32) : Val := decodeFloat .fp32 x.toNat

/-! ### Rounding -/

/-- Rounding modes (02 R65); `rss` carries the 32-bit value r of 02 R67. -/
inductive Round where
  | rne | rtz | rup | rdn
  | rss (r : Nat)
  deriving DecidableEq, Repr

/-- Round a non-negative quotient to an integer.  `neg` is the sign of the value it belongs to (02 R65, R67). -/
def roundQ (mode : Round) (neg : Bool) (x : Rat) : Nat :=
  let lo := x.floor.toNat
  let f := x - (lo : Rat)
  if f = 0 then lo
  else
    let up : Bool := match mode with
      | .rne => decide (mkRat 1 2 < f) || (decide (f = mkRat 1 2) && lo % 2 == 1)
      | .rtz => false
      | .rup => !neg
      | .rdn => neg
      | .rss r => decide (r < ((f * ((2 ^ 32 : Nat) : Rat)).floor.toNat))
    if up then lo + 1 else lo

/-- Round a finite value to `frac` fraction bits with smallest exponent `emin`, without an upper limit on the
exponent (02 R61): the result keeps the sign of its input when it is zero. -/
def roundFloat (frac : Nat) (emin : Int) (mode : Round) (q : Rat) : Rat :=
  if q = 0 then 0
  else
    let a := absQ q
    let e := max (log2Floor a) emin
    let ulp := pow2 (e - (frac : Int))
    let r := (roundQ mode (decide (q < 0)) (a / ulp) : Rat) * ulp
    if q < 0 then -r else r

/-- Round to the internal format of 48 significand bits (02 R70, 05 R151), nearest even.  Its 10-bit exponent
bounds no value that the rules form in it. -/
def round48 (q : Rat) : Rat := roundFloat 47 (-510) .rne q

/-- The code of a finite value that the floating format represents exactly. -/
def encodeFloat (f : Fmt) (neg : Bool) (q : Rat) : Nat :=
  let a := absQ q
  let sign := b2n neg <<< (f.expBits + f.fracBits)
  if a = 0 then sign
  else
    let e := max (log2Floor a) (1 - (f.bias : Int))
    let m := (a / pow2 (e - (f.fracBits : Int))).floor.toNat
    if m < 2 ^ f.fracBits then sign + m
    else sign + ((e + (f.bias : Int)).toNat <<< f.fracBits) + (m - 2 ^ f.fracBits)

/-- The canonical NaN of a floating format (02 R54). -/
def nanCode : Fmt → Nat
  | .fp32 => 0x7FC00000 | .bf16 => 0x7FC0 | .fp16 => 0x7E00 | .e4m3 | .mxE4m3 => 0x7F | .e5m2 => 0x7E
  | .kb8 => 0x80
  | _ => 0

/-- The code of an infinity of a floating format that has one. -/
def infCode (f : Fmt) (neg : Bool) : Nat :=
  (b2n neg <<< (f.expBits + f.fracBits)) + ((2 ^ f.expBits - 1) <<< f.fracBits)

/-- What a conversion writes and the flags it sets (02 R63). -/
structure Cvt where
  /-- The code written. -/
  code : Nat
  /-- The conversion saturated. -/
  sat : Bool := false
  /-- The non-finite flag is set. -/
  nf : Bool := false
  deriving DecidableEq, Repr

/-- Convert an exact value to one element of `f`, once rounded, under the table of 02 R63.  For an MX or KB8 target
the value is already divided by the scale or unit, and a non-finite value in an MX block is handled by the block. -/
def convert (f : Fmt) (mode : Round) (v : Val) : Cvt :=
  match v with
  | .nan => if f.isInt then ⟨0, false, true⟩ else ⟨nanCode f, false, true⟩
  | .inf n =>
    if f.isInt then
      let m := f.maxFinite.floor
      ⟨unsignedN f.width (if n then -m - 1 else m), true, true⟩
    else if f.hasInf then ⟨infCode f n, false, true⟩
    else ⟨nanCode f, false, true⟩
  | .fin q nz =>
    let neg := (Val.fin q nz).neg
    if f.isInt || f == .kb8 then
      let r := roundQ mode neg (absQ q)
      let i : Int := if neg then -(r : Int) else (r : Int)
      let hi := f.maxFinite.floor
      let lo := if f == .kb8 then -hi else -hi - 1
      if hi < i then ⟨unsignedN f.width hi, true, false⟩
      else if i < lo then ⟨unsignedN f.width lo, true, false⟩
      else ⟨unsignedN f.width i, false, false⟩
    else
      let r := roundFloat f.fracBits (1 - (f.bias : Int)) mode q
      if f.maxFinite < absQ r then ⟨encodeFloat f neg f.maxFinite, true, false⟩
      else ⟨encodeFloat f neg r, false, false⟩

/-- The FP32 pattern of a value rounded once. -/
def toF32 (mode : Round) (v : Val) : W32 := BitVec.ofNat 32 (convert .fp32 mode v).code

/-- 02 R67: the 32-bit value r of seeded stochastic rounding. -/
def stochR (seed step : W64) (ctx : Nat) (serial : W32) (index : Nat) : Nat :=
  let k0 : W64 := seed ^^^ (step * 0x9E3779B97F4A7C15#64)
  let k1 : W64 := k0 ^^^ (BitVec.ofNat 64 (ctx <<< 58)) ^^^ (BitVec.ofNat 64 ((serial.toNat % 2 ^ 26) <<< 32))
    ^^^ (BitVec.ofNat 64 (index % 2 ^ 32))
  let k2 := (k1 ^^^ (k1 >>> 30)) * 0xBF58476D1CE4E5B9#64
  let k3 := (k2 ^^^ (k2 >>> 27)) * 0x94D049BB133111EB#64
  let k4 := k3 ^^^ (k3 >>> 31)
  fieldN k4 63 32

/-- The rounding mode of a field value (02 R65), with r for mode 4.  Values 5 to 7 are rejected before use. -/
def Round.ofField (mode : Nat) (r : Nat) : Round :=
  match mode with
  | 0 => .rne | 1 => .rtz | 2 => .rup | 3 => .rdn
  | _ => .rss r

/-! ### Scales and units -/

/-- Clamp to 0 to 254 (02 R64, R512). -/
def clampE8 (e : Int) : Nat := (max 0 (min 254 e)).toNat

/-- 02 R64: the scale of an MX block from the largest magnitude of its values. -/
def mxScale (f : Fmt) (amax : Rat) : Nat :=
  if amax = 0 then 0 else clampE8 (log2Floor amax - f.emax + 127)

/-- 02 R512: the derived unit byte of a KB8 block. -/
def kbUnit (amax : Rat) : Nat :=
  if amax = 0 then 0 else clampE8 (log2Ceil (amax / 127) + 127)

/-- The largest magnitude of the finite values of a list. -/
def amaxFinite (vs : List Val) : Rat :=
  vs.foldl (fun a v => match v with | .fin q _ => max a (absQ q) | _ => a) 0

/-- The value divided by 2^(s − 127). -/
def unscale (s : Nat) (v : Val) : Val :=
  match v with
  | .fin q nz => .fin (q * pow2 (127 - (s : Int))) nz
  | o => o

/-! ### Exact arithmetic with IEEE 754 specials -/

/-- The sign of an exact zero sum (02 R57): − only when both addends are −0, or under mode 3 when they differ. -/
def zeroSumNeg (mode : Round) (aNeg bNeg : Bool) : Bool :=
  if aNeg == bNeg then aNeg else mode == .rdn

/-- A result of exact arithmetic, with the exceptions of 05 R147. -/
structure Res where
  /-- The exact result. -/
  v : Val
  /-- `INVALID` was raised. -/
  inv : Bool := false
  /-- `DIV_ZERO` was raised. -/
  dz : Bool := false
  deriving DecidableEq, Repr

/-- Exact sum (05 R142, R147). -/
def addV (mode : Round) (a b : Val) : Res :=
  match a, b with
  | .nan, _ => ⟨.nan, false, false⟩
  | _, .nan => ⟨.nan, false, false⟩
  | .inf s, .inf t => if s == t then ⟨.inf s, false, false⟩ else ⟨.nan, true, false⟩
  | .inf s, _ => ⟨.inf s, false, false⟩
  | _, .inf t => ⟨.inf t, false, false⟩
  | .fin p nz, .fin q mz =>
    let r := p + q
    ⟨.fin r (if r = 0 then zeroSumNeg mode (Val.fin p nz).neg (Val.fin q mz).neg else false), false, false⟩

/-- Negation. -/
def negV : Val → Val
  | .nan => .nan
  | .inf s => .inf (!s)
  | .fin q nz => .fin (-q) (!(Val.fin q nz).neg)

/-- Exact product (05 R142, R147). -/
def mulV (a b : Val) : Res :=
  match a, b with
  | .nan, _ => ⟨.nan, false, false⟩
  | _, .nan => ⟨.nan, false, false⟩
  | .inf s, .inf t => ⟨.inf (s != t), false, false⟩
  | .inf s, .fin q nz => if q = 0 then ⟨.nan, true, false⟩ else ⟨.inf (s != (Val.fin q nz).neg), false, false⟩
  | .fin q nz, .inf s => if q = 0 then ⟨.nan, true, false⟩ else ⟨.inf (s != (Val.fin q nz).neg), false, false⟩
  | .fin p nz, .fin q mz => ⟨.fin (p * q) ((Val.fin p nz).neg != (Val.fin q mz).neg), false, false⟩

/-- Exact quotient (05 R142, R147). -/
def divV (a b : Val) : Res :=
  match a, b with
  | .nan, _ => ⟨.nan, false, false⟩
  | _, .nan => ⟨.nan, false, false⟩
  | .inf _, .inf _ => ⟨.nan, true, false⟩
  | .inf s, .fin q nz => ⟨.inf (s != (Val.fin q nz).neg), false, false⟩
  | .fin q nz, .inf s => ⟨.fin 0 ((Val.fin q nz).neg != s), false, false⟩
  | .fin p nz, .fin q mz =>
    let s := (Val.fin p nz).neg != (Val.fin q mz).neg
    if q = 0 then (if p = 0 then ⟨.nan, true, false⟩ else ⟨.inf s, false, true⟩)
    else ⟨.fin (p / q) s, false, false⟩

/-- Join the exceptions of two steps of one exact result. -/
def Res.bind (r : Res) (f : Val → Res) : Res :=
  let t := f r.v
  ⟨t.v, r.inv || t.inv, r.dz || t.dz⟩

/-- a < b on values that are not NaN, with −0 below +0. -/
def ltV (a b : Val) : Bool :=
  match a, b with
  | .inf s, .inf t => s && !t
  | .inf s, .fin _ _ => s
  | .fin _ _, .inf t => !t
  | .fin p nz, .fin q mz =>
    if p = 0 ∧ q = 0 then (Val.fin p nz).neg && !(Val.fin q mz).neg else decide (p < q)
  | _, _ => false

/-- Numeric equality of values that are not NaN: +0 and −0 are equal. -/
def eqV (a b : Val) : Bool :=
  match a, b with
  | .inf s, .inf t => s == t
  | .fin p _, .fin q _ => decide (p = q)
  | _, _ => false

/-- The larger, NaN if either is NaN, +0 above −0 (05 `VMAX`). -/
def maxV (a b : Val) : Val :=
  match a, b with
  | .nan, _ => .nan
  | _, .nan => .nan
  | _, _ => if ltV a b then b else a

/-- The smaller, NaN if either is NaN (05 `VMIN`). -/
def minV (a b : Val) : Val :=
  match a, b with
  | .nan, _ => .nan
  | _, .nan => .nan
  | _, _ => if ltV b a then b else a

/-- |a|. -/
def absV : Val → Val
  | .nan => .nan
  | .inf _ => .inf false
  | .fin q _ => .fin (absQ q) false

/-- Multiply by an exact power of two (05 R139). -/
def shiftV (e : Int) : Val → Val
  | .fin q nz => .fin (q * pow2 e) nz
  | o => o

end Sys2Proof.Machine
end

