-- ==== Sys2Proof/Machine/State.lean ====
section
/-! DEFINITION. The state of the module, as plain data: every register, buffer, counter, mode and pin the spec gives,
the queue of waiting commands, the reasons a command stops, and the state after reset.  The docstring of each field
gives: width; rule; value at reset (or when it is made); meaning. -/

namespace Sys2Proof.Machine

/-! ### Enumerations of the spec -/

/-- Package state (13 R380), coded as in `PKG_STATE`. -/
inductive PkgSt where
  | standby | boot | ready | active | safe
  deriving DecidableEq, Repr

/-- Context state (06 R160). -/
inductive CtxSt where
  | created | bound | running | quiesced | destroying
  deriving DecidableEq, Repr

/-- Channel state (06 R171), coded as in the control block of R167. -/
inductive ChSt where
  | idle | running | stopped | faulted
  deriving DecidableEq, Repr

/-- Link state (09 R264), coded as in `LINK_STAT`. -/
inductive LinkSt where
  | dark | training | identify | quarantine | up | retrain | fenced
  deriving DecidableEq, Repr

/-- Manager state `MSTATE` (13 R394). -/
inductive MgrSt where
  | held | verifying | running | restarting | activating
  deriving DecidableEq, Repr

/-- `C_STATE` of a C-die (01 R40). -/
inductive CState where
  | enabled | spare | fenced | retired
  deriving DecidableEq, Repr

/-- Health state of a part (16 R471). -/
inductive HealthSt where
  | good | watch | suspect | failed
  deriving DecidableEq, Repr

/-- Cause of a health state (16 R471, the `HEALTH` body). -/
inductive HealthCause where
  | score | margin | crashLimit | bist | router | repair
  deriving DecidableEq, Repr

/-- `SYNC` of `TIME_STAT` (15 R451). -/
inductive SyncSt where
  | unlocked | locked | holdover | fault
  deriving DecidableEq, Repr

/-- `PARK` of `SCHED_STAT` (06 R183 registers). -/
inductive ParkSt where
  | running | gated | off | waking
  deriving DecidableEq, Repr

/-- `UC_STATE` of `UC_STAT` (06 R192). -/
inductive UcSt where
  | halted | running | excHalted | noImage
  deriving DecidableEq, Repr

/-- `VERDICT` of `STEP_STAT` (07 R197). -/
inductive Verdict where
  | pending | commit | skip
  deriving DecidableEq, Repr

/-- Role of a session (14 R400, 12 R372): no role before `SESSION_KEY` completes. -/
inductive Role where
  | noRole | operator
  | tenant (identity : BitVec 384)
  deriving DecidableEq, Repr

/-- State of a RoCE queue pair (12 R356, R359). -/
inductive QpSt where
  | idle | connected | error
  deriving DecidableEq, Repr

/-- Where a fetched descriptor stands (06 R173 to R180, 08 R233, 10 R287). -/
inductive OpPhase where
  /-- fetched, not issued -/
  | queued
  /-- issued, and waiting for millrace rows (R121) or for its start round (R288) -/
  | issued
  /-- computed, with drain rows, sends, acknowledgements or packets outstanding -/
  | running
  /-- ready to complete -/
  | finished
  /-- completed, with its record held for a full completion ring (R174) -/
  | held
  deriving DecidableEq, Repr

/-- Fault causes (06 R175, 08 R238, 10 R319). -/
inductive Cause where
  | none | validation | poison | satTrapped | millraceReject | sluiceRange | syncOverflow | ringOverrun
  | tileFenced | peerLost | ucFault | window | remoteRefused | memUncorrectable
  | sigMismatch | epochRetired | collAborted | collPoison
  deriving DecidableEq, Repr

/-! ### Operations in flight -/

/-- A chain packet of a reduction that stands in a receive slot of an add tile (10 R301). -/
structure HopSlot where
  /-- 2; 10 R297; made on arrival; strand -/
  strand : Nat
  /-- 4; 10 R298; made on arrival; shard of the elements -/
  shard : Nat
  /-- 32; 10 R294; made on arrival; index of the first element -/
  elem0 : Nat
  /-- 13; 10 R301; made on arrival; elements -/
  count : Nat
  /-- 8; 10 R301; made on arrival; receive slot that holds the wire codes -/
  slot : Nat
  /-- 1; 10 R301; 0 on arrival; the data has been added, and the sum waits to be sent on -/
  added : Bool := false
  deriving DecidableEq, Repr

/-- A collective packet that this module has to send, held until a credit is there (10 R301, R308). -/
structure CollTx where
  /-- 2; 10 R285; made at the send; strand -/
  strand : Nat
  /-- list; 10 R298, R307; made at the send; ranks that receive the packet, the last one last -/
  dsts : List Nat
  /-- 1; 10 R307; made at the send; the packet gathers results, rather than travelling a chain of additions -/
  gather : Bool
  /-- 4; 10 R298; made at the send; shard -/
  shard : Nat
  /-- 32; 10 R294; made at the send; index of the first element -/
  elem0 : Nat
  /-- list; 10 R299; made at the send; wire codes of the elements -/
  vals : List Nat
  /-- 8; 10 R301; made at the send; receive slot of the strand whose credit returns when the packet is sent -/
  slot : Option Nat := none
  deriving DecidableEq, Repr

/-- The run of a started collective on this module (10 R288 to R312). -/
structure CollRun where
  /-- 32; 10 R290; taken at the start; descriptor count of its stream -/
  seq : Nat
  /-- 32; 10 R288; taken at the start; the module's own signature -/
  own : BitVec 32
  /-- list; 10 R288; empty at the start; (axis, rank, signature) received -/
  sigs : List (Nat × Nat × BitVec 32) := []
  /-- 8; 10 R294, R311; taken at the start; cause with which every rank ends the collective once the signatures agree: its
  extent table or its permutation is none -/
  reject : Cause := .none
  /-- 1; 10 R288; 0 at the start; the start round has ended, so data may flow -/
  open_ : Bool := false
  /-- list; 10 R294; taken at the start; extents x_0 to x_(n-1) -/
  ext : List Nat
  /-- list; 10 R305; taken at the start; `UNIT` bytes of the groups -/
  units : List Nat
  /-- list; 10 R311; taken at the start; permutation table -/
  perm : List Nat := []
  /-- list; 10 R301; empty at the start; receive slots that hold data -/
  slots : List HopSlot := []
  /-- list; 10 R301, R308; empty at the start; packets that wait for a credit -/
  toSend : List CollTx := []
  /-- list; 10 R301, R308; none at the start; credits held: (gather, strand, rank), one entry each -/
  credits : List (Bool × Nat × Nat) := []
  /-- list; 10 R289; empty at the start; packets sent and not yet credited back: (gather, strand, rank) -/
  unacked : List (Bool × Nat × Nat) := []
  /-- count; 10 R289; set when data may flow; elements still to be written to `DST` -/
  elemsDue : Nat := 0
  /-- count; 10 R301; set when data may flow; elements still to be added and sent on by this rank -/
  hopsDue : Nat := 0
  /-- 2; 10 R312; 0 at the start; place in the axes of a value exchange -/
  axisAt : Nat := 0
  /-- list; 10 R312; taken at the start; values of a barrier, flag-OR or scale-MAX so far -/
  cur : List (BitVec 32) := []
  /-- list; 10 R312; empty at the start; values received: (axis, rank, first index, values) -/
  got : List (Nat × Nat × Nat × List (BitVec 32)) := []
  /-- 1; 10 R312; 0 at the start; the last axis has been combined -/
  valsDone : Bool := false
  /-- 1; 07 R199; 0 at the start; a verdict collective that sampled STEP_HEALTH -/
  firstVerdict : Bool := false
  /-- list; 10 R300; empty at the start; elements of the tensor that have counted a saturation -/
  satAt : List Nat := []
  /-- list; 10 R300; empty at the start; elements that have counted as non-finite -/
  nfAt : List Nat := []
  deriving DecidableEq, Repr

/-- A fetched descriptor that has no completion record yet: a scoreboard entry of a tile (06 R176), or a
descriptor in flight in a copy or collective channel (08 R233, 10 R287). -/
structure Op where
  /-- unbounded; 06 R176; set at fetch; fetch order on the module, used once -/
  id : Nat
  /-- 32; 06 R175; set at fetch; handle of the channel -/
  ch : BitVec 32
  /-- 32; 06 R167; set at fetch; free-running ring index -/
  idx : BitVec 32
  /-- 1024; 03 R100, 08 R235, 10 R291; set at fetch; the descriptor, in the low bits -/
  desc : BitVec 1024
  /-- 6; 06 R158; set at fetch; context of the channel -/
  ctx : Nat
  /-- 9; 06 R175; set at fetch; logical tile, 0x1FF for a copy or collective -/
  tile : Nat
  /-- 3; 06 R176; set at fetch; command queue -/
  queue : Nat
  /-- 32; 10 R288, R290; set at fetch; descriptor count of its stream, for a collective -/
  seq : Nat := 0
  /-- enum; 06 R180; queued at fetch; where it stands -/
  phase : OpPhase := .queued
  /-- 2; 06 R186; 0 at fetch; waits taken -/
  waits : Nat := 0
  /-- 1; 06 R186, R188; 0 at fetch; a wait stands at its home, or its translation is being read -/
  waitPend : Bool := false
  /-- 1; 06 R188; 0 at fetch; its home could allocate no cell for the wait, which is repeated -/
  noCell : Bool := false
  /-- 1; 06 R188; 0 at fetch; the home refused the wait for a full pending table -/
  retry : Bool := false
  /-- 64; 06 R175; none until it is the head; tide at which it became the head of its queue -/
  headAt : Option Nat := none
  /-- 64; 06 R182; none until it can issue; tide from which, as the head of its queue, it has been able to issue -/
  ableAt : Option Nat := none
  /-- 7; 06 R182; 0; choices in a row that it has lost while able to issue -/
  losses : Nat := 0
  /-- 64; 07 R217; 0; `STEP_COUNT` at issue -/
  stepAt : BitVec 64 := 0
  /-- 8; 07 R217; 0; `EXP` of entry `PRIV_IDX` at issue -/
  expAt : Int := 0
  /-- unbounded; 06 R173; 0; order of completion of a held operation -/
  doneSeq : Nat := 0
  /-- 64; 06 R175; 0 at fetch; tide at issue -/
  issueAt : Nat := 0
  /-- 64; 06 R175; 0 at fetch; tide at completion -/
  doneAt : Nat := 0
  /-- 32; 06 R175; 0 at fetch; saturation events -/
  satEv : Nat := 0
  /-- 32; 06 R175; 0 at fetch; non-finite events -/
  nfEv : Nat := 0
  /-- 1; 06 R175; 0 at fetch; raised INVALID -/
  inv : Bool := false
  /-- 1; 06 R175; 0 at fetch; raised DIV_ZERO -/
  dz : Bool := false
  /-- 1; 06 R175; 0 at fetch; skipped under GUARD -/
  skipped : Bool := false
  /-- 1; 06 R175; 0 at fetch; completed without running under FROZEN -/
  frozen : Bool := false
  /-- 8; 06 R175; NONE at fetch; fault cause -/
  cause : Cause := .none
  /-- 1; 11 R342; 0 at fetch; the poison that a copy or collective has met came from a scratchpad -/
  spad : Bool := false
  /-- 16; 10 R319; 0 at fetch; status of an aborted collective, as at the originating rank -/
  abortStatus : BitVec 16 := 0
  /-- list; 04 R117, R122; empty at fetch; accumulator rows still to drain or send, in order -/
  rowsDue : List Nat := []
  /-- list; 04 R122; empty at fetch; millrace rows sent and not yet acknowledged -/
  rowsSent : List Nat := []
  /-- 1; 04 R121; 0 at fetch; a grant has reached the sending part -/
  granted : Bool := false
  /-- list; 04 R122; empty at fetch; rows landed in a receiving part's region (its landed bits) -/
  landed : List Nat := []
  /-- unbounded; 04 R123; 0; row issues that a matrix operation has made, in the order of 03 R88 -/
  rowIssues : Nat := 0
  /-- list; 08 R517; empty at fetch; tags of remote writes and reads of a copy not yet accepted -/
  remote : List Nat := []
  /-- list; 09 R276; empty at fetch; chunks of a copy whose read requests wait for a credit of the peer's request queue -/
  asks : List Nat := []
  /-- unbounded; 08 R241, R244; 0; next access of a rill operation to issue: position times the pieces of an entry, plus
  the piece -/
  rillNext : Nat := 0
  /-- 512; 08 R240; 0 until read at the start; lowering block of a `LOWER` -/
  lower : BitVec 512 := 0
  /-- struct; 10 R288; none at fetch; the run of a started collective -/
  coll : Option CollRun := none
  deriving DecidableEq, Repr

/-- A sync signal on its way to its home (06 R186). -/
structure Signal where
  /-- 6; 06 R186; made at the send; context -/
  ctx : Nat
  /-- 16; 06 R186; made at the send; virtual sync ID, or local register of `tile` -/
  id : Nat
  /-- 1; 06 R189; made at the send; names a local sync register -/
  loc : Bool
  /-- 9; 06 R186; made at the send; logical tile of the sender, 0x1FF for a copy or collective engine -/
  tile : Nat
  /-- 32; 06 R186; made at the send; signalling channel, 0 for a utility core -/
  ch : BitVec 32
  /-- 32; 06 R186; made at the send; ring index of the signalling descriptor -/
  idx : BitVec 32
  /-- 17; 06 R188; none until translated; `HOME_TILE` and `ADD` of its entry -/
  dest : Option (Nat × Nat) := none
  deriving DecidableEq, Repr

/-- Why a sync-space entry is being read from Tier F (06 R188). -/
inductive XlateUse where
  /-- for the wait of an operation -/
  | opWait (op : Nat)
  /-- for a signal -/
  | signal (sig : Signal)
  /-- for a take of the utility core of a logical tile -/
  | ucTake (tile : Nat)
  deriving DecidableEq, Repr

/-- A read of a sync-space entry in progress (06 R188). -/
structure XlateRead where
  /-- 6; 06 R188; made at the read; context -/
  ctx : Nat
  /-- 16; 06 R188; made at the read; virtual sync ID -/
  id : Nat
  /-- 1; 06 R188; made at the read; a cell allocation at the home, else a translation at the requester -/
  alloc : Bool
  /-- struct; 06 R188; made at the read; what waits for it -/
  use : XlateUse
  /-- 9; 06 R188; made at the read; home of an allocation -/
  home : Nat := 0
  deriving DecidableEq, Repr

/-- A millrace message (04 R121, R122, R124). -/
inductive MrKind where
  /-- a grant -/
  | grant
  /-- row `row` with its 128 entries -/
  | row (row : Nat) (data : BitVec 4096)
  /-- the acknowledgement of a row -/
  | ack (row : Nat)
  /-- the rejection of a row, which goes back to an out side, or of a grant, which goes back to an in side -/
  | reject (row : Nat) (toOut : Bool)
  deriving DecidableEq, Repr

/-- A millrace message on its way to a tile (04 R121 to R124). -/
structure MrMsg where
  /-- enum; 04 R122; made at the send; what it says -/
  kind : MrKind
  /-- 6; 04 R124; made at the send; context it belongs to -/
  ctx : Nat
  /-- 9; 04 R119; made at the send; logical tile it goes to -/
  tile : Nat
  /-- 8; 04 R119; made at the send; link-table entry it goes to -/
  entry : Nat
  /-- 2; 04 R119; made at the send; `FMT` of the accumulator rows: 0 FP32, 1 INT32 -/
  fmt : Nat
  /-- 9; 04 R119; made at the send; logical tile it comes from -/
  fromTile : Nat
  /-- 8; 04 R119; made at the send; entry it comes from -/
  fromEntry : Nat
  /-- 12; 04 R124; made at the send; coordinates of the peer module it comes from, none for this module -/
  peer : Option (BitVec 12)
  deriving DecidableEq, Repr

/-! ### Tiles -/

/-- A wait in the pending table of a home tile (06 R188). -/
structure PendWait where
  /-- unbounded; 06 R186; made at the request; operation that waits -/
  op : Nat
  /-- 1; 06 R188; made at the request; the requester is not the home tile, so the wait takes a table entry -/
  remote : Bool
  deriving DecidableEq, Repr

/-- A sync cell of a logical tile (06 R186, R188). -/
structure Cell where
  /-- 16; 06 R188; set at allocation; virtual sync ID -/
  id : Nat
  /-- 6; 06 R188; set at allocation; context -/
  ctx : Nat
  /-- 24; 06 R185; loaded from `COUNT`; the count -/
  count : Nat
  /-- 8; 06 R185; loaded at allocation; `TAKE` -/
  take : Nat
  /-- list; 06 R186; empty at allocation; pending waits in order of arrival -/
  waits : List PendWait := []
  /-- unbounded; 06 R188; set at each use; order of the last use -/
  used : Nat := 0
  deriving DecidableEq, Repr

/-- An entry of a tile's translation cache (06 R188). -/
structure Xlate where
  /-- 16; 06 R188; set at the fill; virtual sync ID -/
  id : Nat
  /-- 9; 06 R185; set at the fill; `HOME_TILE` -/
  home : Nat
  /-- 8; 06 R185; set at the fill; `ADD` -/
  add : Nat
  /-- 8; 06 R185; set at the fill; `TAKE` -/
  take : Nat
  deriving DecidableEq, Repr

/-- The utility core of a tile, an RV64GC core in machine mode (06 R192; its registers as the RISC-V specification lays them
out, log 91). -/
structure UtilCore where
  /-- 2; 06 R192; 3 (no image); `UC_STATE` of `UC_STAT` -/
  st : UcSt := .noImage
  /-- 8; 06 R192; 0; `MCAUSE` of `UC_STAT` -/
  mcause : BitVec 8 := 0
  /-- 48; 06 R192; 0; `FAULT_PC` of `UC_STAT` -/
  faultPc : BitVec 48 := 0
  /-- 64; 06 R192; 0xFE00_0000_0000; program counter; a core starts at offset 0 of its local memory -/
  pc : BitVec 64 := 0xFE0000000000
  /-- 31 x 64; 06 R192; DESIGN CHOICE 0 (log 6); integer registers `x1` to `x31`; `x0` has no entry -/
  x : SMap (BitVec 64) := []
  /-- 32 x 64; 06 R192; DESIGN CHOICE 0 (log 6); floating registers `f0` to `f31` -/
  f : SMap (BitVec 64) := []
  /-- 8; 06 R192; DESIGN CHOICE 0 (log 6); CSR `fcsr`: `frm` in bits 7:5, `fflags` in bits 4:0 -/
  fcsr : BitVec 8 := 0
  /-- 64; 06 R192; DESIGN CHOICE 0 (log 6); writable bits of CSR `mstatus`: `MIE` 3, `MPIE` 7, `FS` 14:13 -/
  mstatus : BitVec 64 := 0
  /-- 64; 06 R192; DESIGN CHOICE 0 (log 6); CSR `mscratch` -/
  mscratch : BitVec 64 := 0
  /-- 64; 06 R192; DESIGN CHOICE 0 (log 6); CSR `mtval` -/
  mtval : BitVec 64 := 0
  /-- 64; 06 R192; DESIGN CHOICE 0 (log 6); CSR `mcycle` -/
  mcycle : BitVec 64 := 0
  /-- 64; 06 R192; DESIGN CHOICE 0 (log 6); CSR `minstret` -/
  minstret : BitVec 64 := 0
  /-- 2; 06 R192; DESIGN CHOICE 0 (log 6); CSR `mcountinhibit`: bit 0 `CY`, bit 1 `IR` -/
  inhibit : BitVec 2 := 0
  /-- 64 + 64; 06 R192; none; reservation of `LR`: address, and what it read (log 91) -/
  resv : Option (Nat × Nat) := none
  /-- 64; 06 R192; DESIGN CHOICE 0 (log 6); CSR `mtvec` -/
  mtvec : BitVec 64 := 0
  /-- 64; 06 R192; DESIGN CHOICE 0 (log 6); CSR `mepc`, the pc of the exception taken last -/
  mepc : BitVec 64 := 0
  /-- 64; 06 R192; DESIGN CHOICE 0 (log 6); CSR `mcause` -/
  mcauseCsr : BitVec 64 := 0
  /-- 1; 06 R192; 0; a handler has been entered and has not executed `mret` -/
  inHandler : Bool := false
  /-- 1; 06 R192; 0; the core waits in WFI -/
  wfi : Bool := false
  /-- 64; 06 R192; 0; tide at which it began to wait -/
  wfiAt : Nat := 0
  /-- 8 x 4; 06 R192; empty; `HEAD_REASON` of each queue of its tile when it began to wait -/
  wfiReasons : List Nat := []
  /-- 1; 06 R192; 0; the core has started since CTX_BIND -/
  started : Bool := false
  /-- 256 KiB; 06 R192; 0 (R161, CTX_BIND); local memory -/
  mem : Mem := []
  /-- 2; 06 R190; 0; `RESULT` of `UC_TAKE`: 0 idle, 1 pending, 2 granted, 3 refused -/
  takeResult : Nat := 0
  /-- 9; 01 R41; none; home of a translated take that is held while the binding of that tile changes -/
  takeHeld : Option Nat := none
  /-- 1; 06 R190; 0; `LOCAL` of `UC_TAKE` -/
  takeLocal : Bool := false
  /-- 16; 06 R190; 0; `ID` of `UC_TAKE` -/
  takeId : Nat := 0
  /-- 64; 16 R457; 0; counter `UC_FAULTS` -/
  faults : BitVec 64 := 0
  /-- 64; 06 R190, 16 R457; 0; counter `UC_SYNC_ERR` -/
  syncErr : BitVec 64 := 0
  deriving DecidableEq, Repr

/-- A physical tile (04, 05, 06): its memories, flags, counters, scheduler registers and sync unit. -/
structure Tile where
  /-- 8 MiB; 01 R33; DESIGN CHOICE 0 (log 5); scratchpad bytes by offset -/
  sp : Mem := []
  /-- 1 per 8 bytes; 01 R36; DESIGN CHOICE 0 (log 5); poison bits by 64-bit word -/
  spPoison : SMap Bool := []
  /-- 4,096 x 128 x 32; 04 R105, R107; +0; accumulator entries, entry r*128+n -/
  acc : SMap (BitVec 32) := []
  /-- 3; 04 R113; 0; `ACC_FLAGS`: bit 0 SAT, 1 NONFINITE, 2 MR_REJECT -/
  accFlags : BitVec 3 := 0
  /-- 3; 04 R113; 0; `ACC_ALERT_EN` -/
  accAlert : BitVec 3 := 0
  /-- 64; 04 R113; 0; `SAT_COUNT` -/
  satCount : BitVec 64 := 0
  /-- 64; 04 R113; 0; `NONFINITE_COUNT` -/
  nfCount : BitVec 64 := 0
  /-- 64; 04 R113; 0; `MR_REJECT_COUNT` -/
  mrCount : BitVec 64 := 0
  /-- 2; 05 R149; 0; `VEC_FLAGS`: bit 0 INVALID, 1 DIV_ZERO -/
  vecFlags : BitVec 2 := 0
  /-- 2; 05 R149; 0; `VEC_ALERT_EN` -/
  vecAlert : BitVec 2 := 0
  /-- 64; 05 R149; 0; `INVALID_COUNT` -/
  invCount : BitVec 64 := 0
  /-- 64; 05 R149; 0; `DIV_ZERO_COUNT` -/
  dzCount : BitVec 64 := 0
  /-- 256 x 64; 04 R119; 0; out halves of the millrace link table -/
  mrOut : SMap (BitVec 64) := []
  /-- 256 x 64; 04 R119; 0; in halves of the millrace link table -/
  mrIn : SMap (BitVec 64) := []
  /-- 8 x 24; 06 R184 registers; 250 each; `GATE_THRESH` of `QCFG0` to `QCFG7` -/
  qcfg : List Nat := List.replicate 8 250
  /-- 2; 06 R182; 0 (AGE); `SEL_BIAS` of `TILE_PCFG` -/
  selBias : Nat := 0
  /-- 24; 06 R193; 6,250; `OFF_DELAY` of `TILE_PCFG` -/
  offDelay : Nat := 6250
  /-- 8; 06 R193; 0; `PARKED` bits of `QSTAT0` to `QSTAT7` -/
  parked : BitVec 8 := 0
  /-- 8 x 64; 06 R193; 0; tide of the latest instant from which a queue's wait counts -/
  qSince : List Nat := List.replicate 8 0
  /-- 2; 06 R183 registers; 0 (running); `PARK` of `SCHED_STAT` -/
  park : ParkSt := .running
  /-- 64; 16 R457; 0; counter `PARKED_NS` -/
  parkedNs : BitVec 64 := 0
  /-- 64; 16 R457; 0; tide at which the tile parked -/
  parkedAt : Nat := 0
  /-- 64; 06 R196; none; tide at which it began to wake from clock-gated -/
  wakeAt : Option Nat := none
  /-- 14; 06 R176; 0; slot of the compute channel fetched last, after which the turn goes on -/
  fetchAt : Nat := 0
  /-- 48 x 24; 06 R189; 0 (R161), loaded at CTX_BIND; `LSYNC0` to `LSYNC47` -/
  lsync : List Nat := List.replicate 48 0
  /-- 48 lists; 06 R189; empty; pending waits on the local sync registers: (register, operation) in order -/
  lwaits : List (Nat × Nat) := []
  /-- 512 cells; 06 R188; none; sync cells -/
  cells : List Cell := []
  /-- 256 entries; 06 R188; empty; translation cache -/
  xlate : List Xlate := []
  /-- 64; 16 R457; 0; counter `XLATE_MISS` -/
  xlateMiss : BitVec 64 := 0
  /-- 64 x 32; 07 R210; +0; `PRIV_AMAX0` to `PRIV_AMAX63` -/
  privAmax : SMap (BitVec 32) := []
  /-- 64 x 8; 07 R208; 0; the tile's copies of `EXP` -/
  privExp : SMap (BitVec 8) := []
  /-- struct; 06 R192; see `UtilCore`; utility core -/
  uc : UtilCore := {}
  /-- 64; 16 R457; 0; counter `SP_CORRECTED` -/
  spCorrected : BitVec 64 := 0
  /-- 1; 17 R486; 0; the tile can no longer be used after a single-tile move -/
  unusable : Bool := false
  /-- 1; 17 R486; 0; its scheduler has stopped issuing for a warm move -/
  moving : Bool := false
  deriving DecidableEq, Repr

/-! ### Contexts and handles -/

/-- A bank-table entry (07 R213). -/
structure BankEntry where
  /-- 48; 07 R213; loaded at CTX_BIND; `BASE0` -/
  base0 : Nat
  /-- 48; 07 R213; loaded at CTX_BIND; `BASE1` -/
  base1 : Nat
  /-- 32; 07 R213; loaded at CTX_BIND; `PAGES` -/
  pages : Nat
  /-- 1; 07 R213; loaded at CTX_BIND; `BANKED` -/
  banked : Bool
  deriving DecidableEq, Repr

/-- The compiled tables of one logical tile, kept for a cold move (06 R158, 17 R487). -/
structure TileTables where
  /-- 9; 12 R374; loaded at CTX_BIND; logical tile -/
  tile : Nat
  /-- 48 x 24; 06 R189; loaded at CTX_BIND; initial counts of the local sync registers -/
  lsync : List Nat
  /-- 256 x 64; 04 R119; loaded at CTX_BIND; out halves -/
  mrOut : SMap (BitVec 64)
  /-- 256 x 64; 04 R119; loaded at CTX_BIND; in halves -/
  mrIn : SMap (BitVec 64)
  deriving DecidableEq, Repr

/-- Where a context stands in its close (07 R216). -/
inductive ClosePh where
  | idle
  /-- steps 2 to 5 of R216 are due: the signal of the barrier, and whether the close commits -/
  | holding (sig : Option Signal) (commit : Bool)
  deriving DecidableEq, Repr

/-- A context (06 R158). -/
structure Ctx where
  /-- 384; 12 R372; set at CTX_CREATE; tenant identity that owns it -/
  owner : BitVec 384
  /-- enum; 06 R160; CREATED at CTX_CREATE; state -/
  st : CtxSt := .created
  /-- 64; 02 R67, R68; set at CTX_CREATE; seed -/
  seed : BitVec 64
  /-- 64; 07 R197; set at CTX_CREATE; `STEP_COUNT` -/
  stepCount : BitVec 64
  /-- 64; 07 R197; 0 at CTX_CREATE; `SKIP_COUNT` -/
  skipCount : BitVec 64 := 0
  /-- 1; 07 R197, R198; 0; `STEP_HEALTH` -/
  stepHealth : Bool := false
  /-- 1; 07 R197, R198; 0; `HEALTH_LATE` -/
  healthLate : Bool := false
  /-- 2; 07 R197, R199; PENDING; `VERDICT` -/
  verdict : Verdict := .pending
  /-- 1; 07 R197, R214; 0 at CTX_BIND; `BANK_SEL` -/
  bankSel : Bool := false
  /-- 64; 07 R197; 0; `HEALTH_LATE_COUNT` -/
  healthLateCount : BitVec 64 := 0
  /-- 64; 07 R197; 0; `SEQ_ERR_COUNT` -/
  seqErr : BitVec 64 := 0
  /-- 1; 07 R198; 0; the step counts as sampled -/
  sampled : Bool := false
  /-- enum; 07 R216; idle; the close in progress -/
  closing : ClosePh := .idle
  /-- list; 07 R216; empty; signals of close barriers that completed while an earlier close ran -/
  closeQ : List (Option Signal) := []
  /-- 1; 08 R230, 14 R409; absent; the memory key: key 1 then key 2 -/
  memKey : Option (BitVec 512) := none
  /-- 272; 14 R409, R410; absent; partition tag and partition key -/
  partKey : Option (BitVec 16 × BitVec 256) := none
  /-- 16; 12 R373; 0; partition tag it is bound to -/
  ptag : BitVec 16 := 0
  /-- list; 06 R158; empty, set at CTX_BIND; bound logical tiles, ascending -/
  tiles : List Nat := []
  /-- 32; 06 R159; none; handle of its sync space -/
  syncSpace : Option (BitVec 32) := none
  /-- 64 x 1024; 07 R208; 0; privileged entries -/
  priv : SMap (BitVec 1024) := []
  /-- list; 07 R213; empty; valid entries of the bank table -/
  bank : List BankEntry := []
  /-- list; 17 R487; empty; compiled tables of its tiles -/
  tables : List TileTables := []
  /-- 8; 10 R315; 0 at CTX_BIND; `EPOCH_X` -/
  epochX : BitVec 8 := 0
  /-- 8; 10 R315; 0 at CTX_BIND; `EPOCH_Y` -/
  epochY : BitVec 8 := 0
  /-- 8; 10 R315; 0 at CTX_BIND; `EPOCH_Z` -/
  epochZ : BitVec 8 := 0
  /-- 24; 11 R346; 0 at CTX_BIND; the epochs (X, Y, Z) at the last close -/
  closeEpochs : BitVec 8 × BitVec 8 × BitVec 8 := (0, 0, 0)
  /-- 1; 16 R472; 0; the reduce-scatter that completed last met the axis, collective and receive conditions of 10 R321 -/
  scatterMet : Bool := false
  /-- list; 10 R290; empty; descriptor count of each collective stream: (stream, count) -/
  streams : SMap Nat := []
  /-- list; 11 R346; empty; the descriptor counts at the last close -/
  closeStreams : SMap Nat := []
  /-- list; 10 R317; empty; drained messages counted: (axis, epoch, rank) -/
  drained : List (Nat × BitVec 8 × Nat) := []
  /-- 64 x 32; 07 R211; none; agreed privileged maxima held for the next close -/
  agreed : Option (List (BitVec 32)) := none
  /-- 1; 14 R421; 0; created inside an open debug session -/
  inDebug : Bool := false
  /-- 1; 06 R160; 0; a CTX_QUIESCE, or the entry of SAFE, has stopped the channels, and waits for operations in flight -/
  quiescing : Bool := false
  /-- 1; 11 R346; 0; that quiesce is a CTX_QUIESCE, which rewinds a replayed step -/
  rewindDue : Bool := false
  /-- 1; 11 R341, R345; 0; a fault acted on this context under `REPLAY`, and it has not rewound since -/
  replaying : Bool := false
  /-- 64; 07 R206; 0; `KEEP_OPS` -/
  keepOps : BitVec 64 := 0
  /-- 64; 07 R206; 0; `RECOMPUTE_OPS` -/
  recomputeOps : BitVec 64 := 0
  /-- 64; 07 R206; 0; `RECOMPUTE_MACS` -/
  recomputeMacs : BitVec 64 := 0
  /-- 64; 12 R357, 16 R457; 0; `RDMA_REFUSED` -/
  rdmaRefused : BitVec 64 := 0
  deriving DecidableEq, Repr

/-- A channel with a ring: compute, copy or collective (06 R167, R171; 08 R233; 10 R287). -/
structure Chan where
  /-- 4; 06 R162; set at CHAN_CREATE; kind: 1 compute, 2 copy, 3 collective -/
  kind : Nat
  /-- 6; 06 R166; set at CHAN_CREATE; context -/
  ctx : Nat
  /-- 9; 06 R166; set at CHAN_CREATE; logical tile, or 0x1FF -/
  tile : Nat
  /-- 5; 08 R233; set at CHAN_CREATE; engine M-die of a copy channel -/
  engine : Nat
  /-- 16; 10 R287; set at CHAN_CREATE; stream ID of a collective channel -/
  stream : Nat
  /-- 48; 06 R167; set at CHAN_CREATE; command-ring address -/
  ring : Nat
  /-- 17; 06 R167; set at CHAN_CREATE; command-ring entries -/
  ringN : Nat
  /-- 48; 06 R167; set at CHAN_CREATE; completion-ring address -/
  cpl : Nat
  /-- 17; 06 R167; set at CHAN_CREATE; completion-ring entries -/
  cplN : Nat
  /-- 48; 06 R167; set at CHAN_CREATE; control-block address -/
  ctrl : Nat
  /-- enum; 06 R171; IDLE; state -/
  st : ChSt := .idle
  /-- 32; 06 R167; 0; `CONSUMER` -/
  consumer : BitVec 32 := 0
  /-- 32; 06 R176; 0; next index to fetch -/
  nextFetch : BitVec 32 := 0
  /-- 32; 12 R373; 0; `PRODUCER` as last read -/
  producer : BitVec 32 := 0
  /-- 32; 06 R167; 0; `CPL_PRODUCER` -/
  cplProducer : BitVec 32 := 0
  /-- 32; 12 R373; 0; `CPL_CONSUMER` as last read -/
  cplConsumer : BitVec 32 := 0
  /-- 8; 06 R167; NONE; `CAUSE` of the last fault -/
  cause : Cause := .none
  /-- 32; 06 R167; 0; `FAULT_INDEX` of the last fault -/
  faultIndex : BitVec 32 := 0
  /-- list; 06 R167; empty; indices beyond `CONSUMER` whose records have been written -/
  doneIdx : List (BitVec 32) := []
  /-- 1; 06 R171; 0; a CHAN_STOP waits for issued operations -/
  stopping : Bool := false
  /-- 1; 06 R169; 0; the write-watch has fired and a fetch is due -/
  fired : Bool := false
  deriving DecidableEq, Repr

/-- A memory window (08 R227). -/
structure Window where
  /-- 6; 08 R227; set at CHAN_CREATE; context -/
  ctx : Nat
  /-- 1; 08 R227; set at CHAN_CREATE; `TIER`: false F, true S -/
  tierS : Bool
  /-- 48; 08 R227; set at CHAN_CREATE; `BASE` -/
  base : Nat
  /-- 48; 08 R227; set at CHAN_CREATE; `LENGTH` in bytes -/
  length : Nat
  /-- 1; 08 R227; set at CHAN_CREATE; `REMOTE_RX` -/
  remoteRx : Bool
  /-- 40; 08 R225; set at CHAN_CREATE; device set, ascending -/
  devices : List Nat
  /-- 1; 08 R228; 0; the zero-fill is complete, so the window exists -/
  ready : Bool := false
  deriving DecidableEq, Repr

/-- A sync space (06 R185). -/
structure SyncSpace where
  /-- 6; 06 R159; set at CHAN_CREATE; context -/
  ctx : Nat
  /-- 48; 06 R185; set at CHAN_CREATE; table address -/
  table : Nat
  /-- 17; 06 R185; set at CHAN_CREATE; entries -/
  entries : Nat
  deriving DecidableEq, Repr

/-- Who made a telemetry subscription (12 R372, 16 R459): the operator, or a tenant identity. -/
abbrev Owner := Option (BitVec 384)

/-- A telemetry record (16 R456), header fields and the body's bits. -/
structure TelemRec where
  /-- 64; 16 R456; set when formed; `T` -/
  t : Nat
  /-- 32; 16 R456; set when formed; `GEN` -/
  gen : Nat
  /-- 32; 16 R456; set when formed; `ID` -/
  id : Nat
  /-- 32; 16 R456; set when formed; `OBJECT` -/
  obj : Nat
  /-- 4; 16 R456; set when formed; `KIND` -/
  kind : Nat
  /-- 1; 16 R463; set when formed; `STALE` -/
  stale : Bool
  /-- 1; 16 R467; set when formed; `SNAP` -/
  snap : Bool
  /-- 1; 16 R456; set when formed; `UNLOCKED` -/
  unlocked : Bool
  /-- 7; 16 R456; set when formed; `CTX`, none when `CTX_VALID` is 0 -/
  ctx : Option Nat
  /-- 32; 16 R456; set when formed; `SEQ` -/
  seq : BitVec 32
  /-- 1792; 16 R456; set when formed; body bits [2047:256] -/
  body : BitVec 1792
  deriving DecidableEq, Repr

/-- A telemetry subscription (16 R458). -/
structure Sub where
  /-- 384; 16 R459; set at GAUGE_SUBSCRIBE; creator -/
  owner : Owner
  /-- 5; 16 R458; set at GAUGE_SUBSCRIBE; kinds wanted -/
  kinds : BitVec 5
  /-- 2; 16 R458; set at GAUGE_SUBSCRIBE; network B port -/
  port : Nat
  /-- 16; 16 R458; set at GAUGE_SUBSCRIBE; k, the live export interval in gauge periods -/
  k : Nat
  /-- 16; 16 R458; set at GAUGE_SUBSCRIBE; destination UDP port -/
  udp : Nat
  /-- 128; 16 R458; set at GAUGE_SUBSCRIBE; destination address -/
  addr : BitVec 128
  /-- 48 x 64; 16 R458; set at GAUGE_SUBSCRIBE; filters (value, mask) -/
  filters : List (BitVec 32 × BitVec 32)
  /-- 4,096 records; 16 R460; empty; queue -/
  queue : List TelemRec := []
  /-- 32; 16 R456; 0; records formed -/
  seq : BitVec 32 := 0
  /-- 32; 16 R461; 0; records dropped since the last one delivered -/
  lost : Nat := 0
  /-- 32; 12 R373; 0; records dropped in all -/
  dropped : Nat := 0
  /-- 32; 16 R462; 0; datagrams sent -/
  sent : BitVec 32 := 0
  /-- 16; 16 R460; 0; gauge periods since the last live export -/
  periods : Nat := 0
  /-- list; 16 R473; +infinity each; `WORST` of the present export interval, at measure · 2^32 + object -/
  worst : SMap (BitVec 32) := []
  deriving DecidableEq, Repr

/-- A transit grant (11 R333). -/
structure Grant where
  /-- 128; 11 R333; set at TRANSIT_GRANT; the grant body -/
  body : BitVec 128
  deriving DecidableEq, Repr

/-- What a live handle names (06 R162). -/
inductive HObj where
  | chan (c : Chan)
  | window (w : Window)
  | sync (y : SyncSpace)
  | sub (u : Sub)
  | grant (g : Grant)
  deriving DecidableEq, Repr

/-- The handle slots (06 R162, R163). -/
structure Handles where
  /-- 16,384 x 14; 06 R163; 1 each; generation of each slot -/
  gen : SMap Nat := []
  /-- 14; 06 R163; 0; slots never used yet begin here (all slots count as freed in ascending order at cold boot) -/
  fresh : Nat := 0
  /-- list; 06 R163; empty; slots freed since, longest ago first -/
  freed : List Nat := []
  /-- 16,384 entries; 06 R162; none; live objects by slot -/
  live : SMap HObj := []
  deriving DecidableEq, Repr

/-! ### Memory tiers -/

/-- An access in the rill queue of a stack (08 R241, R243). -/
structure RillAcc where
  /-- 32; 08 R243; set at its admission; channel -/
  ch : BitVec 32
  /-- 64; 08 R243; set at its admission; operation -/
  op : Nat
  /-- 24; 08 R241; set at its admission; number of the access in its operation -/
  acc : Nat
  /-- 32; 08 R241; set at its admission; the index read for it -/
  idx : Nat
  deriving DecidableEq, Repr

/-- A memory device: stacks 0 to 19 are devices 0 to 19, packages 0 to 39 are devices 20 to 59 (08 R224). -/
structure Device where
  /-- 64; 08 R222, 16 R457; 0; `CORRECTED` -/
  corrected : BitVec 64 := 0
  /-- 64; 08 R222, 16 R457; 0; `UNCORRECTABLE` -/
  uncorrectable : BitVec 64 := 0
  /-- 64; 08 R222, 16 R457; 0; `POISON_READS` -/
  poisonReads : BitVec 64 := 0
  /-- 64; 08 R232, 16 R457; 0; `LC_DEMOTED` -/
  lcDemoted : BitVec 64 := 0
  /-- 64; 08 R246, 16 R457; 0; `LINES_SPARED` -/
  linesSparedCount : BitVec 64 := 0
  /-- 64; 08 R246, 16 R457; 0; `FRAMES_RETIRED` -/
  framesRetired : BitVec 64 := 0
  /-- 16; 08 R220; DESIGN CHOICE 25 (log 7); temperature read last, in degrees C -/
  temp : Int := 25
  /-- 1; 08 R220; 0; refresh runs at the doubled rate -/
  refresh2x : Bool := false
  /-- 14; 08 R231, R232; 0; latency-critical lines served in the present interval -/
  lcUsed : Nat := 0
  /-- list; 08 R246, R247; empty; lines of the device that the line-sparing store serves: frame · 32,768 + line in it -/
  spared : List Nat := []
  /-- list; 08 R247; empty; lines of the device that are moving into the store, whose accesses are held -/
  movingLines : List Nat := []
  /-- list; 17 R490; empty; corrected reads within 24 h: (line of the device, tide) -/
  corrHist : List (Nat × Nat) := []
  /-- list; 08 R227; empty; frames in use: (frame, handle of the window) -/
  frames : List (Nat × BitVec 32) := []
  /-- list; 08 R246; empty; retired frames -/
  retired : List Nat := []
  /-- list; 17 R489; empty; frames to retire when their window is destroyed -/
  retireLater : List Nat := []
  /-- list; 17 R489, R490; empty; soft repairs applied: (channel, bank, row) -/
  softRepairs : List (Nat × Nat × Nat) := []
  /-- list; 17 R489; empty; hard repairs applied -/
  hardRepairs : List (Nat × Nat × Nat) := []
  /-- list; 08 R246, 17 R489; empty; channels of the stack whose interface lanes were repaired -/
  laneRepairs : List Nat := []
  /-- 1024 entries; 08 R243; empty; the rill queue of a stack, oldest first -/
  rillQ : List RillAcc := []
  /-- 14; 08 R243; 0; slot of the channel that the rill queue admitted last, after which the rotation goes on -/
  rillTurn : Nat := 0
  /-- 33; 08 R223; 0; the line of the device that the scrub reads next -/
  scrubAt : Nat := 0
  deriving DecidableEq, Repr

/-! ### Torus ports -/

/-- An expected-neighbour entry of `LINK_EXPECT` (12 R373, 09 R266). -/
structure Expect where
  /-- 64; 12 R373; set by LINK_EXPECT; `SERIAL` -/
  serial : BitVec 64
  /-- 12; 12 R373; set by LINK_EXPECT; `COORD` -/
  coord : BitVec 12
  /-- 16; 12 R373; set by LINK_EXPECT; `PTAG` -/
  ptag : BitVec 16
  deriving DecidableEq, Repr

/-- A torus packet: its first flit and its payload flits (09 R259, R261). -/
structure Packet where
  /-- 512; 09 R259; made at the source; routing header and the rest of the first flit -/
  head : BitVec 512
  /-- 1 to 64 flits, or none; 09 R259; made at the source; payload -/
  payload : List (BitVec 512)
  /-- 1; 09 R270; 0; the packet ends in a flit marked in `ABORT_SLOT` -/
  aborted : Bool := false
  deriving DecidableEq, Repr

/-- A frame kept for retry (09 R256). -/
structure TxFrame where
  /-- 12; 09 R255; set when sent; `SEQ` -/
  seq : Nat
  /-- 16 x 512; 09 R254; set when sent; its filled slots -/
  slots : List (BitVec 512)
  /-- 5; 09 R255; set when sent; `ABORT_SLOT` -/
  abort : Nat := 0
  /-- 64; 09 R255, R256; set when sent; `CREDITS`, which a resend returns with it -/
  credits : Nat := 0
  /-- struct; 09 R270; set when sent; the packet whose flits it carries -/
  pkt : Packet
  /-- 3; 09 R270; set when sent; its place among the frames of that packet -/
  nth : Nat := 0
  deriving DecidableEq, Repr

/-- Flow-gauge counters of one port and virtual channel in the present window (09 R282). -/
structure Flow where
  /-- 32; 09 R282; 0; `TX_FLITS` -/
  tx : Nat := 0
  /-- 32; 09 R282; 0; `RX_FLITS` -/
  rx : Nat := 0
  /-- 32; 09 R282; 0; `CREDIT_WAIT_NS` -/
  creditWait : Nat := 0
  /-- 32; 09 R282; 0; `BUSY_NS` -/
  busy : Nat := 0
  /-- 32; 09 R282; 0; `HEAD_WAIT_MAX_NS` -/
  headWait : Nat := 0
  /-- 16; 09 R282; 0; `OCC_MAX` -/
  occMax : Nat := 0
  /-- 16; 09 R282; 0; `RETRY_FRAMES` -/
  retry : Nat := 0
  /-- 32; 09 R282; 0; `TRANSIT_FLITS` -/
  transit : Nat := 0
  /-- 32; 09 R282; 0; `DROPPED` -/
  dropped : Nat := 0
  /-- 32; 09 R282; 0; `MC_FLITS` -/
  mc : Nat := 0
  deriving DecidableEq, Repr

/-- A torus port (09 R248 to R271). -/
structure Port where
  /-- 3; 09 R264, R268; DARK; `STATE` -/
  st : LinkSt := .dark
  /-- 1; 09 R264; 0; light on the receive lanes -/
  light : Bool := false
  /-- 1; 09 R264; 0; a failed attempt waits 1 s before the next -/
  retryDue : Bool := false
  /-- 16; 09 R268; 0; `LOOP_NS` -/
  loopNs : Nat := 0
  /-- 8; 09 R268; 0; `REV_MAJOR` -/
  revMajor : BitVec 8 := 0
  /-- 8; 09 R268; 0; `REV_MINOR` -/
  revMinor : BitVec 8 := 0
  /-- 9; 09 R268; 0; `LANE_MAP` -/
  laneMap : BitVec 9 := 0
  /-- 9; 09 R251; 0; lanes that have failed -/
  laneFailed : BitVec 9 := 0
  /-- 2; 09 R268; 0; `WIDTH`: 0 none, 1 four lanes, 2 eight lanes -/
  width : Nat := 0
  /-- 1; 09 R268, R269; 0; `BY_PARTNER` -/
  byPartner : Bool := false
  /-- 10; 09 R268; 0; `LINK_EVT` -/
  evt : BitVec 10 := 0
  /-- 10; 09 R268; 0; `LINK_EVT_EN` -/
  evtEn : BitVec 10 := 0
  /-- 10 x 64; 09 R268; 0; occurrence counters of `LINK_EVT` -/
  counts : List (BitVec 64) := List.replicate 10 0
  /-- 256; 09 R268; 0; `PEER_IDENT` -/
  peerIdent : BitVec 256 := 0
  /-- 1; 09 R266; 0; the tag of the last IDENT verified -/
  peerTagOk : Bool := false
  /-- 1; 09 R266; 0; an IDENT has been received in this attempt -/
  peerSeen : Bool := false
  /-- struct; 09 R266; none; entry installed by LINK_EXPECT -/
  expect : Option Expect := none
  /-- 128; 09 R265; 0; `NONCE` drawn at the training attempt -/
  nonce : BitVec 128 := 0
  /-- 4; 09 R251; none; lane whose sparing this end has requested by `LANE_OP` 1 -/
  laneAsked : Option Nat := none
  /-- 4; 09 R251; none; lane whose sparing this end has acknowledged by `LANE_OP` 2 -/
  laneAgreed : Option Nat := none
  /-- 1; 09 R251; 0; a lane has been switched, and no good frame has come since -/
  realigning : Bool := false
  /-- 1; 09 "When link events meet"; 0; a `NAK` has come while a lane switch is under way -/
  nakHeld : Bool := false
  /-- 12; 09 R256; 4,095 (no frame accepted yet); `SEQ` of the last accepted frame -/
  rxSeq : Nat := 4095
  /-- 1; 09 R256; 0; `NAK` is due in the next outgoing trailer -/
  nakDue : Bool := false
  /-- 12; 09 R256; 0; `SEQ` of the next frame to send -/
  txSeq : Nat := 0
  /-- 992 frames; 09 R256; empty; retry buffer, oldest first -/
  retryBuf : List TxFrame := []
  /-- list; 09 R264; empty; frames of VC0 to VC5 that wait, unaccepted, for the port to be `UP` again -/
  kept : List TxFrame := []
  /-- 1; 09 R264; 0; `IDENT` waits for the peer's `ACK_SEQ` after a realignment (log 95) -/
  identDue : Bool := false
  /-- 1; 09 R270; 0; this end has reported the last frame that it accepted before the port left `UP` -/
  told : Bool := false
  /-- 1; 09 R270; 0; the partner has taken the packets that the other end had not accepted -/
  failedOver : Bool := false
  /-- 5; 09 R257; 0; consecutive resends without an advance of `ACK_SEQ` -/
  resends : Nat := 0
  /-- list; 09 R258; empty; flits of a packet that is arriving -/
  rxPart : List (BitVec 512) := []
  /-- 8 channels; 09 R262; empty; packets in the input buffer: (VC, packet), oldest first -/
  inQ : List (Nat × Packet) := []
  /-- 8 x 13; 09 R262; 0; credits held at the next module, by VC -/
  credits : List Nat := List.replicate 8 0
  /-- 8 x 13; 09 R262; 0; credits to return in the next trailers, by VC -/
  creditDue : List Nat := List.replicate 8 0
  /-- 8 x 14; 09 R262; 0; flits buffered from before the last training, whose credits do not return, by VC (log 95) -/
  oldFlits : List Nat := List.replicate 8 0
  /-- 8 x 13; 09 R262; 0; flits of the shared pool granted to each VC, in blocks of 512 and taken back as flits leave -/
  pool : List Nat := List.replicate 8 0
  /-- list; 09 R258, R269; empty; packets of this module waiting to be sent, which occupy no input buffer -/
  txQ : List Packet := []
  /-- list; 09 R264; empty; tides at which the port entered RETRAIN, within 60 s -/
  retrainAt : List Nat := []
  /-- 8 x struct; 09 R282; 0; flow-gauge counters by VC -/
  flow : List Flow := List.replicate 8 {}
  /-- 9 x 2; 16 R469; 0; consecutive scans of each lane below the EYE_V action threshold -/
  eyeBad : List Nat := List.replicate 9 0
  /-- 9 x 2; 16 R469; 0; consecutive scans of each lane below the EYE_H action threshold -/
  eyeBadH : List Nat := List.replicate 9 0
  /-- 9 x 8; 16 R469; 0; consecutive 1 ms windows of each lane above the SER action threshold -/
  serBad : List Nat := List.replicate 9 0
  /-- 9 x 4; 16 R469; 0; consecutive 100 ms readings of each lane below the RX_POWER action threshold -/
  rxBad : List Nat := List.replicate 9 0
  /-- 1; 17 R492; 0; the port has been serviced: the lanes of its next training return to `GOOD` -/
  serviced : Bool := false
  /-- 63 x 5; 11 R335; 0; transit flits in each of the last 63 frames, newest first -/
  transitHist : List Nat := []
  deriving DecidableEq, Repr

/-! ### Ethernet, queue pairs and sessions -/

/-- An Ethernet port (12 R351 to R354, R372). -/
structure EthPort where
  /-- 1; 12 R351; 0; the port is up -/
  up : Bool := false
  /-- 128; 12 R372; DESIGN CHOICE 0 (log 8); global IPv6 address -/
  ipv6 : BitVec 128 := 0
  /-- 32; 12 R372; DESIGN CHOICE 0 (none) (log 8); IPv4 address -/
  ipv4 : BitVec 32 := 0
  /-- 16; 12 R372; DESIGN CHOICE 0xFFFF (untagged) (log 8); VLAN tag control -/
  vlan : BitVec 16 := 0xFFFF
  /-- 8; 12 R353; 3; `PRIO_DATA` -/
  prioData : BitVec 8 := 3
  /-- 8; 12 R353; 5; `PRIO_CTRL` -/
  prioCtrl : BitVec 8 := 5
  /-- 8; 12 R372; DESIGN CHOICE 0 (log 8); DSCP of `PRIO_DATA` -/
  dscpData : BitVec 8 := 0
  /-- 8; 12 R372; DESIGN CHOICE 0 (log 8); DSCP of `PRIO_CTRL` -/
  dscpCtrl : BitVec 8 := 0
  /-- 512; 14 R418; none (the bootstrap key serves); installed MACsec connectivity key and name -/
  macsec : Option (BitVec 256 × BitVec 256) := none
  /-- 8; 12 R354; 0; priorities paused by PFC -/
  paused : BitVec 8 := 0
  /-- 8 x 64; 12 R354; 0; tide at which each priority was paused -/
  pausedAt : List Nat := List.replicate 8 0
  /-- 64; 12 R353; 0; `ETH_DROPPED` -/
  dropped : BitVec 64 := 0
  /-- 64; 12 R354; 0; `PFC_PAUSED_NS` -/
  pausedNs : BitVec 64 := 0
  deriving DecidableEq, Repr

/-- A request that has arrived at a queue pair (12 R356, R357). -/
inductive RdmaReq where
  /-- an RDMA WRITE: R_Key, virtual address and bytes -/
  | write (rkey : BitVec 32) (va : Nat) (data : List (BitVec 8))
  /-- an RDMA READ: R_Key, virtual address and number of bytes -/
  | read (rkey : BitVec 32) (va len : Nat)
  /-- a SEND or an atomic request -/
  | other
  deriving DecidableEq, Repr

/-- A data queue pair (12 R356). -/
structure Qp where
  /-- 6; 12 R356; set at QP_CREATE; context -/
  ctx : Nat
  /-- 3; 12 R356; set at QP_CREATE; port -/
  port : Nat
  /-- 2; 12 R373; set at QP_CREATE; path MTU code -/
  mtu : Nat
  /-- 128; 12 R356; set at QP_CREATE; partner address -/
  partner : BitVec 128
  /-- 64; 12 R356; set at QP_CREATE; service ID -/
  service : BitVec 64
  /-- enum; 12 R356, R359; idle; state -/
  st : QpSt := .idle
  /-- 24; 12 R358; 0; next packet sequence number -/
  psn : BitVec 24 := 0
  /-- list, at most 16 READs; 12 R356, R358; empty; requests outstanding, oldest first -/
  work : List RdmaReq := []
  deriving DecidableEq, Repr

/-- What the checks of 12 R368 read of the session that took a request, once that session has ended. -/
structure Issuer where
  /-- enum; 14 R400; as the session left it; role and identity -/
  role : Role
  /-- 16; 12 R370; as the session left it; agreed minor revision -/
  minor : Nat
  /-- 1; 12 R370; as the session left it; HELLO had completed -/
  helloDone : Bool
  /-- 1; 12 R368; as the session left it; a restart had not been answered by HELLO -/
  restarted : Bool
  deriving DecidableEq, Repr

/-- A request that has been taken and has no result record (12 R363 to R367). -/
structure Req where
  /-- 32; 12 R362; copied when taken; `SEQ` -/
  seq : BitVec 32
  /-- 5; 12 R362; copied when taken; slot -/
  slot : Nat
  /-- 16; 12 R362; copied when taken; `OPCODE` -/
  opcode : BitVec 16
  /-- 16; 12 R362; copied when taken; `BODY_LEN` -/
  len : Nat
  /-- 3456; 12 R362; copied when taken; `BODY`, opened -/
  body : BitVec 3456
  /-- unbounded; 12 R367; set when taken; taking order over all sessions -/
  order : Nat
  /-- 64; 12 R365; set when taken; tide at taking -/
  takenAt : Nat
  /-- 1; 12 R365; 0; the acknowledgement record has been written -/
  acked : Bool := false
  /-- 1; 12 R365; 0; the command has begun to run -/
  started : Bool := false
  /-- struct; 12 R360 and "When session events coincide"; none; its session has ended, and this is how it stood -/
  issuer : Option Issuer := none
  /-- struct; 12 R365; none; the outcome, once the command has completed: status, state code, body, body length -/
  result : Option (BitVec 16 × BitVec 8 × BitVec 3456 × Nat) := none
  deriving DecidableEq, Repr

/-- A ring record (12 R364), before its place in the ring and its tag are fixed. -/
structure Record where
  /-- 4; 12 R364; set when formed; `KIND`: 1 acknowledgement, 2 result, 3 event -/
  kind : Nat
  /-- 8; 12 R364; set when formed; `SLOT` -/
  slot : BitVec 8
  /-- 8; 12 R364; set when formed; `STATE_CODE` -/
  stateCode : BitVec 8
  /-- 16; 12 R364; set when formed; `BODY_LEN` -/
  len : Nat
  /-- 16; 12 R364; set when formed; `OPCODE` -/
  opcode : BitVec 16
  /-- 16; 12 R364; set when formed; `STATUS` -/
  status : BitVec 16
  /-- 32; 12 R364; set when formed; `SEQ` -/
  seq : BitVec 32
  /-- 64; 12 R364; set when formed; `T` -/
  t : Nat
  /-- 3456; 12 R364; set when formed; `BODY` -/
  body : BitVec 3456
  /-- 1; 14 R408; set when formed; the result record of FINISH, after which records are sealed -/
  fin : Bool := false
  deriving DecidableEq, Repr

/-- An event that waits for a ring entry (12 R375, R376). -/
structure EvWait where
  /-- 16; 12 R375; set when formed; `EVT_CODE` -/
  code : Nat
  /-- 8; 12 R375; set when formed; `OBJ_KIND` -/
  objKind : Nat
  /-- 32; 12 R375; set when formed; `OBJECT` -/
  obj : Nat
  /-- 7; 12 R375; set when formed; `CTX`, none when `CTX_VALID` is 0 -/
  ctx : Option Nat
  /-- 3328; 12 R375; set when formed; `DATA` -/
  data : BitVec 3328
  /-- 32; 12 R376; 1; `COUNT` -/
  count : Nat := 1
  /-- 64; 12 R364; set when formed; `T` -/
  t : Nat
  deriving DecidableEq, Repr

/-- Keys of a keyed session (14 R407, R408). -/
structure SessKeys where
  /-- 256; 14 R408; set at FINISH; request-direction application data key -/
  reqKey : BitVec 256
  /-- 96; 14 R408; set at FINISH; request-direction IV -/
  reqIv : BitVec 96
  /-- 256; 14 R408; set at FINISH; response-direction application data key -/
  rspKey : BitVec 256
  /-- 96; 14 R408; set at FINISH; response-direction IV -/
  rspIv : BitVec 96
  /-- 64; 14 R408; 0 at FINISH; requests taken under the key -/
  slotCtr : BitVec 64 := 0
  /-- 64; 14 R408; 0 at FINISH; records written under the key -/
  recCtr : BitVec 64 := 0
  deriving DecidableEq, Repr

/-- An SPDM request that arrives in chunks (14 R405). -/
structure ChunkIn where
  /-- 8; 14 R405; from the first chunk; handle -/
  handle : BitVec 8
  /-- 16; 14 R405; set at each chunk; sequence number of the next chunk -/
  next : Nat
  /-- 32; 14 R405; from the first chunk; size of the whole message -/
  total : Nat
  /-- list; 14 R405; from the chunks; bytes so far -/
  got : List (BitVec 8)
  deriving DecidableEq, Repr

/-- An SPDM answer that leaves in chunks (14 R405). -/
structure ChunkOut where
  /-- 8; 14 R405; set when the answer is formed; handle -/
  handle : BitVec 8
  /-- 16; 14 R405; 0; sequence number of the next chunk -/
  next : Nat := 0
  /-- list; 14 R405; set when the answer is formed; bytes still to be sent -/
  rest : List (BitVec 8)
  deriving DecidableEq, Repr

/-- An Aidar session (12 R360 to R376). -/
structure Sess where
  /-- 3; 12 R360; set at the connection; Ethernet port -/
  port : Nat
  /-- 64; 12 R360; set at the connection; ring virtual address -/
  ringVa : BitVec 64
  /-- 32; 12 R360; set at the connection; ring R_Key -/
  rkey : BitVec 32
  /-- 4; 12 R360; set at the connection; log2 of the ring entries -/
  log2 : Nat
  /-- 24; 12 R355; set at the connection; number of the session queue pair -/
  qpn : Nat := 0
  /-- 32; 12 R360; set at the connection; R_Key of the mailbox area -/
  areaKey : BitVec 32 := 0
  /-- 32; 12 R361; 0; `RING_CONSUMER` -/
  consumer : BitVec 32 := 0
  /-- 32; 12 R364; 0; records written to the ring, free-running -/
  written : BitVec 32 := 0
  /-- 32 x 4096; 12 R362; 0; request slots -/
  slots : SMap (BitVec 4096) := []
  /-- 32; 12 R362; 0; slots that hold a posted request -/
  posted : BitVec 32 := 0
  /-- 32; 12 R363; none until the first request; next expected `SEQ` -/
  nextSeq : Option (BitVec 32) := none
  /-- 1; 12 R368, R370; 0; HELLO has completed -/
  helloDone : Bool := false
  /-- 1; 12 R368; 0; the package manager has restarted since the last HELLO -/
  restarted : Bool := false
  /-- 16; 12 R370; 0; agreed minor revision -/
  minor : Nat := 0
  /-- 32; 12 R370; 0; event mask -/
  mask : BitVec 32 := 0
  /-- enum; 14 R400; no role; role and identity -/
  role : Role := .noRole
  /-- struct; 14 R408; none; session keys -/
  keys : Option SessKeys := none
  /-- 1; 14 R408; 0; the result record of FINISH has been written, so records are sealed -/
  sealOn : Bool := false
  /-- struct; 14 R405; none; a request that arrives in chunks -/
  chunkIn : Option ChunkIn := none
  /-- struct; 14 R405; none; an answer that leaves in chunks -/
  chunkOut : Option ChunkOut := none
  /-- 8; 14 R405; DESIGN CHOICE 0 (log 98); handle of the next answer that leaves in chunks -/
  chunkHandle : BitVec 8 := 0
  /-- 2; 14 R407; 0; progress of the key exchange: 0 none, 1 KEY_EXCHANGE done, 2 chain verified -/
  handshake : Nat := 0
  /-- 768; 14 R400; 0 until the chain is verified; key in which the requester's chain ends -/
  chainEnd : BitVec 768 := 0
  /-- 768; 14 R400; 0 until the chain is verified; public key of the chain's leaf -/
  chainLeaf : BitVec 768 := 0
  /-- list; 12 R366; empty; requests taken and without a result record -/
  reqs : List Req := []
  /-- list; 12 R364; empty; acknowledgements and results that wait for a ring entry, oldest first -/
  results : List Record := []
  /-- 4,096 events; 12 R376; empty; waiting events, oldest first -/
  events : List EvWait := []
  /-- 32; 12 R376; 0; `COUNT` of the waiting EVT_OVERFLOW record, 0 when none waits -/
  overflow : Nat := 0
  /-- 64; 12 R362; 0; `SLOT_ERR` -/
  slotErr : BitVec 64 := 0
  /-- 1; 12 R371; 0; BYE has completed -/
  bye : Bool := false
  /-- 1; 12 (coincidences); 0; the session has ended, and its commands taken run to completion without records -/
  closed : Bool := false
  deriving DecidableEq, Repr

/-! ### Managers, images and the repair record -/

/-- An image in a flash slot (14 R401). -/
structure Image where
  /-- 512; 14 R401; written by FW_STAGE; header -/
  header : BitVec 512
  /-- at most 64 MiB; 14 R401; written by FW_STAGE; payload, byte by byte -/
  payload : List (BitVec 8) := []
  /-- 768; 14 R401; written by FW_STAGE; ECDSA P-384 signature -/
  ecdsa : BitVec 768 := 0
  /-- 14176; 14 R401; written by FW_STAGE; LMS signature -/
  lms : BitVec 14176 := 0
  deriving DecidableEq, Repr

/-- An image class (13 R386 to R390). -/
structure FwClass where
  /-- struct; 13 R386; DESIGN CHOICE version 1, SVN 0, no payload, signatures 0 (log 9); image in slot A -/
  slotA : Option Image
  /-- struct; 13 R386; DESIGN CHOICE the same (log 9); image in slot B -/
  slotB : Option Image
  /-- 1; 13 R390; DESIGN CHOICE A (log 9); `BOOT_SLOT`: false A, true B -/
  bootSlot : Bool := false
  /-- 1; 13 R387; 0; `STAGED` -/
  staged : Bool := false
  /-- 2; 13 R390; 0; `ACT`: 0 none, 1 in progress, 2 deferred -/
  act : Nat := 0
  /-- list; 13 R388; empty; dies still to be restarted on the staged slot, ascending -/
  todo : List Nat := []
  /-- list; 13 R388; empty; dies of the wave in progress -/
  wave : List Nat := []
  /-- 1; 13 R389, R390; 0; waves of the activation have been cancelled -/
  cut : Bool := false
  /-- 64; 13 R389; 0; tide at which the activation window ends -/
  windowEnd : Nat := 0
  /-- 64; 14 R403; DESIGN CHOICE 0 (log 9); burned fuse bits, the anti-rollback count -/
  arb : Nat := 0
  deriving DecidableEq, Repr

/-- The registers of an RV64GC core (13 R377; those of the unprivileged architecture, log 79). -/
structure MgrCore where
  /-- 64; 13 R377; DESIGN CHOICE 0 (log 79); program counter -/
  pc : BitVec 64 := 0
  /-- 31 x 64; 13 R377; DESIGN CHOICE 0 (log 79); integer registers `x1` to `x31` -/
  x : SMap (BitVec 64) := []
  /-- 32 x 64; 13 R377; DESIGN CHOICE 0 (log 79); floating registers `f0` to `f31` -/
  f : SMap (BitVec 64) := []
  /-- 8; 13 R377; DESIGN CHOICE 0 (log 79); CSR `fcsr` -/
  fcsr : BitVec 8 := 0
  deriving DecidableEq, Repr

/-- A manager core: a die manager, or the package manager (13 R377 to R394). -/
structure Mgr where
  /-- 3; 13 R394; 0 (held in reset); `MSTATE` -/
  st : MgrSt := .held
  /-- 1; 13 R394; DESIGN CHOICE A (log 9); `SLOT` -/
  slot : Bool := false
  /-- 1; 13 R391; 0; `STALE` -/
  stale : Bool := false
  /-- 32; 13 R394; 0; `CRASHES` -/
  crashes : Nat := 0
  /-- list; 13 R392; empty; tides of the crashes of the trailing 10 min -/
  crashAt : List Nat := []
  /-- 64; 13 R390; 0; tide at which it started on its present image -/
  startAt : Nat := 0
  /-- 1; 13 R390; none; the slot to fall back to while a new image is on trial -/
  trial : Option Bool := none
  /-- 1; 13 R390; 0; it failed once during the wave that started it on its trial image -/
  failedOnce : Bool := false
  /-- 1; 13 R390; 0; its trial image failed, and its return to the previous slot is due -/
  rollBack : Bool := false
  /-- 1; 13 R381, R384; 0; it runs the image of the slot that is not recorded (FALLBACK) -/
  fallback : Bool := false
  /-- 384; 14 R404; 0; measurement of the image it runs -/
  meas : BitVec 384 := 0
  /-- struct; 13 R377; see `MgrCore`; the core's registers -/
  core : MgrCore := {}
  /-- 512 KiB, 4 MiB for the package manager; 13 R377; DESIGN CHOICE 0 (log 79); SRAM -/
  sram : Mem := []
  deriving DecidableEq, Repr

/-- Health of a part (16 R470, R471). -/
structure HealthRec where
  /-- 32; 16 R470; +0; S, FP32 -/
  score : BitVec 32 := 0
  /-- 2; 16 R471; GOOD; state -/
  st : HealthSt := .good
  /-- 4; 16 R471; 0 (score); `CAUSE` -/
  cause : HealthCause := .score
  /-- 64; 16 R471; 0; `T_CHANGE` -/
  changed : Nat := 0
  /-- 64; 16 R471; none; tide of the last direct cause -/
  directAt : Option Nat := none
  /-- 64; 16 R469; none; tide since which a margin has been in WATCH, or was last -/
  marginAt : Option Nat := none
  deriving DecidableEq, Repr

/-- The repair record (17 R483). -/
structure Repair where
  /-- 32; 17 R483; DESIGN CHOICE 0 (log 9); sequence number of the copy -/
  seq : Nat := 0
  /-- 1; 17 R483; 1; the copy's check passes -/
  valid : Bool := true
  /-- 480 x 9; 01 R39; at manufacture R37 with the spare dies of log 4; remap table -/
  remap : List Nat
  /-- 16; 01 R40; DESIGN CHOICE 0 (log 4); generation -/
  gen : BitVec 16 := 0
  /-- 1; 01 R40; DESIGN CHOICE 0 (log 4); active bank -/
  bank : Bool := false
  /-- 64 x 2; 01 R40; SPARE on the spare dies of log 4, ENABLED elsewhere; `C_STATE` -/
  cstate : List CState
  /-- list; 17 R483; empty; physical tiles that can no longer be used -/
  unusable : List Nat := []
  /-- list; 17 R482, R483; empty; SRAM repairs: (die, count) -/
  sram : List (Nat × Nat) := []
  /-- list; 17 R483; empty; soft repairs by device -/
  soft : List (Nat × List (Nat × Nat × Nat)) := []
  /-- list; 17 R483; empty; spared lines by device -/
  lines : List (Nat × List Nat) := []
  /-- list; 17 R483; empty; retired frames by device -/
  frames : List (Nat × List Nat) := []
  /-- 89 x 1; 17 R483; DESIGN CHOICE A (log 9); recorded slot of each die, and of the package manager at 88 -/
  slots : List Bool
  /-- list; 16 R470; empty; health by object ID -/
  health : SMap HealthRec := []
  /-- 12; 13 R383; 0; torus ports recorded as fenced -/
  fenced : BitVec 12 := 0
  deriving DecidableEq, Repr

/-! ### Dies and power -/

/-- A die: its state, its manager and its weir (01 R22, 13, 15, 17). -/
structure Die where
  /-- 2; 01 R40; ENABLED, SPARE on the spare dies (log 4); `C_STATE` of a C-die -/
  cstate : CState := .enabled
  /-- 1; 17 R474; 0; an M-die or P-die is fenced -/
  fenced : Bool := false
  /-- 1; 01 R28; 0; the router of a C-die has failed -/
  routerFailed : Bool := false
  /-- struct; 13 R394; see `Mgr`; die manager -/
  mgr : Mgr := {}
  /-- 3; 17 R477; none; kind of the BIST run in progress -/
  bist : Option Nat := none
  /-- 1; 17 R478; 0; that run applies the SRAM repairs it finds -/
  bistRepair : Bool := false
  /-- list; 17 R480; empty; BIST kinds passed since the last fence with repairs applied -/
  bistPassed : List Nat := []
  /-- 4 x 64; 01 R26, 16 R457; 0; `FORD_RETRY` of the die's fords: north, east, south, west -/
  fordRetry : List (BitVec 64) := List.replicate 4 0
  /-- 32; 17 R482; 0; SRAM repairs that take effect at the next release -/
  sramPending : Nat := 0
  /-- 16; 15 R433; 0; `ALLOC`, in 0.1 W -/
  alloc : Nat := 0
  /-- 16; 15 R433; 0; serial of the last allocation received -/
  allocSerial : BitVec 16 := 0
  /-- 64; 15 R434; 0; tide of the last allocation -/
  allocAt : Nat := 0
  /-- 1; 15 R434; 0; `STALE_ALLOC` -/
  staleAlloc : Bool := false
  /-- 16; 15 R433; 0; `USE`, in 0.1 W -/
  use : Nat := 0
  /-- 16; 15 R433; 0; `DEMAND`, in 0.1 W -/
  demand : Nat := 0
  /-- 8 x 16; 15 R433; 0; `TILE_SHARE` of the eight tiles, in 0.1 W -/
  share : List Nat := List.replicate 8 0
  /-- 8 x 8; 15 R428; 0; stretch of each tile, in 1/256 -/
  stretch : List Nat := List.replicate 8 0
  /-- 8; 15 R437; 0; largest stretch over the last 100 us -/
  stretchMax : Nat := 0
  /-- 8; 15 R437; 0; `TJ`, signed degrees C -/
  tj : Int := 0
  /-- 4; 15 R437; 0; `CAUSE` of stretching: tile budget, temperature, rail slack, panel limit -/
  wcause : BitVec 4 := 0
  /-- 1; 15 R439; 0; `TRIP` -/
  trip : Bool := false
  /-- 4 x 17; 16 R469; 0; consecutive slack reports of each voltage domain below its `WATCH` threshold -/
  slackBad : List Nat := List.replicate 4 0
  /-- 1; 15 R438; 0; `EMERG` -/
  emerg : Bool := false
  /-- 2 x 9; 15 R429; empty; physical tiles that hold a die token -/
  tokens : List Nat := []
  /-- list; 15 R429; empty; tiles that wait for a die token, oldest first -/
  tokenWait : List Nat := []
  deriving DecidableEq, Repr

/-- The weir and the power state of the module (15). -/
structure Power where
  /-- 16; 15 R431; 14,000; `ENVELOPE`, E in W -/
  envelope : Nat := 14000
  /-- 16; 15 R440 registers; 0; `AVG_100MS`, in W -/
  avg100 : Nat := 0
  /-- 16; 15 R440 registers; 0; `PEAK_1US`, in W -/
  peak1 : Nat := 0
  /-- 16; 15 R440 registers; 0; largest 1 us average since `PEAK_1US` was updated, in W -/
  peakRun : Nat := 0
  /-- 16 x 9; 15 R429; empty; tiles that hold a panel token (PANEL_TOKENS is 16 less their number) -/
  panel : List Nat := []
  /-- list; 15 R429; empty; tiles that wait for a panel token, oldest first -/
  panelWait : List Nat := []
  /-- 1; 15 R440 registers; 0; `INPUT_RANGE`: the main input is outside 46 to 56 V -/
  inputRange : Bool := false
  /-- 1; 15 R438; 0; `EMERG`: the weir is in emergency -/
  emerg : Bool := false
  /-- 1; 15 R438; 0; an emergency condition of the module (input power, current, voltage) holds -/
  inputEmerg : Bool := false
  /-- 64; 13 R382; 0; tide at which the emergency began -/
  emergAt : Nat := 0
  /-- 1; 13 R380, 18 R499; 1; the standby input is present -/
  stbyOn : Bool := true
  /-- 1; 13 R380, 18 R496; DESIGN CHOICE 1 (log 7); the main input is present -/
  mainOn : Bool := true
  /-- 1; 15 R440; 0; the main conversion runs -/
  convOn : Bool := false
  /-- 16 x 2; 17 R493; 1 (half power) each; laser sources: 0 absent, 1 half power, 2 full power -/
  lasers : List Nat := List.replicate 16 1
  deriving DecidableEq, Repr

/-- Tide and its servo (15 R442 to R451). -/
structure Time where
  /-- 64; 15 R442; 0; `NS` of `TIDE` -/
  ns : BitVec 64 := 0
  /-- 16; 15 R442; 0; `FRAC` of `TIDE` -/
  frac : BitVec 16 := 0
  /-- 4; 15 R444; 0; rate correction: units of 2^-16 ns added per 0.5 ns, within -6 to 6 (200 ppm) -/
  rate : Int := 0
  /-- 2; 15 R451; UNLOCKED; `SYNC` -/
  sync : SyncSt := .unlocked
  /-- 3; 15 R445; 0 (FREE_RUN); `PTP_ROLE` -/
  ptpRole : Nat := 0
  /-- 2; 15 R445; 0; profile -/
  profile : Nat := 0
  /-- 8; 15 R445; 0; PTP domain number -/
  domain : BitVec 8 := 0
  /-- 4; 15 R445; 0; mask of network B ports -/
  portMask : BitVec 4 := 0
  /-- 2; 15 R445; 0 (none); `TORUS_ROLE` -/
  torusRole : Nat := 0
  /-- 12; 15 R445; 0; `ROOT` -/
  root : BitVec 12 := 0
  /-- 16; 15 R445; 0; BMCA priority1 and priority2 -/
  prio : BitVec 16 := 0
  /-- 8; 15 R445; 0; clock class while the inputs are valid -/
  clockClass : BitVec 8 := 0
  /-- 4; 15 R451; 0xF; `PARENT_PORT` -/
  parent : Nat := 15
  /-- 24; 15 R451; 0; `OFFSET`, in 1/16 ns -/
  offset : Int := 0
  /-- 16; 15 R449; 0; number of the next request -/
  reqId : BitVec 16 := 0
  /-- 96; 15 R449; none; the request in flight: its number and transmit stamp, in 2^-16 ns -/
  inFlight : Option (BitVec 16 × Nat) := none
  /-- 16 values; 15 R449; empty; offsets of the filter, in 2^-16 ns -/
  filter : List Int := []
  /-- 7; 15 R448; 0; consecutive exchanges with an offset below 2 ns -/
  good : Nat := 0
  /-- 1; 15 R444; 0; the one forward step out of `UNLOCKED` has been made, or was not needed -/
  stepped : Bool := false
  /-- 1; 15 R425; 0; the reference is locked to `REF10M_IN` -/
  ref10m : Bool := false
  /-- 1; 18 R501; 0; `REF10M_IN` is valid -/
  refValid : Bool := false
  /-- 3; 18 R501; 0; consecutive good intervals of `PPS_IN` edges -/
  ppsGood : Nat := 0
  /-- 64; 18 R501; none; tide of the last `PPS_IN` edge -/
  ppsAt : Option Nat := none
  /-- 64; 14 R413; 0; sealing generation of the last packet counts -/
  sealGen : Nat := 0
  deriving DecidableEq, Repr

/-! ### Telemetry -/

/-- A gauge of one object (16 R453, R456). -/
structure Gauge where
  /-- 64; 16 R453; 0; `COUNT` -/
  count : BitVec 64 := 0
  /-- 64; 16 R453; 0; `SUM` -/
  sum : BitVec 64 := 0
  /-- 64; 16 R454; 0x7FFF_FFFF_FFFF_FFFF; `MIN` -/
  min : BitVec 64 := 0x7FFFFFFFFFFFFFFF
  /-- 64; 16 R454; 0x8000_0000_0000_0000; `MAX` -/
  max : BitVec 64 := 0x8000000000000000
  /-- 32 x 48; 16 R453; 0; `BIN` -/
  bins : List (BitVec 48) := List.replicate 32 0
  deriving DecidableEq, Repr

/-- A pending snapshot series (16 R464). -/
structure Series where
  /-- 64; 16 R464; set by SNAPSHOT_SCHEDULE; next instant -/
  t : Nat
  /-- 16; 16 R464; set by SNAPSHOT_SCHEDULE; instants left -/
  n : Nat
  /-- 64; 16 R464; set by SNAPSHOT_SCHEDULE; period in ns -/
  p : Nat
  deriving DecidableEq, Repr

/-- A shadow bank (16 R465). -/
structure Shadow where
  /-- 32; 16 R465; 0; generation copied -/
  gen : Nat := 0
  /-- 64; 16 R465; 0; the instant -/
  t : Nat := 0
  /-- list; 16 R465; zero; counters, at ID · 2^32 + object -/
  counters : SMap (BitVec 64) := []
  /-- list; 16 R465; at their clearing values; gauges, at ID · 2^32 + object -/
  gauges : SMap Gauge := []
  /-- list; 16 R465; zero; W1C flag registers by address -/
  flags : SMap (BitVec 32) := []
  /-- list; 16 R465; zero; step state: `STEP_STAT` by context -/
  steps : SMap (BitVec 32) := []
  /-- 1; 16 R466; 0; tide was not `LOCKED` at the instant -/
  unlocked : Bool := false
  /-- list; 16 R467; empty; records still to be formed, as (slot of the subscription, gauge or counter ID, object) -/
  due : List (Nat × Nat × Nat) := []
  deriving DecidableEq, Repr

/-- A distance-to-limit measure of one object (16 R472, R473). -/
structure Limit where
  /-- 32; 16 R473; 0; `TOTAL` -/
  total : BitVec 32 := 0
  /-- 32; 16 R473; 0; `COUNTED` -/
  counted : BitVec 32 := 0
  /-- 32; 16 R473; 0; `BELOW` -/
  below : BitVec 32 := 0
  /-- 32; 16 R473; DESIGN CHOICE +0 (log 10); `FRACTION` of the last counted interval -/
  fraction : BitVec 32 := 0
  /-- 32; 16 R473; DESIGN CHOICE +0 (log 10); `FACTOR` of the last counted interval -/
  factor : BitVec 32 := 0
  deriving DecidableEq, Repr

/-- Telemetry (16). -/
structure Telem where
  /-- list; 16 R457; empty (each gauge at its clearing values); gauges, at ID · 2^32 + object -/
  gauges : SMap Gauge := []
  /-- list; 16 R464; empty; pending series, at most 16 -/
  series : List Series := []
  /-- 32; 16 R465; 1; GEN of the next snapshot -/
  gen : Nat := 1
  /-- 64; 16 R466; none; instant of the last snapshot taken -/
  lastSnap : Option Nat := none
  /-- list; 00 R18; empty; flags that software has cleared since the earliest instant that is due: (address, bits) -/
  cleared : List (Nat × BitVec 32) := []
  /-- struct; 16 R465; empty; shadow bank 0 -/
  bank0 : Shadow := {}
  /-- struct; 16 R465; empty; shadow bank 1 -/
  bank1 : Shadow := {}
  /-- 64; 16 R461; 0; `TELEM_LOST` -/
  lost : BitVec 64 := 0
  /-- 64; 16 R466; 0; `SNAP_SKIPPED` -/
  skipped : BitVec 64 := 0
  /-- list; 16 R470; GOOD with S = 0; health by object ID -/
  health : SMap HealthRec := []
  /-- list; 16 R472; zero; measures, at measure · 2^32 + object; the send direction of a port at measure 2, its receive
  direction at measure 18 -/
  limits : SMap Limit := []
  /-- list; 13 R391, 16 R463; empty; what was collected last from each die whose manager is restarting -/
  held : SMap Shadow := []
  /-- 24; 09 R282; 100,000; flow-gauge window in ns -/
  flowWindow : Nat := 100000
  /-- 64; 09 R282; 0; start of the present flow-gauge window -/
  flowStart : Nat := 0
  /-- 6; 16 R462; 0; place of the rotation among subscriptions -/
  rotation : Nat := 0
  deriving DecidableEq, Repr

/-! ### Security and the baseboard -/

/-- An ownership certificate (14 R399). -/
structure OwnerCert where
  /-- 32; 14 R399; from the sealed store; issue number -/
  issue : BitVec 32
  /-- 768; 14 R399; from the sealed store; operator root public key -/
  key : BitVec 768
  deriving DecidableEq, Repr

/-- A certificate of the module's chain (14 R398). -/
structure Cert where
  /-- 768; 14 R398; DESIGN CHOICE 0 (log 11); subject public key -/
  subject : BitVec 768 := 0
  /-- 768; 14 R398; DESIGN CHOICE 0 (log 11); signature of the issuer -/
  signature : BitVec 768 := 0
  deriving DecidableEq, Repr

/-- Security state of the module (14). -/
structure Sec where
  /-- 384; 14 R398; DESIGN CHOICE 0 (log 11); unique device secret, in fuses -/
  secret : BitVec 384 := 0
  /-- struct; 14 R398; see `Cert`; certificate of the Penua root -/
  rootCert : Cert := {}
  /-- struct; 14 R398; see `Cert`; certificate of the Kybin manufacturing CA -/
  caCert : Cert := {}
  /-- 768; 14 R398; DESIGN CHOICE 0 (log 11); the manufacturing CA's signature of the device identity, in flash -/
  idSig : BitVec 768 := 0
  /-- 384 + struct; 14 R398; none until boot step 1; alias key, and its certificate -/
  aliasKey : Option (BitVec 384 × Cert) := none
  /-- struct; 14 R399; DESIGN CHOICE none (log 11); ownership certificate in effect -/
  owner : Option OwnerCert := none
  /-- struct; 14 R399; none; newer certificate stored (OWNER_PENDING) -/
  pending : Option OwnerCert := none
  /-- 6; 14 R420; none; session that opened the debug session (DEBUG_OPEN) -/
  debug : Option Nat := none
  /-- 1; 14 R420; 0; `DEBUG_SEEN` -/
  debugSeen : Bool := false
  /-- 256; 14 R416; none; fabric key -/
  fabricKey : Option (BitVec 256) := none
  /-- 64; 14 R399, 18 R503; DESIGN CHOICE 1 (log 11); module serial -/
  serial : BitVec 64 := 1
  /-- 4 x 37; 14 R414; 0; packet count of each P-die in the generation -/
  sealCount : List Nat := List.replicate 4 0
  /-- 4 x 64; 14 R415; 0; `SEAL_FAIL` of each P-die -/
  sealFail : List (BitVec 64) := List.replicate 4 0
  /-- 4 x 64; 10 R318; 0; `EPOCH_STALE` of each P-die -/
  epochStale : List (BitVec 64) := List.replicate 4 0
  /-- 1; 14 R494; 0 (blown before shipment); the manufacturing fuse is intact -/
  mfgFuse : Bool := false
  deriving DecidableEq, Repr

/-- The baseboard link (18 R502, R503). -/
structure Bb where
  /-- 8; 18 R502; DESIGN CHOICE 0 (log 12); read offset -/
  offset : BitVec 8 := 0
  /-- 7; 18 R502; none; dynamic address -/
  dynAddr : Option (BitVec 7) := none
  /-- 1; 18 R502; DESIGN CHOICE 1 (log 12); in-band interrupts are enabled -/
  ibiOn : Bool := true
  /-- 8; 18 R503; 0x80; highest junction reading as updated last -/
  tjMax : BitVec 8 := 0x80
  /-- 16; 18 R503; DESIGN CHOICE 0 (log 12); `MAIN_V` as updated last -/
  mainV : BitVec 16 := 0
  /-- 16; 18 R503; DESIGN CHOICE 0 (log 12); `MAIN_I` -/
  mainI : BitVec 16 := 0
  /-- 16; 18 R503; DESIGN CHOICE 0 (log 12); `STBY_V` -/
  stbyV : BitVec 16 := 0
  /-- 16; 18 R503; DESIGN CHOICE 0 (log 12); `INPUT_W` -/
  inputW : BitVec 16 := 0
  /-- 16; 18 R503; DESIGN CHOICE 0 (log 12); `COOL_IN` -/
  coolIn : BitVec 16 := 0
  /-- 16; 18 R503; DESIGN CHOICE 0 (log 12); `COOL_OUT` -/
  coolOut : BitVec 16 := 0
  deriving DecidableEq, Repr

/-- How far a sparing has come (17 R485 to R487). -/
inductive SparePh where
  /-- the target is being prepared (R485) -/
  | preparing
  /-- prepared; the move is due -/
  | ready
  /-- the copy, or the clearing and loading of the target, is complete; the change of binding is due -/
  | copied
  /-- the binding is changing, with traffic held (01 R41) -/
  | binding
  deriving DecidableEq, Repr

/-- A sparing under way (17 R484 to R487). -/
structure Sparing where
  /-- 7; 17 R484; set at the start; source C-die -/
  src : Nat
  /-- 3; 17 R484; set at the start; tile of the source, none for a whole-die move -/
  tile : Option Nat
  /-- 7; 17 R484; set at the start; target C-die -/
  target : Nat
  /-- 3; 01 R40; set with the target; tile of the target that a single-tile move takes -/
  place : Nat := 0
  /-- 1; 17 R484; set at the start; warm (else cold) -/
  warm : Bool
  /-- 1; 17 R486, 11 R348; set at the start; a warm move that starts at a close -/
  atClose : Bool := false
  /-- 1; 17 R486; 0; the close it starts at has completed -/
  closeSeen : Bool := false
  /-- enum; 17 R485; preparing; phase -/
  phase : SparePh := .preparing
  /-- list; 17 R485; set at the start; target chosen by the command, so that no other die is tried -/
  fixedTarget : Bool := false
  deriving DecidableEq, Repr

/-- The package (13 R380 to R394). -/
structure Pkg where
  /-- 3; 13 R380; STANDBY; `STATE` -/
  st : PkgSt := .standby
  /-- 4; 13 R383; 0; `BOOT_STEP` -/
  bootStep : Nat := 0
  /-- 3; 13 R382; 0; `SAFE_WHY`: weir emergency, junction trip, main input -/
  safeWhy : BitVec 3 := 0
  /-- 1; 13 R385; strap, DESIGN CHOICE P0 (log 7); `PRIMARY` -/
  primary : Bool := false
  /-- 1; 18 R499; DESIGN CHOICE low (log 7); pin `PRIMARY_SEL`, as sampled last -/
  primarySel : Bool := false
  /-- 1; 18 R499; DESIGN CHOICE low (asserted) (log 7); pin `MOD_RESET_N` is high -/
  resetHigh : Bool := false
  /-- 1; 13 R380, 18 R499; 0; `ALERT_N` is asserted -/
  alert : Bool := false
  /-- 1; 15 R439, 18 R499; 0; `THERM_TRIP_N` is asserted -/
  thermTrip : Bool := false
  /-- 4; 18 R503; 0; `BOOT_FAIL` -/
  bootFail : Nat := 0
  /-- struct; 13 R377; see `Mgr`; package manager -/
  mgr : Mgr := {}
  /-- 1; 13 R394; 0; `PKG_CRASH_LIMIT` -/
  crashLimit : Bool := false
  /-- 6 classes; 13 R386; see `FwClass`; image classes -/
  fw : List FwClass
  /-- 768; 14 R402; DESIGN CHOICE 0 (log 9); Penua image key for ECDSA, in flash -/
  imageKey : BitVec 768 := 0
  /-- 448; 14 R402; DESIGN CHOICE 0 (log 9); Penua image key for LMS, in flash -/
  imageKeyLms : BitVec 448 := 0
  /-- list; 13 R384; empty; events of boot that are posted after step 11 -/
  bootEvents : List EvWait := []
  /-- struct; 17 R483; see `Repair`; repair record on flash device A -/
  flashA : Repair
  /-- struct; 17 R483; see `Repair`; repair record on flash device B -/
  flashB : Repair
  /-- 2 x 512 x 9; 01 R38; restored from flash; remap bank 0: physical tile of each logical tile -/
  bank0 : List Nat
  /-- 2 x 512 x 9; 01 R38; restored from flash; remap bank 1 -/
  bank1 : List Nat
  /-- 1; 01 R40; restored from flash; `ACTIVE_BANK` -/
  activeBank : Bool := false
  /-- 16; 01 R40; restored from flash; `GENERATION` -/
  generation : BitVec 16 := 0
  /-- list; 01 R41; empty; logical tiles held while the binding changes -/
  remapHold : List Nat := []
  /-- list; 17 R484 to R487; empty; sparings under way -/
  sparings : List Sparing := []
  /-- 1; 01 R28; 0; the whole module is out of service after a router failure -/
  outOfService : Bool := false
  deriving DecidableEq, Repr

/-- Partition and fabric registers (11). -/
structure Part where
  /-- 32; 11 R322; 0; `FAB_CFG` -/
  fabCfg : BitVec 32 := 0
  /-- 64; 11 R323; 0; `PART_CFG` -/
  partCfg : BitVec 64 := 0
  /-- 12; 11 R340; 0; `LEVEE_STAT`.`UP` -/
  levee : BitVec 12 := 0
  /-- 4; 11 R348; 0; `PART_EVT`: FOREIGN, FAULT_SCOPE, NEIGHBOUR_LOST, FAULT_SEEN -/
  evt : BitVec 4 := 0
  /-- 4; 11 R348; 0; `PART_EVT_EN` -/
  evtEn : BitVec 4 := 0
  /-- 4 x 64; 11 R348; 0; occurrence counters, the first being `PTAG_FOREIGN` -/
  counts : List (BitVec 64) := List.replicate 4 0
  /-- list; 11 R333; empty; last accepted `ISSUE` of each owner tag -/
  issues : SMap (BitVec 32) := []
  /-- 6; 11 R343; 0; directions whose neighbour has been declared lost: X+, X-, Y+, Y-, Z+, Z- -/
  lost : BitVec 6 := 0
  deriving DecidableEq, Repr

/-- A fault that the fault scope of the partition acts on (11 R342). -/
structure ScopeFault where
  /-- enum; 11 R342; set at the fault; class: 0 C-die fault, 1 uncorrectable tier read, 2 M-die or P-die, 3 neighbour
  lost, 4 `COLL_ABORTED` received with `ST_HW_FAULT`, 5 C-die marked `SUSPECT` -/
  cls : Nat
  /-- 6; 11 R342; set at the fault; context of the fault, none where a die or a neighbour failed -/
  ctx : Option Nat
  /-- 7; 11 R345; set at the fault; die of the fault, none where no die is at fault -/
  die : Option Nat
  deriving DecidableEq, Repr

/-! ### What leaves the module -/

/-- A message that the module has sent on one of its attachments, kept in order. -/
inductive Out where
  /-- 12 R360: a connection is accepted on a queue pair, with the mailbox address, its R_Key and the session number -/
  | cmAccept (port qp : Nat) (mailbox : BitVec 64) (rkey : BitVec 32) (session : Nat)
  /-- 12 R360: a connection is rejected with the reason "no resources" -/
  | cmReject (port : Nat)
  /-- 12 R356: the connection of a data queue pair is accepted -/
  | qpAccept (qp : Nat)
  /-- 12 R364: ring record `image` written at ring entry `entry` of session `session` -/
  | record (session : Nat) (entry : Nat) (image : BitVec 4096)
  /-- 12 R356, R357, 14 R411: a NAK on a queue pair: 1 invalid request, 2 remote access, 3 remote operation -/
  | nak (qp : Nat) (code : Nat)
  /-- 12 R357: an RDMA WRITE is acknowledged -/
  | rdmaAck (qp : Nat)
  /-- 14 R411: the ciphertext lines of an RDMA READ -/
  | rdmaData (qp : Nat) (lines : List (BitVec 512))
  /-- 13 R387: an RDMA READ on a session's queue pair: address, R_Key and length -/
  | rdmaRead (qp va rkey len : Nat)
  /-- 09 R254: a frame with its trailer -/
  | frame (port : Nat) (slots : List (BitVec 512)) (trailer : BitVec 256)
  /-- 16 R462: a telemetry datagram -/
  | datagram (port : Nat) (udp : Nat) (addr pre : BitVec 128) (records : List (BitVec 2048))
  /-- 18 R502: bytes of an I3C private read or of a common command -/
  | i3c (bytes : List (BitVec 8))
  /-- 18 R503: an in-band interrupt on the I3C pair -/
  | i3cIbi
  /-- 18 R502: a NACK on the I3C pair -/
  | i3cNack
  /-- 17 R494: bits of the IEEE 1149.1 data register -/
  | tdo (bits : BitVec 32)
  /-- 15 R447: a rising edge of `PPS_OUT` -/
  | ppsOut (t : Nat)
  /-- 15 R446: a PTP event message, with its stamp in 0.5 ns -/
  | ptp (port : Nat) (stamp : Nat) (correction : BitVec 64)
  /-- 15 R433: an allocation sent to a die -/
  | alloc (die : Nat) (watts : Nat) (serial : BitVec 16)
  /-- 15 R433: a report of a die manager to the package manager -/
  | report (die : Nat) (use demand stretch : Nat) (serial : BitVec 16)
  /-- 12 R354: sending stops (or resumes) on a priority -/
  | paused (port : Nat) (prio : Nat) (on : Bool)
  /-- 12 R354: a PFC pause is sent for a priority -/
  | pfcPause (port : Nat) (prio : Nat)
  /-- 12 R354: a CNP is sent for a queue pair -/
  | cnp (port qp : Nat)
  /-- 12 R353: an ARP reply: the port's MAC address for its IPv4 address -/
  | arpReply (port : Nat) (mac : BitVec 48) (addr : BitVec 32)
  /-- 12 R353: a neighbour advertisement: the port's MAC address for one of its IPv6 addresses -/
  | neighbour (port : Nat) (mac : BitVec 48) (addr : BitVec 128)
  /-- 12 R353: an echo reply to an address (IPv4 addresses mapped) with the data of the request -/
  | echoReply (port : Nat) (dst : BitVec 128) (data : List (BitVec 8))
  deriving DecidableEq, Repr

/-! ### The whole state -/

/-- The module (all of it), the commands that wait, and the model's own counter of free values. -/
structure State where
  /-- list; block model; empty; commands that wait, first in first out -/
  pending : List Instr := []
  /-- unbounded; the model's own; DESIGN CHOICE 0 (log 13); number of free values used -/
  draw : Nat := 0
  /-- list; 00 to 18 (the module's attachments); empty; what the module has sent, oldest first -/
  out : List Out := []
  /-- struct; 13 R380; see `Pkg`; package -/
  pkg : Pkg
  /-- 88 dies; 01 R22; see `Die`; dies -/
  dies : List Die
  /-- 512 tiles; 01 R33; each as `Tile` has it; physical tiles that differ from their reset state -/
  tiles : SMap Tile := []
  /-- 64 contexts; 06 R158; none; contexts that exist -/
  ctxs : SMap Ctx := []
  /-- struct; 06 R162; see `Handles`; handle slots -/
  handles : Handles := {}
  /-- list; 06 R176, 08 R233, 10 R287; empty; fetched descriptors without a completion record, in fetch order -/
  ops : List Op := []
  /-- unbounded; 06 R176; 0; number of the next fetched descriptor -/
  nextOp : Nat := 0
  /-- list; 06 R186; empty; signals on their way to a home -/
  signals : List Signal := []
  /-- list; 06 R188; empty; reads of sync-space entries in progress -/
  xlates : List XlateRead := []
  /-- list; 04 R121 to R124; empty; millrace messages on their way to a tile -/
  mrMsgs : List MrMsg := []
  /-- unbounded; 06 R188; 0; uses of sync cells, to order their last uses -/
  useCount : Nat := 0
  /-- 4,000 GiB; 08 R43, R219; 0 (windows are zero-filled, 08 R228); Tier F and Tier S, by local address, in clear -/
  tier : Mem := []
  /-- 1 per line; 08 R239; 0; poisoned lines of the tiers, by line number -/
  tierPoison : SMap Bool := []
  /-- 60 devices; 08 R224; see `Device`; memory devices -/
  devices : List Device
  /-- 12 ports; 09 R248; see `Port`; torus ports -/
  ports : List Port
  /-- list; 09 R276; empty; sealed packets delivered to this module, not yet opened, each with its port -/
  rxSealed : List (Nat × Packet) := []
  /-- list; 09 R276; empty; opened packets, not yet served, each with the context whose key opened it -/
  rxOpen : List (Nat × Packet) := []
  /-- list; 11 R342; empty; faults whose class the fault scope has still to act on -/
  scopeDue : List ScopeFault := []
  /-- struct; 11 R322; see `Part`; partition and fabric registers -/
  part : Part := {}
  /-- 8 ports; 12 R351; see `EthPort`; Ethernet ports -/
  eth : List EthPort
  /-- list; 12 R356; none; data queue pairs by number -/
  qps : SMap Qp := []
  /-- 64 sessions; 12 R360; none; open sessions -/
  sess : SMap Sess := []
  /-- unbounded; 12 R367; 0; requests taken -/
  takeOrder : Nat := 0
  /-- struct; 14; see `Sec`; security -/
  sec : Sec := {}
  /-- struct; 15 R431; see `Power`; power -/
  power : Power := {}
  /-- struct; 15 R442; see `Time`; tide -/
  time : Time := {}
  /-- struct; 16; see `Telem`; telemetry -/
  telem : Telem := {}
  /-- struct; 18 R502; see `Bb`; baseboard link -/
  bb : Bb := {}
  deriving DecidableEq, Repr

/-- Why a command stops with a fault: for no reason, since every command of the spec has an effect in every state (a
command that is refused gets the status, record, NAK or counter that the spec gives it, and one that cannot occur has
none), so no constructor stands here. -/
inductive Fault where
  deriving DecidableEq, Repr

/-- Why a command has no meaning in the model. -/
inductive Refusal where
  /-- Raised by an arm of `exec` that has no meaning yet: safe, since nothing is said about that command. -/
  | notModelled (mnemonic : String)
  deriving DecidableEq, Repr

/-! ### The state after reset -/

/-- DESIGN CHOICE (log 4): the dies that leave manufacture as spares. -/
def State.spareDies : List Nat := [60, 61, 62, 63]

/-- The remap table at manufacture (01 R37): logical tile L on physical tile L, since the spares have the highest
numbers. -/
def State.factoryRemap : List Nat := List.range 480

/-- `C_STATE` of the 64 C-dies at manufacture (01 R37, log 4). -/
def State.factoryCState : List CState :=
  (List.range 64).map (fun d => if State.spareDies.contains d then .spare else .enabled)

/-- The repair record at manufacture (17 R483, log 9). -/
def State.factoryRepair : Repair :=
  { remap := State.factoryRemap, cstate := State.factoryCState, slots := List.replicate 89 false }

/-- An image as shipped (log 9): version 1, security version 0; whether it verifies is open. -/
def State.factoryImage (k : Nat) : Image := { header := BitVec.ofNat 512 (0x4B594231 + k * 2 ^ 52 + 2 ^ 64) }

/-- An image class as shipped (log 9). -/
def State.factoryFw (k : Nat) : FwClass := { slotA := some (State.factoryImage k), slotB := some (State.factoryImage k) }

/-- The package at reset (13 R380). -/
def State.resetPkg : Pkg :=
  { fw := (List.range 6).map State.factoryFw, flashA := State.factoryRepair, flashB := State.factoryRepair,
    bank0 := State.factoryRemap, bank1 := State.factoryRemap }

/-- The module right after reset: in STANDBY, with `MOD_RESET_N` low, before the boot sequence of 13 R383. -/
def State.reset : State :=
  { pkg := State.resetPkg
    dies := State.factoryCState.map (fun c => { cstate := c }) ++ List.replicate 24 {}
    devices := List.replicate 60 {}
    ports := List.replicate 12 {}
    eth := List.replicate 8 {} }

end Sys2Proof.Machine
end

