-- ==== Sys2Proof/Machine/Ops.lean ====
section
/-! DEFINITION. The operations that every family shares: access to the parts of the state, handles, status codes,
ring records, events, channel faults, and memory as a context sees it. -/

namespace Sys2Proof.Machine

/-- What a command answers. -/
abbrev Ans := Host.Outcome State Fault Refusal

/-! ### Parts of the state -/

/-- Tide in whole nanoseconds (15 R442). -/
def State.now (s : State) : Nat := s.time.ns.toNat

/-- Physical tile of a logical tile, by the active bank (01 R38, R40). -/
def State.phys (s : State) (l : Nat) : Nat := (if s.pkg.activeBank then s.pkg.bank1 else s.pkg.bank0).getD l 0

/-- A physical tile. -/
def State.tileP (s : State) (p : Nat) : Tile := smGet {} s.tiles p

/-- The physical tile that carries a logical tile. -/
def State.tileL (s : State) (l : Nat) : Tile := s.tileP (s.phys l)

/-- Change a physical tile. -/
def State.modTileP (s : State) (p : Nat) (f : Tile → Tile) : State :=
  { s with tiles := smPutD {} s.tiles p (f (s.tileP p)) }

/-- Change the tile that carries a logical tile. -/
def State.modTileL (s : State) (l : Nat) (f : Tile → Tile) : State := s.modTileP (s.phys l) f

/-- A die. -/
def State.die (s : State) (d : Nat) : Die := s.dies.getD d {}

/-- Change a die. -/
def State.modDie (s : State) (d : Nat) (f : Die → Die) : State := { s with dies := modAt s.dies d f }

/-- A context, if it exists. -/
def State.ctx? (s : State) (c : Nat) : Option Ctx := smGet? s.ctxs c

/-- Change a context that exists. -/
def State.modCtx (s : State) (c : Nat) (f : Ctx → Ctx) : State := { s with ctxs := smMod s.ctxs c f }

/-- Change every context. -/
def State.mapCtx (s : State) (f : Nat → Ctx → Ctx) : State :=
  { s with ctxs := s.ctxs.map (fun e => (e.1, f e.1 e.2)) }

/-- A torus port. -/
def State.port (s : State) (j : Nat) : Port := s.ports.getD j {}

/-- Change a torus port. -/
def State.modPort (s : State) (j : Nat) (f : Port → Port) : State := { s with ports := modAt s.ports j f }

/-- A memory device. -/
def State.dev (s : State) (d : Nat) : Device := s.devices.getD d {}

/-- Change a memory device. -/
def State.modDev (s : State) (d : Nat) (f : Device → Device) : State := { s with devices := modAt s.devices d f }

/-- An Ethernet port. -/
def State.ethPort (s : State) (j : Nat) : EthPort := s.eth.getD j {}

/-- Change an Ethernet port. -/
def State.modEth (s : State) (j : Nat) (f : EthPort → EthPort) : State := { s with eth := modAt s.eth j f }

/-- A session, if it is open. -/
def State.sess? (s : State) (n : Nat) : Option Sess := smGet? s.sess n

/-- Change a session that is open. -/
def State.modSess (s : State) (n : Nat) (f : Sess → Sess) : State := { s with sess := smMod s.sess n f }

/-- An operation in flight. -/
def State.op? (s : State) (id : Nat) : Option Op := s.ops.find? (fun o => o.id == id)

/-- Change an operation in flight. -/
def State.modOp (s : State) (id : Nat) (f : Op → Op) : State :=
  { s with ops := s.ops.map (fun o => if o.id = id then f o else o) }

/-- Send something out of the module. -/
def State.emit (s : State) (o : Out) : State := { s with out := s.out ++ [o] }

/-- Change the package. -/
def State.modPkg (s : State) (f : Pkg → Pkg) : State := { s with pkg := f s.pkg }

/-- Use one free value: its number, and the state that has used it. -/
def State.use (s : State) (k : Nat) : State := { s with draw := s.draw + k }

/-- Number of the primary P-die: P0 or P2 (13 R385). -/
def State.primaryDie (s : State) : Nat := if s.pkg.primary then 86 else 84

/-! ### Status codes (12 R372) and state codes (12 R369) -/

/-- Status codes. -/
inductive Status where
  | ok | accepted | deferred | busy | noResource | badArg | staleHandle | stateConflict | denied | authFailed
  | ifaceMismatch | restarted | hwFault
  deriving DecidableEq, Repr

/-- The value of a status code. -/
def Status.code : Status → BitVec 16
  | .ok => 0x0000 | .accepted => 0x0001 | .deferred => 0x0002 | .busy => 0x0100 | .noResource => 0x0101
  | .badArg => 0x0200 | .staleHandle => 0x0201 | .stateConflict => 0x0300 | .denied => 0x0400
  | .authFailed => 0x0401 | .ifaceMismatch => 0x0500 | .restarted => 0x0501 | .hwFault => 0x0600

/-- Package state code, as `PKG_STATE` holds it (13 R382). -/
def PkgSt.num : PkgSt → Nat
  | .standby => 0 | .boot => 1 | .ready => 2 | .active => 3 | .safe => 4

/-- Context state, 0 to 4 (12 R369: 0x20 and up). -/
def CtxSt.num : CtxSt → Nat
  | .created => 0 | .bound => 1 | .running => 2 | .quiesced => 3 | .destroying => 4

/-- Channel state, as the control block holds it (06 R167). -/
def ChSt.num : ChSt → Nat
  | .idle => 0 | .running => 1 | .stopped => 2 | .faulted => 3

/-- Link state, as `LINK_STAT` holds it (09 R268). -/
def LinkSt.num : LinkSt → Nat
  | .dark => 0 | .training => 1 | .identify => 2 | .quarantine => 3 | .up => 4 | .retrain => 5 | .fenced => 6

/-- Fault causes by value (06 R175; 08 R238; 10 R319). -/
def Cause.num : Cause → Nat
  | .none => 0 | .validation => 1 | .poison => 2 | .satTrapped => 3 | .millraceReject => 4 | .sluiceRange => 5
  | .syncOverflow => 6 | .ringOverrun => 7 | .tileFenced => 8 | .peerLost => 9 | .ucFault => 0xA
  | .window => 0x10 | .remoteRefused => 0x11 | .memUncorrectable => 0x12
  | .sigMismatch => 0x20 | .epochRetired => 0x21 | .collAborted => 0x22 | .collPoison => 0x23

/-! ### Handles (06 R162 to R165) -/

/-- `KIND` of a handle. -/
def hKind (h : W32) : Nat := fieldN h 31 28

/-- `SLOT` of a handle. -/
def hSlot (h : W32) : Nat := fieldN h 27 14

/-- `GEN` of a handle. -/
def hGen (h : W32) : Nat := fieldN h 13 0

/-- The handle of a kind, slot and generation. -/
def mkHandle (kind slot gen : Nat) : W32 := pack 32 [(31, 28, kind), (27, 14, slot), (13, 0, gen)]

/-- Channel kind of an object (06 R162). -/
def HObj.kind : HObj → Nat
  | .chan c => c.kind | .window _ => 4 | .sync _ => 5 | .sub _ => 6 | .grant _ => 7

/-- Context of an object, where it has one. -/
def HObj.ctx? : HObj → Option Nat
  | .chan c => some c.ctx | .window w => some w.ctx | .sync y => some y.ctx | _ => none

/-- Current generation of a slot (06 R163: 1 at cold boot). -/
def Handles.genOf (h : Handles) (slot : Nat) : Nat := smGet 1 h.gen slot

/-- The live object that a handle names, when its generation is current. -/
def State.hobj? (s : State) (h : W32) : Option HObj :=
  if hGen h = s.handles.genOf (hSlot h) then
    match smGet? s.handles.live (hSlot h) with
    | some o => if o.kind = hKind h then some o else none
    | none => none
  else none

/-- The channel with a ring that a handle names. -/
def State.chan? (s : State) (h : W32) : Option Chan :=
  match s.hobj? h with
  | some (.chan c) => some c
  | _ => none

/-- Change a live object. -/
def State.modObj (s : State) (h : W32) (f : HObj → HObj) : State :=
  { s with handles := { s.handles with live := smMod s.handles.live (hSlot h) f } }

/-- Change a channel with a ring. -/
def State.modChan (s : State) (h : W32) (f : Chan → Chan) : State :=
  s.modObj h (fun o => match o with | .chan c => .chan (f c) | o => o)

/-- 06 R163: the free slot that was freed longest ago: slots never used come first, in ascending order. -/
def Handles.nextSlot (h : Handles) : Option (Nat × Handles) :=
  if h.fresh < 16384 then some (h.fresh, { h with fresh := h.fresh + 1 })
  else match h.freed with
    | [] => none
    | x :: xs => some (x, { h with freed := xs })

/-- Create an object: its handle, and the state that holds it; none when no slot is free. -/
def State.newHandle (s : State) (o : HObj) : Option (W32 × State) :=
  match s.handles.nextSlot with
  | none => none
  | some (slot, h) =>
    some (mkHandle o.kind slot (h.genOf slot), { s with handles := { h with live := smPut h.live slot o } })

/-- 06 R163: retire a handle: the slot's generation advances, wrapping from 16,383 to 1. -/
def State.retire (s : State) (h : W32) : State :=
  let slot := hSlot h
  let g := s.handles.genOf slot
  { s with handles := { s.handles with
      live := smErase s.handles.live slot
      gen := smPutD 1 s.handles.gen slot (if g = 16383 then 1 else g + 1)
      freed := s.handles.freed ++ [slot] } }

/-- The handle under which a live object stands. -/
def State.handleAt (s : State) (slot : Nat) (o : HObj) : W32 := mkHandle o.kind slot (s.handles.genOf slot)

/-- The live handles that meet a test. -/
def State.handlesWhere (s : State) (p : HObj → Bool) : List (W32 × HObj) :=
  s.handles.live.filterMap (fun e => if p e.2 then some (s.handleAt e.1 e.2, e.2) else none)

/-- The channels with rings that meet a test, with their handles. -/
def State.chansWhere (s : State) (p : Chan → Bool) : List (W32 × Chan) :=
  s.handles.live.filterMap (fun e =>
    match e.2 with
    | .chan c => if p c then some (s.handleAt e.1 e.2, c) else none
    | _ => none)

/-- The windows of a context, with their handles. -/
def State.windowsOf (s : State) (c : Nat) : List (W32 × Window) :=
  s.handles.live.filterMap (fun e =>
    match e.2 with
    | .window w => if w.ctx = c then some (s.handleAt e.1 e.2, w) else none
    | _ => none)

/-- Who issues a command: 06 R164 lets a session name only the handles of contexts its tenant owns. -/
def roleOwns (s : State) (r : Role) (o : HObj) : Bool :=
  match o with
  | .sub u => match r with
    | .operator => true
    | .tenant i => u.owner == some i
    | .noRole => false
  | .grant _ => r == .operator
  | o => match r, o.ctx? with
    | .tenant i, some c => (match s.ctx? c with | some x => x.owner == i | none => false)
    | _, _ => false

/-- 06 R164: the check of a handle named in a command or descriptor, for a field that takes `kinds`. -/
def checkHandle (s : State) (h : W32) (kinds : List Nat) (owns : HObj → Bool) : Except Status HObj :=
  if h = 0 ∨ kinds.contains (hKind h) = false then .error .badArg
  else match s.hobj? h with
    | none => .error .staleHandle
    | some o => if owns o then .ok o else .error .denied

/-! ### Ring records (12 R364, 14 R408) -/

/-- The 4,096 bits of a ring record, before sealing: `PHASE` is 1 on odd laps. -/
def Record.image (r : Record) (phase : Bool) : Image512 :=
  pack 4096 [(0, 0, b2n phase), (7, 4, r.kind), (39, 32, r.slot.toNat), (47, 40, r.stateCode.toNat),
    (63, 48, r.len), (79, 64, r.opcode.toNat), (95, 80, r.status.toNat), (127, 96, r.seq.toNat), (511, 448, r.t),
    (3967, 512, r.body.toNat)]

/-- 14 R408: the IV of a counter value: the derived IV with the counter exclusive-ORed into its low 8 bytes. -/
def ivOf (iv : BitVec 96) (ctr : W64) : BitVec 96 := iv ^^^ (ctr.setWidth 96)

/-- 14 R408: seal a slot or record image: body encrypted, tag in bits [4095:3968]. -/
def sealImage (k : SessKeys) (img : Image512) : Image512 :=
  let r := Config.gcmSeal k.rspKey (ivOf k.rspIv k.recCtr) 512 (fieldN img 511 0) 3456 (fieldN img 3967 512)
  pack 4096 [(511, 0, fieldN img 511 0), (3967, 512, r.1), (4095, 3968, r.2.toNat)]

/-- Entries of a session's ring. -/
def Sess.ringSize (x : Sess) : Nat := 2 ^ x.log2

/-- 12 R364: the ring has a free entry. -/
def Sess.ringFree (x : Sess) : Bool := decide ((x.written - x.consumer).toNat < x.ringSize)

/-- Write one record into the ring: the session afterwards, and what leaves the module. -/
def Sess.write (x : Sess) (n : Nat) (r : Record) : Sess × Out :=
  let entry := x.written.toNat % x.ringSize
  let phase := (x.written.toNat / x.ringSize) % 2 == 0
  let img := r.image phase
  match x.keys, x.sealOn with
  | some k, true =>
    ({ x with written := x.written + 1, keys := some { k with recCtr := k.recCtr + 1 } },
      .record n entry (sealImage k img))
  | _, _ => ({ x with written := x.written + 1, sealOn := x.sealOn || r.fin }, .record n entry img)

/-- The record of a waiting event (12 R375). -/
def EvWait.record (e : EvWait) : Record :=
  { kind := 3, slot := 0xFF, stateCode := 0, len := 432, opcode := 0, status := 0, seq := 0, t := e.t
    body := pack 3456 [(15, 0, e.code), (30, 25, e.ctx.getD 0), (31, 31, b2n e.ctx.isSome), (63, 56, e.objKind),
      (95, 64, e.obj), (127, 96, e.count), (3455, 128, e.data.toNat)] }

/-- Take the next record to write: acknowledgements and results in their order, then events, then the overflow
record (12 R364, R376; the order between results and events is log 14). -/
def Sess.nextRecord (x : Sess) (t : Nat) : Option (Record × Sess) :=
  match x.results with
  | r :: rs => some (r, { x with results := rs })
  | [] => match x.events with
    | e :: es => some (e.record, { x with events := es })
    | [] =>
      if x.overflow = 0 then none
      else some (EvWait.record { code := 0x0F00, objKind := 0, obj := 0, ctx := none, data := 0, count := x.overflow, t := t },
        { x with overflow := 0 })

/-- Write waiting records while the ring has a free entry (at most `fuel` of them). -/
def flushLoop (n t : Nat) : Nat → Sess → List Out → Sess × List Out
  | 0, x, acc => (x, acc)
  | fuel + 1, x, acc =>
    if x.ringFree then
      match x.nextRecord t with
      | none => (x, acc)
      | some (r, x1) => let w := x1.write n r; flushLoop n t fuel w.1 (acc ++ [w.2])
    else (x, acc)

/-- 12 R364: write what waits in a session, as far as its ring has room. -/
def State.flush (s : State) (n : Nat) : State :=
  match s.sess? n with
  | none => s
  | some x =>
    let r := flushLoop n s.now (x.results.length + x.events.length + 1) x []
    { s with sess := smPut s.sess n r.1, out := s.out ++ r.2 }

/-! ### Events (12 R375, R376) -/

/-- The session receives an event of this group and context: an ended session receives none (12 R375). -/
def Sess.hears (x : Sess) (s : State) (code : Nat) (ctx : Option Nat) : Bool :=
  let suppressed := x.mask.getLsbD ((code >>> 8) % 16)
  let mine := match x.role with
    | .operator => true
    | .tenant i => (match ctx.bind s.ctx? with | some c => c.owner == i | none => false)
    | .noRole => false
  !x.closed && mine && !suppressed

/-- 12 R376: add an event to the waiting ones, joining it to a waiting event of the same code, object and context. -/
def addEvent (es : List EvWait) (ovf : Nat) (e : EvWait) : List EvWait × Nat :=
  if es.any (fun w => w.code == e.code && w.obj == e.obj && w.ctx == e.ctx) then
    (es.map (fun w => if w.code == e.code && w.obj == e.obj && w.ctx == e.ctx
      then { w with count := min (w.count + 1) 0xFFFFFFFF } else w), ovf)
  else if es.length < 4096 then (es ++ [e], ovf)
  else (es, min (ovf + 1) 0xFFFFFFFF)

/-- Post an event to every session that hears it; mask bit 15 suppresses the overflow record (12 R375, R376). -/
def State.post (s : State) (e : EvWait) : State :=
  let s1 : State := { s with sess := s.sess.map (fun p =>
    if p.2.hears s e.code e.ctx then
      let r := addEvent p.2.events p.2.overflow e
      (p.1, { p.2 with events := r.1, overflow := if p.2.mask.getLsbD 15 then p.2.overflow else r.2 })
    else p) }
  (s1.sess.map (·.1)).foldl State.flush s1

/-- An event of the module.  During boot it waits until sessions are accepted, after step 11 (13 R384, log 97). -/
def State.event (s : State) (code objKind obj : Nat) (ctx : Option Nat) (data : BitVec 3328) : State :=
  let e : EvWait := { code := code, objKind := objKind, obj := obj, ctx := ctx, data := data, t := s.now }
  if s.pkg.st = .boot ∧ s.pkg.bootStep < 11 then { s with pkg := { s.pkg with bootEvents := s.pkg.bootEvents ++ [e] } } else s.post e

/-- Post the events of boot that wait. -/
def State.postBoot (s : State) : State := s.pkg.bootEvents.foldl State.post { s with pkg := { s.pkg with bootEvents := [] } }

/-! ### Memory as a context sees it -/

/-- Bytes of a page of the bank table (07 R213). -/
def bankPage : Nat := 4096

/-- 07 R214: the address that a context's access to a banked range reaches: its other range when `BANK_SEL` is 1. -/
def Ctx.bankAddr (c : Ctx) (a : Nat) : Nat :=
  c.bank.foldl (fun r e =>
    let n := e.pages * bankPage
    if e.banked && decide (e.base0 ≤ a) && decide (a < e.base0 + n) then
      (if c.bankSel then e.base1 + (a - e.base0) else a)
    else if e.banked && decide (e.base1 ≤ a) && decide (a < e.base1 + n) then
      (if c.bankSel then e.base0 + (a - e.base1) else a)
    else r) a

/-- The address after bank translation for a context. -/
def State.xaddr (s : State) (c a : Nat) : Nat :=
  match s.ctx? c with
  | none => a
  | some x => x.bankAddr a

/-- A context's accesses are translated now: it has a bank table and its `BANK_SEL` is 1. -/
def State.flips (s : State) (c : Nat) : Bool := (s.ctx? c).any (fun x => x.bankSel && !x.bank.isEmpty)

/-- 07 R214: the ranges of memory, after bank translation, that the `k` bytes from `a` reach: one for each page of the
bank table they meet, or one alone where nothing is translated. -/
def State.spans (s : State) (c a k : Nat) : List (Nat × Nat) :=
  if !s.flips c || decide (a % bankPage + k ≤ bankPage) then [(s.xaddr c a, k)]
  else (List.range (cdiv (a % bankPage + k) bankPage)).map (fun i =>
    let lo := max a (bankPage * (a / bankPage + i))
    (s.xaddr c lo, min (a + k) (bankPage * (a / bankPage + i + 1)) - lo))

/-- The 64-byte lines of memory that the `k` bytes from `a` reach. -/
def State.linesOf (s : State) (c a k : Nat) : List Nat :=
  (s.spans c a k).flatMap (fun p => (List.range (cdiv (p.1 % 64 + p.2) 64)).map (fun i => p.1 / 64 + i))

/-- Write bytes over ranges of memory, the first ones to the first range. -/
def memWriteSpans (m : Mem) : List (Nat × Nat) → List Byte → Mem
  | [], _ => m
  | p :: ps, bs => memWriteSpans (memWrite m p.1 (bs.take p.2)) ps (bs.drop p.2)

/-- Read `k` bytes of tier memory for a context. -/
def State.tierRead (s : State) (c a k : Nat) : Nat :=
  (s.spans c a k).foldr (fun p r => memReadN s.tier p.1 p.2 + r * 256 ^ p.2) 0

/-- 08 R225: the device of page `p` of a lot: the page rotates over the device set. -/
def Window.device (w : Window) (b : Nat) : Nat :=
  let lot := if w.tierS then 0x05000000 else 0x02800000
  w.devices.getD ((b - w.base) % lot / 4096 % max 1 w.devices.length) 0

/-- The device that holds an address after bank translation, when a window claims it. -/
def State.deviceAt (s : State) (b : Nat) : Option Nat :=
  s.handles.live.findSome? (fun e => match e.2 with
    | .window w => if w.base ≤ b ∧ b < w.base + w.length then some (w.device b) else none
    | _ => none)

/-- Lines of a frame of 2 MiB (08 R224). -/
def frameLines : Nat := 32768

/-- Pages of a lot of a tier (08 R224). -/
def lotPages (tierS : Bool) : Nat := if tierS then 20480 else 10240

/-- Devices of a tier (08 R224). -/
def tierD (tierS : Bool) : Nat := if tierS then 40 else 20

/-- 08 R225: where a line of a window lies on its device: frame · 32,768 + line in the frame.  `own` lists the frames that
the window holds there, which serve its lots in order. -/
def Window.lineOn (w : Window) (own : List Nat) (line : Nat) : Nat :=
  let n := max 1 w.devices.length
  let page := (line - w.base / 64) / 64
  let j := page % lotPages w.tierS / n
  own.getD (page / lotPages w.tierS * (tierD w.tierS / n) + j / 512) 0 * frameLines + j % 512 * 64 + line % 64

/-- The frames that a window holds on a device. -/
def Device.framesOf (x : Device) (h : W32) : List Nat := (x.frames.filter (fun e => e.2 == h)).map (·.1)

/-- The device, and the line of it, that holds a line of a tier, when a window claims it. -/
def State.lineAt (s : State) (line : Nat) : Option (Nat × Nat) :=
  s.handles.live.findSome? (fun e => match e.2 with
    | .window w =>
      if w.base ≤ 64 * line ∧ 64 * line < w.base + w.length then
        let d := w.device (64 * line)
        some (d, w.lineOn ((s.dev d).framesOf (s.handleAt e.1 e.2)) line)
      else none
    | _ => none)

/-- M-die of a device (08 R224). -/
def devDie (d : Nat) : Nat := 64 + (if d < 20 then d else (d - 20) % 20)

/-- Some M-die is fenced or failed. -/
def State.anyDeadM (s : State) : Bool := (List.range 20).any (fun i => (s.die (64 + i)).fenced)

/-- 17 R474: the line lies on a device whose M-die is fenced, so reads of it return poisoned data. -/
def State.deadLine (s : State) (b : Nat) : Bool :=
  match s.deviceAt b with
  | some d => (s.die (devDie d)).fenced
  | none => false

/-- Some line of the `k` bytes from `a` reads as poisoned. -/
def State.tierBad (s : State) (c a k : Nat) : Bool :=
  (s.linesOf c a k).any (fun l => smGet false s.tierPoison l || (s.anyDeadM && s.deadLine (64 * l)))

/-- 08 R222: reads of lines count each one that is already poisoned against its device. -/
def State.countPoison (s : State) (ls : List Nat) : State :=
  if s.tierPoison.isEmpty then s
  else (ls.filter (smGet false s.tierPoison)).foldl (fun s l =>
    match s.deviceAt (64 * l) with
    | some d => s.modDev d (fun x => { x with poisonReads := x.poisonReads + 1 })
    | none => s) s

/-- Write bytes of tier memory for a context.  A line of which every byte is written is no longer poisoned
(08 R239). -/
def State.tierWrite (s : State) (c a : Nat) (bs : List Byte) : State :=
  let ps := s.spans c a bs.length
  { s with
    tier := memWriteSpans s.tier ps bs
    tierPoison := s.tierPoison.filter (fun e => !ps.any (fun p => decide (p.1 ≤ 64 * e.1) && decide (64 * e.1 + 64 ≤ p.1 + p.2))) }

/-- Poison the lines of the `k` bytes from `a`. -/
def State.tierPoisonAt (s : State) (c a k : Nat) : State :=
  { s with tierPoison := (s.linesOf c a k).foldl (fun m l => smPut m l true) s.tierPoison }

/-- The `k` bytes from `a` lie in one window of a context that exists, in Tier F when `f` asks it. -/
def State.inWindow (s : State) (c a k : Nat) (tierF : Bool) : Bool :=
  (s.windowsOf c).any (fun w => w.2.ready && (!tierF || !w.2.tierS) && decide (w.2.base ≤ a)
    && decide (a + k ≤ w.2.base + w.2.length))

/-- The `k` bytes from `a` lie in windows of a context, which may be several adjacent ones (08 R229); `n` windows at most. -/
def State.coveredBy (s : State) (c : Nat) : Nat → Nat → Nat → Bool
  | 0, _, k => decide (k = 0)
  | n + 1, a, k =>
    decide (k = 0) ||
    match (s.windowsOf c).find? (fun w => w.2.ready && decide (w.2.base ≤ a) && decide (a < w.2.base + w.2.length)) with
    | some w => s.coveredBy c n (w.2.base + w.2.length) (k - (w.2.base + w.2.length - a))
    | none => false

/-- Every byte of a range lies in a window of the context (08 R229). -/
def State.covered (s : State) (c a k : Nat) : Bool := s.coveredBy c (s.windowsOf c).length a k

/-- The poison that an operation has met came from a scratchpad (11 R342). -/
def State.noteSpad (s : State) (id : Nat) (spad : Bool) : State := if spad then s.modOp id (fun o => { o with spad := true }) else s

/-! ### Channels -/

/-- Write the module's line of a channel's control block (06 R167). -/
def State.writeCtl (s : State) (h : W32) : State :=
  match s.chan? h with
  | none => s
  | some c =>
    s.tierWrite c.ctx (c.ctrl + 64) (toBytes 4 c.consumer.toNat ++ toBytes 4 c.cplProducer.toNat
      ++ [BitVec.ofNat 8 c.st.num, BitVec.ofNat 8 c.cause.num] ++ toBytes 4 c.faultIndex.toNat ++ toBytes 50 0)

/-- Change a channel and write its control block. -/
def State.setChan (s : State) (h : W32) (f : Chan → Chan) : State := (s.modChan h f).writeCtl h

/-- The operation has issued: it stands in an engine, or is complete and held. -/
def Op.isIssued (o : Op) : Bool := o.phase != .queued

/-- Take operations out of the machine: their waits leave the cells and registers they stand in (06 R171, R161). -/
def State.dropOps (s : State) (p : Op → Bool) : State :=
  let gone := (s.ops.filter p).map (·.id)
  let keepT := fun (t : Tile) => { t with
    cells := t.cells.map (fun c => { c with waits := c.waits.filter (fun w => !gone.contains w.op) })
    lwaits := t.lwaits.filter (fun w => !gone.contains w.2) }
  { s with
    ops := s.ops.filter (fun o => !p o)
    xlates := s.xlates.filter (fun x => match x.use with | .opWait o => !gone.contains o | _ => true)
    tiles := (s.tiles.map (fun e => (e.1, keepT e.2))).filter (fun e => decide (e.2 ≠ {})) }

/-- 06 R171: a fault of a channel.  A `RUNNING` channel becomes `FAULTED`, and what was fetched and not issued is
discarded, except after a validation rejection, which spares what was fetched before it (`before`).  A channel in
another state keeps its state and only records the fault. -/
def State.faultChan (s : State) (h : W32) (cause : Cause) (index : W32) (keepQueued : Bool) : State :=
  match s.chan? h with
  | none => s
  | some c =>
    let s1 := s.setChan h (fun c => { c with
      cause := cause
      faultIndex := index
      st := if c.st = .running then .faulted else c.st })
    if c.st = .running then
      let s2 := if keepQueued then s1 else s1.dropOps (fun o => o.ch == h && !o.isIssued)
      s2.event 0x0400 1 h.toNat (some c.ctx) (pack 3328 [(7, 0, cause.num), (63, 32, index.toNat)])
    else s1

/-- What the baseboard link watches: `STATE`, `ALERT`, `TRIP`, `INPUT_RANGE` and `BOOT_FAIL` (18 R503). -/
def State.bbWatch (s : State) : Nat × Bool × Bool × Bool × Nat :=
  (s.pkg.st.num, s.pkg.alert, s.pkg.thermTrip, s.power.inputRange, s.pkg.bootFail)

/-- 18 R503: a change of what the baseboard link watches raises an in-band interrupt, where these are enabled and the link
has a dynamic address. -/
def State.bbNotify (s old : State) : State :=
  if s.bbWatch ≠ old.bbWatch ∧ s.bb.ibiOn ∧ s.bb.dynAddr.isSome ∧ s.power.stbyOn then s.emit .i3cIbi else s

/-- Package state follows the contexts: `ACTIVE` while one is `RUNNING` (13 R380). -/
def State.syncActive (s : State) : State :=
  let run := s.ctxs.any (fun e => e.2.st == .running)
  if s.pkg.st = .ready ∧ run then (s.modPkg (fun p => { p with st := .active })).bbNotify s
  else if s.pkg.st = .active ∧ !run then (s.modPkg (fun p => { p with st := .ready })).bbNotify s
  else s

end Sys2Proof.Machine
end

