-- ==== Sys2Proof/Machine/Flags.lean ====
section
/-! DEFINITION. Flags and their occurrence counters: the arithmetic flags of a tile (04 R112, R113; 05 R147, R149),
the alert rule (00 R15 to R17) and the step-health feed (05 R150, 07 R198). -/

namespace Sys2Proof.Machine

/-- Flag events of one operation or of one command: how many times each flag's events occurred. -/
structure Ev where
  /-- `SAT` events. -/
  sat : Nat := 0
  /-- `NONFINITE` events. -/
  nf : Nat := 0
  /-- `INVALID` events. -/
  inv : Nat := 0
  /-- `DIV_ZERO` events. -/
  dz : Nat := 0
  deriving DecidableEq, Repr

/-- Events of two sources (00 R16). -/
def Ev.add (a b : Ev) : Ev := ⟨a.sat + b.sat, a.nf + b.nf, a.inv + b.inv, a.dz + b.dz⟩

/-- Advance a 64-bit counter, wrapping (16 R452). -/
def bump (c : W64) (n : Nat) : W64 := c + BitVec.ofNat 64 n

/-- Set flag bit `i` when its events occurred. -/
def setFlag {w : Nat} (f : BitVec w) (i : Nat) (n : Nat) : BitVec w :=
  if n = 0 then f else f ||| (BitVec.twoPow w i)

/-- 00 R17: an alert is raised when the flag changes from 0 to 1 with its alert enabled. -/
def alerts {w : Nat} (old en : BitVec w) (i n : Nat) : Bool := decide (n ≠ 0) && !old.getLsbD i && en.getLsbD i

/-- The logical tile that a physical tile carries, if it carries one. -/
def State.logicalOf (s : State) (p : Nat) : Option Nat := (List.range 480).find? (fun l => s.phys l == p)

/-- The context that a logical tile is bound to (06 R158). -/
def State.ctxOfTile (s : State) (l : Nat) : Option Nat :=
  (s.ctxs.find? (fun e => e.2.tiles.contains l)).map (·.1)

/-- The context bound to a physical tile. -/
def State.ctxOfPhys (s : State) (p : Nat) : Option Nat := (s.logicalOf p).bind s.ctxOfTile

/-- Count events of `ACC_FLAGS` bit `i` (0 `SAT`, 1 `NONFINITE`, 2 `MR_REJECT`) on a physical tile, with its alert
(04 R113; the object of the alert's event is the tile's die, log 15). -/
def State.accFlag (s : State) (p i n : Nat) : State :=
  if n = 0 then s
  else
    let t := s.tileP p
    let s1 := s.modTileP p (fun t => { t with
      accFlags := setFlag t.accFlags i n
      satCount := if i = 0 then bump t.satCount n else t.satCount
      nfCount := if i = 1 then bump t.nfCount n else t.nfCount
      mrCount := if i = 2 then bump t.mrCount n else t.mrCount })
    if alerts t.accFlags t.accAlert i n then s1.event (0x0300 + i) 2 (p / 8) (s.ctxOfPhys p) 0 else s1

/-- Count events of `VEC_FLAGS` bit `i` (0 `INVALID`, 1 `DIV_ZERO`) on a physical tile, with its alert (05 R149). -/
def State.vecFlag (s : State) (p i n : Nat) : State :=
  if n = 0 then s
  else
    let t := s.tileP p
    let s1 := s.modTileP p (fun t => { t with
      vecFlags := setFlag t.vecFlags i n
      invCount := if i = 0 then bump t.invCount n else t.invCount
      dzCount := if i = 1 then bump t.dzCount n else t.dzCount })
    if alerts t.vecFlags t.vecAlert i n then s1.event (0x0310 + i) 2 (p / 8) (s.ctxOfPhys p) 0 else s1

/-- 05 R150, 07 R198: a `BWD` operation that sets `NONFINITE` sets the context's step-health flag; once the step
counts as sampled this is a late health event. -/
def State.stepHealth (s : State) (c n : Nat) : State :=
  if n = 0 then s
  else s.modCtx c (fun x => { x with
    stepHealth := true
    healthLate := x.healthLate || x.sampled
    healthLateCount := if x.sampled then bump x.healthLateCount n else x.healthLateCount })

/-- Saturating count of a completion record (06 R175). -/
def sat32 (n : Nat) : Nat := min n 0xFFFFFFFF

/-- `BWD` bit of an operation descriptor (03 R100). -/
def descBwd (d : BitVec 1024) : Bool := bitN d 49

/-- The flag events of an operation on its physical tile: tile flags and counters, the completion record's fields,
and the step-health flag of a `BWD` operation. -/
def State.opEvents (s : State) (o : Op) (p : Nat) (e : Ev) : State :=
  let s1 := ((((s.accFlag p 0 e.sat).accFlag p 1 e.nf).vecFlag p 0 e.inv).vecFlag p 1 e.dz)
  let s2 := if descBwd o.desc then s1.stepHealth o.ctx e.nf else s1
  s2.modOp o.id (fun o => { o with
    satEv := sat32 (o.satEv + e.sat)
    nfEv := sat32 (o.nfEv + e.nf)
    inv := o.inv || decide (e.inv ≠ 0)
    dz := o.dz || decide (e.dz ≠ 0) })

end Sys2Proof.Machine
end

