-- ==== Sys2Proof/Machine/Operands.lean ====
section
/-! DEFINITION. The operation descriptor (03 R100, 05 R137), the parameter block (05 R139), scratchpad with its poison
bits (01 R36), and the streams an operation reads and writes. -/

namespace Sys2Proof.Machine

/-! ### The operation descriptor -/

/-- The fields of an operation descriptor (03 R100), with the readings of 05 R137. -/
structure OpD where
  elemRow0 : Nat
  elemCol0 : Nat
  elemLd : Nat
  privIdx : Nat
  localSync : Bool
  signalEn : Bool
  wait1En : Bool
  wait0En : Bool
  signalId : Nat
  wait1Id : Nat
  wait0Id : Nat
  outScale : Nat
  outStride : Nat
  outBase : Nat
  link : Nat
  accOut : Nat
  accInit : Nat
  accRow : Nat
  vctl : Nat
  bScale : Nat
  bStride : Nat
  bBase : Nat
  aScale : Nat
  aStride : Nat
  aBase : Nat
  kM1 : Nat
  n : Nat
  m : Nat
  fmtOut : Nat
  fmtB : Nat
  fmtA : Nat
  opcode : Nat
  satTrap : Bool
  privScale : Bool
  guard : Bool
  frozen : Bool
  recompute : Bool
  keep : Bool
  bwd : Bool
  fwd : Bool
  queue : Nat
  round : Nat
  serial : W32
  deriving DecidableEq, Repr

/-- Read the fields of a descriptor; strides are in bytes. -/
def OpD.of (d : BitVec 1024) : OpD where
  elemRow0 := fieldN d 511 488
  elemCol0 := fieldN d 487 468
  elemLd := fieldN d 467 448
  privIdx := fieldN d 441 436
  localSync := bitN d 435
  signalEn := bitN d 434
  wait1En := bitN d 433
  wait0En := bitN d 432
  signalId := fieldN d 431 416
  wait1Id := fieldN d 415 400
  wait0Id := fieldN d 399 384
  outScale := fieldN d 382 360
  outStride := fieldN d 359 344 * 64
  outBase := fieldN d 342 320
  link := fieldN d 279 272
  accOut := fieldN d 271 270
  accInit := fieldN d 269 268
  accRow := fieldN d 267 256
  vctl := fieldN d 279 256
  bScale := fieldN d 254 232
  bStride := fieldN d 231 216 * 64
  bBase := fieldN d 214 192
  aScale := fieldN d 190 168
  aStride := fieldN d 167 152 * 64
  aBase := fieldN d 150 128
  kM1 := fieldN d 127 104
  n := fieldN d 103 92 + 1
  m := fieldN d 91 80 + 1
  fmtOut := fieldN d 75 72
  fmtB := fieldN d 71 68
  fmtA := fieldN d 67 64
  opcode := fieldN d 63 56
  satTrap := bitN d 55
  privScale := bitN d 54
  guard := bitN d 53
  frozen := bitN d 52
  recompute := bitN d 51
  keep := bitN d 50
  bwd := bitN d 49
  fwd := bitN d 48
  queue := fieldN d 42 40
  round := fieldN d 34 32
  serial := BitVec.ofNat 32 (fieldN d 31 0)

/-- The reserved fields of R100 are 0 (03 R103). -/
def descReservedOk (d : BitVec 1024) : Bool :=
  fieldN d 447 442 == 0 && !bitN d 383 && !bitN d 343 && fieldN d 319 280 == 0 && !bitN d 255 && !bitN d 215
    && !bitN d 191 && !bitN d 151 && fieldN d 79 76 == 0 && fieldN d 47 43 == 0 && fieldN d 39 35 == 0

/-- `MASK_EN` of `VCTL`. -/
def OpD.maskEn (d : OpD) : Bool := d.vctl.testBit 23
/-- `MASK_MERGE`. -/
def OpD.maskMerge (d : OpD) : Bool := d.vctl.testBit 22
/-- `NINF_OK`. -/
def OpD.ninfOk (d : OpD) : Bool := d.vctl.testBit 21
/-- `B_MODE`. -/
def OpD.bMode (d : OpD) : Nat := (d.vctl >>> 19) % 4
/-- `SUB`. -/
def OpD.sub (d : OpD) : Nat := (d.vctl >>> 16) % 8
/-- `MASK_OFF`, in bytes. -/
def OpD.maskOff (d : OpD) : Nat := d.vctl % 65536 * 128
/-- `PARAM_EN` of `PARAM`. -/
def OpD.paramEn (d : OpD) : Bool := d.kM1.testBit 23
/-- Bits [126:121], which must be 0. -/
def OpD.paramPad (d : OpD) : Nat := (d.kM1 >>> 17) % 64
/-- Scratchpad offset of the parameter block. -/
def OpD.paramOff (d : OpD) : Nat := d.kM1 % 2 ^ 17 * 64
/-- Format of stream A. -/
def OpD.fa (d : OpD) : Fmt := (Fmt.ofCode d.fmtA).getD .fp32
/-- Format of stream B. -/
def OpD.fb (d : OpD) : Fmt := (Fmt.ofCode d.fmtB).getD .fp32
/-- Format of the output. -/
def OpD.fo (d : OpD) : Fmt := (Fmt.ofCode d.fmtOut).getD .fp32

/-- Element index of output (m, n) (03 R101, 05 R145). -/
def OpD.elemIndex (d : OpD) (m n : Nat) : Nat := ((d.elemRow0 + m) * d.elemLd + d.elemCol0 + n) % 2 ^ 32

/-- The context values that an operation reads when it issues (07 R217): seed, step count, context number and `EXP`
of its privileged entry. -/
structure IssueCtx where
  /-- Context seed. -/
  seed : W64
  /-- Step count. -/
  step : W64
  /-- Context ID. -/
  ctx : Nat
  /-- `EXP` of entry `PRIV_IDX`. -/
  exp : Int
  /-- Row issues that a matrix operation has already made (04 R123). -/
  rowIssues : Nat := 0
  /-- Rows landed from the millrace (04 R122). -/
  landed : List Nat := []
  /-- A grant has reached a part that sends (04 R121). -/
  granted : Bool := false
  deriving DecidableEq, Repr

/-- The rounding of output (m, n) under the descriptor's mode (02 R65, R67). -/
def OpD.roundAt (d : OpD) (i : IssueCtx) (m n : Nat) : Round :=
  Round.ofField d.round (if d.round = 4 then stochR i.seed i.step i.ctx d.serial (d.elemIndex m n) else 0)

/-! ### Scratchpad -/

/-- Bytes of a scratchpad (01 R33). -/
def spSize : Nat := 0x800000

/-- Some 64-bit word of the `k` bytes from offset `a` is poisoned (01 R36). -/
def Tile.bad (t : Tile) (a k : Nat) : Bool :=
  !t.spPoison.isEmpty && (List.range (cdiv (a % 8 + k) 8)).any (fun i => smGet false t.spPoison (a / 8 + i))

/-- Write bit segments: words of which every byte is written lose their poison (01 R36). -/
def Tile.writeBits (t : Tile) (gs : List BitSeg) : Tile :=
  { t with
    sp := memWriteBits t.sp gs
    spPoison := if t.spPoison.isEmpty then [] else
      let full := fullWords gs
      t.spPoison.filter (fun e => !full.contains e.1) }

/-- Write bytes from offset `a`. -/
def Tile.writeBytes (t : Tile) (a : Nat) (bs : List Byte) : Tile :=
  { t with
    sp := memWrite t.sp a bs
    spPoison := t.spPoison.filter (fun e => !(decide (a ≤ 8 * e.1) && decide (8 * e.1 + 8 ≤ a + bs.length))) }

/-- Poison the words of the `k` bytes from offset `a`. -/
def Tile.poisonAt (t : Tile) (a k : Nat) : Tile :=
  { t with spPoison := (List.range (cdiv (a % 8 + k) 8)).foldl (fun m i => smPut m (a / 8 + i) true) t.spPoison }

/-! ### Streams -/

/-- Pitch of the scale or unit rows of `n` columns: ⌈n / 32⌉ bytes rounded up to 64 (03 R87). -/
def scalePitch (n : Nat) : Nat := roundUp (cdiv n 32) 64

/-- A stream of rows in scratchpad. -/
structure Stream where
  /-- Offset of row 0. -/
  base : Nat
  /-- Bytes between rows. -/
  stride : Nat
  /-- Format. -/
  fmt : Fmt
  /-- Offset of the scale or unit array. -/
  scale : Nat
  /-- Bytes between scale rows. -/
  pitch : Nat
  deriving DecidableEq, Repr

/-- Stream A of a vector, eddy or sluice operation. -/
def OpD.strA (d : OpD) : Stream := ⟨d.aBase, d.aStride, d.fa, d.aScale, scalePitch d.n⟩
/-- Stream B. -/
def OpD.strB (d : OpD) : Stream := ⟨d.bBase, d.bStride, d.fb, d.bScale, scalePitch d.n⟩
/-- The output stream. -/
def OpD.strOut (d : OpD) : Stream := ⟨d.outBase, d.outStride, d.fo, d.outScale, scalePitch d.n⟩

/-- Bit address of element (m, n). -/
def Stream.bit (x : Stream) (m n : Nat) : Nat := 8 * (x.base + m * x.stride) + n * x.fmt.width

/-- Offset of the scale byte of element (m, n). -/
def Stream.scaleAt (x : Stream) (m n : Nat) : Nat := x.scale + m * x.pitch + n / 32

/-- Exact value of element (m, n) (02 R58 to R60). -/
def Stream.read (x : Stream) (t : Tile) (m n : Nat) : Val :=
  let v := decode x.fmt (memReadBits t.sp (x.bit m n) x.fmt.width)
  if x.fmt.scaled then scaleVal (memGet t.sp (x.scaleAt m n)).toNat v else v

/-- A read of element (m, n) meets a poisoned word, in its data or in its scale. -/
def Stream.badAt (x : Stream) (t : Tile) (m n : Nat) : Bool :=
  t.bad (x.bit m n / 8) (cdiv (x.bit m n % 8 + x.fmt.width) 8) || (x.fmt.scaled && t.bad (x.scaleAt m n) 1)

/-- Bytes of a row of `n` elements. -/
def Fmt.rowBytes (f : Fmt) (n : Nat) : Nat := cdiv (n * f.width) 8

/-! ### Writing converted elements -/

/-- How an output in an MX format or KB8 gets its scales. -/
inductive OutScale where
  /-- Derived per block: 02 R64 for MX, 02 R512 for KB8. -/
  | derive
  /-- From the privileged entry: E (07 R209). -/
  | priv (e : Int)
  /-- KB8 units read from the unit array (02 R512, `VCONVERT` with `SUB`[0] = 0). -/
  | given
  deriving DecidableEq, Repr

/-- The output scaling that a descriptor asks for. -/
def OpD.outScaling (d : OpD) (i : IssueCtx) : OutScale :=
  if d.privScale then .priv i.exp
  else if d.opcode = 0x10 ∧ d.fo = .kb8 ∧ d.sub % 2 = 0 then .given
  else .derive

/-- What a run of converted elements writes, with its flags. -/
structure Written where
  /-- Element and scale bits. -/
  segs : List BitSeg := []
  /-- Some element saturated. -/
  sat : Bool := false
  /-- Some element set the non-finite flag. -/
  nf : Bool := false
  /-- Non-finite events counted per element: the elements of KB8 blocks under a unit byte of 0xFF (02 R60). -/
  nfElems : Nat := 0
  deriving DecidableEq, Repr

/-- Join what two runs write. -/
def Written.join (a b : Written) : Written := ⟨a.segs ++ b.segs, a.sat || b.sat, a.nf || b.nf, a.nfElems + b.nfElems⟩

/-- Convert the elements (column, value) of one block of row `m`: a block of 32 columns of an MX or KB8 output, or
any run of columns of another format. -/
def writeBlock (t : Tile) (x : Stream) (sc : OutScale) (rnd : Nat → Round) (m : Nat) (vs : List (Nat × Val)) : Written :=
  match vs with
  | [] => {}
  | (n0, _) :: _ =>
    let seg := fun (n : Nat) (code : Nat) => BitSeg.mk (x.bit m n) x.fmt.width code
    let sseg := fun (b : Nat) => BitSeg.mk (8 * x.scaleAt m n0) 8 b
    let elems := fun (f : Val → Val) =>
      let cs := vs.map (fun e => (e.1, convert x.fmt (rnd e.1) (f e.2)))
      Written.mk (cs.map (fun c => seg c.1 c.2.code)) (cs.any (·.2.sat)) (cs.any (·.2.nf)) 0
    let fin := vs.all (fun e => e.2.isFinite)
    let am := amaxFinite (vs.map (·.2))
    if x.fmt.isMx then
      if fin then
        let s := match sc with | .priv e => (e + 127).toNat | _ => mxScale x.fmt am
        let w := elems (unscale s)
        { w with segs := w.segs ++ [sseg s] }
      else { segs := vs.map (fun e => seg e.1 0) ++ [sseg 0xFF], nf := true }
    else if x.fmt = .kb8 then
      let u := match sc with
        | .priv e => (e + 127).toNat
        | .given => (memGet t.sp (x.scaleAt m n0)).toNat
        | .derive => kbUnit am
      let us := match sc with | .given => [] | _ => [sseg u]
      if u = 0xFF then { segs := vs.map (fun e => seg e.1 0x80) ++ us, nf := true, nfElems := vs.length }
      else
        let w := elems (unscale u)
        { w with segs := w.segs ++ us }
    else match sc with
      | .priv e => elems (shiftV (-e))
      | _ => elems id

/-- Split a run of (column, value) into its blocks of 32 columns. -/
def blocksOf (vs : List (Nat × Val)) : List (List (Nat × Val)) :=
  ((vs.map (fun e => e.1 / 32)).eraseDups).map (fun b => vs.filter (fun e => e.1 / 32 == b))

/-- Convert and write the elements (column, value) of row `m`, block by block. -/
def writeRow (t : Tile) (x : Stream) (sc : OutScale) (rnd : Nat → Round) (m : Nat) (vs : List (Nat × Val)) : Written :=
  if x.fmt.scaled then
    (blocksOf vs).foldl (fun w b => w.join (writeBlock t x sc rnd m b)) {}
  else writeBlock t x sc rnd m vs

/-- The largest finite magnitude of output values before scaling, for `PRIV_AMAX` (07 R210). -/
def privMax (vs : List (Nat × Val)) : Rat := amaxFinite (vs.map (·.2))

/-- 07 R210: raise `PRIV_AMAX` of an entry. -/
def Tile.raiseAmax (t : Tile) (i : Nat) (a : Rat) : Tile :=
  let old := smGet 0 t.privAmax i
  if ltV (ofF32 old) (.ofRat a) then { t with privAmax := smPutD 0 t.privAmax i (toF32 .rne (.ofRat a)) } else t

/-! ### The parameter block -/

/-- The parameter block (05 R139). -/
structure Param where
  capacity : Nat
  experts : Nat
  expert0 : Nat
  outExp : Int
  inExp : Int
  bscalar : Val
  clampHi : Val
  clampLo : Val
  eps : Val
  beta : Val
  alpha : Val
  deriving DecidableEq, Repr

/-- What every field reads as when `PARAM_EN` is 0. -/
def Param.default : Param where
  capacity := 0
  experts := 0
  expert0 := 0
  outExp := 0
  inExp := 0
  bscalar := .zero
  clampHi := .ofRat (Fmt.maxFinite .fp32)
  clampLo := .zero
  eps := .ofRat (pow2 (-126))
  beta := .zero
  alpha := .zero

/-- The parameter block that an operation reads when it starts. -/
def OpD.param (d : OpD) (t : Tile) : Param :=
  if d.paramEn then
    let b : BitVec 512 := BitVec.ofNat 512 (memReadN t.sp d.paramOff 64)
    let f := fun (lo : Nat) => ofF32 (BitVec.ofNat 32 (fieldN b (lo + 31) lo))
    { capacity := fieldN b 271 240
      experts := fieldN b 239 224
      expert0 := fieldN b 223 208
      outExp := signedN 8 (fieldN b 207 200)
      inExp := signedN 8 (fieldN b 199 192)
      bscalar := f 160
      clampHi := f 128
      clampLo := f 96
      eps := f 64
      beta := f 32
      alpha := f 0 }
  else Param.default

/-! ### Row-statistics records (05 R152) -/

/-- A row-statistics record. -/
structure RowRec where
  count : Nat
  rms : Bool
  nf : Bool
  allNegInf : Bool
  gsum : W32
  dot : W32
  m2 : W32
  rstd : W32
  mean : W32
  sumexp : W32
  max : W32
  deriving DecidableEq, Repr

/-- The record at a scratchpad offset. -/
def RowRec.read (t : Tile) (a : Nat) : RowRec :=
  let b : BitVec 256 := BitVec.ofNat 256 (memReadN t.sp a 32)
  let w := fun (lo : Nat) => BitVec.ofNat 32 (fieldN b (lo + 31) lo)
  { count := fieldN b 255 232, rms := bitN b 226, nf := bitN b 225, allNegInf := bitN b 224
    gsum := w 192, dot := w 160, m2 := w 128, rstd := w 96, mean := w 64, sumexp := w 32, max := w 0 }

/-- The 32 bytes of a record. -/
def RowRec.bytes (r : RowRec) : List Byte :=
  toBytes 32 (pack 256 [(255, 232, r.count), (226, 226, b2n r.rms), (225, 225, b2n r.nf), (224, 224, b2n r.allNegInf),
    (223, 192, r.gsum.toNat), (191, 160, r.dot.toNat), (159, 128, r.m2.toNat), (127, 96, r.rstd.toNat),
    (95, 64, r.mean.toNat), (63, 32, r.sumexp.toNat), (31, 0, r.max.toNat)]).toNat

/-- What a tile operation did: the tile afterwards, its flag events, an early stop, and the free values used. -/
structure RunRes where
  /-- The tile. -/
  tile : Tile
  /-- Flag events. -/
  ev : Ev := {}
  /-- The fault cause of an early stop. -/
  cause : Cause := .none
  /-- Accumulator rows to drain or send. -/
  rows : List Nat := []
  /-- Row issues that a matrix operation has made by the end of the run. -/
  issued : Nat := 0
  /-- The operation waits for a row of the millrace before it can issue again (04 R123). -/
  waits : Bool := false
  /-- Free values used. -/
  drawn : Nat := 0
  deriving DecidableEq, Repr

end Sys2Proof.Machine
end

