-- ==== Sys2Proof/Machine/Matrix.lean ====
section
/-! DEFINITION. The arithmetic of the matrix array (03) and of accumulator memory (04 R105 to R117): chunk sums,
accumulation, saturation, the early stops of R114, and the conversion of a drained row. -/

namespace Sys2Proof.Machine

/-- Operand groups of 02 R53 and R70. -/
inductive MGroup where
  | fp8 | mx | mxfp4 | int8 | bf16 | fp16
  deriving DecidableEq, Repr

/-- The group of a format as a matrix operand. -/
def Fmt.group? : Fmt → Option MGroup
  | .e4m3 | .e5m2 => some .fp8
  | .mxE4m3 | .mxE3m2 | .mxE2m3 => some .mx
  | .mxE2m1 => some .mxfp4
  | .int8 => some .int8
  | .bf16 => some .bf16
  | .fp16 => some .fp16
  | _ => none

/-- Chunk depth (02 R53). -/
def MGroup.depth : MGroup → Nat
  | .mxfp4 => 256
  | _ => 128

/-- Cycles per streaming row (03 R82). -/
def MGroup.cycles : MGroup → Nat
  | .bf16 | .fp16 => 2
  | _ => 1

/-- The group of a descriptor's operands. -/
def OpD.group (d : OpD) : MGroup := (d.fa.group?).getD .fp8

/-- Operand A of a matrix operation: M rows of `k` elements (03 R86, R87). -/
def OpD.matA (d : OpD) (k : Nat) : Stream := ⟨d.aBase, d.aStride, d.fa, d.aScale, scalePitch k⟩
/-- Operand B of a matrix operation. -/
def OpD.matB (d : OpD) (k : Nat) : Stream := ⟨d.bBase, d.bStride, d.fb, d.bScale, scalePitch k⟩

/-- Exact sum of finite values. -/
def sumQ (vs : List Val) : Rat := vs.foldl (fun a v => match v with | .fin q _ => a + q | _ => a) 0

/-- The sum of 16-bit floating products in the 72-bit window of 02 R70: each product, aligned to the largest one, loses
the bits below the window by truncation toward −∞. -/
def windowSum (vs : List Val) : Rat :=
  let am := amaxFinite vs
  if am = 0 then 0
  else
    let lsb := pow2 (log2Floor am + 8 - 71)
    vs.foldl (fun a v => match v with | .fin q _ => a + ((q / lsb).floor : Rat) * lsb | _ => a) 0

/-- Blocks of `k` values. -/
def chunksOf {α : Type} (k : Nat) : Nat → List α → List (List α)
  | 0, _ => []
  | fuel + 1, l => if l.isEmpty then [] else l.take k :: chunksOf k fuel (l.drop k)

/-- The MX chunk sum: exact block sums of 32, added in ascending order with 48-bit significands (02 R70). -/
def mxSum (vs : List Val) : Rat := (chunksOf 32 vs.length vs).foldl (fun a b => round48 (a + sumQ b)) 0

/-- The chunk sum of a list of products (02 R70, 03 R85).  A zero sum is +0 (02 R57). -/
def chunkSum (g : MGroup) (ps : List Val) : Val :=
  if ps.any (· == .nan) then .nan
  else
    let pos := ps.any (· == .inf false)
    let neg := ps.any (· == .inf true)
    if pos && neg then .nan
    else if pos then .inf false
    else if neg then .inf true
    else match g with
      | .mx | .mxfp4 => .ofRat (mxSum ps)
      | .bf16 | .fp16 => .ofRat (windowSum ps)
      | _ => .ofRat (sumQ ps)

/-- Outcome of one accumulation. -/
structure AccRes where
  /-- The entry written. -/
  w : W32
  /-- It saturated (04 R108, R109). -/
  sat : Bool
  /-- It is non-finite. -/
  nf : Bool
  deriving DecidableEq, Repr

/-- Add a chunk sum into an accumulator entry (02 R71; 04 R108 to R111). -/
def accumulate (int32 : Bool) (old : W32) (c : Val) : AccRes :=
  if int32 then
    let r : Int := old.toInt + (match c with | .fin q _ => q.floor | _ => 0)
    if 2147483647 < r then ⟨0x7FFFFFFF, true, false⟩
    else if r < -2147483648 then ⟨0x80000000, true, false⟩
    else ⟨BitVec.ofInt 32 r, false, false⟩
  else
    let s := (addV .rne (ofF32 old) c).v
    let k := convert .fp32 .rne s
    ⟨BitVec.ofNat 32 k.code, k.sat, k.nf⟩

/-- An accumulator is INT32 when both operands are INT8 (03 R102). -/
def OpD.accInt (d : OpD) : Bool := d.fmtA == 9 && d.fmtB == 9

/-- An accumulator entry as an exact value. -/
def accVal (int32 : Bool) (w : W32) : Val := if int32 then .ofRat ((w.toInt : Int) : Rat) else ofF32 w

/-- NB = ⌈N / 128⌉ (03 R88). -/
def OpD.nb (d : OpD) : Nat := cdiv d.n 128

/-- KC = ⌈K / d⌉ (03 R88); element-wise mode makes one pass. -/
def OpD.kc (d : OpD) : Nat := if d.opcode = 2 then 1 else cdiv (d.kM1 + 1) d.group.depth

/-- Rows of the accumulator region (03 R88). -/
def OpD.regionRows (d : OpD) : Nat := d.nb * d.m

/-- One issue of a row: column block, chunk and row (03 R88). -/
structure Issue where
  nb : Nat
  kc : Nat
  m : Nat
  deriving DecidableEq, Repr

/-- The issues of an operation in order (03 R88). -/
def OpD.issues (d : OpD) : List Issue :=
  (List.range d.nb).flatMap (fun nb => (List.range d.kc).flatMap (fun kc =>
    (List.range d.m).map (fun m => ⟨nb, kc, m⟩)))

/-- The issue cycle of a row, counted from the first bore cycle of an operation that never stalls (03 R83, R89, R90,
R92): the second broadcast cycle of a 16-bit row. -/
def OpD.issueCycle (d : OpD) (i : Issue) : Nat :=
  let r := d.group.cycles
  if d.opcode = 2 then r * (i.nb * d.m + i.m) + (r - 1)
  else 128 + (i.nb * d.kc + i.kc) * max (r * d.m) 128 + r * i.m + (r - 1)

/-- The accumulator row of an issue (03 R88). -/
def OpD.accRowOf (d : OpD) (i : Issue) : Nat := d.accRow + i.nb * d.m + i.m

/-- Columns of a block that are not masked (03 R95). -/
def OpD.cols (d : OpD) (nb : Nat) : List Nat := (List.range 128).filter (fun j => decide (128 * nb + j < d.n))

/-- Elements of a chunk along the reduction dimension. -/
def OpD.chunkKs (d : OpD) (kc : Nat) : List Nat :=
  (List.range d.group.depth).filterMap (fun k =>
    if kc * d.group.depth + k ≤ d.kM1 then some (kc * d.group.depth + k) else none)

/-- The chunk sum of one output entry of an issue: a product of elements in element-wise mode (03 R79, R99).  There MX scale
rows run along N, one byte for each 32 columns, at a pitch of ⌈N / 32⌉ bytes rounded up to 64 in A and in B alike: R87 gives
the pitch in K, which is 1 there (DESIGN CHOICE, log 90). -/
def OpD.chunkOf (d : OpD) (t : Tile) (i : Issue) (j : Nat) : Val :=
  let n := 128 * i.nb + j
  if d.opcode = 2 then (mulV ((d.matA d.n).read t i.m n) ((d.matB d.n).read t i.m n)).v
  else chunkSum d.group ((d.chunkKs i.kc).map (fun k =>
    (mulV ((d.matA (d.kM1 + 1)).read t i.m k) ((d.matB (d.kM1 + 1)).read t n k)).v))

/-- A read for an issue meets poison: the row of A, or the stationary block, whose columns count at the first row of
their pass (03, 04 R114). -/
def OpD.issueBad (d : OpD) (t : Tile) (i : Issue) : Bool :=
  !t.spPoison.isEmpty &&
    (if d.opcode = 2 then (d.cols i.nb).any (fun j =>
        (d.matA d.n).badAt t i.m (128 * i.nb + j) || (d.matB d.n).badAt t i.m (128 * i.nb + j))
    else (d.chunkKs i.kc).any (fun k => (d.matA (d.kM1 + 1)).badAt t i.m k)
      || (decide (i.m = 0) && (d.cols i.nb).any (fun j =>
        (d.chunkKs i.kc).any (fun k => (d.matB (d.kM1 + 1)).badAt t (128 * i.nb + j) k))))

/-- The elements (column, value) of a drained accumulator row (04 R115, R116). -/
def OpD.drainVals (d : OpD) (acc : SMap W32) (row nb : Nat) : List (Nat × Val) :=
  (d.cols nb).map (fun j => (128 * nb + j, accVal d.accInt (smGet 0 acc (row * 128 + j))))

/-- What draining accumulator row `row` writes (04 R115, R116). -/
def OpD.drainRow (d : OpD) (ic : IssueCtx) (t : Tile) (row : Nat) : Written :=
  let q := row - d.accRow
  writeRow t d.strOut (d.outScaling ic) (d.roundAt ic (q % d.m)) (q % d.m) (d.drainVals t.acc row (q / d.m))

/-- Progress of a matrix operation through its issues. -/
structure MRun where
  /-- The tile, with its accumulators as far as they have been written. -/
  tile : Tile
  /-- Flag events of the accumulation. -/
  ev : Ev := {}
  /-- The cycle and cause of an early stop (04 R114). -/
  stop : Option (Nat × Cause) := none
  /-- Rows that received their last accumulation, with its cycle, in order. -/
  done : List (Nat × Nat) := []
  deriving DecidableEq, Repr

/-- The stop of a run moved to an earlier event, or to poison in the same cycle (04 R114). -/
def MRun.stopAt (r : MRun) (c : Nat) (cause : Cause) : MRun :=
  match r.stop with
  | none => { r with stop := some (c, cause) }
  | some (c0, _) => if c < c0 ∨ (c = c0 ∧ cause = .poison) then { r with stop := some (c, cause) } else r

/-- Accumulate the entries of one issued row. -/
def MRun.row (d : OpD) (r : MRun) (i : Issue) : MRun × Bool × Bool :=
  let row := d.accRowOf i
  (d.cols i.nb).foldl (fun x j =>
    let k := row * 128 + j
    let old := if i.kc = 0 ∧ d.accInit = 0 then 0 else smGet 0 x.1.tile.acc k
    let a := accumulate d.accInt old (d.chunkOf r.tile i j)
    ({ x.1 with tile := { x.1.tile with acc := smPutD 0 x.1.tile.acc k a.w } }, x.2.1 || a.sat, x.2.2 || a.nf))
    (r, false, false)

/-- One issue of a matrix operation. -/
def MRun.step (d : OpD) (ic : IssueCtx) (r : MRun) (i : Issue) : MRun :=
  let c := d.issueCycle i
  let open_ := match r.stop with | none => true | some (c0, _) => decide (c ≤ c0)
  if !open_ then r
  else if d.issueBad r.tile i then r.stopAt c .poison
  else
    let (r1, sat, nf) := r.row d i
    let last := decide (i.kc + 1 = d.kc)
    let r2 : MRun := { r1 with
      ev := r1.ev.add { sat := b2n sat, nf := b2n nf }
      done := if last then r1.done ++ [(d.accRowOf i, c + 5)] else r1.done }
    if d.satTrap then
      let r3 := if sat then r2.stopAt (c + 5) .satTrapped else r2
      if last ∧ d.accOut = 1 ∧ (d.drainRow ic r3.tile (d.accRowOf i)).sat then r3.stopAt (c + 7) .satTrapped else r3
    else r2

/-- 04 R123: the issue can be made: in the first pass of a column block, a part that receives waits for its row. -/
def OpD.fed (d : OpD) (landed : List Nat) (i : Issue) : Bool :=
  d.accInit != 2 || i.kc != 0 || landed.contains (i.nb * d.m + i.m)

/-- Run a matrix operation from the issue it has reached to its last accumulation, or to the issue whose row of the millrace
has not landed (03 R88; 04 R114, R123); by then the issues before it have completed (log 72).  The rows to drain or send are
those whose read has begun by the stop; a read that would begin in the very cycle of the stop counts as begun (04 R114 says
so of row issues alone: DESIGN CHOICE, log 90), and a send that has had no grant by then has not started. -/
def OpD.matRun (d : OpD) (ic : IssueCtx) (t : Tile) : RunRes :=
  let is := (d.issues.drop ic.rowIssues).takeWhile (d.fed ic.landed)
  let r := is.foldl (MRun.step d ic) { tile := t }
  let rows := match r.stop with
    | none => r.done.map (·.1)
    | some (c0, _) =>
      if d.accOut = 2 ∧ !ic.granted then []
      else (r.done.filter (fun e => decide (e.2 + 1 ≤ c0))).map (·.1)
  let issued := ic.rowIssues + is.length
  { tile := r.tile, ev := r.ev, cause := (r.stop.map (·.2)).getD .none, rows := if d.accOut = 0 then [] else rows
    issued := issued, waits := r.stop.isNone && decide (issued < d.issues.length) }

/-- 03: after a poisoned operand read, the region's accumulator entries hold unspecified values. -/
def OpD.spoilRegion (d : OpD) (t : Tile) (draw : Nat) : Tile :=
  { t with acc := (List.range (d.regionRows * 128)).foldl (fun a k =>
      smPutD 0 a (d.accRow * 128 + k) (Config.freeBits 32 (draw + k))) t.acc }

/-! ### Validation (03 R103) -/

/-- Bytes that a stream of `rows` rows of `cols` elements reaches, with its scale array. -/
def Stream.fits (x : Stream) (rows cols : Nat) : Bool :=
  decide (x.base + (rows - 1) * x.stride + x.fmt.rowBytes cols ≤ spSize)
    && (!x.fmt.scaled || decide (x.scale + (rows - 1) * x.pitch + cdiv cols 32 ≤ spSize))

/-- 02 R59, 05 R140: the base of an MX scale array is a multiple of 64, and the scale field of a stream that is neither MX
nor KB8 is 0. -/
def Stream.scaleOk (x : Stream) : Bool := if x.fmt.isMx then x.scale % 64 == 0 else x.fmt == .kb8 || x.scale == 0

/-- Formats whose output can take a privileged scale: FP8, MX and KB8 (03 R103). -/
def Fmt.privOk : Fmt → Bool
  | .e4m3 | .e5m2 | .mxE4m3 | .mxE3m2 | .mxE2m3 | .mxE2m1 | .kb8 => true
  | _ => false

/-- Rules that every operation descriptor keeps: reserved fields, rounding mode, local syncs, and the flag rules of
07 R201.  `privOk` says that the privileged entry is valid. -/
def OpD.commonOk (d : OpD) (raw : BitVec 1024) (privOk : Bool) : Bool :=
  descReservedOk raw && decide (d.round ≤ 4)
    && !(d.localSync && ((d.wait0En && decide (47 < d.wait0Id)) || (d.wait1En && decide (47 < d.wait1Id))
      || (d.signalEn && decide (47 < d.signalId))))
    && !(d.fwd && d.bwd) && !(d.guard && (d.fwd || d.bwd)) && !(d.keep && !d.fwd) && !(d.recompute && !d.bwd)
    && !(d.keep && d.recompute) && !(d.frozen && (d.opcode != 1 || !d.bwd)) && !(d.privScale && !privOk)

/-- The validation of `MATMUL` and `EW_MUL` that needs the descriptor alone (03 R103).  `OUT_STRIDE` and the range of the
output are checked where `ACC_OUT` is `DRAIN`, the one setting that writes an output (DESIGN CHOICE, log 90). -/
def OpD.matrixOk (d : OpD) : Bool :=
  let k := if d.opcode = 2 then d.n else d.kM1 + 1
  let bRows := if d.opcode = 2 then d.m else d.n
  (match Fmt.ofCode d.fmtA, Fmt.ofCode d.fmtB with
    | some a, some b => a.group?.isSome && a.group? == b.group?
    | _, _ => false)
    && (Fmt.ofCode d.fmtOut).isSome
    && [d.aBase, d.bBase, d.outBase, d.aScale, d.bScale, d.outScale].all (fun b => b % 64 == 0)
    && decide (d.fa.rowBytes k ≤ d.aStride) && decide (d.fb.rowBytes k ≤ d.bStride)
    && (d.matA k).fits d.m k && (d.matB k).fits bRows k
    && (d.accOut != 1 || (decide (d.fo.rowBytes d.n ≤ d.outStride) && d.strOut.fits d.m d.n))
    && decide (d.accRow + d.regionRows ≤ 4096) && d.accInit != 3 && d.accOut != 3
    && (d.accOut == 1 || d.fmtOut == 0) && (d.opcode != 2 || d.kM1 == 0)
    && (!d.privScale || (d.accOut == 1 && d.fo.privOk))

end Sys2Proof.Machine
end

