-- ==== Sys2Proof/Machine/Telem.lean ====
section
/-! DEFINITION. Counters and gauges: the catalogue, samples, and the forming of telemetry records (16 R452 to R463). -/

namespace Sys2Proof.Machine

/-! ### Object IDs (16 R456) -/

/-- An object ID: class and index (16 R456). -/
def objId (cls idx : Nat) : Nat := cls * 2 ^ 24 + idx

/-- Class of an object ID. -/
def objClass (id : Nat) : Nat := id / 2 ^ 24

/-- Index of an object ID. -/
def objIdx (id : Nat) : Nat := id % 2 ^ 24

/-- P-die index of a torus port: port letters a and b of each direction (09 R248). -/
def pOfPort (j : Nat) : Nat := [0, 2, 1, 3].getD (j % 4) 0

/-- The die whose manager collects an object's values. -/
def objDie (id : Nat) : Option Nat :=
  let i := objIdx id
  match objClass id with
  | 1 | 2 | 3 => some i
  | 4 => some (i / 8)
  | 5 => some (i / 64)
  | 6 | 15 => some (i / 4)
  | 7 => some (64 + i)
  | 8 => some (64 + i % 20)
  | 9 => some (84 + pOfPort i)
  | 10 => some (84 + pOfPort (i / 9))
  | 11 => some (84 + i / 4)
  | 12 => some (84 + i % 4)
  | _ => none

/-- The context of an object: a context itself, or that of a tile or queue (16 R456). -/
def State.objCtx (s : State) (id : Nat) : Option Nat :=
  let i := objIdx id
  match objClass id with
  | 4 => s.ctxOfPhys i
  | 5 => s.ctxOfPhys (i / 8)
  | 13 => if (s.ctx? i).isSome then some i else none
  | _ => none

/-- The objects of a class.  A ford is named by the C-die edge it lies on (01 R23). -/
def State.objects (s : State) (cls : Nat) : List Nat :=
  ((match cls with
    | 0 => [0]
    | 1 => List.range 64
    | 2 => (List.range 20).map (· + 64)
    | 3 => (List.range 4).map (· + 84)
    | 4 => List.range 512
    | 5 => List.range 4096
    | 6 => List.range 256
    | 7 => List.range 20
    | 8 => List.range 40
    | 9 => List.range 12
    | 10 => List.range 108
    | 11 => List.range 16
    | 12 => List.range 8
    | 13 => s.ctxs.map (·.1)
    | 14 => s.sess.map (·.1)
    | 15 => List.range 352
    | _ => []) : List Nat).map (objId cls)

/-! ### Gauges (16 R453, R454) -/

/-- Place of a gauge or counter in the tables: ID and object. -/
def telKey (id obj : Nat) : Nat := id * 2 ^ 32 + obj

/-- Bin of a sample. -/
def gaugeBin (v : Int) : Nat := if v ≤ 0 then 0 else min 31 (Nat.log2 v.toNat + 1)

/-- A gauge takes a sample. -/
def Gauge.sample (g : Gauge) (v : BitVec 64) : Gauge :=
  { count := g.count + 1
    sum := g.sum + v
    min := if v.toInt < g.min.toInt then v else g.min
    max := if g.max.toInt < v.toInt then v else g.max
    bins := modAt g.bins (gaugeBin v.toInt) (· + 1) }

/-- A gauge of an object takes a sample (16 R453). -/
def State.gaugeSample (s : State) (id obj : Nat) (v : BitVec 64) : State :=
  { s with telem := { s.telem with gauges := smPut s.telem.gauges (telKey id obj) ((smGet {} s.telem.gauges (telKey id obj)).sample v) } }

/-! ### The catalogue (16 R457) -/

/-- IDs of the gauges, each with its object classes. -/
def gaugeIds : List (Nat × List Nat) :=
  [(0x01000001, [4]), (0x07000001, [5]), (0x07000002, [4]), (0x0A000001, [6]), (0x0B000001, [7]), (0x0B000006, [7]),
    (0x0C000001, [8]), (0x0C000006, [8]), (0x0D000001, [7]), (0x0E000001, [10]), (0x0E000002, [10]), (0x0E000003, [10]),
    (0x0E000004, [10]), (0x0E000005, [10]), (0x0E000006, [11]), (0x0F000002, [13]), (0x13000001, [1, 2, 3]), (0x13000002, [4]),
    (0x13000003, [1, 2, 3]), (0x13000004, [15]), (0x13000005, [0]), (0x14000001, [0])]

/-- IDs of the counters of an object class, ascending. -/
def counterIds (cls : Nat) : List Nat :=
  match cls with
  | 0 => [0x0E000021, 0x0E000022, 0x0E000023, 0x12000002, 0x14000002, 0x14000003]
  | 1 | 2 => [0x11000001]
  | 3 => [0x0F000001, 0x11000001, 0x12000001]
  | 4 => [0x02000001, 0x02000002, 0x02000003, 0x03000001, 0x03000002, 0x06000001, 0x07000003, 0x08000001, 0x08000002, 0x09000001]
  | 6 => [0x0A000002]
  | 7 => [0x0B000002, 0x0B000003, 0x0B000004, 0x0B000005, 0x0B000007, 0x0B000008]
  | 8 => [0x0C000002, 0x0C000003, 0x0C000004, 0x0C000005, 0x0C000007, 0x0C000008]
  | 9 => (List.range 10).map (· + 0x0E000010)
  | 12 => [0x10000001, 0x10000002]
  | 13 => [0x10000003, 0x14010001, 0x14010002, 0x14010003, 0x14010004, 0x14010005, 0x14010006, 0x14010007]
  | 14 => [0x10000004]
  | _ => []

/-- `PARKED_NS` of a tile, the present parking included (06 R193). -/
def Tile.parkedTotal (t : Tile) (now : Nat) : BitVec 64 := if t.park = .running then t.parkedNs else bump t.parkedNs (now - t.parkedAt)

/-- Counters of a memory device, by the low byte of their ID. -/
def Device.counter (d : Device) (i : Nat) : BitVec 64 :=
  match i with
  | 2 => d.corrected
  | 3 => d.uncorrectable
  | 4 => d.poisonReads
  | 5 => d.lcDemoted
  | 7 => d.linesSparedCount
  | 8 => d.framesRetired
  | _ => 0

/-- The value of a counter of an object; an ID that names none reads 0 (16 R456, R457). -/
def State.counter (s : State) (id obj : Nat) : BitVec 64 :=
  let i := objIdx obj
  match objClass obj with
  | 0 => (match id with
    | 0x0E000021 => s.part.counts.getD 1 0
    | 0x0E000022 => s.part.counts.getD 2 0
    | 0x0E000023 => s.part.counts.getD 3 0
    | 0x12000002 => s.part.counts.getD 0 0
    | 0x14000002 => s.telem.lost
    | 0x14000003 => s.telem.skipped
    | _ => 0)
  | 1 | 2 => if id = 0x11000001 then BitVec.ofNat 64 (s.die i).mgr.crashes else 0
  | 3 => (match id with
    | 0x0F000001 => s.sec.epochStale.getD (i - 84) 0
    | 0x11000001 => BitVec.ofNat 64 (s.die i).mgr.crashes
    | 0x12000001 => s.sec.sealFail.getD (i - 84) 0
    | _ => 0)
  | 4 =>
    let t := s.tileP i
    (match id with
      | 0x02000001 => t.satCount
      | 0x02000002 => t.nfCount
      | 0x02000003 => t.mrCount
      | 0x03000001 => t.invCount
      | 0x03000002 => t.dzCount
      | 0x06000001 => t.uc.faults
      | 0x07000003 => t.parkedTotal s.now
      | 0x08000001 => t.uc.syncErr
      | 0x08000002 => t.xlateMiss
      | 0x09000001 => t.spCorrected
      | _ => 0)
  | 6 => if id = 0x0A000002 then (s.die (i / 4)).fordRetry.getD (i % 4) 0 else 0
  | 7 => if id / 256 = 0x0B0000 then (s.dev i).counter (id % 256) else 0
  | 8 => if id / 256 = 0x0C0000 then (s.dev (20 + i)).counter (id % 256) else 0
  | 9 => if 0x0E000010 ≤ id then (s.port i).counts.getD (id - 0x0E000010) 0 else 0
  | 12 => (match id with
    | 0x10000001 => (s.ethPort i).dropped
    | 0x10000002 => (s.ethPort i).pausedNs
    | _ => 0)
  | 13 => (match s.ctx? i with
    | none => 0
    | some x => match id with
      | 0x10000003 => x.rdmaRefused
      | 0x14010001 => x.stepCount
      | 0x14010002 => x.skipCount
      | 0x14010003 => x.healthLateCount
      | 0x14010004 => x.seqErr
      | 0x14010005 => x.keepOps
      | 0x14010006 => x.recomputeOps
      | 0x14010007 => x.recomputeMacs
      | _ => 0)
  | 14 => if id = 0x10000004 then ((s.sess? i).map (·.slotErr)).getD 0 else 0
  | _ => 0

/-- Runs of consecutive IDs of a rising list, each as its IDs. -/
def idRuns : List Nat → List (List Nat)
  | [] => []
  | a :: as => match idRuns as with
    | (b :: bs) :: rs => if b = a + 1 then (a :: b :: bs) :: rs else [a] :: (b :: bs) :: rs
    | rs => [a] :: rs

/-! ### Copies of counters and gauges -/

/-- Copy the counters and gauges of the objects that meet a test (16 R463, R465). -/
def State.capture (s : State) (p : Nat → Bool) : Shadow :=
  let objs := ((List.range 16).flatMap s.objects).filter p
  { gen := s.telem.gen
    t := s.now
    counters := objs.foldl (fun m o => (counterIds (objClass o)).foldl (fun m i => smPutD 0 m (telKey i o) (s.counter i o)) m) []
    gauges := s.telem.gauges.filter (fun e => p (e.1 % 2 ^ 32))
    unlocked := s.time.sync != .locked }

/-! ### Forming records (16 R456, R458 to R461) -/

/-- An ID matches a filter of a subscription; an unused filter matches nothing (16 R458). -/
def Sub.wants (u : Sub) (id : Nat) : Bool :=
  u.filters.any (fun f => !(f.1 == 0 && f.2 == 0) && (BitVec.ofNat 32 id &&& f.2) == (f.1 &&& f.2))

/-- The subscription may receive records of an object (16 R459). -/
def State.mayReceive (s : State) (u : Sub) (obj : Nat) : Bool :=
  match u.owner with
  | none => true
  | some i =>
    if objClass obj = 14 then (match s.sess? (objIdx obj) with | some x => x.role == .tenant i | none => false)
    else (match (s.objCtx obj).bind s.ctx? with | some c => c.owner == i | none => false)

/-- A record enters a subscription's queue; a full queue drops its oldest record (16 R460, R461). -/
def Sub.push (u : Sub) (r : TelemRec) : Sub :=
  let full := decide (4096 ≤ u.queue.length)
  { u with
    seq := u.seq + 1
    queue := (if full then u.queue.drop 1 else u.queue) ++ [{ r with seq := u.seq + 1 }]
    lost := if full then min (u.lost + 1) 0xFFFFFFFF else u.lost
    dropped := if full then u.dropped + 1 else u.dropped }

/-- Form a record for the subscription in a handle slot. -/
def State.formTo (s : State) (slot : Nat) (r : TelemRec) : State :=
  match smGet? s.handles.live slot with
  | some (.sub u) =>
    { s with
      handles := { s.handles with live := smPut s.handles.live slot (.sub (u.push r)) }
      telem := if 4096 ≤ u.queue.length then { s.telem with lost := s.telem.lost + 1 } else s.telem }
  | _ => s

/-- The subscriptions, with their handle slots. -/
def State.subs (s : State) : List (Nat × Sub) :=
  s.handles.live.filterMap (fun e => match e.2 with | .sub u => some (e.1, u) | _ => none)

/-- The manager that collects an object's values is restarting (16 R463). -/
def State.objStale (s : State) (obj : Nat) : Bool := (objDie obj).any (fun d => (s.die d).mgr.stale)

/-- The header of a live record of an object, without its `SEQ` (16 R456). -/
def State.recordOf (s : State) (kind id obj : Nat) (body : BitVec 1792) : TelemRec :=
  { t := s.now, gen := 0, id := id, obj := obj, kind := kind, stale := s.objStale obj, snap := false
    unlocked := s.time.sync != .locked, ctx := s.objCtx obj, seq := 0, body := body }

/-- Form a record for every subscription that asked for its kind, matches its ID and may receive its object. -/
def State.formAll (s : State) (kindBit : Nat) (r : TelemRec) : State :=
  (s.subs.filter (fun e => e.2.kinds.getLsbD kindBit && e.2.wants r.id && s.mayReceive e.2 r.obj)).foldl (fun s e => s.formTo e.1 r) s

/-- The `GAUGE` body, from bit 256 of the record on (16 R456). -/
def Gauge.body (g : Gauge) : BitVec 1792 :=
  pack 1792 ([(63, 0, g.min.toNat), (127, 64, g.max.toNat), (191, 128, g.count.toNat), (255, 192, g.sum.toNat)]
    ++ (List.range 32).map (fun i => (48 * i + 303, 48 * i + 256, (g.bins.getD i 0).toNat)))

/-- The `COUNTERS` body of 28 counters from `id` on, read through `f` (16 R456). -/
def countersBody (f : Nat → BitVec 64) (id : Nat) : BitVec 1792 :=
  pack 1792 ((List.range 28).map (fun i => (64 * i + 63, 64 * i, (f (id + i)).toNat)))

/-- State of health as a number. -/
def HealthSt.num : HealthSt → Nat
  | .good => 0 | .watch => 1 | .suspect => 2 | .failed => 3

/-- Cause of a health state, as the `HEALTH` body holds it. -/
def HealthCause.num : HealthCause → Nat
  | .score => 0 | .margin => 1 | .crashLimit => 2 | .bist => 3 | .router => 4 | .repair => 5

/-- The `HEALTH` body of a part (16 R471). -/
def HealthRec.body (h : HealthRec) : BitVec 1792 :=
  pack 1792 [(127, 64, h.changed), (63, 32, h.score.toNat), (7, 4, h.cause.num), (1, 0, h.st.num)]

end Sys2Proof.Machine
end

