-- ==== Sys2Proof/Machine/Complete.lean ====
section
/-! DEFINITION. Queues of operations, completion and completion records (06 R171 to R184), for channels of every
kind. -/

namespace Sys2Proof.Machine

/-- The wait and signal fields of a descriptor (03 R100, 08 R235, 10 R291). -/
structure SyncF where
  /-- Enabled waits in the order in which they are taken (06 R186). -/
  waits : List Nat
  /-- `SIGNAL_ID`, when `SIGNAL_EN` is set. -/
  signal : Option Nat
  /-- `LOCAL_SYNC`. -/
  loc : Bool
  deriving DecidableEq, Repr

/-- The enabled ones of two waits. -/
def waitList (e0 : Bool) (w0 : Nat) (e1 : Bool) (w1 : Nat) : List Nat :=
  (if e0 then [w0] else []) ++ (if e1 then [w1] else [])

/-- The wait and signal fields of a descriptor of a channel kind. -/
def syncF (kind : Nat) (d : BitVec 1024) : SyncF :=
  if kind = 1 then
    { waits := waitList (bitN d 432) (fieldN d 399 384) (bitN d 433) (fieldN d 415 400)
      signal := if bitN d 434 then some (fieldN d 431 416) else none
      loc := bitN d 435 }
  else if kind = 2 then
    { waits := waitList (bitN d 181) (fieldN d 199 184) (bitN d 182) (fieldN d 215 200)
      signal := if bitN d 183 then some (fieldN d 231 216) else none
      loc := false }
  else
    { waits := waitList (bitN d 613) (fieldN d 631 616) (bitN d 614) (fieldN d 647 632)
      signal := if bitN d 615 then some (fieldN d 663 648) else none
      loc := false }

/-- Kind of the channel of an operation. -/
def Op.kind (o : Op) : Nat := hKind o.ch

/-- `OPCODE` of an operation. -/
def Op.opcode (o : Op) : Nat := fieldN o.desc 63 56

/-- Wait and signal fields of an operation. -/
def Op.sync (o : Op) : SyncF := syncF o.kind o.desc

/-- Every enabled wait has been taken. -/
def Op.waitsTaken (o : Op) : Bool := decide (o.sync.waits.length ≤ o.waits)

/-- Two operations stand in one queue: a command queue of a tile, or a copy or collective channel. -/
def Op.sameQueue (a b : Op) : Bool :=
  if a.kind = 1 then b.kind == 1 && a.tile == b.tile && a.queue == b.queue else a.ch == b.ch

/-- The operation waits at its queue. -/
def Op.isQueued (o : Op) : Bool := o.phase == .queued

/-- The operation is not complete (06 R174: a held one counts as complete). -/
def Op.incomplete (o : Op) : Bool := o.phase != .held

/-- The head of the queue that an operation stands in. -/
def State.headLike (s : State) (o : Op) : Option Op := s.ops.find? (fun x => x.isQueued && x.sameQueue o)

/-- The head of command queue `q` of logical tile `l`. -/
def State.headOf (s : State) (l q : Nat) : Option Op :=
  s.ops.find? (fun x => x.isQueued && x.kind == 1 && x.tile == l && x.queue == q)

/-- The head of a copy or collective channel. -/
def State.headOfChan (s : State) (h : W32) : Option Op := s.ops.find? (fun x => x.isQueued && x.ch == h)

/-- The head of a queue has changed, or the queue has become empty: its wait counts from now (06 R193). -/
def State.touchQueue (s : State) (o : Op) : State :=
  if o.kind = 1 then
    s.modTileL o.tile (fun t => { t with
      qSince := modAt t.qSince o.queue (fun _ => s.now)
      parked := t.parked &&& ~~~(1#8 <<< o.queue) })
  else s

/-- 06 R193: the wait of a queue counts anew from the completion of an operation issued from it. -/
def State.unparkQueue (s : State) (o : Op) : State :=
  if o.kind = 1 then s.modTileL o.tile (fun t => { t with parked := t.parked &&& ~~~(1#8 <<< o.queue) }) else s

/-- Note the instant at which each operation became the head of its queue. -/
def State.refreshHeads (s : State) : State :=
  { s with ops := s.ops.map (fun o =>
      if o.isQueued && o.headAt.isNone && ((s.headLike o).map (·.id) == some o.id) then { o with headAt := some s.now }
      else o) }

/-- An operation leaves the head of its queue. -/
def State.leave (s : State) (o : Op) (f : Op → Op) : State :=
  ((s.modOp o.id f).touchQueue o).refreshHeads

/-- The head of a queue of a state is no longer in a later one: its queue counts its wait anew (06 R193). -/
def State.touchDropped (s old : State) : State :=
  ((old.ops.filter (fun o => o.isQueued && ((old.headLike o).map (·.id) == some o.id) && (s.op? o.id).isNone)).foldl
    State.touchQueue s).refreshHeads

/-- Discard operations (06 R171, R161). -/
def State.discard (s : State) (p : Op → Bool) : State := (s.dropOps p).touchDropped s

/-- 06 R171: a fault of a channel; what it discards leaves its queues. -/
def State.faultCh (s : State) (h : W32) (cause : Cause) (index : W32) (keepQueued : Bool) : State :=
  (s.faultChan h cause index keepQueued).touchDropped s

/-! ### Completion records (06 R173 to R175) -/

/-- The status that accompanies a fault cause (06 R175, 08 R238, 10 R319). -/
def Cause.status : Cause → Status
  | .none => .ok
  | .poison | .tileFenced | .peerLost | .memUncorrectable | .collPoison => .hwFault
  | .window | .remoteRefused => .denied
  | _ => .badArg

/-- `STATUS` of a completion record. -/
def Op.status (o : Op) : BitVec 16 := if o.cause = .collAborted then o.abortStatus else o.cause.status.code

/-- The 512 bits of the completion record of an operation of a ring with `ringN` entries. -/
def Op.record (o : Op) (ringN : Nat) (phase : Bool) : BitVec 512 :=
  pack 512 [(511, 448, o.doneAt), (447, 384, o.issueAt), (383, 352, sat32 (o.issueAt - o.headAt.getD o.issueAt)),
    (351, 320, o.satEv), (319, 288, o.nfEv), (191, 160, fieldN o.desc 31 0), (159, 144, o.idx.toNat % ringN),
    (143, 135, o.tile), (127, 96, o.ch.toNat), (95, 80, o.status.toNat), (79, 72, o.cause.num), (71, 64, o.opcode),
    (7, 7, b2n phase), (6, 6, b2n o.skipped), (5, 5, b2n o.frozen), (4, 4, b2n o.dz), (3, 3, b2n o.inv),
    (2, 2, b2n (o.nfEv != 0)), (1, 1, b2n (o.satEv != 0))]

/-- `CONSUMER` after records of the indices `done` have been written (06 R167). -/
def advance : Nat → W32 → List W32 → W32 × List W32
  | 0, c, done => (c, done)
  | n + 1, c, done => if done.contains c then advance n (c + 1) (done.filter (· != c)) else (c, done)

/-- The index of a written record is done. -/
def Chan.retireIdx (c : Chan) (i : W32) : Chan :=
  let r := advance (c.doneIdx.length + 1) c.consumer (c.doneIdx ++ [i])
  { c with consumer := r.1, doneIdx := r.2 }

/-- The completion ring of a channel has room (06 R174). -/
def Chan.hasRoom (c : Chan) : Bool := decide ((c.cplProducer - c.cplConsumer).toNat < c.cplN)

/-- 06 R169: a write to the first line of a control block fires its write-watch, which is armed while the channel is
`RUNNING` or holds completed operations. -/
def State.fireWatches (s : State) (b k : Nat) : State :=
  let armed := fun (h : W32) (c : Chan) => c.st == .running || s.ops.any (fun o => o.ch == h && o.phase == .held)
  { s with handles := { s.handles with live := s.handles.live.map (fun e =>
      match e.2 with
      | .chan c =>
        let a := s.xaddr c.ctx c.ctrl
        if armed (s.handleAt e.1 e.2) c && decide (b < a + 64) && decide (a < b + k) then
          (e.1, .chan { c with fired := true })
        else e
      | _ => e) } }

/-- Write tier memory for a context, firing the write-watches it meets. -/
def State.store (s : State) (c a : Nat) (bs : List Byte) : State :=
  (s.spans c a bs.length).foldl (fun s p => s.fireWatches p.1 p.2) (s.tierWrite c a bs)

/-- Write the completion record of an operation, which then leaves its scoreboard entry (06 R173, R176). -/
def State.writeRecord (s : State) (o : Op) : State :=
  match s.chan? o.ch with
  | none => { s with ops := s.ops.filter (fun x => x.id != o.id) }
  | some c =>
    let phase := (c.cplProducer.toNat / c.cplN) % 2 == 0
    let s1 := s.store c.ctx (c.cpl + 64 * (c.cplProducer.toNat % c.cplN)) (toBytes 64 (o.record c.ringN phase).toNat)
    let s2 : State := { s1 with ops := s1.ops.filter (fun x => x.id != o.id) }
    s2.setChan o.ch (fun c => { c.retireIdx o.idx with cplProducer := c.cplProducer + 1 })

/-- The earliest completed of the held operations of a channel. -/
def State.firstHeld (s : State) (h : W32) : Option Op :=
  (s.ops.filter (fun o => o.ch == h && o.phase == .held)).foldl (fun b o =>
    match b with
    | none => some o
    | some x => if o.doneSeq < x.doneSeq then some o else some x) none

/-- 06 R174: write the records of held operations while the completion ring has room (at most `n` of them). -/
def State.releaseHeld (h : W32) : Nat → State → State
  | 0, s => s
  | n + 1, s =>
    match s.chan? h, s.firstHeld h with
    | some c, some o => if c.hasRoom then State.releaseHeld h n (s.writeRecord o) else s
    | _, _ => s

/-- Multiply-accumulates of a matrix operation (07 R206). -/
def OpD.macs (d : OpD) : Nat := if d.opcode = 2 then d.m * d.n else d.m * d.n * (d.kM1 + 1)

/-- 07 R206: the counts of `KEEP` and `RECOMPUTE` operations of a context. -/
def State.countKept (s : State) (o : Op) : State :=
  let d := OpD.of o.desc
  if o.kind ≠ 1 ∨ o.cause = .validation then s
  else s.modCtx o.ctx (fun x => { x with
    keepOps := if d.keep then x.keepOps + 1 else x.keepOps
    recomputeOps := if d.recompute then x.recomputeOps + 1 else x.recomputeOps
    recomputeMacs := if d.recompute && decide (d.opcode ≤ 2) && !o.frozen && !o.skipped
      then bump x.recomputeMacs d.macs else x.recomputeMacs })

/-- 03, "A scratchpad read feeding the array returns poisoned data": what it leaves in the region of a matrix operation is unspecified. -/
def State.spoil (s : State) (o : Op) : State :=
  let d := OpD.of o.desc
  if o.kind = 1 ∧ o.cause = .poison ∧ d.opcode ≤ 2 ∧ !o.isQueued then
    (s.modTileL o.tile (fun t => d.spoilRegion t s.draw)).use (d.regionRows * 128)
  else s

/-- 11 R342: the class of fault that a completed operation shows to the fault scope, if any: `POISON` is a C-die fault, a
poisoned tier read is an uncorrectable one, and a copy or collective that met poison in a scratchpad is not in the table
(log 84). -/
def State.noteScope (s : State) (o : Op) : State :=
  let due := fun (cls : Nat) (die : Option Nat) => { s with scopeDue := s.scopeDue ++ [⟨cls, some o.ctx, die⟩] }
  match o.cause with
  | .poison => if o.isQueued then s else due 0 (some (s.phys o.tile / 8))
  | .memUncorrectable | .collPoison => if o.spad then s else due 1 none
  | _ => s

/-- The gauges that sample a completed operation: `HEAD_WAIT` of its queue, or `COLL_NS` of its context (16 R457). -/
def State.sampleOp (s : State) (o : Op) : State :=
  if o.kind = 1 then
    s.gaugeSample 0x07000001 (objId 5 (8 * s.phys o.tile + o.queue)) (BitVec.ofNat 64 (sat32 (o.issueAt - o.headAt.getD o.issueAt)))
  else if o.coll.isSome then s.gaugeSample 0x0F000002 (objId 13 o.ctx) (BitVec.ofNat 64 (o.doneAt - o.issueAt))
  else s

/-- 10 R288, R290: a collective that starts, or ends without a start, counts in its stream. -/
def State.passSeq (s : State) (o : Op) : State :=
  match s.chan? o.ch with
  | some c =>
    if o.kind = 3 ∧ o.coll.isNone then
      s.modCtx o.ctx (fun x => { x with streams := smPut x.streams c.stream (max (smGet 0 x.streams c.stream) (o.seq + 1)) })
    else s
  | none => s

/-- Complete an operation (06 R173 to R175, R184): its signal is sent unless it is withheld, its channel faults on a
fault cause, and its record is written, or held while the completion ring is full. `late` is a fault that its signal
meets as it completes (06 R186); it says nothing about what the operation itself read. -/
def State.completeWith (s : State) (id : Nat) (signal : Bool) (late : Cause) : State :=
  match s.op? id with
  | none => s
  | some o0 =>
    let ran := !(o0.skipped || o0.frozen || o0.isQueued)
    let cause := if o0.cause = .none then late else o0.cause
    let o := { o0 with
      phase := .held
      cause := cause
      doneAt := s.now
      issueAt := if ran then o0.issueAt else s.now
      doneSeq := s.useCount }
    let s1 := (((({ s.passSeq o0 with useCount := s.useCount + 1 }).leave o0 (fun _ => o)).unparkQueue o).countKept o |>.spoil o0).noteScope
      { o0 with cause := if o0.kind = 1 then o0.cause else cause }
    let s2 : State :=
      match o.sync.signal with
      | some i =>
        if signal ∧ o.cause = .none then
          { s1 with signals := s1.signals ++ [{ ctx := o.ctx, id := i, loc := o.sync.loc, tile := o.tile, ch := o.ch, idx := o.idx }] }
        else s1
      | none => s1
    let s3 := (if o.cause = .none then s2 else s2.faultCh o.ch o.cause o.idx (o.cause == .validation)).sampleOp o
    match s3.chan? o.ch with
    | some c => if c.hasRoom then s3.writeRecord o else s3
    | none => s3

/-- Complete an operation whose signal meets no fault of its own. -/
def State.completeOp (s : State) (id : Nat) (signal : Bool) : State := s.completeWith id signal .none

/-- Complete an operation with a fault cause. -/
def State.failOp (s : State) (id : Nat) (cause : Cause) : State :=
  (s.modOp id (fun o => { o with cause := if o.cause = .none then cause else o.cause })).completeOp id false

/-- Complete every operation that meets a test with a fault cause, in fetch order. -/
def State.failOps (s : State) (p : Op → Bool) (cause : Cause) : State :=
  ((s.ops.filter (fun o => p o && o.incomplete)).map (·.id)).foldl (fun s i => s.failOp i cause) s

/-- The poison cause of a channel kind (06 R515). -/
def poisonCause (kind : Nat) : Cause := if kind = 1 then .poison else if kind = 2 then .memUncorrectable else .collPoison

/-- 07 R216: an access of a context to a banked range is held while its close waits. -/
def State.bankHeld (s : State) (c a k : Nat) : Bool :=
  match s.ctx? c with
  | none => false
  | some x => x.closing != .idle && x.bank.any (fun e =>
      let n := e.pages * bankPage
      e.banked && ((decide (a < e.base0 + n) && decide (e.base0 < a + k))
        || (decide (a < e.base1 + n) && decide (e.base1 < a + k))))

end Sys2Proof.Machine
end

