-- ==== Sys2Proof/Machine/Aidar.lean ====
section
/-! DEFINITION. Aidar requests: the opcode table of 12 R371, the order of checks (12 R368), serial running on one object
(12 R367), and the records of a request (12 R365). -/

namespace Sys2Proof.Machine

/-! ### Request bodies (12 R373) -/

/-- Bytes `off` to `off + k − 1` of a request's body, little-endian (00 R12). -/
def Req.num (r : Req) (off k : Nat) : Nat := fieldN r.body (8 * (off + k) - 1) (8 * off)

/-- 12 R373: every byte of the body outside the ranges (first byte, count) is 0. -/
def Req.clean (r : Req) (named : List (Nat × Nat)) : Bool :=
  (List.range r.len).all (fun i => named.any (fun n => decide (n.1 ≤ i) && decide (i < n.1 + n.2)) || r.num i 1 == 0)

/-! ### The opcode table (12 R371) -/

/-- The roles that may issue a command (12 R371). -/
inductive Who where
  | any | operator | tenant | opOrTenant
  deriving DecidableEq, Repr

/-- A row of the opcode table. -/
structure OpInfo where
  /-- Least minor revision (12 R370). -/
  minor : Nat := 0
  /-- Roles. -/
  who : Who
  /-- Lengths that `BODY_LEN` may have, as a first and a last. -/
  lens : List (Nat × Nat)
  /-- The command is allowed in `BOOT`. -/
  boot : Bool := false
  /-- The command is allowed in `SAFE`. -/
  safe : Bool := true
  deriving DecidableEq, Repr

/-- The rows of the opcode table (12 R371), with the lengths of R373 and of each command's home rule. -/
def opInfo (op : Nat) : Option OpInfo :=
  match op with
  | 0x0001 => some { who := .any, lens := [(4, 4), (8, 8)], boot := true }
  | 0x0002 => some { who := .any, lens := [(0, 0)], boot := true }
  | 0x0003 => some { who := .any, lens := [(0, 0)], boot := true }
  | 0x0101 => some { who := .tenant, lens := [(16, 16)], safe := false }
  | 0x0102 => some { who := .tenant, lens := [(96, 96)], safe := false }
  | 0x0103 => some { who := .tenant, lens := [(1, 1)] }
  | 0x0104 => some { who := .tenant, lens := [(1, 1)] }
  | 0x0201 => some { who := .tenant, lens := [(64, 64)], safe := false }
  | 0x0202 => some { who := .tenant, lens := [(12, 12)], safe := false }
  | 0x0203 => some { who := .tenant, lens := [(4, 4)] }
  | 0x0204 => some { who := .opOrTenant, lens := [(4, 4)] }
  | 0x0205 => some { who := .opOrTenant, lens := [(4, 4)] }
  | 0x0206 => some { who := .tenant, lens := [(32, 32)], safe := false }
  | 0x0207 => some { who := .tenant, lens := [(32, 32)], minor := 2 }
  | 0x0208 => some { who := .tenant, lens := [(4, 4)] }
  | 0x0301 => some { who := .operator, lens := [(4, 4)] }
  | 0x0302 => some { who := .operator, lens := [(8, 8)], safe := false }
  | 0x0303 => some { who := .operator, lens := [(432, 432)] }
  | 0x0304 => some { who := .operator, lens := [(112, 112)], safe := false }
  | 0x0305 => some { who := .operator, lens := [(1, 1)] }
  | 0x0306 => some { who := .operator, lens := [(4, 4)] }
  | 0x0307 => some { who := .operator, lens := [(112, 112)] }
  | 0x0401 => some { who := .opOrTenant, lens := [(416, 416)], boot := true }
  | 0x0402 => some { who := .operator, lens := [(24, 24)] }
  | 0x0410 => some { who := .operator, lens := [(16, 16)] }
  | 0x0501 => some { who := .operator, lens := [(20, 20)] }
  | 0x0502 => some { who := .operator, lens := [(20, 20)] }
  | 0x0510 => some { who := .operator, lens := [(3, 3)] }
  | 0x0511 => some { who := .operator, lens := [(2, 2)] }
  | 0x0512 => some { who := .operator, lens := [(4, 4)] }
  | 0x0513 => some { who := .operator, lens := [(16, 16)] }
  | 0x0601 => some { who := .any, lens := [(1, 432)], boot := true }
  | 0x0602 => some { who := .any, lens := [(1, 432)], boot := true }
  | 0x0603 => some { who := .tenant, lens := [(106, 106)], safe := false }
  | 0x0701 => some { who := .operator, lens := [(8, 8)] }
  | 0x0F01 => some { who := .operator, lens := [(112, 112)] }
  | 0x0F02 => some { who := .operator, lens := [(16, 16)] }
  | 0x0F03 => some { who := .operator, lens := [(24, 24)] }
  | _ => none

/-- The package state allows a command (12 R371): `READY` and `ACTIVE` allow every one. -/
def OpInfo.allows (i : OpInfo) (st : PkgSt) : Bool :=
  match st with
  | .standby => false
  | .boot => i.boot
  | .safe => i.safe
  | .ready | .active => true

/-- The role may issue a command (12 R371, R372). -/
def OpInfo.admits (i : OpInfo) (r : Role) : Bool :=
  match i.who, r with
  | .any, _ => true
  | .operator, .operator => true
  | .tenant, .tenant _ => true
  | .opOrTenant, .operator => true
  | .opOrTenant, .tenant _ => true
  | _, _ => false

/-! ### Objects (12 R367) -/

/-- Bits of a mask, as objects of a kind. -/
def maskObjs (kind n m : Nat) : List (Nat × Nat) := ((List.range n).filter (fun i => m.testBit i)).map (fun i => (kind, i))

/-- The objects that a request names, as (kind, number): 0 context, 1 handle, 2 queue pair, 3 die, 4 torus port,
5 Ethernet port, 6 memory device (12 R367). -/
def Req.objects (r : Req) : List (Nat × Nat) :=
  match r.opcode.toNat with
  | 0x0102 => [(0, r.num 0 1), (1, r.num 4 4)]
  | 0x0103 | 0x0104 | 0x0603 => [(0, r.num 0 1)]
  | 0x0201 => (0, r.num 1 1) :: (if r.num 0 1 = 2 ∧ r.num 4 1 ≠ 0xFF then [(3, 64 + r.num 4 1)] else [])
  | 0x0202 | 0x0203 | 0x0204 | 0x0205 => [(1, r.num 0 4)]
  | 0x0206 => [(0, r.num 0 1), (5, r.num 1 1)]
  | 0x0207 | 0x0208 => [(2, r.num 0 4)]
  | 0x0303 => maskObjs 4 12 (r.num 0 2)
  | 0x0306 => maskObjs 4 12 (r.num 0 2)
  | 0x0307 => [(5, r.num 0 1)]
  | 0x0401 => [(5, 4 + r.num 1 1)]
  | 0x0410 => (maskObjs 5 4 (r.num 3 1)).map (fun o => (o.1, 4 + o.2))
  | 0x0502 => maskObjs 3 88 (r.num 4 11)
  | 0x0510 | 0x0511 => [(3, r.num 0 1)]
  | 0x0512 => [(3, r.num 0 1)] ++ (if r.num 3 1 = 0xFF then [] else [(3, r.num 3 1)])
  | 0x0513 => [(6, 256 * r.num 0 1 + r.num 1 1)]
  | _ => []

/-- A request does not wait for an earlier one of the same object: a `CTX_DESTROY` for a `CTX_QUIESCE` under way (06, "When
scheduling events meet"), and a `FW_ACTIVATE` for one of the same class under way, which refuses it (13 R389). -/
def Req.passes (r q : Req) : Bool :=
  q.started && ((r.opcode == 0x0104 && q.opcode == 0x0103) || (r.opcode == 0x0502 && q.opcode == 0x0502 && r.num 0 1 == q.num 0 1))

/-- An earlier request that has not completed, of any session, names an object that this one names (12 R367). -/
def State.objBusy (s : State) (r : Req) : Bool :=
  s.sess.any (fun e => e.2.reqs.any (fun q => decide (q.order < r.order) && q.result.isNone && q.objects.any r.objects.contains
    && !r.passes q))

/-! ### Records of a request (12 R364, R365) -/

/-- The record of a request. -/
def Req.record (r : Req) (kind : Nat) (st : BitVec 16) (code : BitVec 8) (body : BitVec 3456) (len t : Nat) (fin : Bool) : Record :=
  { kind := kind, slot := BitVec.ofNat 8 r.slot, stateCode := code, len := len, opcode := r.opcode, status := st, seq := r.seq
    t := t, body := body, fin := fin }

/-- The acknowledgement record of a request (12 R365). -/
def Req.ack (r : Req) (t : Nat) : Record := r.record 1 Status.accepted.code 0 0 0 t false

/-- A request completes: an acknowledgement goes first when 50 µs have passed, and its result record is written as far
as the ring has room; the records of a session that has ended are discarded (12 R365, "When session events coincide"). -/
def State.finishReq (s : State) (n : Nat) (r : Req) (st : BitVec 16) (code : BitVec 8) (body : BitVec 3456) (len : Nat) (fin : Bool) : State :=
  match s.sess? n with
  | none => s
  | some x =>
    let rest := x.reqs.filter (fun q => q.order != r.order)
    if r.issuer.isSome then
      if x.closed && rest.isEmpty then { s with sess := smErase s.sess n } else s.modSess n (fun x => { x with reqs := rest })
    else
      let late := if !r.acked && decide (r.takenAt + 50000 < s.now) then [r.ack s.now] else []
      (s.modSess n (fun x => { x with
        reqs := rest
        results := x.results ++ late ++ [r.record 2 st code body len s.now fin] })).flush n

/-- The outcome of a request's checks and effect. -/
inductive CmdOut where
  /-- a check failed: the status, and the state code that goes with `ST_STATE_CONFLICT` -/
  | refuse (st : Status) (code : Nat)
  /-- the command has completed, with its status and result body -/
  | done (s : State) (st : Status) (body : BitVec 3456) (len : Nat)
  /-- the command has begun, and completes later -/
  | wait (s : State)
  deriving DecidableEq, Repr

/-- The command has completed with `ST_OK` and no result body. -/
def CmdOut.ok (s : State) : CmdOut := .done s .ok 0 0

/-- The session holds keys, and the result record of its `FINISH` is still to be written (14 R408). -/
def State.finishing (s : State) (n : Nat) (r : Req) : Bool := r.opcode == 0x0602 && (s.sess? n).any (fun x => x.keys.isSome && !x.sealOn)

/-- Apply an outcome to the request. -/
def State.answer (s : State) (n : Nat) (r : Req) (o : CmdOut) : State :=
  match o with
  | .refuse st code => s.finishReq n r st.code (BitVec.ofNat 8 code) 0 0 false
  | .done s1 st body len => s1.finishReq n r st.code 0 body len (s1.finishing n r)
  | .wait s1 => s1.modSess n (fun x => { x with reqs := x.reqs.map (fun q => if q.order = r.order then { q with started := true } else q) })

/-- A check that refuses: (it fails, the status, the state code). -/
abbrev Check := Bool × Status × Nat

/-- Run a list of checks in order, and then the effect (12 R368). -/
def checked (cs : List Check) (k : CmdOut) : CmdOut :=
  match cs.find? (·.1) with
  | some c => .refuse c.2.1 c.2.2
  | none => k

/-- Check 7 of 12 R368. -/
def badArg (b : Bool) : Check := (b, .badArg, 0)

/-- Check 8 of 12 R368: the package state (12 R371). -/
def State.pkgCheck (s : State) (r : Req) : Check :=
  (!((opInfo r.opcode.toNat).any (fun i => i.allows s.pkg.st)), .stateConflict, 0x10 + s.pkg.st.num)

/-- Checks 2 to 5 of 12 R368. -/
def earlyChecks (x : Sess) (r : Req) : List Check :=
  let op := r.opcode.toNat
  let hello := op == 1
  match opInfo op with
  | none => [(!hello && x.restarted, .restarted, 0), (!hello && !x.helloDone, .stateConflict, 0x5F), (true, .badArg, 0)]
  | some i =>
    [(!hello && x.restarted, .restarted, 0), (!hello && !x.helloDone, .stateConflict, 0x5F),
      (decide (x.minor < i.minor) || !i.lens.any (fun l => decide (l.1 ≤ r.len) && decide (r.len ≤ l.2)), .badArg, 0),
      (!i.admits x.role, .denied, 0)]

/-- Check 6 of 12 R368 for a context ID (06 R158). -/
def ctxCheck (s : State) (x : Sess) (c : Nat) : List Check :=
  match s.ctx? c with
  | none => [(true, .badArg, 0)]
  | some y => [((match x.role with | .tenant i => y.owner != i | _ => true), .denied, 0)]

/-- Check 8 of 12 R368 for the state of a context. -/
def ctxStCheck (s : State) (c : Nat) (states : List CtxSt) : Check :=
  match s.ctx? c with
  | none => (true, .badArg, 0)
  | some y => (!states.contains y.st, .stateConflict, 0x20 + y.st.num)

/-- The session as the checks of one of its requests see it: a request of an ended session is checked as that session
stood. -/
def Sess.asOf (x : Sess) (r : Req) : Sess :=
  match r.issuer with
  | none => x
  | some i => { x with role := i.role, minor := i.minor, helloDone := i.helloDone, restarted := i.restarted }

/-- The request that a command row runs: taken, not begun, and with no outcome yet. -/
def State.waiting? (s : State) (n : Nat) (seq : W32) (opcode : Nat) (sel : Req → Bool) : Option (Sess × Req) :=
  match s.sess? n with
  | none => none
  | some x => (x.reqs.find? (fun r => r.seq == seq && r.opcode.toNat == opcode && !r.started && r.result.isNone && sel r)).map (fun r => (x.asOf r, r))

/-- Run the request of session `n` with this `SEQ` and opcode: it reaches its object when no earlier command on that
object is under way, and is checked in the order of 12 R368.  The package manager must run. -/
def State.runReq (s : State) (n : Nat) (seq : W32) (opcode : Nat) (sel : Req → Bool) (core : Sess → Req → CmdOut) : State :=
  match s.waiting? n seq opcode sel with
  | none => s
  | some (x, r) =>
    if s.pkg.mgr.st ≠ .running ∨ s.objBusy r then s
    else s.answer n r (checked (earlyChecks x r) (core x r))

/-- A command's outcome is `ST_OK`. -/
def CmdOut.isOk : CmdOut → Bool
  | .done _ st _ _ => st == .ok
  | _ => false

/-- Run a request, and after the record of its success what its rule puts there. -/
def State.runThen (s : State) (n : Nat) (seq : W32) (opcode : Nat) (core : Sess → Req → CmdOut) (after : Req → State → State) : State :=
  let t := s.runReq n seq opcode (fun _ => true) core
  match s.waiting? n seq opcode (fun _ => true) with
  | none => t
  | some (x, r) =>
    if s.pkg.mgr.st = .running ∧ !s.objBusy r ∧ (checked (earlyChecks x r) (core x r)).isOk then after r t else t

/-- The answer of an Aidar command's row. -/
def aidar (n : Fin 64) (seq : W32) (opcode : Nat) (s : State) (core : Sess → Req → CmdOut) : Ans :=
  .next (s.runReq n.val seq opcode (fun _ => true) core)

/-- Give an outcome, with its status as a number, to the requests that have begun and meet a test; `COMMAND_COMPLETE`
writes their records. -/
def State.resolveCode (s : State) (p : Req → Bool) (st : BitVec 16) (code : Nat) (body : BitVec 3456) (len : Nat) : State :=
  { s with sess := s.sess.map (fun e => (e.1, { e.2 with
      reqs := e.2.reqs.map (fun q => if q.started && q.result.isNone && p q then { q with result := some (st, BitVec.ofNat 8 code, body, len) } else q) })) }

/-- Give an outcome to the requests that have begun and meet a test. -/
def State.resolve (s : State) (p : Req → Bool) (st : Status) (code : Nat) (body : BitVec 3456) (len : Nat) : State :=
  s.resolveCode p st.code code body len

/-- `COMMAND_COMPLETE`: the result record of a long-running command that has completed is written (12 R365). -/
def execCommandComplete (sess : Fin 64) (seq : W32) (s : State) : Ans :=
  match s.sess? sess.val with
  | none => .next s
  | some x =>
    match x.reqs.find? (fun r => r.seq == seq && r.result.isSome) with
    | none => .next s
    | some r => match r.result with
      | none => .next s
      | some v => .next (s.finishReq sess.val r v.1 v.2.1 v.2.2.1 v.2.2.2 false)

end Sys2Proof.Machine
end

