-- ==== Sys2Proof/Machine/Addr.lean ====
section
/-! DEFINITION. Local and global addresses (01 R43 to R50), and memory as copies and collectives reach it. -/

namespace Sys2Proof.Machine

/-- Populated bytes of Tier F. -/
def tierFSize : Nat := 0x016800000000

/-- Base of Tier S. -/
def tierSBase : Nat := 0x100000000000

/-- Populated bytes of Tier S. -/
def tierSSize : Nat := 0x028000000000

/-- Base of the scratchpad windows. -/
def spadBase : Nat := 0xF00000000000

/-- What a local address names (01 R43, R44). -/
inductive Place where
  /-- Tier F or Tier S -/
  | tier
  /-- offset `off` of the scratchpad of a logical tile -/
  | spad (tile off : Nat)
  /-- offset `off` of the accumulator debug window of a logical tile -/
  | debug (tile off : Nat)
  /-- unmapped, or control and status space -/
  | unmapped
  deriving DecidableEq, Repr

/-- Decode a local address. -/
def placeOf (a : Nat) : Place :=
  if a < tierFSize ∨ (tierSBase ≤ a ∧ a < tierSBase + tierSSize) then .tier
  else if spadBase ≤ a ∧ a < spadBase + 480 * 0x1000000 then
    let l := (a - spadBase) / 0x1000000
    let o := (a - spadBase) % 0x1000000
    if o < 0x800000 then .spad l o else if o < 0xA00000 then .debug l (o - 0x800000) else .unmapped
  else .unmapped

/-- The local address lies in a scratchpad. -/
def inSpad (a : Nat) : Bool :=
  match placeOf a with
  | .spad _ _ => true
  | _ => false

/-- The local address lies in Tier S. -/
def inTierS (a : Nat) : Bool := decide (tierSBase ≤ a)

/-- The `k` bytes from `a` stay in one populated range (01 R43, R45). -/
def rangeMapped (a k : Nat) : Bool :=
  match placeOf a with
  | .tier => if inTierS a then decide (a + k ≤ tierSBase + tierSSize) else decide (a + k ≤ tierFSize)
  | .spad _ o => decide (o + k ≤ 0x800000)
  | .debug _ o => decide (o + k ≤ 0x200000)
  | .unmapped => false

/-- `LOCAL` of a global address (01 R46). -/
def gLocal (g : W64) : Nat := fieldN g 47 0

/-- Coordinates of a global address, as `DST` holds them. -/
def gXyz (g : W64) : BitVec 12 := BitVec.ofNat 12 (fieldN g 63 52)

/-- Bits [51:48] of a global address are 0 (01 R47). -/
def gPadOk (g : W64) : Bool := fieldN g 51 48 == 0

/-- A context reaches the `k` bytes from a local address: inside windows of its, or in the scratchpad of one of its tiles
(01 R50, 08 R229). -/
def State.reaches (s : State) (c a k : Nat) : Bool :=
  rangeMapped a k &&
  (match placeOf a with
    | .tier => s.covered c a k
    | .spad l _ => (match s.ctx? c with | some x => x.tiles.contains l | none => false)
    | _ => false)

/-- Read `k` bytes at a local address for a context. -/
def State.readAt (s : State) (c a k : Nat) : Nat :=
  match placeOf a with
  | .tier => s.tierRead c a k
  | .spad l o => memReadN (s.tileL l).sp o k
  | .debug l o => ofBytes ((List.range k).map (fun i => byteOf (smGet 0 (s.tileL l).acc ((o + i) / 4)).toNat ((o + i) % 4)))
  | .unmapped => 0

/-- A read of `k` bytes at a local address meets poison. -/
def State.badRead (s : State) (c a k : Nat) : Bool :=
  match placeOf a with
  | .tier => s.tierBad c a k
  | .spad l o => (s.tileL l).bad o k
  | _ => false

/-- Write bytes at a local address for a context. -/
def State.writeAt (s : State) (c a : Nat) (bs : List Byte) : State :=
  match placeOf a with
  | .tier => s.store c a bs
  | .spad l o => s.modTileL l (fun t => t.writeBytes o bs)
  | _ => s

/-- Some of the `k` bytes from `a` lie in a line that moves into the line-sparing store (08 R247). -/
def State.lineMoving (s : State) (c a k : Nat) : Bool :=
  s.devices.any (fun d => !d.movingLines.isEmpty)
    && (s.linesOf c a k).any (fun l => (s.lineAt l).any (fun e => (s.dev e.1).movingLines.contains e.2))

/-- An access of a context to a local address is held: by a close (07 R216), by a line that moves into the
line-sparing store (08 R247), or by a change of binding (01 R41). -/
def State.accessHeld (s : State) (c a k : Nat) : Bool :=
  match placeOf a with
  | .tier => s.bankHeld c a k || s.lineMoving c a k
  | .spad l _ => s.pkg.remapHold.contains l
  | _ => false

/-- Mark what was written to the `k` bytes from `a` as poisoned (08 R239). -/
def State.poisonWrite (s : State) (c a k : Nat) : State :=
  match placeOf a with
  | .tier => s.tierPoisonAt c a k
  | .spad l o => s.modTileL l (fun t => t.poisonAt o k)
  | _ => s

/-- 08 R231: lines of a device that latency-critical reads may take in an interval of 1 µs. -/
def lcCap (d : Nat) : Nat := if d < 20 then 8000 else 133

/-- Lines of a tier that the `k` bytes from a local address reach. -/
def State.tierLines (s : State) (c a k : Nat) : List Nat :=
  match placeOf a with
  | .tier => s.linesOf c a k
  | _ => []

/-- 08 R232: latency-critical reads of lines: each counts in its device's interval, or is served as a stream read and
counted in `LC_DEMOTED`. -/
def State.lcLines (s : State) (ls : List Nat) : State :=
  ls.foldl (fun s l =>
    match s.deviceAt (64 * l) with
    | some d => s.modDev d (fun x => if x.lcUsed < lcCap d then { x with lcUsed := x.lcUsed + 1 } else { x with lcDemoted := x.lcDemoted + 1 })
    | none => s) s

/-- A latency-critical read of the `k` bytes from `a`. -/
def State.lcRead (s : State) (c a k : Nat) : State := s.lcLines (s.tierLines c a k)

/-- What reading the `k` bytes from a local address leaves: lines found poisoned are counted (08 R222). -/
def State.noteRead (s : State) (c a k : Nat) : State := s.countPoison (s.tierLines c a k)

end Sys2Proof.Machine
end

