-- ==== Sys2Proof/Machine/Func.lean ====
section
/-! DEFINITION. The functions of 05 R144: for each input the exact result where it is an FP32 value, and else one of
the two FP32 values that bracket it, which the opaque mapping `Config.fnPick` chooses.  The bracket is found by
fixed-point arithmetic with 512 fraction bits. -/

namespace Sys2Proof.Machine

/-- One in the fixed-point arithmetic of this file. -/
def fxOne : Int := 2 ^ 512

/-- Product of two fixed-point numbers. -/
def fxMul (a b : Int) : Int := a * b / fxOne

/-- A rational in fixed point. -/
def fxOf (x : Rat) : Int := x.num * fxOne / (x.den : Int)

/-- A fixed-point number as a rational. -/
def fxRat (a : Int) : Rat := mkRat a (2 ^ 512)

/-- Taylor terms of e^y from term `k` on: `t` is the present term and `acc` the sum so far. -/
def fxExpTerms (y : Int) : Nat → Nat → Int → Int → Int
  | 0, _, _, acc => acc
  | n + 1, k, t, acc => fxExpTerms y n (k + 1) (fxMul t y / ((k + 1 : Nat) : Int)) (acc + t)

/-- Square a fixed-point number `n` times. -/
def fxSquare : Nat → Int → Int
  | 0, a => a
  | n + 1, a => fxSquare n (fxMul a a)

/-- e^x for |x| at most 128, by Taylor series of x / 2^20 and 20 squarings. -/
def expQ (x : Rat) : Rat :=
  let a := absQ x
  let e := fxSquare 20 (fxExpTerms (fxOf (a / ((2 ^ 20 : Nat) : Rat))) 34 0 fxOne 0)
  if x < 0 then 1 / fxRat e else fxRat e

/-- Terms z^(2k+1) / (2k+1), with the sign alternating when `alt`: the series of artanh and of arctan. -/
def fxOddTerms (alt : Bool) (z2 : Int) : Nat → Nat → Int → Int → Int
  | 0, _, _, acc => acc
  | n + 1, k, p, acc =>
    let t := p / ((2 * k + 1 : Nat) : Int)
    fxOddTerms alt z2 n (k + 1) (fxMul p z2) (if alt && k % 2 == 1 then acc - t else acc + t)

/-- artanh z (or arctan z) for a rational z of magnitude at most 1/3. -/
def fxOdd (alt : Bool) (z : Rat) : Int :=
  let y := fxOf z
  fxOddTerms alt (fxMul y y) 175 0 y 0

/-- ln x of a positive rational. -/
def lnQ (x : Rat) : Rat :=
  let e := log2Floor x
  let m := x / pow2 e
  fxRat (2 * fxOdd false ((m - 1) / (m + 1)) + e * (2 * fxOdd false (mkRat 1 3)))

/-- π, by Machin's formula. -/
def piQ : Rat := fxRat (16 * fxOdd true (mkRat 1 5) - 4 * fxOdd true (mkRat 1 239))

/-- ⌊√n⌋ found bit by bit from bit `b - 1` down, `r` being the part found. -/
def isqrtBits (n : Nat) : Nat → Nat → Nat
  | 0, r => r
  | b + 1, r => let c := r + 2 ^ b; isqrtBits n b (if c * c ≤ n then c else r)

/-- ⌊√n⌋. -/
def isqrt (n : Nat) : Nat := isqrtBits n (Nat.log2 n / 2 + 1) 0

/-- √x of a non-negative rational, exact when x is the square of a rational, else below it by less than one part
in 2^512. -/
def sqrtQ (x : Rat) : Rat :=
  let n := x.num.toNat
  let d := x.den
  if isqrt n * isqrt n = n ∧ isqrt d * isqrt d = d then mkRat (isqrt n : Int) (isqrt d)
  else mkRat (isqrt (n * d * 2 ^ 1024) : Int) (d * 2 ^ 512)

/-- The terms x^(2k+1) / (1·3·5⋯(2k+1)) of Φ. -/
def fxPhiTerms (x2 : Int) : Nat → Nat → Int → Int → Int
  | 0, _, _, acc => acc
  | n + 1, k, t, acc => fxPhiTerms x2 n (k + 1) (fxMul t x2 / ((2 * k + 3 : Nat) : Int)) (acc + t)

/-- Φ(x), the standard normal distribution function, for |x| at most 16. -/
def phiQ (x : Rat) : Rat :=
  let a := absQ x
  let y := fxOf a
  let s := fxRat (fxPhiTerms (fxMul y y) 900 0 y 0) * expQ (-(a * a) / 2) / sqrtQ (2 * piQ)
  if x < 0 then mkRat 1 2 - s else mkRat 1 2 + s

/-- Clamp to the magnitude `b`: beyond it the functions lie between the same two FP32 values. -/
def clampQ (b x : Rat) : Rat := max (-b) (min b x)

/-- An FP32 result of a function, with the exceptions of 05 R147. -/
structure FnRes where
  /-- The FP32 value. -/
  v : Val
  /-- `INVALID` was raised. -/
  inv : Bool := false
  /-- `DIV_ZERO` was raised. -/
  dz : Bool := false
  /-- The result saturated (05 R143). -/
  sat : Bool := false
  deriving DecidableEq, Repr

/-- The FP32 value that the mapping gives for an exact result `y`, whose sign when it is zero is `neg`: `y` itself
when it is an FP32 value, else one of the two that bracket it (05 R144), limited by 05 R143. -/
def bracket (op : Nat) (x y : Rat) (neg : Bool) : FnRes :=
  if y = 0 then ⟨.fin 0 neg, false, false, false⟩
  else
    let a := absQ y
    let ulp := pow2 (max (log2Floor a) (-126) - 23)
    let lo := ((a / ulp).floor : Rat) * ulp
    let m := if lo = a then a else if Config.fnPick op x then lo + ulp else lo
    let sg := decide (y < 0)
    if Fmt.maxFinite .fp32 < m then
      ⟨.ofRat (if sg then -(Fmt.maxFinite .fp32) else Fmt.maxFinite .fp32), false, false, true⟩
    else ⟨.fin (if sg then -m else m) sg, false, false, false⟩

/-- 1 / (1 + e^(−x)), clamped where its brackets no longer change. -/
def sigmoidQ (x : Rat) : Rat := 1 / (1 + expQ (-(clampQ 128 x)))

/-- The real function of an opcode on a finite input for which it is defined (05 R144). -/
def fnReal (op : Nat) (x : Rat) : Rat :=
  match op with
  | 0x20 => expQ (clampQ 128 x)
  | 0x21 => if x = 1 then 0 else lnQ x
  | 0x22 => sqrtQ (1 / x)
  | 0x23 => 1 / x
  | 0x24 => sqrtQ x
  | 0x25 => if x = 0 then 0 else let e := expQ (2 * clampQ 64 x); (e - 1) / (e + 1)
  | 0x26 => sigmoidQ x
  | 0x27 => if x = 0 then 0 else if 16 < x then x * (1 - pow2 (-200)) else if x < -16 then -(pow2 (-200)) else x * phiQ x
  | _ => if x < -128 then -(pow2 (-200)) else x * sigmoidQ x

/-- The functions with opcodes 0x20 to 0x28 (05 R144, R147). -/
def fnEval (op : Nat) (a : Val) : FnRes :=
  match a with
  | .nan => ⟨.nan, false, false, false⟩
  | .inf n =>
    match op with
    | 0x20 => ⟨if n then Val.zero else .inf false, false, false, false⟩
    | 0x21 | 0x22 | 0x24 =>
      if n then ⟨.nan, true, false, false⟩
      else ⟨if op == 0x22 then Val.zero else .inf false, false, false, false⟩
    | 0x23 => ⟨.fin 0 n, false, false, false⟩
    | 0x25 => ⟨.ofRat (if n then -1 else 1), false, false, false⟩
    | 0x26 => ⟨.ofRat (if n then 0 else 1), false, false, false⟩
    | _ => if n then ⟨.fin 0 true, false, false, false⟩ else ⟨.inf false, false, false, false⟩
  | .fin x nz =>
    let neg := (Val.fin x nz).neg
    match op with
    | 0x21 => if x = 0 then ⟨.inf true, false, true, false⟩ else if x < 0 then ⟨.nan, true, false, false⟩
              else bracket op x (fnReal op x) false
    | 0x22 => if x = 0 then ⟨.inf neg, false, true, false⟩ else if x < 0 then ⟨.nan, true, false, false⟩
              else bracket op x (fnReal op x) false
    | 0x23 => if x = 0 then ⟨.inf neg, false, true, false⟩ else bracket op x (fnReal op x) neg
    | 0x24 => if x < 0 then ⟨.nan, true, false, false⟩ else bracket op x (fnReal op x) neg
    | 0x20 | 0x26 => bracket op x (fnReal op x) false
    | _ => bracket op x (fnReal op x) neg

end Sys2Proof.Machine
end

