-- ==== Sys2Proof/Machine/Health.lean ====
section
/-! DEFINITION. Health scores and states of parts (16 R470, R471), and object IDs (16 R456). -/

namespace Sys2Proof.Machine

/-- Object ID of a die: C-die, M-die or P-die. -/
def dieObj (d : Nat) : Nat := objId (if d < 64 then 1 else if d < 84 then 2 else 3) d

/-- Object ID of a memory device: stack or package. -/
def devObj (d : Nat) : Nat := if d < 20 then objId 7 d else objId 8 (d - 20)

/-- Object ID of lane `k` of a port. -/
def laneObj (j k : Nat) : Nat := objId 10 (9 * j + k)

/-- The die that hosts a part. -/
def hostDie (id : Nat) : Nat := (objDie id).getD 0

/-- Thresholds of `WATCH`, `SUSPECT` and `FAILED` of a part (16 R470). -/
def healthLimits (id : Nat) : Nat × Nat × Nat :=
  match id / 2 ^ 24 with
  | 8 => (500, 2500, 10000)
  | 10 => (200, 1000, 5000)
  | _ => (1000, 5000, 20000)

/-- Health of a part. -/
def State.health (s : State) (id : Nat) : HealthRec := smGet {} s.telem.health id

/-- Change the health of a part. -/
def State.modHealth (s : State) (id : Nat) (f : HealthRec → HealthRec) : State :=
  { s with telem := { s.telem with health := smPut s.telem.health id (f (s.health id)) } }

/-- The repair record in effect: the valid copy with the higher sequence number (17 R483). -/
def Pkg.record (p : Pkg) : Repair :=
  if p.flashB.valid && (!p.flashA.valid || decide (p.flashA.seq < p.flashB.seq)) then p.flashB else p.flashA

/-- Change both copies of the repair record, each with the next sequence number (17 R483). -/
def State.modRepair (s : State) (f : Repair → Repair) : State :=
  let n := max s.pkg.flashA.seq s.pkg.flashB.seq + 1
  s.modPkg (fun p =>
    let r := { f p.record with seq := n, valid := true }
    { p with flashA := r, flashB := r })

/-- Write the remap table, the states of the C-dies and the unusable tiles into the repair record (01 R39, 17 R483). -/
def State.saveBinding (s : State) : State :=
  s.modRepair (fun r => { r with
    remap := if s.pkg.activeBank then s.pkg.bank1 else s.pkg.bank0
    gen := s.pkg.generation
    bank := s.pkg.activeBank
    cstate := (s.dies.take 64).map (·.cstate)
    unusable := (s.tiles.filter (fun e => e.2.unusable)).map (·.1) })

/-- 16 R470: write scores and states into the repair record. -/
def State.persistHealth (s : State) : State := s.modRepair (fun r => { r with health := s.telem.health })

/-- A part enters a health state (16 R460, R471): the event is raised, a `HEALTH` record formed, the record in flash written, and a C-die that
becomes `SUSPECT` or `FAILED`, or another die that becomes `FAILED`, is a fault that the fault scope acts on. -/
def State.enterHealth (s : State) (id : Nat) (st : HealthSt) (cause : HealthCause) : State :=
  let s1 := s.modHealth id (fun h => { h with
    st := st
    cause := cause
    changed := s.now
    score := if cause = .repair then 0 else h.score })
  let s2 := s1.event (0x0600 + st.num) 2 (hostDie id) none (pack 3328 [(31, 0, id), (63, 32, (s1.health id).score.toNat)])
  let s3 := (s2.formAll 2 (s2.recordOf 4 (Config.recordId 4).toNat id (s2.health id).body)).persistHealth
  let cls := id / 2 ^ 24
  let due := fun (k : Nat) => { s3 with scopeDue := s3.scopeDue ++ [⟨k, none, some (id % 2 ^ 24)⟩] }
  if cls = 1 ∧ st = .failed then due 0
  else if cls = 1 ∧ st = .suspect then due 5
  else if (cls = 2 ∨ cls = 3) ∧ st = .failed then due 2
  else s3

/-- The state that a score asks for when it rises (16 R471). -/
def risenState (id : Nat) (score : W32) (old : HealthSt) : HealthSt :=
  let l := healthLimits id
  let reach := fun (n : Nat) => !ltV (ofF32 score) (.ofRat n)
  if old = .failed ∨ reach l.2.2 then .failed
  else if old = .suspect ∨ reach l.2.1 then .suspect
  else if old = .watch ∨ reach l.1 then .watch
  else .good

/-- 16 R470: an event adds its weight to the score of a part; of two thresholds crossed, the higher state is entered. -/
def State.addScore (s : State) (id : Nat) (weight : Rat) : State :=
  let s1 := s.modHealth id (fun h => { h with score := toF32 .rne (addV .rne (ofF32 h.score) (.ofRat weight)).v })
  let h := s1.health id
  let st := risenState id h.score h.st
  if st = h.st then s1 else s1.enterHealth id st .score

/-- A direct cause puts a part into `SUSPECT` or `FAILED`, when that is a higher state (16 R471). -/
def State.directHealth (s : State) (id : Nat) (st : HealthSt) (cause : HealthCause) : State :=
  let s1 := s.modHealth id (fun h => { h with directAt := some s.now })
  if (s1.health id).st.num < st.num then s1.enterHealth id st cause else s1

/-- A margin of a part stands beyond its `WATCH` threshold (16 R469). -/
def State.marginWatch (s : State) (id : Nat) : State :=
  let s1 := s.modHealth id (fun h => { h with marginAt := some s.now })
  if (s1.health id).st = .good then s1.enterHealth id .watch .margin else s1

/-- Repair or replacement completes: a part leaves `FAILED` (16 R471). -/
def State.repairedHealth (s : State) (id : Nat) : State :=
  if (s.health id).st = .failed then s.enterHealth id .good .repair else s

/-- 2^(−1/86,400), by which each score is multiplied at a whole second. -/
def healthDecayQ : Rat := expQ (-(lnQ 2) / 86400)

/-- The score of a part falls, and with it its state (16 R470, R471). -/
def State.decayOne (s : State) (id : Nat) : State :=
  let s1 := s.modHealth id (fun h => { h with
    score := match ofF32 h.score with
      | .fin q _ => toF32 .rne (.ofRat (q * healthDecayQ))
      | _ => h.score })
  let h := s1.health id
  let l := healthLimits id
  let below := fun (n : Nat) => ltV (ofF32 h.score) (.ofRat (mkRat n 2))
  let clear : Bool := match h.marginAt with
    | some t => decide (t + 600 * 10 ^ 9 ≤ s.now)
    | none => true
  let quiet : Bool := match h.directAt with
    | some t => decide (t + 86400 * 10 ^ 9 ≤ s.now)
    | none => true
  if h.st = .suspect ∧ below l.2.1 ∧ quiet then s1.enterHealth id .watch .score
  else if h.st = .watch ∧ below l.1 ∧ clear then s1.enterHealth id .good .score
  else s1

/-- `HEALTH_DECAY`: a whole second of tide: every score is multiplied by 2^(−1/86,400) (16 R470). -/
def execHealthDecay (s : State) : Ans := .next ((s.telem.health.map (·.1)).foldl State.decayOne s)

/-- `HEALTH_PERSIST`: every 10 min scores and states go into the repair record (16 R470). -/
def execHealthPersist (s : State) : Ans := .next s.persistHealth

end Sys2Proof.Machine
end

