-- ==== Sys2Proof/Machine/Box.lean ====
section
/-! DEFINITION. The fields of `FAB_CFG` and `PART_CFG` (11 R322, R323), and ranks in the box (11 R324). -/

namespace Sys2Proof.Machine

/-- An axis: 0 X, 1 Y, 2 Z. -/
abbrev Axis := Nat

/-- Coordinate on axis `a` of a word that holds X, Y and Z in three falling 4-bit fields below bit `top`. -/
def coordOf {w : Nat} (x : BitVec w) (top : Nat) (a : Axis) : Nat := fieldN x (top - 4 * a) (top - 4 * a - 3)

/-- The module's own fabric coordinate. -/
def State.coord (s : State) (a : Axis) : Nat := coordOf s.part.fabCfg 31 a

/-- Fabric extent of an axis. -/
def State.fabExt (s : State) (a : Axis) : Nat := coordOf s.part.fabCfg 19 a + 1

/-- The fabric axis is closed. -/
def State.fabClosed (s : State) (a : Axis) : Bool := bitN s.part.fabCfg a

/-- `PTAG` of a partition configuration. -/
def cfgPtag (c : W64) : Nat := fieldN c 63 48

/-- Box origin on an axis. -/
def cfgOrg (c : W64) (a : Axis) : Nat := coordOf c 47 a

/-- Box extent on an axis. -/
def cfgExt (c : W64) (a : Axis) : Nat := coordOf c 35 a + 1

/-- Axis mode: 0 `OPEN`, 1 `SPAN`, 2 `TRANSIT`. -/
def cfgMode (c : W64) (a : Axis) : Nat := fieldN c (23 - 2 * a) (22 - 2 * a)

/-- Axis role. -/
def cfgRole (c : W64) (a : Axis) : Nat := fieldN c (17 - 2 * a) (16 - 2 * a)

/-- `FAULT_MODE`: true is `REPLAY`. -/
def cfgReplay (c : W64) : Bool := bitN c 11

/-- The module's partition tag, 0 when it has none. -/
def State.ptag (s : State) : Nat := cfgPtag s.part.partCfg

/-- Box extent on an axis: the number of ranks. -/
def State.boxExt (s : State) (a : Axis) : Nat := cfgExt s.part.partCfg a

/-- 11 R324: rank on an axis of a module at coordinate `c`: (c − o) mod E. -/
def State.rankOf (s : State) (a : Axis) (c : Nat) : Nat :=
  (c + s.fabExt a - cfgOrg s.part.partCfg a % s.fabExt a) % s.fabExt a

/-- The module's own rank on an axis. -/
def State.rank (s : State) (a : Axis) : Nat := s.rankOf a (s.coord a)

/-- Coordinate of a rank on an axis. -/
def State.coordOfRank (s : State) (a : Axis) (r : Nat) : Nat := (cfgOrg s.part.partCfg a + r) % s.fabExt a

/-- 11 R324, R327: the module at (x, y, z) is a member of the box of the module's partition. -/
def State.inBox (s : State) (x y z : Nat) : Bool :=
  decide (s.ptag ≠ 0) && [(0, x), (1, y), (2, z)].all (fun p =>
    decide (p.2 < s.fabExt p.1) && decide (s.rankOf p.1 p.2 < s.boxExt p.1))

/-- 09 R272, 11 R326: the box axis is a closed ring. -/
def State.boxClosed (s : State) (a : Axis) : Bool := decide (cfgMode s.part.partCfg a ≠ 0)

/-- The coordinates name the module itself. -/
def State.isSelf (s : State) (x y z : Nat) : Bool := x == s.coord 0 && y == s.coord 1 && z == s.coord 2

end Sys2Proof.Machine
end

