-- ==== Sys2Proof/Machine/Net.lean ====
section
/-! DEFINITION. Torus packets: their fields, sealing, routes, and their way into frames (09 R248 to R276, 14 R413 to
R416). -/

namespace Sys2Proof.Machine

/-! ### Ports (09 R248) -/

/-- Axis of a port. -/
def portAxis (j : Nat) : Axis := j / 4

/-- The port lies in the − direction. -/
def portNeg (j : Nat) : Bool := decide (2 ≤ j % 4)

/-- Index 0 to 3 of the P-die of a port. -/
def portP (j : Nat) : Nat := [0, 2, 1, 3].getD (j % 4) 0

/-- The port of an axis, direction and letter (true is b). -/
def portFor (a : Axis) (neg b : Bool) : Nat := 4 * a + 2 * b2n neg + b2n b

/-- The other port of a pair. -/
def portPartner (j : Nat) : Nat := if j % 2 = 0 then j + 1 else j - 1

/-! ### Fields of a packet (09 R259 to R261) -/

/-- `FORM` is data. -/
def Packet.isData (p : Packet) : Bool := fieldN p.head 127 126 == 1
/-- `MC`. -/
def Packet.mc (p : Packet) : Bool := bitN p.head 125
/-- `MC_DIR` is −. -/
def Packet.mcNeg (p : Packet) : Bool := bitN p.head 124
/-- `VC`. -/
def Packet.vc (p : Packet) : Nat := fieldN p.head 123 121
/-- `LEN`. -/
def Packet.len (p : Packet) : Nat := fieldN p.head 120 114
/-- `MC_AXIS`. -/
def Packet.mcAxis (p : Packet) : Axis := fieldN p.head 109 108
/-- `DST`. -/
def Packet.dst (p : Packet) : BitVec 12 := BitVec.ofNat 12 (fieldN p.head 107 96)
/-- `SRC`. -/
def Packet.src (p : Packet) : BitVec 12 := BitVec.ofNat 12 (fieldN p.head 95 84)
/-- `PTAG`. -/
def Packet.ptag (p : Packet) : Nat := fieldN p.head 83 68
/-- `SLOT`. -/
def Packet.slot (p : Packet) : Nat := fieldN p.head 67 54
/-- `KIND`. -/
def Packet.kind (p : Packet) : Nat := fieldN p.head 47 40
/-- `SEAL_CTR`. -/
def Packet.sealCtr (p : Packet) : Nat := fieldN p.head 39 0
/-- `GADDR` of a data packet. -/
def Packet.gaddr (p : Packet) : BitVec 64 := BitVec.ofNat 64 (fieldN p.head 383 320)
/-- `EPOCH` of a data packet. -/
def Packet.epoch (p : Packet) : BitVec 8 := BitVec.ofNat 8 (fieldN p.head 319 312)
/-- `META` of a data packet. -/
def Packet.metaF (p : Packet) : BitVec 184 := BitVec.ofNat 184 (fieldN p.head 311 128)
/-- `BODY` of a control packet. -/
def Packet.body (p : Packet) : BitVec 256 := BitVec.ofNat 256 (fieldN p.head 383 128)
/-- `TAG`. -/
def Packet.tag (p : Packet) : BitVec 128 := BitVec.ofNat 128 (fieldN p.head 511 384)

/-- The flits of a packet. -/
def Packet.flits (p : Packet) : List (BitVec 512) := p.head :: p.payload

/-- Set bits [hi:lo] of the first flit. -/
def Packet.setField (p : Packet) (hi lo v : Nat) : Packet :=
  { p with head := (p.head &&& ~~~(place 512 hi lo (2 ^ (hi + 1 - lo) - 1))) ||| place 512 hi lo v }

/-- Classes of a kind (09 R260): 0 control, 1 data, 2 management and time; none is a reserved kind. -/
def kindClass (k : Nat) : Option Nat :=
  if [0x02, 0x04, 0x11, 0x12, 0x21, 0x22].contains k then some 0
  else if [0x01, 0x03, 0x10, 0x20].contains k then some 1
  else if [0x30, 0x31, 0x40].contains k then some 2
  else none

/-- Lower virtual channel of the pair of a class. -/
def classVc (c : Nat) : Nat := if c = 0 then 0 else if c = 1 then 2 else 6

/-- 09 R259: a reserved value in some field. -/
def Packet.reserved (p : Packet) : Bool :=
  match kindClass p.kind with
  | none => true
  | some c =>
    decide (2 ≤ fieldN p.head 127 126) || (p.isData != (c == 1)) || fieldN p.head 113 110 != 0 || fieldN p.head 53 48 != 0
      || p.mcAxis == 3 || (if p.isData then p.len == 0 || decide (64 < p.len) else p.len != 0 || p.mc)

/-- Coordinates as `DST` and `SRC` hold them. -/
def packXyz (x y z : Nat) : BitVec 12 := BitVec.ofNat 12 (x % 16 * 256 + y % 16 * 16 + z % 16)

/-- The module's own coordinates. -/
def State.ownXyz (s : State) : BitVec 12 := packXyz (s.coord 0) (s.coord 1) (s.coord 2)

/-- A coordinate of `DST` or `SRC`. -/
def xyzOn (c : BitVec 12) (a : Axis) : Nat := coordOf c 11 a

/-! ### Keys and sealing (14 R413 to R416) -/

/-- The bytes of an ASCII label. -/
def ascii (x : String) : List Byte := x.toList.map (fun c => BitVec.ofNat 8 c.toNat)

/-- HKDF-Expand of a key with an info string. -/
def expand (key : BitVec 256) (info : List Byte) (bits : Nat) : Nat :=
  Config.hkdf (key.setWidth 512) (ofBytes (info ++ [1])) bits

/-- 14 R413: the generation key. -/
def genKey (key : BitVec 256) (g ptag : Nat) : BitVec 256 :=
  BitVec.ofNat 256 (expand key (ascii "KBC seal" ++ toBytes 8 g ++ toBytes 2 ptag) 256)

/-- 14 R414: the IV of a sealed packet: `SRC`, `SEAL_CTR` and zeros. -/
def sealIv (src : BitVec 12) (ctr : Nat) : BitVec 96 := BitVec.ofNat 96 (src.toNat + ctr * 2 ^ 16)

/-- 14 R414: the additional data: routing header with `VC` 0, then `GADDR` and `EPOCH` of a data packet. -/
def Packet.aad (p : Packet) : Nat × Nat :=
  let h := fieldN (p.setField 123 121 0).head 127 0
  if p.isData then (200, h + p.gaddr.toNat * 2 ^ 128 + p.epoch.toNat * 2 ^ 192) else (128, h)

/-- The bits of a packet that are encrypted: `META` and payload, or `BODY`. -/
def Packet.text (p : Packet) : Nat × Nat :=
  if p.isData then (184 + 512 * p.payload.length, p.metaF.toNat + ofBytes (p.payload.flatMap (fun f => toBytes 64 f.toNat)) * 2 ^ 184)
  else (256, p.body.toNat)

/-- The packet with other encrypted bits. -/
def Packet.withText (p : Packet) (x : Nat) : Packet :=
  if p.isData then
    { (p.setField 311 128 x) with
      payload := (List.range p.payload.length).map (fun i => BitVec.ofNat 512 (x >>> (184 + 512 * i))) }
  else p.setField 383 128 x

/-- Seal a packet under a generation key. -/
def Packet.seal (p : Packet) (key : BitVec 256) : Packet :=
  let a := p.aad
  let t := p.text
  let r := Config.gcmSeal key (sealIv p.src p.sealCtr) a.1 a.2 t.1 t.2
  (p.withText r.1).setField 511 384 r.2.toNat

/-- Open a sealed packet; none when it does not verify. -/
def Packet.open? (p : Packet) (key : BitVec 256) : Option Packet :=
  let a := p.aad
  let t := p.text
  (Config.gcmOpen key (sealIv p.src p.sealCtr) a.1 a.2 t.1 t.2 p.tag).map p.withText

/-- A sealing generation (14 R413): ⌊tide / 2³³⌋. -/
def sealGenOf (t : Nat) : Nat := t / 2 ^ 33

/-- 14 R415: the generation under which a packet of this parity is opened at tide `t`. -/
def openGen (t : Nat) (parity : Bool) : Nat :=
  let g := sealGenOf t
  if (g % 2 == 1) == parity then g else if t % 2 ^ 33 < 2 ^ 32 then g - 1 else g + 1

/-- The link tag of a body (14 R416): HMAC-SHA-384 cut to 128 bits. -/
def linkTag (key : BitVec 256) (bits msg : Nat) : BitVec 128 := (Config.hmac384 key bits msg).setWidth 128

/-- 14 R416: the key of `IDENT` tags of a sender. -/
def identKey (fabric : BitVec 256) (serial : W64) : BitVec 256 :=
  BitVec.ofNat 256 (expand fabric (ascii "KBC ident" ++ toBytes 8 serial.toNat) 256)

/-- 14 R416: the link key of two ends, the lower serial first. -/
def linkKey (fabric : BitVec 256) (a b : W64) (na nb : BitVec 128) : BitVec 256 :=
  let lo := decide (a.toNat ≤ b.toNat)
  BitVec.ofNat 256 (expand fabric (ascii "KBC link" ++ toBytes 8 (if lo then a else b).toNat
    ++ toBytes 8 (if lo then b else a).toNat ++ toBytes 16 (if lo then na else nb).toNat
    ++ toBytes 16 (if lo then nb else na).toNat) 256)

/-! ### Frames (09 R254 to R256) -/

/-- CRC-32 of a frame: its slots and trailer bits [223:0]. -/
def frameCrc (slots : Nat) (low : Nat) : BitVec 32 := Config.crc32 (8192 + 224) (slots + low * 2 ^ 8192)

/-- The 8,192 bits of the slots of a frame: filled slots first. -/
def slotBits (slots : List (BitVec 512)) : Nat := ofBytes (slots.flatMap (fun f => toBytes 64 f.toNat))

/-- Credits to return in one trailer: at most 255 for each channel. -/
def Port.credField (p : Port) : Nat :=
  ((List.range 8).map (fun v => min (p.creditDue.getD v 0) 255 * 2 ^ (8 * v))).sum

/-- The trailer of a frame that a port sends now, with its `CREDITS`. -/
def Port.trailer (p : Port) (credits : Nat) (slots : List (BitVec 512)) (seq abort lane laneOp : Nat) : BitVec 256 :=
  let low := pack 224 [(223, 160, credits), (159, 148, seq), (147, 136, p.rxSeq), (135, 135, b2n p.nakDue),
    (134, 134, b2n slots.isEmpty), (133, 118, 2 ^ slots.length - 1), (117, 113, abort), (112, 109, lane), (108, 107, laneOp)]
  pack 256 [(255, 224, (frameCrc (slotBits slots) low.toNat).toNat), (223, 0, low.toNat)]

/-- Send one frame of a port: what it reports is no longer due. -/
def State.sendFrame (s : State) (j : Nat) (slots : List (BitVec 512)) (seq abort lane laneOp : Nat) : State :=
  let p := s.port j
  (s.modPort j (fun p => { p with
    nakDue := false
    creditDue := p.creditDue.map (fun c => c - min c 255) })).emit (.frame j slots (p.trailer p.credField slots seq abort lane laneOp))

/-- Send a frame of the retry buffer again, with the credits that it returned (09 R256). -/
def State.sendAgain (s : State) (j : Nat) (f : TxFrame) : State :=
  let p := s.port j
  (s.modPort j (fun p => { p with nakDue := false })).emit (.frame j f.slots (p.trailer f.credits f.slots f.seq f.abort 0 0))

/-- An `EMPTY` frame, which reports what is due. -/
def State.sendEmpty (s : State) (j : Nat) : State := s.sendFrame j [] (s.port j).txSeq 0 0 0

/-- Advance a counter of a flow gauge, which saturates (09 R282). -/
def flowAdd (a b : Nat) : Nat := min (a + b) 0xFFFFFFFF

/-- Change the flow counters of a port and channel. -/
def State.modFlow (s : State) (j v : Nat) (f : Flow → Flow) : State := s.modPort j (fun p => { p with flow := modAt p.flow v f })

/-- Count a packet dropped at a port. -/
def State.dropAt (s : State) (j v : Nat) : State := s.modFlow j v (fun f => { f with dropped := flowAdd f.dropped 1 })

/-- `SHARE` of the grants held on an axis (11 R335). -/
def State.shareOn (s : State) (a : Axis) : Nat :=
  (s.handles.live.map (fun e => match e.2 with
    | .grant g => if fieldN g.body 47 46 = a then fieldN g.body 45 40 else 0
    | _ => 0)).sum

/-- A grant on this axis carries the traffic of a partition tag. -/
def State.grantFor (s : State) (a : Axis) (ptag : Nat) : Bool :=
  s.handles.live.any (fun e => match e.2 with
    | .grant g => fieldN g.body 47 46 == a && fieldN g.body 63 48 == ptag
    | _ => false)

/-- The packet is traffic of another partition (09 R275). -/
def State.isTransit (s : State) (p : Packet) : Bool := (kindClass p.kind).any (· < 2) && p.ptag != s.ptag

/-- Transit flits that an axis may carry in 64 frames: the share of its grants (11 R335).  Packets of an owner whose grant has
been revoked still go on (11 R337): under the share of the other grants, and freely where none has one. -/
def State.transitMax (s : State) (a : Axis) (p : Packet) : Nat :=
  if s.grantFor a p.ptag ∨ 0 < s.shareOn a then s.shareOn a * 1024 / 100 else 1024

/-- Frames without transit flits that pass until `n` more of them keep the share of 11 R335. -/
def transitGap (hist : List Nat) (limit n : Nat) : List Nat :=
  let k := ((List.range 64).find? (fun k => decide (((List.replicate k 0 ++ hist).take 63).sum + n ≤ limit))).getD 64
  (List.replicate k 0 ++ hist).take 63

/-- Cut a list into runs of at most `k`. -/
def runsOf {α : Type} (k : Nat) : Nat → List α → List (List α)
  | 0, _ => []
  | n + 1, l => if l.isEmpty then [] else l.take k :: runsOf k n (l.drop k)

/-- Put the flits of a packet into frames of a port, which keep them for retry. -/
def State.transmit (s : State) (j : Nat) (p : Packet) : State :=
  let fl := p.flits
  let limit := s.transitMax (portAxis j) p
  let tr := s.isTransit p
  let runs := runsOf (if tr then min 16 limit else 16) fl.length fl
  let s1 := (s.modPort j (fun q => { q with credits := modAt q.credits p.vc (· - fl.length) })).modFlow j p.vc (fun f =>
    { f with
      tx := flowAdd f.tx fl.length
      mc := if p.mc then flowAdd f.mc fl.length else f.mc
      transit := if tr then flowAdd f.transit fl.length else f.transit })
  runs.zipIdx.foldl (fun s r =>
    let q := s.port j
    let abort := if p.aborted ∧ r.2 + 1 = runs.length then r.1.length else 0
    let s2 := s.sendFrame j r.1 q.txSeq abort 0 0
    let c := q.credField
    s2.modPort j (fun q => { q with
      retryBuf := q.retryBuf ++ [{ seq := q.txSeq, slots := r.1, abort := abort, credits := c, pkt := p, nth := r.2 }]
      txSeq := (q.txSeq + 1) % 4096
      transitHist := (if tr then r.1.length else 0) :: (if tr then transitGap q.transitHist limit r.1.length else q.transitHist).take 62 })) s1

/-- A port may carry a channel (09 R264): `UP` all of them, `IDENTIFY` and `QUARANTINE` VC6 and VC7 only. -/
def Port.carries (p : Port) (v : Nat) : Bool :=
  p.st == .up || (decide (6 ≤ v) && (p.st == .identify || p.st == .quarantine))

/-- The frames that a packet takes. -/
def Packet.frames (p : Packet) : Nat := cdiv (p.payload.length + 1) 16

/-- A packet can leave a port now: the channel is open, the next module has room for all of it, and so has the retry
buffer (09 R256, R258); a transit packet also needs a share (11 R335). -/
def State.canSend (s : State) (j : Nat) (p : Packet) : Bool :=
  let q := s.port j
  q.carries p.vc && decide (p.payload.length + 1 ≤ q.credits.getD p.vc 0) && decide (q.retryBuf.length + p.frames ≤ 992)
    && (!s.isTransit p || decide (0 < s.transitMax (portAxis j) p))

/-- 11 R339: a levee stops VC0 to VC5 of a port. -/
def State.leveeStops (s : State) (j v : Nat) : Bool := s.part.levee.getLsbD j && decide (v < 6)

/-- Send what a port's queue lets go, oldest first, and in order on each channel. -/
def pumpLoop (j : Nat) : Nat → List Packet → List Packet → State → List Packet × State
  | 0, q, kept, s => (kept ++ q, s)
  | n + 1, q, kept, s =>
    match q with
    | [] => (kept, s)
    | p :: ps =>
      if s.leveeStops j p.vc then pumpLoop j n ps kept (s.dropAt j p.vc)
      else if kept.all (fun k => k.vc != p.vc) && s.canSend j p then pumpLoop j n ps kept (s.transmit j p)
      else pumpLoop j n ps (kept ++ [p]) s

/-- Send what waits on a port. -/
def State.pump (s : State) (j : Nat) : State :=
  let q := (s.port j).txQ
  let r := pumpLoop j q.length q [] s
  r.2.modPort j (fun p => { p with txQ := r.1 })

/-! ### Routes (09 R272 to R275, 11 R326) -/

/-- The first axis on which a destination differs from this module. -/
def State.routeAxis (s : State) (dst : BitVec 12) : Option Axis :=
  [0, 1, 2].find? (fun a => xyzOn dst a != s.coord a)

/-- 09 R272: the direction on an axis is −, by the ranks of this module and the destination. -/
def State.routeNeg (s : State) (a : Axis) (c : Nat) : Bool :=
  let n := s.boxExt a
  let r := s.rank a
  let d := s.rankOf a c
  if s.boxClosed a then
    let up := (d + n - r % n) % n
    decide (n - up < up)
  else decide (d < r)

/-- 09 R269, R270: the port that carries the traffic of a port: its partner, once that has the packets that go first. -/
def State.carrier (s : State) (j : Nat) : Nat := if (s.port j).byPartner && (s.port j).failedOver then portPartner j else j

/-- The port by which a packet of this partition leaves for a destination. -/
def State.routePort (s : State) (dst : BitVec 12) (slot : Nat) : Option Nat :=
  (s.routeAxis dst).map (fun a => s.carrier (portFor a (s.routeNeg a (xyzOn dst a)) (slot % 2 == 1)))

/-- 09 R274: the link out of this module in a direction is the dateline of a closed box axis. -/
def State.dateline (s : State) (a : Axis) (neg : Bool) : Bool :=
  s.boxClosed a && (if neg then s.rank a == 0 else s.rank a + 1 == s.boxExt a)

/-- Partition tag of the module at the other end of a port, from its `IDENT` (09 R275). -/
def Port.peerPtag (p : Port) : Nat := fieldN p.peerIdent 175 160

/-- 09 R274, R275: the channel that a packet occupies at the next module; `upper` is the choice it holds on this axis. -/
def State.nextVc (s : State) (j : Nat) (p : Packet) (upper : Bool) : Nat :=
  let cls := (kindClass p.kind).getD 0
  let own := p.ptag == s.ptag
  let up := upper || (own && s.dateline (portAxis j) (portNeg j))
  let pair := if cls = 2 then 6 else if p.ptag = (s.port j).peerPtag then classVc cls else 4
  pair + b2n up

/-! ### Packets of this module -/

/-- A packet's clear first flit. -/
def mkHead (data mc mcNeg : Bool) (len mcAxis : Nat) (dst src : BitVec 12) (ptag slot kind : Nat) (upper : List (Nat × Nat × Nat)) :
    BitVec 512 :=
  pack 512 ([(127, 126, b2n data), (125, 125, b2n mc), (124, 124, b2n mcNeg), (120, 114, len), (109, 108, mcAxis),
    (107, 96, dst.toNat), (95, 84, src.toNat), (83, 68, ptag), (67, 54, slot), (47, 40, kind)] ++ upper)

/-- 14 R414: the P-die of a port seals a packet, and counts it. -/
def State.sealAt (s : State) (j : Nat) (key : BitVec 256) (p : Packet) : Packet × State :=
  let i := portP j
  let n := s.sec.sealCount.getD i 0
  let g := s.time.sealGen
  let q := p.setField 39 0 (pack 40 [(39, 39, g), (38, 37, i), (36, 0, n)]).toNat
  (q.seal (genKey key g p.ptag), { s with sec := { s.sec with sealCount := modAt s.sec.sealCount i (· + 1) } })

/-- Hand a packet of this module to a port: it is sealed, given its channel and queued. -/
def State.sendBy (s : State) (j : Nat) (key : BitVec 256) (p : Packet) : State :=
  let r := s.sealAt j key p
  let q := r.1.setField 123 121 (s.nextVc j p false)
  (r.2.modPort j (fun x => { x with txQ := x.txQ ++ [q] })).pump j

/-- Key under which a context's packets are sealed (14 R410). -/
def State.partKeyOf (s : State) (c : Nat) : Option (BitVec 256) := ((s.ctx? c).bind (·.partKey)).map (·.2)

/-- Send a unicast packet of a context to a module of the box.  Without a partition key nothing can be sealed. -/
def State.sendPacket (s : State) (c : Nat) (p : Packet) : State :=
  match s.partKeyOf c, s.routePort p.dst p.slot with
  | some k, some j => s.sendBy j k p
  | _, _ => s

/-- Send a control packet (09 R259, R261). -/
def State.sendCtl (s : State) (c kind slot : Nat) (dst : BitVec 12) (body : BitVec 256) : State :=
  s.sendPacket c { head := mkHead false false false 0 0 dst s.ownXyz s.ptag slot kind [(383, 128, body.toNat)], payload := [] }

/-- Send a data packet. -/
def State.sendData (s : State) (c kind slot : Nat) (dst : BitVec 12) (gaddr : BitVec 64) (epoch : BitVec 8) (m : BitVec 184)
    (payload : List (BitVec 512)) : State :=
  s.sendPacket c { head := mkHead true false false payload.length 0 dst s.ownXyz s.ptag slot kind
                     [(383, 320, gaddr.toNat), (319, 312, epoch.toNat), (311, 128, m.toNat)], payload := payload }

/-- Send a data packet of a strand to the next rank of its chain, by the strand's own port (10 R285, R298). -/
def State.sendStrand (s : State) (c kind slot : Nat) (a : Axis) (neg : Bool) (dst : BitVec 12) (epoch : BitVec 8) (m : BitVec 184)
    (payload : List (BitVec 512)) : State :=
  match s.partKeyOf c with
  | some k =>
    s.sendBy (s.carrier (portFor a neg (slot % 2 == 1))) k
      { head := mkHead true false false payload.length 0 dst s.ownXyz s.ptag slot kind
          [(319, 312, epoch.toNat), (311, 128, m.toNat)], payload := payload }
  | none => s

/-- Send a multicast data packet along an axis (09 R279). -/
def State.sendMulti (s : State) (c kind slot : Nat) (a : Axis) (neg : Bool) (dst : BitVec 12) (epoch : BitVec 8) (m : BitVec 184)
    (payload : List (BitVec 512)) : State :=
  match s.partKeyOf c with
  | some k =>
    s.sendBy (s.carrier (portFor a neg (slot % 2 == 1))) k
      { head := mkHead true true neg payload.length a dst s.ownXyz s.ptag slot kind
          [(319, 312, epoch.toNat), (311, 128, m.toNat)], payload := payload }
  | none => s

/-- Send a tagged one-hop packet of the management or time class on a port, when the port carries that class. -/
def State.sendHop (s : State) (j kind : Nat) (key : BitVec 256) (bits msg : Nat) (body : BitVec 256) : State :=
  let h := mkHead false false false 0 0 0 s.ownXyz 0 0 kind [(123, 121, 6), (383, 128, body.toNat), (511, 384, (linkTag key bits msg).toNat)]
  (s.modPort j (fun p => { p with txQ := p.txQ ++ [{ head := h, payload := [] }] })).pump j

/-- Payload flits of a list of bytes, the last filled with zeros. -/
def flitsOf (bs : List Byte) : List (BitVec 512) := (runsOf 64 bs.length bs).map (fun r => BitVec.ofNat 512 (ofBytes r))

/-- The bytes of a payload. -/
def Packet.bytes (p : Packet) : List Byte := p.payload.flatMap (fun f => toBytes 64 f.toNat)

end Sys2Proof.Machine
end

