-- ==== Sys2Proof/Machine/Spare.lean ====
section
/-! DEFINITION. Targets and the start of a sparing (01 R40, 17 R484). -/

namespace Sys2Proof.Machine

/-- The active remap bank (01 R38). -/
def State.bank (s : State) : List Nat := if s.pkg.activeBank then s.pkg.bank1 else s.pkg.bank0

/-- A physical tile is free: no logical tile is bound to it, and it can still be used (01 R40, 17 R486). -/
def State.tileFree (s : State) (p : Nat) : Bool := !s.bank.contains p && !(s.tileP p).unusable

/-- The free tiles of a C-die. -/
def State.freeTiles (s : State) (d : Nat) : List Nat := (List.range 8).filter (fun t => s.tileFree (8 * d + t))

/-- A die is the target of a sparing under way. -/
def State.isTarget (s : State) (d : Nat) : Bool := s.pkg.sparings.any (fun x => x.target == d)

/-- The free tiles of a C-die that no sparing under way has taken. -/
def State.openTiles (s : State) (d : Nat) : List Nat :=
  (s.freeTiles d).filter (fun t => !s.pkg.sparings.any (fun x => x.target == d && (x.tile.isNone || x.place == t)))

/-- A C-die qualifies for a whole-die move: it is `SPARE`, with eight free tiles (01 R40). -/
def State.wholeTarget (s : State) (d : Nat) : Bool := (s.die d).cstate == .spare && (s.freeTiles d).length == 8

/-- A C-die qualifies for a single-tile move: it is `SPARE`, or carries tiles and has a free one (01 R40). -/
def State.tileTarget (s : State) (d : Nat) : Bool :=
  ((s.die d).cstate == .spare || (s.die d).cstate == .enabled) && !(s.openTiles d).isEmpty

/-- A C-die other than the source qualifies as the target of a move (01 R40). -/
def State.qualifies (s : State) (src : Nat) (single : Bool) (d : Nat) : Bool :=
  d != src && (if single then s.tileTarget d else s.wholeTarget d && !s.isTarget d)

/-- The target that the module chooses, in the order of 01 R40. -/
def State.chooseTarget (s : State) (src : Nat) (single : Bool) : Option Nat :=
  let dies := (List.range 64).filter (s.qualifies src single)
  (dies.find? (fun d => (s.die d).cstate == .enabled)).or dies.head?

/-- No spare C-die has eight free tiles (13, `DEG_WHY` bit 6). -/
def State.noSpare (s : State) : Bool := !(List.range 64).any s.wholeTarget

/-- The logical tiles bound to a C-die, or to one tile of it. -/
def State.boundTo (s : State) (d : Nat) (tile : Option Nat) : List Nat :=
  (List.range 480).filter (fun l => match tile with | some t => s.phys l == 8 * d + t | none => s.phys l / 8 == d)

/-- A C-die carries logical tiles. -/
def State.carries (s : State) (d : Nat) : Bool := !(s.boundTo d none).isEmpty

/-- A warm sparing whose source has faulted goes on as a cold one; its copy is abandoned (17, "Events and
coincidences"). -/
def Sparing.cool (x : Sparing) : Sparing :=
  { x with warm := false, atClose := false, phase := if x.phase = .preparing then .preparing else .ready }

/-- Start a sparing, when a target qualifies (17 R484), or turn the one under way into a cold one.  A die whose router has
failed cannot be spared (01 R28). -/
def State.startSparing (s : State) (src : Nat) (tile : Option Nat) (target : Option Nat) (warm atClose : Bool) : Option State :=
  let same := fun (x : Sparing) => x.src == src && x.tile == tile
  if s.pkg.sparings.any same then
    let turn := fun (x : Sparing) => same x && x.warm && !warm
    let hold := if s.pkg.sparings.any (fun x => turn x && x.phase == .binding) then [] else s.pkg.remapHold
    some (s.modPkg (fun p => { p with sparings := p.sparings.map (fun x => if turn x then x.cool else x), remapHold := hold }))
  else if (s.die src).routerFailed then none
  else
    let t := match target with
      | some d => if s.qualifies src tile.isSome d then some d else none
      | none => s.chooseTarget src tile.isSome
    t.map (fun d => s.modPkg (fun p => { p with sparings := p.sparings ++
      [{ src := src, tile := tile, target := d, place := (s.openTiles d).headD 0, warm := warm, atClose := atClose,
         fixedTarget := target.isSome }] }))

/-- 11 R345: a cold sparing of a context runs: the context is `QUIESCED`, and the source carries one of its tiles. -/
def State.sparingOf (s : State) (c : Nat) : Bool :=
  match s.ctx? c with
  | none => false
  | some x => x.st == .quiesced && s.pkg.sparings.any (fun y => !y.warm && x.tiles.any (fun l => (s.boundTo y.src y.tile).contains l))

end Sys2Proof.Machine
end

