-- ==== Sys2Proof/Machine/Scope.lean ====
section
/-! DEFINITION. The fault scope of a partition (11 R339 to R345), and the abort of collectives (10 R319). -/

namespace Sys2Proof.Machine

/-! ### Collective tags and messages (10 R286, R290) -/

/-- The 64-bit collective tag. -/
def collTag (stream seq epoch strand msg : Nat) : Nat := (pack 64 [(63, 48, stream), (47, 16, seq), (15, 8, epoch), (7, 6, strand), (5, 0, msg)]).toNat

/-- `AXES` of a collective descriptor, as axes. -/
def collAxes (d : BitVec 1024) : List Axis := [0, 1, 2].filter (fun a => bitN d (53 + a))

/-- `EPOCH` of a collective descriptor. -/
def collEpoch (d : BitVec 1024) : BitVec 8 := BitVec.ofNat 8 (fieldN d 599 592)

/-- Coordinates of rank `r` of this module's line on an axis. -/
def State.rankXyz (s : State) (a : Axis) (r : Nat) : BitVec 12 :=
  let c := fun (b : Axis) => if a = b then s.coordOfRank a r else s.coord b
  packXyz (c 0) (c 1) (c 2)

/-- The other ranks of an axis. -/
def State.otherRanks (s : State) (a : Axis) : List Nat := (List.range (s.boxExt a)).filter (fun r => r != s.rank a)

/-- 10 R286: `SLOT` of a packet of a strand: the channel's slot with the strand's port letter in bit 0. -/
def strandSlot (h : W32) (strand : Nat) : Nat := hSlot h / 2 * 2 + strand % 2

/-- Send a `COLL_CTRL` message of a collective to a rank of an axis; `info` is the model's layout of the rest of `BODY`
(log 21). -/
def State.sendColl (s : State) (o : Op) (seq : Nat) (a : Axis) (r strand msg : Nat) (info : Nat) : State :=
  match s.chan? o.ch with
  | none => s
  | some c =>
    s.sendCtl o.ctx (if msg = 1 then 0x11 else 0x12) (strandSlot o.ch strand) (s.rankXyz a r)
      (pack 256 [(255, 192, collTag c.stream seq (collEpoch o.desc).toNat strand msg), (191, 0, info)])

/-- Send a `COLL_CTRL` message to a rank of an axis, tagged with the strand by whose port it leaves (10 R285; 09 R272). -/
def State.tellRank (s : State) (o : Op) (a : Axis) (r msg : Nat) (info : Nat) : State :=
  s.sendColl o o.seq a r (2 * b2n (s.routeNeg a (s.coordOfRank a r))) msg info

/-- Direction − of a strand (10 R285). -/
def strandNeg (t : Nat) : Bool := decide (2 ≤ t)

/-- The rank that sends a strand's chain data to this one (10 R298). -/
def State.upstream (s : State) (a : Axis) (t : Nat) : Option Nat :=
  let n := s.boxExt a
  let r := s.rank a
  if strandNeg t then (if s.boxClosed a then some ((r + 1) % n) else if r + 1 < n then some (r + 1) else none)
  else (if s.boxClosed a then some ((r + n - 1) % n) else if 0 < r then some (r - 1) else none)

/-- Return a credit for a received packet (10 R301, R308). -/
def State.returnCredit (s : State) (o : Op) (a : Axis) (r strand : Nat) (gather : Bool) : State :=
  s.sendColl o o.seq a r strand 1 (2 ^ 16 + b2n gather * 2 ^ 17 + 1)

/-- Return the credit of a receive slot of a strand to the rank upstream. -/
def State.creditSlot (s : State) (o : Op) (strand : Nat) : State :=
  match (collAxes o.desc).head? with
  | none => s
  | some a => match s.upstream a strand with
    | some u => s.returnCredit o a u strand false
    | none => s

/-- 10 R319: an ended collective returns the credits of the receive slots that it holds, and sends nothing more. -/
def State.emptySlots (s : State) (o : Op) : State :=
  match o.coll with
  | none => s
  | some run =>
    (run.slots.foldl (fun s x => s.creditSlot o x.strand) s).modOp o.id (fun x => { x with
      coll := x.coll.map (fun r => { r with slots := [], toSend := [] }) })

/-- 10 R319: the abort message to every rank on some axes of the collective: the status of the fault, and the cause where
the start round makes it every rank's own (10 R288, R294, R311). -/
def State.sendAbort (s : State) (o : Op) (axes : List Axis) (cause : Cause) (status : BitVec 16) : State :=
  let shared := if o.coll.isSome ∧ (cause = .sigMismatch ∨ cause = .validation) then cause.num else 0
  axes.foldl (fun s a => (s.otherRanks a).foldl (fun s r => s.tellRank o a r 4 (shared * 2 ^ 16 + status.toNat)) s) s

/-- A collective faults on this rank: every other rank is told, its credits return, and it completes (10 R319). -/
def State.failColl (s : State) (o : Op) (cause : Cause) (status : BitVec 16) : State :=
  let s1 := (s.sendAbort o (collAxes o.desc) cause status).emptySlots o
  let s2 := s1.modOp o.id (fun x => { x with abortStatus := status })
  s2.failOp o.id cause

/-- Fail an operation, as a collective where it is one. -/
def State.failAny (s : State) (id : Nat) (cause : Cause) : State :=
  match s.op? id with
  | none => s
  | some o => if o.kind = 3 then s.failColl o cause cause.status.code else s.failOp id cause

/-! ### Hop additions and the vector engine (10 R301) -/

/-- The engine of an opcode (06 R180): 0 array, 1 vector engine, 2 eddy, 3 sluice. -/
def engineOf (op : Nat) : Nat := if op ≤ 2 then 0 else if op < 0x40 then 1 else if op < 0x50 then 2 else 3

/-- `ADD_TILE` of a strand of a collective descriptor. -/
def addTile (d : BitVec 1024) (t : Nat) : Nat := fieldN d (735 - 9 * t) (727 - 9 * t)

/-- What a hop addition takes with a receive slot: nothing more, or at the owner of an open line, between two chains, the slot
of the other chain; none while that one has not come (10 R299). -/
def State.hopMates (s : State) (o : Op) (run : CollRun) (x : HopSlot) : Option (List HopSlot) :=
  match (collAxes o.desc).head? with
  | none => none
  | some a =>
    if x.shard = s.rank a ∧ !s.boxClosed a ∧ 0 < s.rank a ∧ s.rank a + 1 < s.boxExt a then
      (run.slots.find? (fun y => y.strand == (x.strand + 2) % 4 && y.shard == x.shard && y.elem0 == x.elem0)).map (fun y => [y])
    else some []

/-- The addition of a receive slot of a collective can run. -/
def State.hopReady (s : State) (o : Op) (run : CollRun) (x : HopSlot) : Bool :=
  run.open_ && !x.added && (s.hopMates o run x).isSome

/-- A hop addition is pending on the vector engine of a logical tile. -/
def State.hopPending (s : State) (l : Nat) : Bool :=
  s.ops.any (fun o => o.kind == 3 && o.incomplete && (match o.coll with
    | some run => run.slots.any (fun x => addTile o.desc x.strand == l && s.hopReady o run x)
    | none => false))

/-- The vector engine of a logical tile has an operation that has issued and not completed. -/
def State.vectorBusy (s : State) (l : Nat) : Bool :=
  s.ops.any (fun x => x.kind == 1 && x.tile == l && engineOf x.opcode == 1 && x.incomplete && !x.isQueued)

/-! ### Partition events (11 R348) -/

/-- Count an event of `PART_EVT` bit `i`; bit 0 and 3 raise an alert where it is enabled, R342 and R343 post theirs on
every action (12 R375). -/
def State.partEvt (s : State) (i : Nat) (objKind obj : Nat) (ctx : Option Nat) (data : BitVec 3328) : State :=
  let p := s.part
  let s1 : State := { s with part := { p with evt := setFlag p.evt i 1, counts := modAt p.counts i (· + 1) } }
  if i = 1 ∨ i = 2 ∨ alerts p.evt p.evtEn i 1 then s1.event (0x0200 + i) objKind obj ctx data else s1

/-! ### Boundary ports (11 R340, R344) -/

/-- The link of a direction leaves the box: this module is the last of its axis that way. -/
def State.atEdge (s : State) (a : Axis) (neg : Bool) : Bool := if neg then s.rank a == 0 else s.rank a + 1 == s.boxExt a

/-- The fabric has a neighbour in a direction. -/
def State.hasNeighbour (s : State) (a : Axis) (neg : Bool) : Bool :=
  s.fabClosed a || (if neg then s.coord a != 0 else decide (s.coord a + 1 < s.fabExt a))

/-- The port is a boundary port of the box. -/
def State.isBoundary (s : State) (j : Nat) : Bool :=
  let a := portAxis j
  decide (s.ptag ≠ 0) && cfgMode s.part.partCfg a != 1 && s.atEdge a (portNeg j) && s.hasNeighbour a (portNeg j)

/-- The box uses the link of a direction: its collectives pass it. -/
def State.usesLink (s : State) (a : Axis) (neg : Bool) : Bool :=
  decide (s.ptag ≠ 0) && decide (2 ≤ s.boxExt a) && (s.boxClosed a || !s.atEdge a neg)

/-- 11 R344: raise a levee on each boundary port. -/
def State.raiseLevees (s : State) : State :=
  { s with part := { s.part with levee := s.part.levee ||| ((List.range 12).filter s.isBoundary).foldl (fun m j => m ||| (1#12 <<< j)) 0 } }

/-! ### Acting on a fault (11 R342, R345, R516) -/

/-- An epoch fence whose drained message has gone out: it waits on the other ranks (10 R317). -/
def State.fenceSent (s : State) (o : Op) : Bool :=
  o.kind == 3 && o.isQueued && o.opcode == 0xC3 && ((s.headOfChan o.ch).map (·.id) == some o.id)
    && (collAxes o.desc).any (fun a => (s.ctx? o.ctx).any (fun x => x.drained.contains (a, collEpoch o.desc, s.rank a)))

/-- A collective in flight: it has started, or it is a fence that waits on the other ranks. -/
def State.collFlying (s : State) (o : Op) : Bool := o.kind == 3 && o.incomplete && (o.coll.isSome || s.fenceSent o)

/-- Half of a millrace link entry that an operation uses on its out side or in side. -/
def State.mrHalf (s : State) (o : Op) (out : Bool) : BitVec 64 :=
  let t := s.tileL o.tile
  let e := (OpD.of o.desc).link
  smGet 0 (if out then t.mrOut else t.mrIn) e

/-- The operation waits on a peer module (11 R516). -/
def State.waitsOnPeer (s : State) (o : Op) : Bool :=
  let d := OpD.of o.desc
  o.incomplete && (!o.isQueued || s.fenceSent o) &&
    (if o.kind = 1 then decide (d.opcode ≤ 2) && ((d.accInit == 2 && o.phase == .issued && bitN (s.mrHalf o false) 62)
        || (d.accOut == 2 && bitN (s.mrHalf o true) 62))
      else if o.kind = 2 then !o.remote.isEmpty
      else (collAxes o.desc).any (fun a => decide (1 < s.boxExt a)))

/-- Contexts whose tiles lie on a die. -/
def State.ctxsOnDie (s : State) (d : Nat) : List Nat :=
  (s.ctxs.filter (fun e => e.2.tiles.any (fun l => s.phys l / 8 == d))).map (·.1)

/-- Contexts bound to the present partition. -/
def State.ctxsBound (s : State) : List Nat :=
  (s.ctxs.filter (fun e => e.2.ptag.toNat == s.ptag && !e.2.tiles.isEmpty)).map (·.1)

/-- Complete operations that meet a test with a cause. -/
def State.failWhere (s : State) (p : Op → Bool) (cause : Cause) : State :=
  ((s.ops.filter (fun o => p o && o.incomplete)).map (·.id)).foldl (fun s i => s.failAny i cause) s

/-- Abort the collectives in flight of a context, as the faulting rank (10 R319, 11 R342). -/
def State.abortColls (s : State) (c : Nat) : State :=
  (s.ops.filter (fun o => o.ctx == c && s.collFlying o)).foldl (fun s o =>
    s.failColl o .collAborted Status.hwFault.code) s

/-- 06: a fenced die completes the operations in flight on it with `TILE_FENCED`, and faults their channels. -/
def State.failTilesOf (s : State) (d : Nat) : State :=
  s.failWhere (fun o => o.kind == 1 && s.phys o.tile / 8 == d && !o.isQueued) .tileFenced

/-- A manager held in reset: it has no measurement (13 R394, 14 R404). -/
def Mgr.hold (m : Mgr) : Mgr :=
  { m with st := .held, stale := false, trial := none, failedOnce := false, rollBack := false, fallback := false, meas := 0, core := {} }

/-- The manager of a die is held in reset, a restart or an activation of it is abandoned, and its BIST history begins
anew (13 "When manager events meet", 17 R474, R480). -/
def State.holdMgr (s : State) (d : Nat) : State :=
  (s.modDie d (fun x => { x with mgr := x.mgr.hold, bistPassed := [] })).modPkg (fun p => { p with
    fw := p.fw.map (fun c => { c with todo := c.todo.filter (· != d), wave := c.wave.filter (· != d) }) })

/-- A C-die is fenced: its tiles and its manager stop, and its operations complete (11 R345, 17 R474). -/
def State.fenceCDie (s : State) (d : Nat) : State :=
  if (s.die d).cstate = .retired then s
  else (((s.modDie d (fun x => { x with cstate := .fenced })).holdMgr d).saveBinding).failTilesOf d

/-- The contexts that a fault is for (11 R342): those with tiles on a C-die, but under `FENCE`, which fences no die, the one
whose operation took the fault alone; otherwise the fault's own, or every context of the partition. -/
def State.scopeCtxs (s : State) (f : ScopeFault) (replay : Bool) : List Nat :=
  match f.die, f.ctx with
  | some d, c =>
    if 64 ≤ d then s.ctxsBound
    else if c.isSome ∧ !replay then c.toList
    else s.ctxsBound.filter (s.ctxsOnDie d).contains
  | none, some c => [c]
  | none, none => s.ctxsBound

/-- Post the events of a fault, one for each context (11 R342, R345).  `fallback` says that no spare die was left. -/
def State.scopeEvents (s : State) (f : ScopeFault) (cs : List Nat) (fallback : Bool) : State :=
  let obj := f.die.getD 0
  let kind := if f.die.isSome then 2 else 0
  let step := fun (c : Option Nat) => ((c.bind s.ctx?).map (fun x => x.stepCount.toNat)).getD 0
  let data := fun (c : Option Nat) => pack 3328 [(15, 0, s.ptag), (16, 16, b2n fallback), (95, 32, step c)]
  (cs.drop 1).foldl (fun t c => t.event 0x0201 kind obj (some c) (data (some c))) (s.partEvt 1 kind obj cs.head? (data cs.head?))

/-- A C-die fault under `REPLAY` fences the die and starts its sparing; without a spare die the fault is a checkpoint's
(11 R342, R345).  The answer says so. -/
def State.replayDie (s : State) (d : Nat) : State × Bool :=
  let s1 := s.fenceCDie d
  match s1.startSparing d none none false false with
  | some s2 => (s2, false)
  | none => (s1, true)

/-- The action on a fault of the table, for these contexts (11 R342, R345; 11 R341: a replay stays one). -/
def State.actOn (s : State) (f : ScopeFault) (cs : List Nat) (replay : Bool) : State :=
  let s1 := if replay then s else s.raiseLevees
  let r := match f.cls, f.die with
    | 0, some d => if replay ∧ d < 64 then s1.replayDie d else (s1, false)
    | _, _ => (s1, false)
  let s2 := if replay ∧ (f.cls = 0 ∨ f.cls = 4) then cs.foldl (fun s c => s.modCtx c (fun x => { x with replaying := true })) r.1 else r.1
  let s3 := if f.cls = 4 then s2.partEvt 3 0 0 f.ctx 0 else cs.foldl (fun s c => s.abortColls c) s2
  let s4 := cs.foldl (fun s c => s.failWhere (fun o => o.ctx == c && s.waitsOnPeer o) .peerLost) s3
  if f.cls = 4 then s4 else s4.scopeEvents f cs r.2

/-- Act on one fault (11 R342, R345, R348).  The row of a C-die fault needs tiles of the partition's contexts on the die;
the other rows act without a partition too (log 39). -/
def State.applyScope (s : State) (f : ScopeFault) : State :=
  let replay := cfgReplay s.part.partCfg
  let cs := s.scopeCtxs f replay
  match f.cls, f.die with
  | 5, some d => if replay ∧ s.carries d then (s.startSparing d none none true true).getD s else s
  | 5, none => s
  | 0, _ => if s.ptag = 0 ∨ cs.isEmpty then s else s.actOn f cs replay
  | _, _ => s.actOn f cs replay

/-- Act on the faults that have been noted; what the action itself completes adds none. -/
def State.settle (s : State) : State :=
  let due := s.scopeDue
  { due.foldl (fun s f => s.applyScope f) { s with scopeDue := [] } with scopeDue := [] }

/-- `TILE_FENCED`: a C-die fault: the die is fenced, its operations complete with `TILE_FENCED`, and the fault scope of
the partition acts (11 R342, R345). -/
def execTileFenced (die : Fin 64) (s : State) : Ans :=
  let s1 := s.fenceCDie die.val
  let s2 : State := { s1 with scopeDue := s1.scopeDue ++ [⟨0, none, some die.val⟩] }
  .next s2.settle

end Sys2Proof.Machine
end

