-- ==== Sys2Proof/Machine/Memory.lean ====
section
/-! DEFINITION. The memory devices (08 R220 to R226, R231, R232, R246, R247; 17 R490): the check of a line and its
counters, the scrub, the latency-critical cap, the line-sparing store, and temperature. -/

namespace Sys2Proof.Machine

/-! ### Where a line lies (08 R224, R225) -/

/-- Frames of a device. -/
def devFrames (d : Nat) : Nat := if d < 20 then 36864 else 32768

/-- The tier line that a line of a device holds: the frames of a window on a device serve its lots in order. -/
def State.tierLine (s : State) (d line : Nat) : Option Nat :=
  let x := s.dev d
  match x.frames.find? (fun e => e.1 == line / frameLines) with
  | none => none
  | some (f, h) =>
    match s.hobj? h with
    | some (.window w) =>
      let n := max 1 w.devices.length
      let i := (x.framesOf h).findIdx (· == f)
      let per := max 1 (tierD w.tierS / n)
      let page := i / per * lotPages w.tierS + (i % per * 512 + line % frameLines / 64) * n + w.devices.findIdx (· == d)
      some (w.base / 64 + page * 64 + line % 64)
    | _ => none

/-! ### The check of a line (08 R222) -/

/-- Corrections of a line that count: those of the last 24 h (17 R490). -/
def recentCorr (now : Nat) (h : List (Nat × Nat)) : List (Nat × Nat) := h.filter (fun e => decide (now < e.2 + 86400 * 10 ^ 9))

/-- What the outcome of a check does to a device: its counters and its health. -/
def State.countCheck (s : State) (d line : Nat) (o : EccOutcome) : State :=
  match o with
  | .clean => s
  | .corrected =>
    (s.modDev d (fun x => { x with
      corrected := x.corrected + 1
      corrHist := recentCorr s.now x.corrHist ++ [(line, s.now)] })).addScore (devObj d) 1
  | .uncorrectable => (s.modDev d (fun x => { x with uncorrectable := x.uncorrectable + 1 })).addScore (devObj d) 500

/-- A tier line is read at its M-die under the check of R222; a line in the sparing store is served without error. -/
def State.checkLine (s : State) (line : Nat) (o : EccOutcome) : State :=
  match s.lineAt line with
  | none => s
  | some (d, at_) =>
    if (s.die (devDie d)).fenced then s
    else if smGet false s.tierPoison line then s.modDev d (fun x => { x with poisonReads := x.poisonReads + 1 })
    else if (s.dev d).spared.contains at_ then s
    else
      let s1 := s.countCheck d at_ o
      if o = .uncorrectable then { s1 with tierPoison := smPut s1.tierPoison line true } else s1

/-- `LINE_READ`: an M-die reads a line of a tier: corrected data are returned and counted, an uncorrectable line is
poisoned (08 R222). -/
def execLineRead (line : Nat) (outcome : EccOutcome) (s : State) : Ans := .next (s.checkLine line outcome).settle

/-- `SCRUB`: an M-die reads the next line of one of its devices in the background, under the same check (08 R223). -/
def execScrub (dev : Fin 60) (outcome : EccOutcome) (s : State) : Ans :=
  let d := dev.val
  let at_ := (s.dev d).scrubAt
  if (s.die (devDie d)).fenced then .next s
  else
    let s1 := s.modDev d (fun x => { x with scrubAt := (x.scrubAt + 1) % (devFrames d * frameLines) })
    match s.tierLine d at_ with
    | some l => .next (s1.checkLine l outcome).settle
    | none => .next (if (s.dev d).spared.contains at_ then s1 else (s1.countCheck d at_ outcome).settle)

/-- `LC_INTERVAL`: a whole microsecond of tide starts a new interval of each device's latency-critical cap (08 R232). -/
def execLcInterval (s : State) : Ans := .next { s with devices := s.devices.map (fun x => { x with lcUsed := 0 }) }

/-! ### The line-sparing store (08 R246, R247; 17 R490) -/

/-- Lines that the store holds for a device. -/
def spareLines (d : Nat) : Nat := if d < 20 then 4096 else 1024

/-- The repair record takes the spared lines and the soft repairs of a device (17 R483). -/
def State.recordRepairs (s : State) (d : Nat) : State :=
  s.modRepair (fun r => { r with
    lines := smPut r.lines d (s.dev d).spared
    soft := smPut r.soft d (s.dev d).softRepairs
    frames := smPut r.frames d (s.dev d).retired })

/-- `LINE_SPARE`: the move of a line into the store ends, and accesses to it are served from there (08 R247). -/
def execLineSpare (dev : Fin 60) (line : Nat) (s : State) : Ans :=
  let d := dev.val
  if (s.dev d).movingLines.contains line then
    let s1 := s.modDev d (fun x => { x with
      movingLines := x.movingLines.filter (· != line)
      spared := x.spared ++ [line]
      linesSparedCount := x.linesSparedCount + 1 })
    .next ((s1.recordRepairs d).addScore (devObj d) 20).settle
  else .next s

/-- Put a soft repair of a row in effect; the lines it moved out come back (17 R489, R490). -/
def State.softRepair (s : State) (d : Nat) (r : Nat × Nat × Nat) (lines : List Nat) : State :=
  let s1 := s.modDev d (fun x => { x with
    softRepairs := x.softRepairs ++ [r]
    spared := x.spared.filter (fun l => !lines.contains l) })
  (s1.recordRepairs d).event 0x0585 2 (devDie d) none 0

/-- `AUTO_LINE_SPARE`: an M-die manager begins to spare a line after three corrected reads in 24 h, or soft-repairs a
row that holds four spared lines (17 R490); the work waits for a manager that does not run (13 R391). -/
def execAutoLineSpare (dev : Fin 60) (act : AutoSpare) (s : State) : Ans :=
  let d := dev.val
  let x := s.dev d
  if (s.die (devDie d)).mgr.st ≠ .running then .next s
  else match act with
  | .line l =>
    let hits := (recentCorr s.now x.corrHist).filter (fun e => e.1 == l)
    if 3 ≤ hits.length ∧ !x.spared.contains l ∧ !x.movingLines.contains l ∧ x.spared.length + x.movingLines.length < spareLines d then
      .next ((s.modDev d (fun x => { x with movingLines := x.movingLines ++ [l] })).event 0x0585 2 (devDie d) none 0)
    else .next s
  | .row c b r l0 l1 l2 l3 =>
    let ls := [l0, l1, l2, l3]
    if ls.all x.spared.contains ∧ ls.eraseDups.length = 4 then .next (s.softRepair d (c.toNat, b.toNat, r.toNat) ls) else .next s

/-! ### Temperature (08 R220) -/

/-- Gauge ID of `DEV_TEMP` (16 R457). -/
def devTempId (d : Nat) : Nat := if d < 20 then 0x0B000006 else 0x0C000006

/-- `DEV_TEMP_READ`: every 1 ms the temperature of a device is read, which its gauge samples; above 85 °C its refresh runs at
the doubled rate (08 R220, 16 R457). -/
def execDevTempRead (dev : Fin 60) (temp : BitVec 16) (s : State) : Ans :=
  let d := dev.val
  .next ((s.modDev d (fun x => { x with temp := temp.toInt, refresh2x := decide (85 < temp.toInt) })).gaugeSample (devTempId d) (devObj d)
    (BitVec.ofInt 64 temp.toInt))

end Sys2Proof.Machine
end

