-- ==== Sys2Proof/Machine/Package.lean ====
section
/-! DEFINITION. What is shared by commands that act on the whole package: `DEGRADED` (13 R381), the end of a context
(06 R161), and the end of a session (12, 14 R421). -/

namespace Sys2Proof.Machine

/-! ### `PKG_STATE` (13 R381, R382) -/

/-- A die is fenced, or its health is `FAILED`. -/
def State.dieLost (s : State) (d : Nat) : Bool := (s.die d).fenced || (s.health (dieObj d)).st == .failed

/-- `DEG_WHY`: the causes of `DEGRADED` that hold (13 R382). -/
def State.degWhy (s : State) : BitVec 8 :=
  if s.pkg.st = .standby then 0
  else
    pack 8 [(0, 0, b2n (s.bank.any (fun p => (s.die (p / 8)).cstate == .fenced))),
      (1, 1, b2n ((List.range 20).any (fun i => s.dieLost (64 + i)))),
      (2, 2, b2n ((List.range 4).any (fun i => 84 + i != s.primaryDie && s.dieLost (84 + i)))),
      (3, 3, b2n (s.ports.any (fun p => p.st == .fenced || (p.st == .up && p.width == 1)))),
      (4, 4, b2n (s.pkg.mgr.fallback || s.dies.any (·.mgr.fallback))), (5, 5, b2n s.pkg.crashLimit), (6, 6, b2n s.noSpare)]

/-- `PKG_STATE` (13 R382). -/
def State.pkgState (s : State) : W32 :=
  pack 32 [(31, 24, s.degWhy.toNat), (19, 16, s.pkg.bootStep), (11, 9, s.pkg.safeWhy.toNat), (8, 8, b2n s.pkg.primary),
    (7, 7, b2n (s.degWhy != 0)), (2, 0, s.pkg.st.num)]

/-! ### Frames of windows (08 R227, R228; 17 R489) -/

/-- A device when a window is destroyed: its frames return to the free pool, but for those that were to be retired. -/
def Device.release (x : Device) (h : W32) : Device :=
  let mine := (x.frames.filter (fun e => e.2 == h)).map (·.1)
  let gone := x.retireLater.filter mine.contains
  { x with
    frames := x.frames.filter (fun e => e.2 != h)
    retireLater := x.retireLater.filter (fun f => !mine.contains f)
    retired := x.retired ++ gone
    framesRetired := bump x.framesRetired gone.length }

/-- Free the frames of a window; frames retired thereby go into the repair record. -/
def State.freeFrames (s : State) (h : W32) : State :=
  let hit := (List.range 60).filter (fun d => let x := s.dev d; x.retireLater.any (fun f => x.frames.contains (f, h)))
  hit.foldl (fun s d => s.recordRepairs d) { s with devices := s.devices.map (fun x => x.release h) }

/-- Retire a handle, with what its object holds. -/
def State.retireObj (s : State) (h : W32) : State := (s.freeFrames h).retire h

/-! ### The end of a context (06 R160, R161) -/

/-- 06 R161 step 3: what a tile of a context holds is cleared; counters keep their values. -/
def Tile.clear (t : Tile) : Tile :=
  { t with
    sp := []
    spPoison := []
    acc := []
    accFlags := 0
    vecFlags := 0
    mrOut := []
    mrIn := []
    lsync := List.replicate 48 0
    lwaits := []
    cells := []
    xlate := []
    privAmax := []
    privExp := []
    uc := { faults := t.uc.faults, syncErr := t.uc.syncErr } }

/-- A context enters `DESTROYING` (06 R161): its operations are abandoned, its handles retired, its tiles cleared and its
keys destroyed; its queue pairs go with it (log 28), and commands under way on it end with its state code (log 29). -/
def State.destroyCtx (s : State) (c : Nat) : State :=
  match s.ctx? c with
  | none => s
  | some x =>
    if x.st = .destroying then s
    else
      let hs := (s.handlesWhere (fun o => o.ctx? == some c)).map (·.1)
      let s1 := s.discard (fun o => o.ctx == c)
      let live := s1.ops.map (·.id)
      let s2 : State := { s1 with
        signals := s1.signals.filter (fun g => g.ctx != c)
        xlates := s1.xlates.filter (fun g => g.ctx != c)
        mrMsgs := s1.mrMsgs.filter (fun m => m.ctx != c)
        rxOpen := s1.rxOpen.filter (fun e => e.1 != c)
        qps := s1.qps.filter (fun e => e.2.ctx != c)
        devices := s1.devices.map (fun d => { d with rillQ := d.rillQ.filter (fun e => live.contains e.op) }) }
      let s3 := hs.foldl State.retireObj s2
      let s4 := x.tiles.foldl (fun s l => s.modTileL l Tile.clear) s3
      let s5 := s4.modCtx c (fun x => { x with
        st := .destroying
        quiescing := false
        rewindDue := false
        closing := .idle
        closeQ := []
        syncSpace := none
        memKey := none
        partKey := none })
      (s5.resolve (fun q => q.objects.contains (0, c) || hs.any (fun h => q.objects.contains (1, h.toNat))) .stateConflict 0x24 0 0).syncActive

/-! ### The end of a session (12, 14 R421) -/

/-- A debug session ends: the contexts created while it was open are destroyed (14 R421). -/
def State.endDebug (s : State) : State :=
  let cs := (s.ctxs.filter (fun e => e.2.inDebug)).map (·.1)
  cs.foldl State.destroyCtx { s with sec := { s.sec with debug := none } }

/-- A command that acts on its session alone: with the session, it has nothing left to do. -/
def Req.ofSession (r : Req) : Bool := [0x0001, 0x0002, 0x0003, 0x0601, 0x0602, 0x0F01, 0x0F02, 0x0F03].contains r.opcode.toNat

/-- A request of a session that ends: it is checked from now on as its session stood. -/
def Req.orphan (r : Req) (x : Sess) : Req :=
  { r with issuer := r.issuer.or (some { role := x.role, minor := x.minor, helloDone := x.helloDone, restarted := x.restarted }) }

/-- A session ends: its keys are erased, its records and events discarded; commands taken run to completion without
records.  A debug session that it opened ends with it. -/
def State.endSession (s : State) (n : Nat) : State :=
  match s.sess? n with
  | none => s
  | some x =>
    let left := (x.reqs.filter (fun r => !r.ofSession)).map (fun r => r.orphan x)
    let s1 : State := if left.isEmpty then { s with sess := smErase s.sess n }
      else s.modSess n (fun x => { x with
        closed := true
        reqs := left
        results := []
        events := []
        overflow := 0
        keys := none
        sealOn := false
        handshake := 0 })
    if s.sec.debug = some n then s1.endDebug else s1

end Sys2Proof.Machine
end

