-- ==== Sys2Proof/Machine/Baseboard.lean ====
section
/-! DEFINITION. The baseboard link: an I3C target on standby power, its registers and its readings (18 R502, R503). -/

namespace Sys2Proof.Machine

/-! ### Registers (18 R503) -/

/-- `TJ_MAX`: the highest junction reading; 0x80 while no die common domain has power. -/
def State.tjMax (s : State) : Nat := if s.power.convOn then s.bb.tjMax.toNat else 0x80

/-- `BB_STATUS`. -/
def State.bbStatus (s : State) : W32 :=
  pack 32 [(27, 24, s.pkg.bootFail), (23, 16, s.tjMax), (15, 15, b2n s.pkg.thermTrip), (14, 14, b2n s.pkg.alert), (13, 13, b2n s.power.inputRange),
    (8, 8, b2n s.pkg.primary), (7, 7, b2n (s.degWhy != 0)), (2, 0, s.pkg.st.num)]

/-- The bytes of the link's registers, from offset 0 on. -/
def State.bbBytes (s : State) : List Byte :=
  let b := s.bb
  toBytes 4 s.bbStatus.toNat ++ toBytes 2 b.mainV.toNat ++ toBytes 2 b.mainI.toNat ++ toBytes 2 b.stbyV.toNat ++ toBytes 2 b.inputW.toNat
    ++ toBytes 2 b.coolIn.toNat ++ toBytes 2 b.coolOut.toNat ++ toBytes 8 s.sec.serial.toNat ++ [0x42]

/-! ### Addresses (18 R502) -/

/-- The static address. -/
def bbStatic : BitVec 7 := 0x3A

/-- A transfer under an address is for the module: its dynamic address, or its static one while it has none. -/
def State.bbAddressed (s : State) (addr : BitVec 7) : Bool := s.power.stbyOn && s.bb.dynAddr.getD bbStatic == addr

/-- A directed common command is for the module: it takes these under its dynamic address. -/
def State.bbDirected (s : State) (addr : BitVec 7) : Bool := s.power.stbyOn && s.bb.dynAddr == some addr

/-- Change the baseboard link. -/
def State.modBb (s : State) (f : Bb → Bb) : State := { s with bb := f s.bb }

/-! ### Private transfers (18 R502) -/

/-- `I3C_PRIVATE_WRITE`: one byte sets the read offset; a longer write is answered with a NACK (18 R502). -/
def execI3cPrivateWrite (addr : BitVec 7) (bytes : List (BitVec 8)) (s : State) : Ans :=
  if !s.bbAddressed addr then .next s
  else match bytes with
    | [] => .next s
    | [b] => .next (s.modBb (fun x => { x with offset := b }))
    | _ => .next (s.emit .i3cNack)

/-- `I3C_PRIVATE_READ`: `count` bytes from the read offset onward; what lies beyond the registers, no rule states: a free
value (18 R502). -/
def execI3cPrivateRead (addr : BitVec 7) (count : BitVec 8) (s : State) : Ans :=
  if !s.bbAddressed addr then .next s
  else
    let bs := s.bbBytes
    let out := (List.range count.toNat).map (fun i => (bs[s.bb.offset.toNat + i]?).getD (Config.freeBits 8 (s.draw + i)))
    .next ((s.emit (.i3c out)).use count.toNat)

/-! ### Common commands (18 R502) -/

/-- The bytes that the module sends in dynamic address assignment: provisioned ID, most significant byte first, and the two
characteristics registers. -/
def pidBytes : List Byte := (toBytes 6 Config.i3cPid.toNat).reverse

/-- `ENTDAA`: a module without a dynamic address takes part in the assignment; it gets `addr` when it wins the arbitration
(18 R502). -/
def execEntdaa (addr : Option (BitVec 7)) (s : State) : Ans :=
  if !s.power.stbyOn ∨ s.bb.dynAddr.isSome then .next s
  else .next ((s.emit (.i3c (pidBytes ++ [Config.i3cBcr, Config.i3cDcr]))).modBb (fun x => { x with dynAddr := addr }))

/-- `SETDASA`: a module without a dynamic address takes one when the command names its static address (18 R502). -/
def execSetdasa (static addr : BitVec 7) (s : State) : Ans :=
  if !s.power.stbyOn ∨ s.bb.dynAddr.isSome ∨ static ≠ bbStatic then .next s
  else .next (s.modBb (fun x => { x with dynAddr := some addr }))

/-- `RSTDAA`: the module drops its dynamic address (18 R502). -/
def execRstdaa (s : State) : Ans := if s.power.stbyOn then .next (s.modBb (fun x => { x with dynAddr := none })) else .next s

/-- The command is broadcast, or directed to the module. -/
def State.bbHears (s : State) (addr : Option (BitVec 7)) : Bool := s.power.stbyOn && addr.all s.bbDirected

/-- `ENEC`: target events are enabled: bit 0 of the event byte is in-band interrupts (18 R502). -/
def execEnec (addr : Option (BitVec 7)) (events : BitVec 8) (s : State) : Ans :=
  if s.bbHears addr ∧ events.getLsbD 0 then .next (s.modBb (fun x => { x with ibiOn := true })) else .next s

/-- `DISEC`: target events are disabled (18 R502). -/
def execDisec (addr : Option (BitVec 7)) (events : BitVec 8) (s : State) : Ans :=
  if s.bbHears addr ∧ events.getLsbD 0 then .next (s.modBb (fun x => { x with ibiOn := false })) else .next s

/-- `GETPID`: the provisioned ID (18 R502). -/
def execGetpid (addr : BitVec 7) (s : State) : Ans := if s.bbDirected addr then .next (s.emit (.i3c pidBytes)) else .next s

/-- `GETBCR`: the bus characteristics register (18 R502). -/
def execGetbcr (addr : BitVec 7) (s : State) : Ans := if s.bbDirected addr then .next (s.emit (.i3c [Config.i3cBcr])) else .next s

/-- `GETDCR`: the device characteristics register (18 R502). -/
def execGetdcr (addr : BitVec 7) (s : State) : Ans := if s.bbDirected addr then .next (s.emit (.i3c [Config.i3cDcr])) else .next s

/-- `GETSTATUS`: the target status, two bytes, of which no rule gives the value: a free value (18 R502). -/
def execGetstatus (addr : BitVec 7) (s : State) : Ans :=
  if s.bbDirected addr then .next ((s.emit (.i3c (toBytes 2 (Config.freeBits 16 s.draw).toNat))).use 1) else .next s

/-! ### Readings (18 R503) -/

/-- `BB_READING_UPDATE`: every 100 ms the readings of the link are updated, and with them the input power that `PWR_STAT`
shows (18 R503, 15 "Weir registers"). -/
def execBbReadingUpdate (mainV mainI stbyV inputW coolIn coolOut : BitVec 16) (s : State) : Ans :=
  if !s.power.stbyOn then .next s
  else
    let tj := s.dies.foldl (fun m d => max m d.tj) (-128)
    let s1 := s.modBb (fun x => { x with
      mainV := mainV, mainI := mainI, stbyV := stbyV, inputW := inputW, coolIn := coolIn, coolOut := coolOut, tjMax := BitVec.ofInt 8 tj })
    .next { s1 with power := { s1.power with avg100 := inputW.toNat, peak1 := s1.power.peakRun, peakRun := 0 } }

end Sys2Proof.Machine
end

