-- ==== Sys2Proof/Machine/Sync.lean ====
section
/-! DEFINITION. Sync spaces, sync cells and their homes, translation, local sync registers, the utility core's sync
port and its traps (06 R185 to R192). -/

namespace Sys2Proof.Machine

/-! ### Entries of a sync space (06 R185) -/

/-- The sync space of a context. -/
def State.syncSpaceOf (s : State) (c : Nat) : Option SyncSpace :=
  match (s.ctx? c).bind (·.syncSpace) with
  | none => none
  | some h => match s.hobj? h with
    | some (.sync y) => some y
    | _ => none

/-- A sync-space entry as read from memory. -/
structure SyncEntry where
  /-- `VALID`. -/
  valid : Bool
  /-- `HOME_TILE`. -/
  home : Nat
  /-- `ADD`. -/
  add : Nat
  /-- `TAKE`. -/
  take : Nat
  /-- `COUNT`. -/
  count : Nat
  deriving DecidableEq, Repr

/-- The fields of the 64 bits of an entry. -/
def SyncEntry.of (x : Nat) : SyncEntry :=
  let w : W64 := BitVec.ofNat 64 x
  { valid := bitN w 63, home := fieldN w 62 54, add := fieldN w 53 46, take := fieldN w 45 38, count := fieldN w 23 0 }

/-- Address of the entry of a virtual sync ID. -/
def State.entryAddr (s : State) (c id : Nat) : Option Nat :=
  (s.syncSpaceOf c).bind (fun y => if id < y.entries then some (y.table + 8 * id) else none)

/-- The entry of a virtual sync ID. -/
def State.entry (s : State) (c id : Nat) : Option SyncEntry :=
  (s.entryAddr c id).map (fun a => SyncEntry.of (s.tierRead c a 8))

/-- Reading the entry of an ID meets poison. -/
def State.entryBad (s : State) (c id : Nat) : Bool :=
  match s.entryAddr c id with
  | some a => s.tierBad c a 8
  | none => false

/-- What reading the entry of an ID leaves (08 R222). -/
def State.noteEntry (s : State) (c id : Nat) : State :=
  match s.entryAddr c id with
  | some a => s.noteRead c a 8
  | none => s

/-- 06 R186: an ID is invalid when it lies beyond the table, when its entry is not `VALID`, or when its home is not
bound to the context.  A poisoned entry is met when it is translated. -/
def State.idOk (s : State) (c id : Nat) : Bool :=
  match s.entry c id, s.ctx? c with
  | some e, some x => s.entryBad c id || (e.valid && x.tiles.contains e.home)
  | _, _ => false

/-! ### Cells (06 R186, R188) -/

/-- The cell of an ID on a tile. -/
def Tile.cell? (t : Tile) (c id : Nat) : Option Cell := t.cells.find? (fun x => x.id == id && x.ctx == c)

/-- Change the cell of an ID on a tile. -/
def Tile.modCell (t : Tile) (c id : Nat) (f : Cell → Cell) : Tile :=
  { t with cells := t.cells.map (fun x => if x.id == id && x.ctx == c then f x else x) }

/-- Entries of the pending table in use: remote waits only. -/
def Tile.pendingUsed (t : Tile) : Nat :=
  (t.cells.map (fun x => (x.waits.filter (·.remote)).length)).sum

/-- An operation's wait is granted. -/
def State.grant (s : State) (op : Nat) : State :=
  s.modOp op (fun o => { o with waits := o.waits + 1, waitPend := false, retry := false, noCell := false })

/-- Grant the waits of a cell in order of arrival while its count allows it: the cell, and the operations granted. -/
def grantCell : Nat → Cell → List Nat → Cell × List Nat
  | 0, x, g => (x, g)
  | n + 1, x, g =>
    match x.waits with
    | w :: ws => if x.take ≤ x.count then grantCell n { x with count := x.count - x.take, waits := ws } (g ++ [w.op]) else (x, g)
    | [] => (x, g)

/-- Grant what the cell of an ID on a home tile allows. -/
def State.serveCell (s : State) (home c id : Nat) : State :=
  match (s.tileL home).cell? c id with
  | none => s
  | some x =>
    let r := grantCell x.waits.length x []
    r.2.foldl State.grant (s.modTileL home (fun t => t.modCell c id (fun _ => r.1)))

/-- Grant the waits on a local sync register in order (06 R189). -/
def State.serveLocal (r l : Nat) : Nat → State → State
  | 0, s => s
  | n + 1, s =>
    let t := s.tileL l
    match t.lwaits.find? (·.1 == r) with
    | some (_, op) =>
      if 1 ≤ t.lsync.getD r 0 then
        State.serveLocal r l n ((s.modTileL l (fun t => { t with
          lsync := modAt t.lsync r (· - 1)
          lwaits := t.lwaits.erase (r, op) })).grant op)
      else s
    | none => s

/-- The largest count of a cell or register (06 R186). -/
def syncMax : Nat := 16777215

/-- Mark the cell of an ID as used. -/
def State.useCell (s : State) (home c id : Nat) : State :=
  let s1 : State := { s with useCount := s.useCount + 1 }
  s1.modTileL home (fun t => t.modCell c id (fun x => { x with used := s.useCount }))

/-- The cell that a home releases to make room: the one used longest ago among those without a pending wait. -/
def Tile.victim (t : Tile) : Option Cell :=
  (t.cells.filter (fun x => x.waits.isEmpty)).foldl (fun b x =>
    match b with
    | none => some x
    | some y => if x.used < y.used then some x else some y) none

/-- A home can hold one more cell. -/
def Tile.canAllocate (t : Tile) : Bool := decide (t.cells.length < 512) || t.victim.isSome

/-- 06 R185, R188: write the count of a cell back to its entry. -/
def State.writeBack (s : State) (x : Cell) : State :=
  match s.entryAddr x.ctx x.id with
  | none => s
  | some a =>
    let old := s.tierRead x.ctx a 8
    s.store x.ctx a (toBytes 8 (old / 2 ^ 24 * 2 ^ 24 + x.count))

/-- Allocate the cell of an ID from its entry, releasing another one where all are in use. -/
def State.allocate (s : State) (home c id : Nat) (e : SyncEntry) : State :=
  let t := s.tileL home
  let new : Cell := { id := id, ctx := c, count := e.count, take := e.take, used := s.useCount }
  if t.cells.length < 512 then s.modTileL home (fun t => { t with cells := t.cells ++ [new] })
  else match t.victim with
    | none => s
    | some v => (s.writeBack v).modTileL home (fun t => { t with cells := t.cells.filter (fun x => !(x.id == v.id && x.ctx == v.ctx)) ++ [new] })

/-! ### Waits and signals on their way (06 R186, R188) -/

/-- The tile is held by a change of its binding: signals and waits for it, and its own, are held (01 R41). -/
def State.isHeld (s : State) (l : Nat) : Bool := s.pkg.remapHold.contains l

/-- A translated wait reaches its home; where no cell can be allocated its requester waits, and repeats it (06 R188). -/
def State.waitHome (s : State) (o : Op) (id home : Nat) : State :=
  let t := s.tileL home
  match t.cell? o.ctx id with
  | none =>
    if t.canAllocate then
      { s.modOp o.id (fun o => { o with waitPend := true, retry := false, noCell := false }) with
        xlates := s.xlates ++ [{ ctx := o.ctx, id := id, alloc := true, use := .opWait o.id, home := home }] }
    else s.modOp o.id (fun o => { o with waitPend := false, retry := true, noCell := true })
  | some x =>
    let remote := decide (home ≠ o.tile)
    if x.waits.isEmpty ∧ x.take ≤ x.count then
      ((s.modTileL home (fun t => t.modCell o.ctx id (fun x => { x with count := x.count - x.take }))).useCell home o.ctx id).grant o.id
    else if remote ∧ 256 ≤ t.pendingUsed then s.modOp o.id (fun o => { o with waitPend := false, retry := true, noCell := false })
    else
      ((s.modTileL home (fun t => t.modCell o.ctx id (fun x => { x with waits := x.waits ++ [⟨o.id, remote⟩] }))).useCell home
        o.ctx id).modOp o.id (fun o => { o with waitPend := true, retry := false, noCell := false })

/-- A cached translation of a tile. -/
def State.cached (s : State) (l id : Nat) : Option Xlate := (s.tileL l).xlate.find? (fun x => x.id == id)

/-- The head of a queue requests its next wait (06 R186). -/
def State.requestWait (s : State) (o : Op) : State :=
  match o.sync.waits[o.waits]? with
  | none => s
  | some id =>
    if o.sync.loc then
      let t := s.tileL o.tile
      if 1 ≤ t.lsync.getD id 0 ∧ !(t.lwaits.any (·.1 == id)) then
        (s.modTileL o.tile (fun t => { t with lsync := modAt t.lsync id (· - 1) })).grant o.id
      else
        (s.modTileL o.tile (fun t => { t with lwaits := t.lwaits ++ [(id, o.id)] })).modOp o.id
          (fun o => { o with waitPend := true })
    else
      match (if o.kind = 1 then s.cached o.tile id else none) with
      | some x => if s.isHeld x.home then s else s.waitHome o id x.home
      | none =>
        let s1 : State := { s.modOp o.id (fun o => { o with waitPend := true, retry := false, noCell := false }) with
          xlates := s.xlates ++ [{ ctx := o.ctx, id := id, alloc := false, use := .opWait o.id }] }
        if o.kind = 1 then s1.modTileL o.tile (fun t => { t with xlateMiss := t.xlateMiss + 1 }) else s1

/-- A translated signal reaches its home: it adds `ADD`, unless the count would pass its limit, which faults the
signalling channel (06 R186). -/
def State.signalHome (s : State) (g : Signal) (home add : Nat) : State :=
  let t := s.tileL home
  match t.cell? g.ctx g.id with
  | none =>
    if t.canAllocate then
      { s with xlates := s.xlates ++ [{ ctx := g.ctx, id := g.id, alloc := true, use := .signal { g with dest := some (home, add) }, home := home }] }
    else { s with signals := s.signals ++ [{ g with dest := some (home, add) }] }
  | some x =>
    if syncMax < x.count + add then (s.useCell home g.ctx g.id).faultCh g.ch .syncOverflow g.idx false
    else ((s.modTileL home (fun t => t.modCell g.ctx g.id (fun x => { x with count := x.count + add }))).useCell home g.ctx
      g.id).serveCell home g.ctx g.id

/-- A signal reaches a local sync register: it adds 1 (06 R189). -/
def State.signalLocal (s : State) (g : Signal) : State :=
  let t := s.tileL g.tile
  if syncMax < t.lsync.getD g.id 0 + 1 then s.faultCh g.ch .syncOverflow g.idx false
  else State.serveLocal g.id g.tile (t.lwaits.length) (s.modTileL g.tile (fun t => { t with lsync := modAt t.lsync g.id (· + 1) }))

/-- A signal sets out: it is translated at its requester first (06 R188). -/
def State.deliverSignal (s : State) (g : Signal) : State :=
  if g.loc then s.signalLocal g
  else match g.dest with
    | some (home, add) => s.signalHome g home add
    | none =>
      match (if g.tile < 480 then s.cached g.tile g.id else none) with
      | some x => s.signalHome g x.home x.add
      | none =>
        let s1 : State := { s with xlates := s.xlates ++ [{ ctx := g.ctx, id := g.id, alloc := false, use := .signal g }] }
        if g.tile < 480 then s1.modTileL g.tile (fun t => { t with xlateMiss := t.xlateMiss + 1 }) else s1

/-- The translation read of an operation's signal returns poisoned data (06 R186, R188). -/
def State.signalPoisoned (s : State) (o : Op) : Bool :=
  match o.sync.signal with
  | none => false
  | some i =>
    !o.sync.loc && o.cause == .none && (o.kind != 1 || (!s.isHeld o.tile && (s.cached o.tile i).isNone))
      && (match s.entryAddr o.ctx i with
        | some a => !s.bankHeld o.ctx a 8 && s.tierBad o.ctx a 8
        | none => false)

/-- An operation completes, and its signal with it: a signal to a local sync register arrives at once, and its overflow
is the operation's own cause, as poison in the translation of its signal is; every other signal sets out (06 R173, R186,
R189, log 38). -/
def State.completeHere (s : State) (o : Op) : State :=
  if s.signalPoisoned o then ((o.sync.signal.map (s.noteEntry o.ctx)).getD s).completeWith o.id false (poisonCause o.kind)
  else match o.sync.signal with
    | some i =>
      if o.sync.loc ∧ o.cause = .none ∧ !s.isHeld o.tile then
        if syncMax < (s.tileL o.tile).lsync.getD i 0 + 1 then s.completeWith o.id false .syncOverflow
        else (s.completeOp o.id false).signalLocal { ctx := o.ctx, id := i, loc := true, tile := o.tile, ch := o.ch, idx := o.idx }
      else s.completeOp o.id true
    | none => s.completeOp o.id true

/-! ### The utility core's sync port (06 R190) -/

/-- Change the utility core of a logical tile. -/
def State.modUc (s : State) (l : Nat) (f : UtilCore → UtilCore) : State := s.modTileL l (fun t => { t with uc := f t.uc })

/-- A take of a utility core ends: granted or refused; a core that waits in WFI wakes (06 R190, R192). -/
def State.endTake (s : State) (l : Nat) (granted : Bool) : State :=
  s.modUc l (fun u => { u with takeResult := if granted then 2 else 3, takeHeld := none, wfi := false })

/-- A translated take reaches its home: it is granted or refused at once.  It is held on its way while the binding of the
home changes (01 R41). -/
def State.takeHome (s : State) (l c id home : Nat) : State :=
  let t := s.tileL home
  if s.isHeld home then s.modUc l (fun u => { u with takeHeld := some home })
  else match t.cell? c id with
  | none =>
    if t.canAllocate then
      { s with xlates := s.xlates ++ [{ ctx := c, id := id, alloc := true, use := .ucTake l, home := home }] }
    else s.endTake l false
  | some x =>
    if x.take ≤ x.count then
      ((s.modTileL home (fun t => t.modCell c id (fun x => { x with count := x.count - x.take }))).useCell home c id).endTake l true
    else (s.useCell home c id).endTake l false

/-- The takes that a change of binding has held go on (01 R41). -/
def State.resumeTakes (s : State) : State :=
  (List.range 480).foldl (fun s l =>
    let u := (s.tileL l).uc
    match u.takeHeld, s.ctxOfTile l with
    | some home, some c => (s.modUc l (fun u => { u with takeHeld := none })).takeHome l c u.takeId home
    | _, _ => s) s

/-! ### Reads of sync-space entries (06 R188) -/

/-- A read of an entry returns poison (06 R186). -/
def State.xlatePoison (s : State) (x : XlateRead) : State :=
  match x.use with
  | .opWait id =>
    match s.op? id with
    | some o => s.failAny id (poisonCause o.kind)
    | none => s
  | .signal g =>
    if g.ch = 0 then s.modUc g.tile (fun u => { u with syncErr := u.syncErr + 1 })
    else s.faultCh g.ch (poisonCause (hKind g.ch)) g.idx false
  | .ucTake l => s.endTake l false

/-- The requester of a translation. -/
def State.xlateTile (s : State) (x : XlateRead) : Option Nat :=
  match x.use with
  | .opWait id => (s.op? id).bind (fun o => if o.kind = 1 then some o.tile else none)
  | .signal g => if g.tile < 480 then some g.tile else none
  | .ucTake l => some l

/-- Put a translation into a tile's cache of 256 IDs; the one filled first makes room (log 20). -/
def Tile.fillXlate (t : Tile) (x : Xlate) : Tile :=
  let kept := t.xlate.filter (fun y => y.id != x.id)
  { t with xlate := (if kept.length < 256 then kept else kept.drop 1) ++ [x] }

/-- What waited for a read goes on to its home. -/
def State.xlateUse (s : State) (x : XlateRead) (home add : Nat) : State :=
  match x.use with
  | .opWait id =>
    match s.op? id with
    | some o => s.waitHome o x.id home
    | none => s
  | .signal g => s.signalHome g home add
  | .ucTake l => s.takeHome l x.ctx x.id home

/-- Two requests wait for the allocation of one cell. -/
def XlateRead.sameCell (x y : XlateRead) : Bool := x.alloc && y.alloc && x.ctx == y.ctx && x.id == y.id && x.home == y.home

/-- What a request adds to a cell that has been allocated for it: the `ADD` of its signal. -/
def XlateRead.addOf (x : XlateRead) (e : SyncEntry) : Nat :=
  match x.use with
  | .signal g => (g.dest.map (·.2)).getD e.add
  | _ => e.add

/-- A read of an entry returns from Tier F.  The cell that it allocates takes the requests that have reached the home
meanwhile in the order in which they came (06 R186). -/
def State.xlateDone (s : State) (x : XlateRead) : State :=
  if s.entryBad x.ctx x.id then (s.noteEntry x.ctx x.id).xlatePoison x
  else match s.entry x.ctx x.id with
    | none => s
    | some e =>
      if x.alloc then
        let later := s.xlates.filter x.sameCell
        let s0 : State := { s with xlates := s.xlates.filter (fun y => !x.sameCell y) }
        let s1 := if ((s0.tileL x.home).cell? x.ctx x.id).isSome then s0 else s0.allocate x.home x.ctx x.id e
        (x :: later).foldl (fun s y => s.xlateUse y x.home (y.addOf e)) s1
      else
        let s1 := match s.xlateTile x with
          | some l => s.modTileL l (fun t => t.fillXlate ⟨x.id, e.home, e.add, e.take⟩)
          | none => s
        s1.xlateUse x e.home e.add

/-! ### The commands -/

/-- The operation at a queue or channel head. -/
def State.headAt (s : State) (w : HeadRef) : Option Op :=
  match w with
  | .queue l q => s.headOf l.val q.val
  | .chan h => s.headOfChan h

/-- 01 R41: an agent on a held tile sends nothing. -/
def State.opHeld (s : State) (o : Op) : Bool := o.kind == 1 && s.isHeld o.tile

/-- `SYNC_WAIT`: the head's next wait reaches its home and is granted, or stands in its cell (06 R186, R188). -/
def execSyncWait (head : HeadRef) (s : State) : Ans :=
  match s.headAt head with
  | some o => if o.waitPend ∨ o.retry ∨ s.opHeld o then .next s else .next (s.requestWait o)
  | none => .next s

/-- `WAIT_RETRY`: a refused wait is repeated (06 R188). -/
def execWaitRetry (head : HeadRef) (s : State) : Ans :=
  match s.headAt head with
  | some o => if o.retry ∧ !s.opHeld o then .next (s.requestWait o) else .next s
  | none => .next s

/-- `SYNC_SIGNAL`: signal `k` of those on their way reaches its home (06 R186). -/
def execSyncSignal (k : Nat) (s : State) : Ans :=
  match s.signals[k]? with
  | some g =>
    let home : Option Nat := match g.dest with
      | some p => some p.1
      | none => (s.cached g.tile g.id).map Xlate.home
    if s.isHeld g.tile ∨ (!g.loc && home.any s.isHeld) then .next s
    else
      let s1 : State := { s with signals := s.signals.eraseIdx k }
      .next (s1.deliverSignal g)
  | none => .next s

/-- `XLATE_READ_DONE`: read `k` of those in progress returns (06 R188).  The requests that wait for one cell wait for one
read, that of the first of them. -/
def execXlateReadDone (k : Nat) (s : State) : Ans :=
  match s.xlates[k]? with
  | some x =>
    let held : Bool := match s.entryAddr x.ctx x.id with
      | some a => s.bankHeld x.ctx a 8
      | none => false
    let home : Nat := if x.alloc then x.home else ((s.entry x.ctx x.id).map SyncEntry.home).getD 0
    let s0 : State := { s with xlates := s.xlates.eraseIdx k }
    let s1 : State := match s.entryAddr x.ctx x.id with
      | some a => s0.lcRead x.ctx a 8
      | none => s0
    if held ∨ s.isHeld home ∨ (s.xlates.take k).any x.sameCell then .next s else .next (s1.xlateDone x).settle
  | none => .next s

/-- A write to `UC_SIGNAL` of the tile that carries a logical tile: an invalid ID is dropped and counted (06 R190). -/
def State.ucSignal (s : State) (l : Nat) (loc : Bool) (id : Nat) : State :=
  match s.ctxOfTile l with
  | none => s
  | some c =>
    if (if loc then decide (id < 48) else s.idOk c id) then
      { s with signals := s.signals ++ [{ ctx := c, id := id, loc := loc, tile := l, ch := 0, idx := 0 }] }
    else s.modUc l (fun u => { u with syncErr := u.syncErr + 1 })

/-- A write to `UC_TAKE`: the take is granted or refused, and never held (06 R190). -/
def State.ucTake (s : State) (l : Nat) (loc : Bool) (id : Nat) : State :=
  match s.ctxOfTile l with
  | none => s
  | some c =>
    let s1 := s.modUc l (fun u => { u with takeResult := 1, takeLocal := loc, takeId := id })
    if loc then
      if id < 48 ∧ 1 ≤ (s1.tileL l).lsync.getD id 0 then
        (s1.modTileL l (fun t => { t with lsync := modAt t.lsync id (· - 1) })).endTake l true
      else s1.endTake l false
    else if !s.idOk c id then s1.endTake l false
    else match s1.cached l id with
      | some x => s1.takeHome l c id x.home
      | none =>
        let s2 : State := { s1 with xlates := s1.xlates ++ [{ ctx := c, id := id, alloc := false, use := .ucTake l }] }
        s2.modTileL l (fun t => { t with xlateMiss := t.xlateMiss + 1 })

/-- `UC_SIGNAL`: a running utility core signals (06 R190). -/
def execUcSignal (tile : Fin 480) (loc : Bool) (id : BitVec 16) (s : State) : Ans :=
  if (s.tileL tile.val).uc.st = .running then .next (s.ucSignal tile.val loc id.toNat) else .next s

/-- `UC_TAKE`: a running utility core takes (06 R190). -/
def execUcTake (tile : Fin 480) (loc : Bool) (id : BitVec 16) (s : State) : Ans :=
  if (s.tileL tile.val).uc.st = .running then .next (s.ucTake tile.val loc id.toNat) else .next s

/-- The utility core takes an exception at `pc`: to the handler at `mtvec`, whose low two bits are its mode. -/
def UtilCore.trap (u : UtilCore) (pc : W64) (mcause : Nat) (tval : W64) : UtilCore :=
  { u with
    mepc := pc &&& ~~~1#64
    mcauseCsr := BitVec.ofNat 64 mcause
    mtval := tval
    mstatus := (u.mstatus &&& 0x6000) ||| (if bitN u.mstatus 3 then 0x80 else 0)
    pc := u.mtvec &&& ~~~3#64
    inHandler := true
    wfi := false }

/-- An exception of a utility core at `pc`: it is taken to `mtvec`, or halts the core, which records it and
faults every compute channel of the tile (06 R192).  No descriptor faults, so `FAULT_INDEX` is free. -/
def State.ucException (s : State) (l : Nat) (pc : W64) (mcause : Nat) (tval : W64) : State :=
  let u := (s.tileL l).uc
  if u.mtvec = 0 ∨ u.inHandler then
    let s1 := s.modUc l (fun u => { u with
      st := .excHalted
      mcause := BitVec.ofNat 8 mcause
      faultPc := pc.setWidth 48
      faults := u.faults + 1
      wfi := false })
    (((s1.chansWhere (fun c => c.kind == 1 && c.tile == l)).foldl (fun s h =>
      s.faultCh h.1 .ucFault (Config.freeBits 32 s.draw) false) s1)).use 1
  else s.modUc l (fun u => u.trap pc mcause tval)

/-- `UC_FAULT`: an exception of a running utility core at `pc` (06 R192). -/
def execUcFault (tile : Fin 480) (pc : BitVec 48) (mcause : BitVec 8) (s : State) : Ans :=
  if (s.tileL tile.val).uc.st = .running then .next (s.ucException tile.val (pc.setWidth 64) mcause.toNat 0) else .next s

/-- `UC_WFI_WAKE`: a utility core leaves WFI (06 R192). -/
def execUcWfiWake (tile : Fin 480) (s : State) : Ans :=
  .next (s.modUc tile.val (fun u => if u.st = .running then { u with wfi := false } else u))

end Sys2Proof.Machine
end

