-- ==== Sys2Proof/Machine/Coll.lean ====
section
/-! DEFINITION. Collectives (10): descriptors and their validation, the start round, shards, chains of additions,
gathers, value exchanges, layout epochs and completion. -/

namespace Sys2Proof.Machine

/-! ### The descriptor (10 R291 to R293) -/

/-- The fields of a collective descriptor. -/
structure CollD where
  /-- `SRC`. -/
  src : W64
  /-- `DST`. -/
  dst : W64
  /-- `EXT_TBL`. -/
  extTbl : W64
  /-- `AUX_TBL`. -/
  auxTbl : W64
  /-- `COUNT`. -/
  count : Nat
  /-- `ADD_TILE0` to `ADD_TILE3`. -/
  addTiles : List Nat
  /-- `RX_OFF`. -/
  rxOff : Nat
  /-- `RX_PKTS`. -/
  rxPkts : Nat
  /-- `ROOT`. -/
  root : Nat
  /-- `SG_LOG2`. -/
  sg : Nat
  /-- `OPCODE`. -/
  opcode : Nat
  /-- `AMAX_REC`. -/
  amaxRec : Bool
  /-- `TABLE`. -/
  table : Bool
  /-- `PRIV`. -/
  priv : Bool
  /-- `STEP`. -/
  step : Bool
  /-- `CLOSE`. -/
  close : Bool
  /-- `FMT_OUT`. -/
  fmtOut : Nat
  /-- `FMT_WIRE`. -/
  fmtWire : Nat
  /-- `FMT_IN`. -/
  fmtIn : Nat
  /-- `ROUND`. -/
  round : Nat
  /-- `SERIAL`. -/
  serial : W32
  deriving DecidableEq, Repr

/-- Read the fields of a descriptor. -/
def CollD.of (d : BitVec 1024) : CollD where
  src := BitVec.ofNat 64 (fieldN d 1023 960)
  dst := BitVec.ofNat 64 (fieldN d 959 896)
  extTbl := BitVec.ofNat 64 (fieldN d 895 832)
  auxTbl := BitVec.ofNat 64 (fieldN d 831 768)
  count := fieldN d 767 736
  addTiles := [fieldN d 735 727, fieldN d 726 718, fieldN d 717 709, fieldN d 708 700]
  rxOff := fieldN d 699 677
  rxPkts := fieldN d 676 669
  root := fieldN d 612 609
  sg := fieldN d 608 605
  opcode := fieldN d 63 56
  amaxRec := bitN d 52
  table := bitN d 51
  priv := bitN d 50
  step := bitN d 49
  close := bitN d 48
  fmtOut := fieldN d 47 44
  fmtWire := fieldN d 43 40
  fmtIn := fieldN d 39 36
  round := fieldN d 34 32
  serial := BitVec.ofNat 32 (fieldN d 31 0)

/-- Format codes of FP32, BF16, FP8 E4M3, FP8 E5M2, INT32 and KB8 (02 R52). -/
def codeOf (f : Fmt) : Nat := ((List.range 16).find? (fun c => Fmt.ofCode c == some f)).getD 16

/-- The format of a code. -/
def fmtOf (c : Nat) : Fmt := (Fmt.ofCode c).getD .fp32

/-- Bytes of an element. -/
def Fmt.bytes (f : Fmt) : Nat := f.width / 8

/-- The opcode moves shards. -/
def CollD.sharded (d : CollD) : Bool := decide (d.opcode ≤ 0xC4)

/-- The opcode adds contributions. -/
def CollD.adds (d : CollD) : Bool := d.opcode == 0xC1 || d.opcode == 0xC2

/-- 10 R292: formats, axes and options of the opcode. -/
def CollD.shapeOk (d : CollD) (axes : List Axis) : Bool :=
  let f := fun (fs : List Fmt) (c : Nat) => fs.any (fun x => codeOf x == c)
  let noOpt := !d.amaxRec && !d.table && !d.priv && !d.step && !d.close
  let same := d.fmtWire == d.fmtIn && d.fmtOut == d.fmtIn
  match d.opcode with
  | 0xC0 | 0xC4 => (f [.fp32, .bf16] d.fmtIn || d.fmtIn == d.fmtWire) && f [.e4m3, .e5m2, .kb8, .bf16] d.fmtWire
      && (d.fmtOut == d.fmtWire || f [.bf16, .fp32] d.fmtOut) && axes.length == 1 && noOpt
  | 0xC1 | 0xC2 => f [.fp32, .bf16] d.fmtIn && f [.kb8, .bf16, .fp32] d.fmtWire && f [.fp32, .bf16] d.fmtOut && axes.length == 1
      && !d.table && !d.priv && !d.step && !d.close && (!d.amaxRec || f [.kb8] d.fmtWire)
  | 0xC3 => (match Fmt.ofCode d.fmtIn with | some x => !x.isMx | none => false) && same && axes.length == 1 && noOpt
  | 0xC5 => d.fmtIn == 0 && same && !axes.isEmpty && !d.amaxRec && !d.table && !d.priv && !d.step
  | 0xC6 => (f [.int32] d.fmtIn || (d.step && d.fmtIn == 0)) && same && !axes.isEmpty && !d.amaxRec && !d.table && !d.priv && !d.close
  | 0xC7 => (f [.fp32] d.fmtIn || ((d.priv || d.table) && d.fmtIn == 0)) && same && !axes.isEmpty && !d.amaxRec && !d.step && !d.close
      && !(d.priv && d.table)
  | _ => false

/-- 10 R293: reserved fields are 0. -/
def collPadOk (d : BitVec 1024) : Bool :=
  fieldN d 668 664 == 0 && fieldN d 604 600 == 0 && fieldN d 591 64 == 0 && !bitN d 35

/-- Bytes that `SRC` holds and `DST` receives at most, at rank `r` of `n` with extents `ext` (10 R296). -/
def CollD.spans (d : CollD) (r : Nat) (ext : List Nat) (from_ : Nat) : Nat × Nat :=
  let i := (fmtOf d.fmtIn).bytes
  let o := (fmtOf d.fmtOut).bytes
  match d.opcode with
  | 0xC0 => (i * ext.getD r 0, o * d.count)
  | 0xC1 => (i * d.count, o * ext.getD r 0)
  | 0xC2 => (i * d.count, o * d.count)
  | 0xC3 => (i * ext.getD r 0, o * ext.getD from_ 0)
  | 0xC4 => (if r = d.root then i * d.count else 0, o * d.count)
  | 0xC6 => if d.step then (0, 0) else (4, 4)
  | 0xC7 => if d.priv ∨ d.table then (0, 0) else (4 * d.count, 4 * d.count)
  | _ => (0, 0)

/-- 10 R294: the even split. -/
def evenSplit (count n : Nat) : List Nat :=
  let x := 32 * cdiv count (32 * n)
  (List.range n).map (fun r => min (count - r * x) x)

/-- Ranks of the axes of a collective: of its one axis where it moves shards. -/
def State.collN (s : State) (axes : List Axis) : Nat := match axes with | a :: _ => s.boxExt a | [] => 1

/-- A global address names this module, and the context reaches the byte there and the `k` bytes from it (10 R293,
01 R47, 11 R327). -/
def State.ownAddr (s : State) (c : Nat) (g : W64) (k : Nat) : Bool :=
  gPadOk g && gXyz g == s.ownXyz && s.reaches c (gLocal g) (max 1 k)

/-- 10 R294: the extents in effect: of the even split, or as the table gives them now. -/
def State.collTable (s : State) (c : Nat) (d : CollD) (n : Nat) : List Nat :=
  if d.extTbl = 0 then evenSplit d.count n
  else (List.range n).map (fun r => s.readAt c (gLocal d.extTbl + 4 * r) 4)

/-- The extents of the shards that move: a broadcast moves the whole tensor as the root's shard (10 R310). -/
def State.collExt (s : State) (c : Nat) (d : CollD) (n : Nat) : List Nat :=
  if d.opcode = 0xC4 then (List.range n).map (fun r => if r = d.root then d.count else 0) else s.collTable c d n

/-- The permutation table of a `PERMUTE` (10 R311). -/
def State.collPerm (s : State) (c : Nat) (d : CollD) (n : Nat) : List Nat :=
  if d.opcode = 0xC3 then (List.range n).map (fun r => s.readAt c (gLocal d.auxTbl + r) 1) else []

/-- Blocks of an extent (10 R295). -/
def blocksIn (x : Nat) : Nat := cdiv x 32

/-- Groups of the agreed-scale table that a tensor uses (10 R300). -/
def CollD.groups (d : CollD) (ext : List Nat) : Nat := cdiv ((ext.map blocksIn).sum) (2 ^ d.sg)

/-- The descriptor moves KB8 elements with their units, which the agreed-scale table gives (10 R300, R311). -/
def CollD.scaled (d : CollD) : Bool :=
  d.sharded && d.opcode != 0xC3 && [d.fmtIn, d.fmtWire, d.fmtOut].any (fun f => fmtOf f == .kb8)

/-- Bytes of the table at `AUX_TBL`: a permutation, or agreed-scale entries; none where it is unused. -/
def CollD.auxSpan (d : CollD) (n : Nat) (ext : List Nat) : Nat :=
  if d.opcode = 0xC3 then n else if d.table then 16 * d.count else if d.scaled then 16 * d.groups ext else 0

/-- Bytes that a collective reaches on this module from `SRC`, `DST`, `EXT_TBL` and `AUX_TBL`, with extents `ext` and
permutation `perm`. -/
def State.collRanges (s : State) (raw : BitVec 1024) (ext perm : List Nat) : List (W64 × Nat) :=
  let d := CollD.of raw
  let axes := collAxes raw
  let n := s.collN axes
  let r := s.rank (axes.headD 0)
  let sp := d.spans r ext ((perm.findIdx? (· == r)).getD r)
  [(d.src, sp.1), (d.dst, sp.2), (d.extTbl, if d.extTbl = 0 then 0 else 4 * n), (d.auxTbl, d.auxSpan n ext)]

/-- An access of a collective is held: by a close, a line that moves, or a change of binding of a tile that it names
(01 R41, 07 R216, 08 R247). -/
def State.collHeld (s : State) (o : Op) : Bool :=
  let d := CollD.of o.desc
  let n := s.collN (collAxes o.desc)
  let run := o.coll.getD { seq := 0, own := 0, ext := s.collExt o.ctx d n, units := [], perm := s.collPerm o.ctx d n }
  (s.collRanges o.desc run.ext run.perm).any (fun x => decide (0 < x.2) && s.accessHeld o.ctx (gLocal x.1) x.2)
    || (d.adds && d.addTiles.any s.isHeld)

/-- 10 R293, 11 R330: what is checked of a collective descriptor when it is fetched: `SRC` and `DST` always, a table where
there is one.  A poisoned table is left to the start, which completes the collective with `COLL_POISON` (log 85). -/
def State.collOk (s : State) (c : Nat) (raw : BitVec 1024) : Bool :=
  let d := CollD.of raw
  let axes := collAxes raw
  let n := s.collN axes
  let dark := (d.extTbl != 0 && s.badRead c (gLocal d.extTbl) (4 * n)) || (d.opcode == 0xC3 && s.badRead c (gLocal d.auxTbl) n)
  let ranges := s.collRanges raw (s.collExt c d n) (s.collPerm c d n)
  let own := fun (x : W64 × Nat) => s.ownAddr c x.1 (if dark then 0 else x.2)
  let kb := [d.fmtIn, d.fmtWire, d.fmtOut].any (fun f => fmtOf f == .kb8)
  collPadOk raw && decide (d.round ≤ 4) && d.shapeOk axes && decide (s.ptag ≠ 0) && (s.ctx? c).any (fun x => x.ptag.toNat == s.ptag)
    && (!(d.step || d.close) || [0, 1, 2].all (fun a => axes.contains a || s.boxExt a == 1))
    && (ranges.take 2).all own && (ranges.drop 2).all (fun x => (x.1 == 0 && x.2 == 0) || own x)
    && !(kb && d.opcode != 0xC3 && d.auxTbl == 0) && !(d.opcode == 0xC3 && d.auxTbl == 0)
    && (!d.adds || (d.addTiles.all (fun t => (s.ctx? c).any (fun x => x.tiles.contains t)) && d.rxOff % 4096 == 0
      && decide (4 ≤ d.rxPkts) && decide (d.rxOff + 4096 * d.rxPkts ≤ 0x800000)))
    && !(d.adds && fmtOf d.fmtWire == .kb8 && cfgRole s.part.partCfg (axes.headD 0) != 2) && decide (d.root < (axes.map s.boxExt).foldl (· * ·) 1)
    && !(d.sharded && d.count == 0) && !(d.opcode == 0xC7 && !d.priv && !d.table && decide (4096 < d.count))
    && !(d.priv && d.count != 64)

/-! ### Shards, strands and units -/

/-- Index of the first element of shard `r`. -/
def shardAt (ext : List Nat) (r : Nat) : Nat := (ext.take r).sum

/-- Number of the first block of shard `r` (10 R295). -/
def blockAt (ext : List Nat) (r : Nat) : Nat := ((ext.take r).map blocksIn).sum

/-- The elements of shard `j` that strand `t` takes: first element and count (10 R297). -/
def strandRun (closed : Bool) (ext : List Nat) (j t : Nat) : Nat × Nat :=
  let b := blocksIn (ext.getD j 0)
  let (lo, hi) := if closed then (t * b / 4, (t + 1) * b / 4)
    else if t % 2 = 0 then (0, b / 2) else (b / 2, b)
  let x := ext.getD j 0
  (shardAt ext j + min (32 * lo) x, min (32 * hi) x - min (32 * lo) x)

/-- Cut a run of elements into packets of at most `k` elements: (first, count). -/
def cutRun (k first : Nat) : Nat → Nat → List (Nat × Nat)
  | 0, _ => []
  | f + 1, n => if n = 0 then [] else (first, min k n) :: cutRun k (first + min k n) f (n - min k n)

/-- The packets of a run of elements in a wire format: 4 KiB each (10 R301). -/
def CollD.packets (d : CollD) (run : Nat × Nat) : List (Nat × Nat) := cutRun (4096 / max 1 (fmtOf d.fmtWire).bytes) run.1 run.2 run.2

/-- The shard of an element. -/
def shardOf (ext : List Nat) (e : Nat) : Nat := ((List.range ext.length).find? (fun r => decide (e < shardAt ext (r + 1)))).getD 0

/-- The agreed-scale group of an element (10 R300). -/
def CollD.groupOf (d : CollD) (ext : List Nat) (e : Nat) : Nat :=
  let r := shardOf ext e
  (blockAt ext r + (e - shardAt ext r) / 32) / 2 ^ d.sg

/-- The unit byte of an element; 127 where no unit applies. -/
def CollD.unitOf (d : CollD) (run : CollRun) (e : Nat) : Nat := run.units.getD (d.groupOf run.ext e) 127

/-- The value of a code of a format, with its unit where it is KB8. -/
def codeVal (f : Fmt) (unit code : Nat) : Val := if f = .kb8 then scaleVal unit (decode .kb8 code) else decode f code

/-- Convert a value to a format, with its unit where it is KB8 (10 R300). -/
def toCode (f : Fmt) (unit : Nat) (mode : Round) (v : Val) : Cvt :=
  if f = .kb8 then (if unit = 0xFF then ⟨0x80, false, true⟩ else convert .kb8 mode (unscale unit v)) else convert f mode v

/-- Rounding of element `e` of a collective (02 R67, 10 R299). -/
def State.collRound (s : State) (o : Op) (d : CollD) (e : Nat) : Round :=
  Round.ofField d.round (if d.round = 4 then stochR (((s.ctx? o.ctx).map (·.seed)).getD 0) o.stepAt o.ctx d.serial e else 0)

/-- Address of element `e` in the input: the whole tensor, or the own shard (10 R296). -/
def CollD.srcAddr (d : CollD) (run : CollRun) (r e : Nat) : Nat :=
  let i := if d.opcode = 0xC0 ∨ d.opcode = 0xC3 then e - shardAt run.ext r else e
  gLocal d.src + i * (fmtOf d.fmtIn).bytes

/-- Address of element `e` in the output. -/
def CollD.dstAddr (d : CollD) (run : CollRun) (r e : Nat) : Nat :=
  let i := if d.opcode = 0xC1 ∨ d.opcode = 0xC3 then e - shardAt run.ext r else e
  gLocal d.dst + i * (fmtOf d.fmtOut).bytes

/-- The local contribution to an element. -/
def State.contribution (s : State) (o : Op) (d : CollD) (run : CollRun) (r e : Nat) : Val :=
  codeVal (fmtOf d.fmtIn) (d.unitOf run e) (s.readAt o.ctx (d.srcAddr run r e) (fmtOf d.fmtIn).bytes)

/-- Some element of a run of the input is poisoned. -/
def State.srcBad (s : State) (o : Op) (d : CollD) (run : CollRun) (r first n : Nat) : Bool :=
  s.badRead o.ctx (d.srcAddr run r first) (n * (fmtOf d.fmtIn).bytes)

/-- A value is not finite. -/
def Val.nonFinite : Val → Bool
  | .fin _ _ => false
  | _ => true

/-- A wire result in `FMT_OUT`, with its events; a permute moves codes unchanged and counts none. -/
def State.outCode (s : State) (o : Op) (d : CollD) (run : CollRun) (e code : Nat) : Cvt :=
  let u := d.unitOf run e
  if d.fmtOut = d.fmtWire then ⟨code, false, d.opcode != 0xC3 && (codeVal (fmtOf d.fmtWire) u code).nonFinite⟩
  else toCode (fmtOf d.fmtOut) u (s.collRound o d e) (codeVal (fmtOf d.fmtWire) u code)

/-- Add what a list does not hold yet. -/
def addOnce (xs ys : List Nat) : List Nat := ys.foldl (fun a y => if a.contains y then a else a ++ [y]) xs

/-- Count the saturation and non-finite events of elements that a rank writes or sends: one of each for an element,
however many conversions it passes (10 R300). -/
def State.collEvents (s : State) (id : Nat) (es : List (Nat × Cvt)) : State :=
  s.modOp id (fun o => match o.coll with
    | none => o
    | some run =>
      let sat := addOnce run.satAt ((es.filter (·.2.sat)).map (·.1))
      let nf := addOnce run.nfAt ((es.filter (·.2.nf)).map (·.1))
      { o with satEv := sat32 sat.length, nfEv := sat32 nf.length, coll := some { run with satAt := sat, nfAt := nf } })

/-- Conversions of a run of elements, with their elements. -/
def atElems (first : Nat) (cs : List Cvt) : List (Nat × Cvt) := cs.zipIdx.map (fun c => (first + c.2, c.1))

/-- Change the run of a collective. -/
def State.modRun (s : State) (id : Nat) (f : CollRun → CollRun) : State := s.modOp id (fun o => { o with coll := o.coll.map f })

/-! ### Sending (10 R286, R301, R307, R308) -/

/-- `META` of a data packet: the tag, then the model's layout (log 21) of shard, gather, count and first element. -/
def collMeta (tag shard : Nat) (gather : Bool) (count e0 : Nat) : BitVec 184 :=
  pack 184 [(183, 120, tag), (63, 56, shard), (55, 55, b2n gather), (47, 32, count), (31, 0, e0)]

/-- The credit that a packet takes at a rank: of a chain's strand, or of the source's 64 of a gather (10 R301, R308). -/
def creditKey (gather : Bool) (strand r : Nat) : Bool × Nat × Nat := (gather, if gather then 0 else strand, r)

/-- The wire codes of a packet with the zeros that complete its last block (10 R295). -/
def padBlock (vals : List Nat) : List Nat := vals ++ List.replicate (32 * blocksIn vals.length - vals.length) 0

/-- A packet that carries the sum of a receive slot has been sent: the slot frees, and its credit returns (10 R301). -/
def State.slotSent (s : State) (o : Op) (x : CollTx) : State :=
  match x.slot with
  | none => s
  | some i => (s.creditSlot o x.strand).modRun o.id (fun r => { r with slots := r.slots.filter (fun y => !(y.strand == x.strand && y.slot == i)) })

/-- Send message `x` of `o`, if no earlier one of its strand waits and every credit it needs is held: the state, the credits left, the
messages kept back and the credits taken. -/
def State.pumpStep (s : State) (o : Op) (run : CollRun) (ch : Chan) (a : Axis)
    (acc : State × List (Bool × Nat × Nat) × List CollTx × List (Bool × Nat × Nat)) (x : CollTx) :
    State × List (Bool × Nat × Nat) × List CollTx × List (Bool × Nat × Nat) :=
  let d := CollD.of o.desc
  let need := x.dsts.map (creditKey x.gather x.strand)
  let blocked := acc.2.2.1.any (fun y => y.strand == x.strand && y.gather == x.gather)
  if blocked ∨ !(need.all acc.2.1.contains) then (acc.1, acc.2.1, acc.2.2.1 ++ [x], acc.2.2.2)
  else
    let m := collMeta (collTag ch.stream run.seq (collEpoch o.desc).toNat x.strand 0) x.shard x.gather x.vals.length x.elem0
    let pl := flitsOf ((padBlock x.vals).flatMap (fun v => toBytes (fmtOf d.fmtWire).bytes v))
    let dst := s.rankXyz a (x.dsts.getLastD 0)
    let slot := strandSlot o.ch x.strand
    let s1 := if !x.gather then acc.1.sendStrand o.ctx 0x10 slot a (strandNeg x.strand) dst (collEpoch o.desc) m pl
      else if d.opcode ≠ 0xC3 then acc.1.sendMulti o.ctx 0x10 slot a (strandNeg x.strand) dst (collEpoch o.desc) m pl
      else acc.1.sendData o.ctx 0x10 slot dst 0 (collEpoch o.desc) m pl
    (s1.slotSent o x, need.foldl (fun c n => c.erase n) acc.2.1, acc.2.2.1, acc.2.2.2 ++ need)

/-- Send the packets of a collective that hold their credits, in order. -/
def State.pumpColl (s : State) (id : Nat) : State :=
  match s.op? id with
  | none => s
  | some o =>
    match o.coll, s.chan? o.ch, collAxes o.desc with
    | some run, some ch, a :: _ =>
      let r := run.toSend.foldl (s.pumpStep o run ch a) (s, run.credits, [], [])
      r.1.modRun id (fun run => { run with
        credits := r.2.1
        toSend := r.2.2.1
        unacked := run.unacked ++ r.2.2.2 })
    | _, _, _ => s

/-- Ranks that a multicast in a direction reaches (10 R307). -/
def State.spanRanks (s : State) (a : Axis) (neg : Bool) : List Nat :=
  let n := s.boxExt a
  let r := s.rank a
  if s.boxClosed a then
    let k := if neg then n - 1 - n / 2 else n / 2
    (List.range k).map (fun i => if neg then (r + n - (i + 1)) % n else (r + i + 1) % n)
  else
    let k := if neg then r else n - 1 - r
    (List.range k).map (fun i => if neg then r - (i + 1) else r + i + 1)

/-- The packets that gather a shard from this rank: its first half by port a, the rest by port b, in both directions. -/
def State.gatherTx (s : State) (a : Axis) (d : CollD) (run : CollRun) (j : Nat) (runs : List (Nat × Nat)) (code : Nat → Nat) : List CollTx :=
  [false, true].flatMap (fun neg =>
    let dsts := s.spanRanks a neg
    if dsts.isEmpty then []
    else
      let half := shardAt run.ext j + 32 * (blocksIn (run.ext.getD j 0) / 2)
      runs.flatMap (fun r =>
        let parts := [(r.1, min r.2 (half - r.1)), (max r.1 half, r.1 + r.2 - max r.1 half)]
        parts.zipIdx.flatMap (fun p =>
          (d.packets p.1).map (fun q =>
            { strand := 2 * b2n neg + p.2, dsts := dsts, gather := true, shard := j, elem0 := q.1,
              vals := (List.range q.2).map (fun i => code (q.1 + i)) }))))

/-- The ranks of the chain of shard `j` on a strand, in order, without the owner (10 R298). -/
def chainRanks (closed : Bool) (n j t : Nat) : List Nat :=
  if closed then (List.range (n - 1)).map (fun i => if strandNeg t then (j + n - (i + 1)) % n else (j + i + 1) % n)
  else if strandNeg t then (List.range (n - 1 - j)).map (fun i => n - 1 - i)
  else List.range j

/-- Where this rank stands in the chain of a shard and strand: its place, and the rank that follows it. -/
def chainPlace (closed : Bool) (n j t r : Nat) : Option (Nat × Nat) :=
  let c := chainRanks closed n j t
  (c.findIdx? (· == r)).map (fun i => (i, (c ++ [j]).getD (i + 1) j))

/-- The wire codes of this rank's own contributions to a run, and their events. -/
def State.ownCodes (s : State) (o : Op) (d : CollD) (run : CollRun) (r : Nat) (q : Nat × Nat) : List Cvt :=
  (List.range q.2).map (fun i =>
    toCode (fmtOf d.fmtWire) (d.unitOf run (q.1 + i)) (s.collRound o d (q.1 + i)) (s.contribution o d run r (q.1 + i)))

/-! ### Data may flow -/

/-- A poisoned read ends a collective (10 R319). -/
def State.collPoison (s : State) (o : Op) (spad : Bool) : State := (s.noteSpad o.id spad).failColl o .collPoison Status.hwFault.code

/-- Read a run of the input (08 R222). -/
def State.noteSrc (s : State) (o : Op) (d : CollD) (run : CollRun) (r first n : Nat) : State :=
  if n = 0 then s else s.noteRead o.ctx (d.srcAddr run r first) (n * (fmtOf d.fmtIn).bytes)

/-- 10 R305: record the largest finite contribution of each group. -/
def State.recordAmax (s : State) (o : Op) (d : CollD) (run : CollRun) (r : Nat) : State :=
  (List.range (d.groups run.ext)).foldl (fun s g =>
    let es := (List.range d.count).filter (fun e => d.groupOf run.ext e == g)
    let m := amaxFinite (es.map (s.contribution o d run r))
    let a := gLocal d.auxTbl + 16 * g + 4
    let old := ofF32 (BitVec.ofNat 32 (s.readAt o.ctx a 4))
    if ltV old (.ofRat m) then s.writeAt o.ctx a (toBytes 4 (toF32 .rne (.ofRat m)).toNat) else s) s

/-- Write the results of a run of elements into this rank's own output, as one run of bytes (log 92). -/
def State.writeCodes (s : State) (o : Op) (d : CollD) (run : CollRun) (r first : Nat) (codes : List Nat) : State :=
  let cs := codes.zipIdx.map (fun c => s.outCode o d run (first + c.2) c.1)
  (s.writeAt o.ctx (d.dstAddr run r first) (cs.flatMap (fun c => toBytes (fmtOf d.fmtOut).bytes c.code))).collEvents o.id (atElems first cs)

/-- Grant receive credits for the chains that this rank receives, to the rank upstream (10 R301). -/
def State.grantCredits (s : State) (o : Op) (d : CollD) (a : Axis) : State :=
  (List.range 4).foldl (fun s t =>
    match s.upstream a t with
    | some u => if s.boxExt a = 1 then s else s.sendColl o o.seq a u t 1 d.rxPkts
    | none => s) s

/-- Start the additions of a reduction: this rank heads some chains, owns one shard, and stands between in others. -/
def State.openReduce (s : State) (o : Op) (d : CollD) (run : CollRun) (a : Axis) : State :=
  let n := s.boxExt a
  let r := s.rank a
  let closed := s.boxClosed a
  if s.srcBad o d run r 0 d.count then (s.noteSrc o d run r 0 d.count).collPoison o (inSpad (gLocal d.src))
  else
    let s0 := if d.amaxRec then s.recordAmax o d run r else s
    let jobs := (List.range n).flatMap (fun j => (List.range 4).map (fun t => (j, t)))
    let heads := jobs.flatMap (fun x =>
      match chainPlace closed n x.1 x.2 r with
      | some (0, nx) => (d.packets (strandRun closed run.ext x.1 x.2)).map (fun q =>
          let cs := s0.ownCodes o d run r q
          ({ strand := x.2, dsts := [nx], gather := false, shard := x.1, elem0 := q.1, vals := cs.map (·.code) : CollTx }, atElems q.1 cs))
      | _ => [])
    let mids := jobs.filter (fun x => match chainPlace closed n x.1 x.2 r with | some (i, _) => decide (0 < i) | none => false)
    let hops := (mids.map (fun x => (strandRun closed run.ext x.1 x.2).2)).sum
    let due := if d.opcode = 0xC2 then d.count else run.ext.getD r 0
    let s1 := ((s0.modRun o.id (fun x => { x with
      open_ := true
      toSend := heads.map (·.1)
      hopsDue := hops
      elemsDue := due })).collEvents o.id (heads.flatMap (·.2))).grantCredits o d a
    if n = 1 then
      let cs := s1.ownCodes o d run r (0, d.count)
      (((s1.collEvents o.id (atElems 0 cs)).writeCodes o d run r 0 (cs.map (·.code))).modRun o.id
        (fun x => { x with elemsDue := 0 })).pumpColl o.id
    else s1.pumpColl o.id

/-- Credits of a gather, broadcast or permute: 64 from each receiver (10 R308). -/
def State.gatherCredits (s : State) (a : Axis) : List (Bool × Nat × Nat) :=
  (s.otherRanks a).flatMap (fun r => List.replicate 64 (creditKey true 0 r))

/-- Start a gather or broadcast. -/
def State.openGather (s : State) (o : Op) (d : CollD) (run : CollRun) (a : Axis) : State :=
  let r := s.rank a
  let x := run.ext.getD r 0
  let q := (shardAt run.ext r, x)
  if x ≠ 0 ∧ s.srcBad o d run r q.1 x then (s.noteSrc o d run r q.1 x).collPoison o (inSpad (gLocal d.src))
  else
    let cs := s.ownCodes o d run r q
    let tx := s.gatherTx a d run r [q] (fun e => (cs.getD (e - q.1) ⟨0, false, false⟩).code)
    let s1 := ((s.collEvents o.id (atElems q.1 cs)).writeCodes o d run r q.1 (cs.map (·.code))).modRun o.id
      (fun y => { y with
        open_ := true
        toSend := tx
        credits := s.gatherCredits a
        elemsDue := d.count - x })
    s1.pumpColl o.id

/-- Start a permute: the own shard's element bytes go unchanged to their destination rank (10 R311). -/
def State.openPermute (s : State) (o : Op) (d : CollD) (run : CollRun) (a : Axis) : State :=
  let r := s.rank a
  let q := (shardAt run.ext r, run.ext.getD r 0)
  if q.2 ≠ 0 ∧ s.srcBad o d run r q.1 q.2 then (s.noteSrc o d run r q.1 q.2).collPoison o (inSpad (gLocal d.src))
  else
    let goal := run.perm.getD r r
    let frm := (run.perm.findIdx? (· == r)).getD r
    let b := (fmtOf d.fmtIn).bytes
    let code := fun e => s.readAt o.ctx (d.srcAddr run r e) b
    if goal = r then
      let bytes := (List.range q.2).flatMap (fun i => toBytes b (code (q.1 + i)))
      (s.writeAt o.ctx (gLocal d.dst) bytes).modRun o.id (fun y => { y with open_ := true })
    else
      let neg := s.routeNeg a (s.coordOfRank a goal)
      let tx := (d.packets q).zipIdx.map (fun p => ({
        strand := 2 * b2n neg + p.2 % 2, dsts := [goal], gather := true, shard := r, elem0 := p.1.1
        vals := (List.range p.1.2).map (fun i => code (p.1.1 + i)) } : CollTx))
      (s.modRun o.id (fun y => { y with
        open_ := true
        toSend := tx
        credits := s.gatherCredits a
        elemsDue := run.ext.getD frm 0 })).pumpColl o.id

/-! ### Value exchanges (10 R312, 07 R198, R211, 10 R306) -/

/-- The larger of two FP32 values: +0 above −0, a NaN gives the canonical NaN. -/
def maxF32 (a b : W32) : W32 := toF32 .rne (maxV (ofF32 a) (ofF32 b))

/-- Combine two values of a value collective. -/
def CollD.combine (d : CollD) (a b : W32) : W32 :=
  if d.opcode = 0xC6 then a ||| b else if d.opcode = 0xC7 then maxF32 a b else 0

/-- Send this rank's values to every rank of the present axis; `info` holds first index, axis, count and up to four
values (log 21). -/
def State.sendValues (s : State) (o : Op) (run : CollRun) (a : Axis) : State :=
  let vs := if run.cur.isEmpty then [0] else run.cur
  (s.otherRanks a).foldl (fun s r =>
    (runsOf 4 vs.length vs).zipIdx.foldl (fun s p =>
      s.tellRank o a r 5
        (pack 192 ([(191, 160, 4 * p.2), (151, 144, a), (135, 128, p.1.length)]
          ++ p.1.zipIdx.map (fun v => (32 * v.2 + 31, 32 * v.2, v.1.toNat)))).toNat) s) s

/-- 10 R306: update an agreed-scale entry with the agreed maximum. -/
def tableUpdate (entry : Nat) (n : Nat) (a : W32) : Nat :=
  let w : BitVec 128 := BitVec.ofNat 128 entry
  let h0 := fieldN w 95 64
  let fin := fun (x : Nat) => match ofF32 (BitVec.ofNat 32 x) with | .fin q _ => if 0 < q then q else 0 | _ => 0
  let h := max (fin a.toNat) (fin h0)
  let margin := fieldN w 15 12
  let unit := if h = 0 then fieldN w 7 0 else (max 0 (min 254 (log2Ceil ((n : Rat) * h / 127) + margin + 127))).toNat
  (pack 128 [(127, 96, h0), (95, 64, a.toNat), (15, 12, margin), (7, 0, unit)]).toNat

/-- The values of a value collective are known: it writes what it writes. -/
def State.finishValues (s : State) (o : Op) (d : CollD) (run : CollRun) : State :=
  let s1 := s.modRun o.id (fun x => { x with valsDone := true })
  if d.opcode = 0xC6 ∧ !d.step then s1.writeAt o.ctx (gLocal d.dst) (toBytes 4 (run.cur.headD 0).toNat)
  else if d.opcode = 0xC7 ∧ d.table then
    let n := ((collAxes o.desc).map s.boxExt).foldl (· * ·) 1
    run.cur.zipIdx.foldl (fun s v =>
      let a := gLocal d.auxTbl + 16 * v.2
      s.writeAt o.ctx a (toBytes 16 (tableUpdate (s.readAt o.ctx a 16) n v.1))) s1
  else if d.opcode = 0xC7 ∧ !d.priv then s1.writeAt o.ctx (gLocal d.dst) (run.cur.flatMap (fun v => toBytes 4 v.toNat))
  else s1

/-- Combine the values of each axis whose ranks have all been heard, in the order X, Y, Z. -/
def State.advanceValues (id : Nat) : Nat → State → State
  | 0, s => s
  | fuel + 1, s =>
    match s.op? id with
    | none => s
    | some o =>
      match o.coll with
      | none => s
      | some run =>
        let d := CollD.of o.desc
        if !run.open_ ∨ run.valsDone then s
        else match (collAxes o.desc)[run.axisAt]? with
          | none => s.finishValues o d run
          | some a =>
            let have_ := fun (r i : Nat) => run.got.any (fun g => g.1 == a && g.2.1 == r && decide (g.2.2.1 ≤ i) && decide (i < g.2.2.1 + g.2.2.2.length))
            let k := max 1 run.cur.length
            if (s.otherRanks a).all (fun r => (List.range k).all (have_ r)) then
              let val := fun (r i : Nat) => ((run.got.find? (fun g => g.1 == a && g.2.1 == r && decide (g.2.2.1 ≤ i)
                && decide (i < g.2.2.1 + g.2.2.2.length))).bind (fun g => g.2.2.2[i - g.2.2.1]?)).getD 0
              let cur := run.cur.zipIdx.map (fun v => (s.otherRanks a).foldl (fun x r => d.combine x (val r v.2)) v.1)
              let run1 := { run with cur := cur, axisAt := run.axisAt + 1 }
              let s1 := s.modRun id (fun _ => run1)
              let s2 := match (collAxes o.desc)[run1.axisAt]? with
                | some b => s1.sendValues o run1 b
                | none => s1
              State.advanceValues id fuel s2
            else s

/-- An FP32 value as a maximum takes it: a NaN is the canonical NaN (10 R312). -/
def canonF32 (w : W32) : W32 := maxF32 w w

/-- The values that this rank contributes; none when reading them meets poison. -/
def State.ownValues (s : State) (o : Op) (d : CollD) : Option (List W32) :=
  let word := fun (a : Nat) => BitVec.ofNat 32 (s.readAt o.ctx a 4)
  if d.opcode = 0xC6 then
    if d.step then some [match s.ctx? o.ctx with | some x => if x.sampled then 0 else BitVec.ofNat 32 (b2n x.stepHealth) | none => 0]
    else if s.badRead o.ctx (gLocal d.src) 4 then none else some [word (gLocal d.src)]
  else if d.opcode = 0xC7 then
    if d.priv then
      let ts := ((s.ctx? o.ctx).map (·.tiles)).getD []
      some ((List.range 64).map (fun i => (ts.map (fun l => smGet 0 (s.tileL l).privAmax i)).foldl maxF32 0))
    else if d.table then
      if s.badRead o.ctx (gLocal d.auxTbl) (16 * d.count) then none
      else some ((List.range d.count).map (fun i => canonF32 (word (gLocal d.auxTbl + 16 * i + 4))))
    else if s.badRead o.ctx (gLocal d.src) (4 * d.count) then none
    else some ((List.range d.count).map (fun i => canonF32 (word (gLocal d.src + 4 * i))))
  else some []

/-- 07 R198, R211: what a value collective samples when it issues is cleared in the same cycle. -/
def State.sample (s : State) (o : Op) (d : CollD) : State :=
  if d.opcode = 0xC6 ∧ d.step then
    s.modCtx o.ctx (fun x => if x.sampled then x else { x with sampled := true, stepHealth := false })
  else if d.opcode = 0xC7 ∧ d.priv then
    (((s.ctx? o.ctx).map (·.tiles)).getD []).foldl (fun s l => s.modTileL l (fun t => { t with privAmax := [] })) s
  else s

/-- The start round has ended: data may flow. -/
def State.openColl (s : State) (id : Nat) : State :=
  match s.op? id with
  | none => s
  | some o =>
    match o.coll, collAxes o.desc with
    | some run, a :: _ =>
      let d := CollD.of o.desc
      if d.adds then s.openReduce o d run a
      else if d.opcode = 0xC3 then s.openPermute o d run a
      else if d.sharded then s.openGather o d run a
      else
        let s1 := s.modRun id (fun x => { x with open_ := true })
        State.advanceValues id 4 (s1.sendValues o run a)
    | _, _ => s

/-! ### The start round (10 R288) -/

/-- What the signature is taken over. -/
def CollD.sigBits (d : CollD) (raw : BitVec 1024) (ext units perm : List Nat) : Nat :=
  ofBytes (toBytes 1 d.opcode ++ toBytes 2 (fieldN raw 55 48) ++ toBytes 1 d.root ++ toBytes 1 d.sg ++ toBytes 1 (fieldN raw 599 592)
    ++ toBytes 2 (fieldN raw 47 36) ++ toBytes 4 d.count ++ ext.flatMap (toBytes 4) ++ units.flatMap (toBytes 1) ++ perm.flatMap (toBytes 1))

/-- The axes of a collective on which other ranks take part. -/
def State.otherAxes (s : State) (o : Op) : List Axis := (collAxes o.desc).filter (fun a => decide (1 < s.boxExt a))

/-- End the start round when every signature has arrived: data flows, or the collective ends with `SIG_MISMATCH`. -/
def State.checkSigs (s : State) (id : Nat) : State :=
  match s.op? id with
  | none => s
  | some o =>
    match o.coll with
    | none => s
    | some run =>
      if run.open_ then s
      else if run.sigs.any (fun g => g.2.2 != run.own) then s.failColl o .sigMismatch Status.badArg.code
      else if (s.otherAxes o).all (fun a => (s.otherRanks a).all (fun r => run.sigs.any (fun g => g.1 == a && g.2.1 == r))) then
        (if run.reject = .none then s.openColl id else s.failColl o run.reject Status.badArg.code)
      else s

/-- How an epoch stands to the current epochs of the axes of a collective (10 R315). -/
def State.epochDiff (s : State) (o : Op) : List (Axis × Nat) :=
  match s.ctx? o.ctx with
  | none => []
  | some x => (collAxes o.desc).map (fun a =>
      (a, (collEpoch o.desc - (if a = 0 then x.epochX else if a = 1 then x.epochY else x.epochZ)).toNat))

/-- The start of a collective reads its tables, and a value collective its values (08 R222). -/
def State.collNote (s : State) (o : Op) (d : CollD) (n : Nat) (ext : List Nat) : State :=
  let vals := d.opcode == 0xC6 && !d.step || d.opcode == 0xC7 && !d.priv && !d.table
  ([(d.extTbl, if d.sharded && d.extTbl != 0 then 4 * n else 0), (d.auxTbl, d.auxSpan n ext),
    (d.src, if vals then (if d.opcode = 0xC6 then 4 else 4 * d.count) else 0)]).foldl (fun s x =>
      if x.2 = 0 then s else s.noteRead o.ctx (gLocal x.1) x.2) s

/-- Started collectives of a channel that are not complete (10 R287). -/
def State.collStarted (s : State) (h : W32) : Nat := (s.ops.filter (fun o => o.ch == h && !o.isQueued && o.incomplete)).length

/-- Start a collective whose waits and epochs allow it: its tables are read, its stream advances, and its signature
goes to every rank.  An extent table with another sum, or a table that is no permutation, ends it on every rank once the start
round has shown that all hold the same one (10 R288, R294, R311). -/
def State.launchColl (s : State) (o : Op) : State :=
  match s.ctx? o.ctx with
  | some x =>
    let d := CollD.of o.desc
    let axes := collAxes o.desc
    let n := s.collN axes
    let ext := if d.sharded then s.collExt o.ctx d n else []
    let tbl := if d.sharded then s.collTable o.ctx d n else []
    let perm := s.collPerm o.ctx d n
    let kb := d.opcode ≠ 0xC3 ∧ d.sharded ∧ fmtOf d.fmtWire = .kb8
    let units := if kb then (List.range (d.groups ext)).map (fun g => s.readAt o.ctx (gLocal d.auxTbl + 16 * g) 1) else []
    let badExt := d.sharded && d.extTbl != 0 && s.badRead o.ctx (gLocal d.extTbl) (4 * n)
    let badAux := (d.opcode == 0xC3 && s.badRead o.ctx (gLocal d.auxTbl) n) || (decide kb && s.badRead o.ctx (gLocal d.auxTbl) (16 * d.groups ext))
    let sig : BitVec 32 := Config.crc32 (8 * (12 + 4 * tbl.length + units.length + perm.length)) (d.sigBits o.desc tbl units perm)
    let vals := s.ownValues o d
    let reject : Cause := if d.sharded ∧ tbl.sum ≠ d.count then .sigMismatch
      else if d.opcode = 0xC3 ∧ !((List.range n).all perm.contains) then .validation else .none
    let run : CollRun := { seq := o.seq, own := sig, ext := ext, units := units, perm := perm, cur := vals.getD [], reject := reject
                           firstVerdict := d.opcode == 0xC6 && d.step && !x.sampled }
    let s1 := ((s.collNote o d n ext).passSeq o).leave o (fun o => { o with
      phase := .running
      issueAt := s.now
      stepAt := x.stepCount
      coll := some run })
    let o1 := { o with phase := .running, coll := some run, stepAt := x.stepCount, issueAt := s.now }
    if badExt ∨ badAux ∨ vals.isNone then
      s1.collPoison o1 (inSpad (gLocal (if badExt then d.extTbl else if badAux ∨ d.table then d.auxTbl else d.src)))
    else
      let s2 := (s1.sample o1 d)
      let s3 := (s.otherAxes o).foldl (fun s a => (s.otherRanks a).foldl (fun s r => s.tellRank o1 a r 2 sig.toNat) s) s2
      s3.checkSigs o.id
  | _ => s

/-- Start the head of a collective channel if it has the given opcode and options, and nothing holds it. -/
def State.startColl (s : State) (h : W32) (opcode : Nat) (opt : CollD → Bool) : State :=
  match s.headOfChan h with
  | none => s
  | some o =>
    let d := CollD.of o.desc
    let df := s.epochDiff o
    if o.kind ≠ 3 ∨ d.opcode ≠ opcode ∨ !opt d ∨ !o.waitsTaken ∨ 4 ≤ s.collStarted h then s
    else if df.any (fun e => decide (128 ≤ e.2)) then s.failColl o .epochRetired Status.badArg.code
    else if df.any (fun e => decide (e.2 ≠ 0)) ∨ s.collHeld o then s
    else s.launchColl o

/-! ### Receiving (10 R290, R301, R308, R318) -/

/-- The collective tag of an opened packet. -/
def Packet.collTag (p : Packet) : Nat := if p.isData then fieldN p.metaF 183 120 else fieldN p.body 255 192

/-- `MSG` of a collective packet. -/
def Packet.collMsg (p : Packet) : Nat := p.collTag % 64
/-- `STRAND`. -/
def Packet.collStrand (p : Packet) : Nat := p.collTag / 64 % 4
/-- `EPOCH`. -/
def Packet.collEpoch (p : Packet) : BitVec 8 := BitVec.ofNat 8 (p.collTag / 256)
/-- `SEQ`. -/
def Packet.collSeq (p : Packet) : Nat := p.collTag / 2 ^ 16 % 2 ^ 32
/-- `STREAM`. -/
def Packet.collStream (p : Packet) : Nat := p.collTag / 2 ^ 48

/-- The axis on which the sender of a packet differs from this module. -/
def State.srcAxis (s : State) (p : Packet) : Axis := ([0, 1, 2].find? (fun a => xyzOn p.src a != s.coord a)).getD 0

/-- Rank of the sender on that axis. -/
def State.srcRank (s : State) (p : Packet) : Nat := let a := s.srcAxis p; s.rankOf a (xyzOn p.src a)

/-- The started collective that a packet belongs to. -/
def State.collOfPacket (s : State) (c : Nat) (p : Packet) : Option Op :=
  s.ops.find? (fun o => o.kind == 3 && o.ctx == c && o.incomplete &&
    (match o.coll, s.chan? o.ch with
      | some r, some ch => r.seq == p.collSeq && ch.stream == p.collStream
      | _, _ => false))

/-- The fence of this rank that an abort names: it has sent its drained message, and has not started (10 R319). -/
def State.fenceOfPacket (s : State) (c : Nat) (p : Packet) : Option Op :=
  if p.collMsg = 4 then
    s.ops.find? (fun o => o.ctx == c && s.fenceSent o && o.seq == p.collSeq && (s.chan? o.ch).any (fun ch => ch.stream == p.collStream))
  else none

/-- The collective that a packet names stands fetched and not started on this module. -/
def State.collAwaited (s : State) (c : Nat) (p : Packet) : Bool :=
  s.ops.any (fun o => o.kind == 3 && o.ctx == c && o.isQueued && o.seq == p.collSeq && (s.chan? o.ch).any (fun ch => ch.stream == p.collStream))

/-- The counter of stale packets of a strand's P-die (10 R318). -/
def State.countStale (s : State) (p : Packet) : State :=
  { s with sec := { s.sec with epochStale := modAt s.sec.epochStale ([0, 2, 1, 3].getD p.collStrand 0) (· + 1) } }

/-- 10 R318: the packet's epoch is older than the current epoch of its axis. -/
def State.staleEpoch (s : State) (c : Nat) (p : Packet) : Bool :=
  match s.ctx? c with
  | none => true
  | some x =>
    let a := s.srcAxis p
    decide (128 ≤ (p.collEpoch - (if a = 0 then x.epochX else if a = 1 then x.epochY else x.epochZ)).toNat)

/-- Drop and count every opened collective packet that is stale (10 R318). -/
def State.dropStale (s : State) : State :=
  let stale := fun (x : Nat × Packet) => [0x10, 0x11, 0x12].contains x.2.kind && s.staleEpoch x.1 x.2
  (s.rxOpen.filter stale).foldl (fun s x => s.countStale x.2) { s with rxOpen := s.rxOpen.filter (fun x => !stale x) }

/-- Serve an opened collective packet: a stale one is dropped and counted; one of a collective not yet started here
waits, and one of a collective that has ended here is dropped; the others go to `f`, once the collective is ready for them. -/
def State.serveColl (s : State) (k : Nat) (kinds : List Nat) (msgs : List Nat) (ready : Op → Packet → Bool)
    (f : State → Op → Packet → State) : State :=
  match s.rxOpen[k]? with
  | none => s
  | some (c, p) =>
    if !kinds.contains p.kind ∨ !msgs.contains p.collMsg then s
    else
      let s1 : State := { s with rxOpen := s.rxOpen.eraseIdx k }
      if s.staleEpoch c p then s1.countStale p
      else match (s.collOfPacket c p).orElse (fun _ => s.fenceOfPacket c p) with
        | none => if !s.collAwaited c p ∧ (s.ctx? c).any (fun x => decide (p.collSeq < smGet 0 x.streams p.collStream)) then s1 else s
        | some o => if ready o p then f s1 o p else s

/-- Data and values are taken once the start round has ended here and nothing holds the collective's accesses (10 R288;
01 R41, 07 R216). -/
def State.collReady (s : State) (o : Op) (p : Packet) : Bool :=
  (p.collMsg == 5 || (match o.coll with | some run => run.open_ | none => false)) && !s.collHeld o

/-- The lowest free receive slot of a strand. -/
def CollRun.freeSlot (run : CollRun) (t n : Nat) : Nat :=
  ((List.range n).find? (fun i => !run.slots.any (fun x => x.strand == t && x.slot == i))).getD 0

/-- Collective data arrives: chain data stands in a receive slot, gathered data is written to its place. -/
def State.recvData (s : State) (o : Op) (p : Packet) : State :=
  match o.coll, collAxes o.desc with
  | some run, a :: _ =>
    let d := CollD.of o.desc
    let m := p.metaF
    let shard := fieldN m 63 56
    let gather := bitN m 55
    let cnt := fieldN m 47 32
    let e0 := fieldN m 31 0
    let b := (fmtOf d.fmtWire).bytes
    if gather then
      let r := if d.opcode = 0xC3 then shard else s.rank a
      let codes := (List.range cnt).map (fun i => ofBytes ((p.bytes.drop (b * i)).take b))
      ((s.writeCodes o d run r e0 codes).modRun o.id (fun x => { x with elemsDue := x.elemsDue - cnt })).returnCredit o a
        (s.srcRank p) p.collStrand true
    else
      let t := p.collStrand
      let i := run.freeSlot t d.rxPkts
      let tile := d.addTiles.getD t 0
      (s.modTileL tile (fun x => x.writeBytes (d.rxOff + 4096 * i) (p.bytes.take (b * cnt)))).modRun o.id (fun x =>
        { x with slots := x.slots ++ [{ strand := t, shard := shard, elem0 := e0, count := cnt, slot := i }] })
  | _, _ => s

/-- Values of another rank arrive. -/
def State.recvValues (s : State) (o : Op) (p : Packet) : State :=
  let b := p.body
  let vs := (List.range (fieldN b 135 128)).map (fun i => BitVec.ofNat 32 (fieldN b (32 * i + 31) (32 * i)))
  State.advanceValues o.id 4 (s.modRun o.id (fun x => { x with got := x.got ++ [(s.srcAxis p, s.srcRank p, fieldN b 191 160, vs)] }))

/-- The data of a receive slot, as wire codes; none when it is poisoned. -/
def State.slotCodes (s : State) (d : CollD) (x : HopSlot) : Option (List Nat) :=
  let b := (fmtOf d.fmtWire).bytes
  let t := s.tileL (d.addTiles.getD x.strand 0)
  let a := d.rxOff + 4096 * x.slot
  if t.bad a (b * x.count) then none else some ((List.range x.count).map (fun i => memReadN t.sp (a + b * i) b))

/-- 10 R299: the exact sum of received values and the own contribution, rounded once to the wire. -/
def State.hopSum (s : State) (o : Op) (d : CollD) (run : CollRun) (r e : Nat) (codes : List Nat) : Cvt :=
  let f := fmtOf d.fmtWire
  let u := d.unitOf run e
  let mode := s.collRound o d e
  let v := codes.foldl (fun acc c => (addV mode acc (codeVal f u c)).v) (s.contribution o d run r e)
  toCode f u mode v

/-- The owner's sum of a run of elements is written to its output, its slots free, and an all-reduce sends it on (10 R299,
R301, R309). -/
def State.hopOwner (s : State) (o : Op) (d : CollD) (run : CollRun) (a : Axis) (x : HopSlot) (used : List HopSlot) (codes : List Nat) :
    State :=
  let r := s.rank a
  let s1 := (s.writeCodes o d run r x.elem0 codes).modRun o.id (fun y => { y with
    slots := y.slots.filter (fun z => !used.contains z)
    elemsDue := y.elemsDue - x.count })
  let s2 := used.foldl (fun s z => s.creditSlot o z.strand) s1
  if d.opcode = 0xC2 then
    let tx := s.gatherTx a d run r [(x.elem0, x.count)] (fun e => codes.getD (e - x.elem0) 0)
    (s2.modRun o.id (fun y => { y with
      toSend := y.toSend ++ tx
      credits := if y.credits.any (·.1) || y.unacked.any (·.1) then y.credits else y.credits ++ s.gatherCredits a })).pumpColl o.id
  else s2

/-- The sum of a run of elements waits to be sent to the next rank of its chain; its receive slot stays taken until then
(10 R299, R301). -/
def State.hopOn (s : State) (o : Op) (a : Axis) (x : HopSlot) (codes : List Nat) : State :=
  match chainPlace (s.boxClosed a) (s.boxExt a) x.shard x.strand (s.rank a) with
  | none => s
  | some (_, nx) =>
    let tx : CollTx := { strand := x.strand, dsts := [nx], gather := false, shard := x.shard, elem0 := x.elem0, vals := codes, slot := some x.slot }
    (s.modRun o.id (fun y => { y with
      slots := y.slots.map (fun z => if z.strand = x.strand ∧ z.slot = x.slot then { z with added := true } else z)
      toSend := y.toSend ++ [tx]
      hopsDue := y.hopsDue - x.count })).pumpColl o.id

/-- `COLL_HOP_ADD` on receive slot `k` of a collective: it waits for the vector engine's current operation (10 R301), for the
other chain's data where the owner adds both, and while its accesses are held. -/
def State.hopAdd (s : State) (o : Op) (k : Nat) : State :=
  match o.coll, collAxes o.desc with
  | some run, a :: _ =>
    match run.slots[k]? with
    | none => s
    | some x =>
      let d := CollD.of o.desc
      let r := s.rank a
      if !s.hopReady o run x ∨ s.vectorBusy (addTile o.desc x.strand) ∨ s.collHeld o then s
      else
        let used := x :: (s.hopMates o run x).getD []
        let cols := used.map (s.slotCodes d)
        let srcBad := s.srcBad o d run r x.elem0 x.count
        let s0 := s.noteSrc o d run r x.elem0 x.count
        if cols.any (·.isNone) ∨ srcBad then s0.collPoison o (!srcBad || inSpad (gLocal d.src))
        else
          let cs := (List.range x.count).map (fun i =>
            s.hopSum o d run r (x.elem0 + i) (cols.map (fun c => (c.getD []).getD i 0)))
          let s1 := s0.collEvents o.id (atElems x.elem0 cs)
          if x.shard = r then s1.hopOwner o d run a x used (cs.map (·.code)) else s1.hopOn o a x (cs.map (·.code))
  | _, _ => s

/-- A credit arrives: a grant adds credits, a return also acknowledges one packet. -/
def State.recvCredit (s : State) (o : Op) (p : Packet) : State :=
  let info := fieldN p.body 31 0
  let ret := info / 2 ^ 16 % 2 == 1
  let gather := info / 2 ^ 17 % 2 == 1
  let key := creditKey gather p.collStrand (s.srcRank p)
  let n := info % 2 ^ 16
  (s.modRun o.id (fun x => { x with
    credits := x.credits ++ List.replicate n key
    unacked := if ret then x.unacked.erase key else x.unacked })).pumpColl o.id

/-! ### Completion -/

/-- Every output is written and every packet credited back (10 R289). -/
def CollRun.done (run : CollRun) (d : CollD) : Bool :=
  run.open_ && (if d.sharded then run.elemsDue == 0 && run.hopsDue == 0 && run.toSend.isEmpty && run.unacked.isEmpty && run.slots.isEmpty
    else run.valsDone)

/-- 07 R211: agreed maxima are held for the next close. -/
def State.holdAgreed (s : State) (c : Nat) (vs : List W32) : State :=
  s.modCtx c (fun x => { x with agreed := some (match x.agreed with
    | some old => (old.zip vs).map (fun p => maxF32 p.1 p.2)
    | none => vs) })

/-- The current epoch of an axis is set (10 R317). -/
def Ctx.setEpoch (x : Ctx) (a : Axis) (e : BitVec 8) : Ctx :=
  if a = 0 then { x with epochX := e } else if a = 1 then { x with epochY := e } else { x with epochZ := e }

/-- A newer `PERMUTE` stands at the head of a collective channel: the fence, its axis, and its epoch (10 R317). -/
def State.fenceAt (s : State) (h : W32) : Option (Op × Axis × BitVec 8) :=
  match s.headOfChan h with
  | none => none
  | some o =>
    match collAxes o.desc, s.epochDiff o with
    | [a], [(_, df)] => if o.kind = 3 ∧ o.opcode = 0xC3 ∧ 1 ≤ df ∧ df ≤ 127 ∧ o.waitsTaken then some (o, a, collEpoch o.desc) else none
    | _, _ => none

/-- A collective of the context on the axis with an epoch older than the fence's is in flight, or fetched and not started
(10 R317; log 93). -/
def State.olderColl (s : State) (c : Nat) (a : Axis) (e : BitVec 8) : Bool :=
  s.ops.any (fun o => o.kind == 3 && o.ctx == c && o.incomplete && (collAxes o.desc).contains a
    && decide (128 ≤ (collEpoch o.desc - e).toNat))

/-! ### The commands -/

/-- `ALL_GATHER` at the head of a collective channel starts. -/
def execAllGather (ch : W32) (s : State) : Ans := .next (s.startColl ch 0xC0 (fun _ => true)).settle

/-- `REDUCE_SCATTER` starts. -/
def execReduceScatter (ch : W32) (s : State) : Ans := .next (s.startColl ch 0xC1 (fun _ => true)).settle

/-- `ALL_REDUCE` starts. -/
def execAllReduce (ch : W32) (s : State) : Ans := .next (s.startColl ch 0xC2 (fun _ => true)).settle

/-- `PERMUTE` starts; a newer one is an epoch fence, and waits for `EPOCH_ADVANCE`. -/
def execPermute (ch : W32) (s : State) : Ans := .next (s.startColl ch 0xC3 (fun _ => true)).settle

/-- `BROADCAST` starts. -/
def execBroadcast (ch : W32) (s : State) : Ans := .next (s.startColl ch 0xC4 (fun _ => true)).settle

/-- `BARRIER` starts. -/
def execBarrier (ch : W32) (s : State) : Ans := .next (s.startColl ch 0xC5 (fun _ => true)).settle

/-- `FLAG_OR` without options starts. -/
def execFlagOr (ch : W32) (s : State) : Ans := .next (s.startColl ch 0xC6 (fun d => !d.step)).settle

/-- `SCALE_MAX` without options starts. -/
def execScaleMax (ch : W32) (s : State) : Ans := .next (s.startColl ch 0xC7 (fun d => !d.priv && !d.table)).settle

/-- `STEP_VERDICT`: a `FLAG_OR` with `STEP` starts, and samples and clears `STEP_HEALTH` (07 R198). -/
def execStepVerdict (ch : W32) (s : State) : Ans := .next (s.startColl ch 0xC6 (·.step)).settle

/-- `PRIV_AGREEMENT`: a `SCALE_MAX` with `PRIV` starts, and reads and clears every `PRIV_AMAX` (07 R211). -/
def execPrivAgreement (ch : W32) (s : State) : Ans := .next (s.startColl ch 0xC7 (·.priv)).settle

/-- `TABLE_AGREEMENT`: a `SCALE_MAX` with `TABLE` starts (10 R306). -/
def execTableAgreement (ch : W32) (s : State) : Ans := .next (s.startColl ch 0xC7 (·.table)).settle

/-- `COLL_SIGNATURE`: the signature in opened packet `k` arrives (10 R288). -/
def execCollSignature (k : Nat) (s : State) : Ans :=
  .next (s.serveColl k [0x12] [2] (fun o _ => !s.collHeld o) (fun s o p =>
    (s.modRun o.id (fun x => { x with sigs := x.sigs ++ [(s.srcAxis p, s.srcRank p, BitVec.ofNat 32 (fieldN p.body 31 0))] })).checkSigs o.id)).settle

/-- `COLL_DATA`: the data or values in opened packet `k` arrive (10 R301, R308, R312). -/
def execCollData (k : Nat) (s : State) : Ans :=
  .next (s.serveColl k [0x10, 0x12] [0, 5] s.collReady (fun s o p => if p.collMsg = 5 then s.recvValues o p else s.recvData o p)).settle

/-- `COLL_HOP_ADD`: the data of receive slot `slot` of collective `op` is added on its add tile (10 R301). -/
def execCollHopAdd (op slot : Nat) (s : State) : Ans :=
  match s.op? op with
  | some o => if o.kind = 3 then .next (s.hopAdd o slot).settle else .next s
  | none => .next s

/-- `COLL_CREDIT`: the credit in opened packet `k` arrives (10 R301). -/
def execCollCredit (k : Nat) (s : State) : Ans :=
  .next (s.serveColl k [0x11] [1] (fun _ _ => true) (fun s o p => s.recvCredit o p))

/-- `COLL_DRAINED`: the fence at the head of a channel finds no older collective, and its drained message goes to every
rank (10 R317). -/
def execCollDrained (ch : W32) (s : State) : Ans :=
  match s.fenceAt ch with
  | none => .next s.dropStale
  | some (o, a, e) =>
    let mine := (a, e, s.rank a)
    if s.olderColl o.ctx a e ∨ ((s.ctx? o.ctx).any (fun x => x.drained.contains mine)) then .next s.dropStale
    else
      let s1 := s.dropStale.modCtx o.ctx (fun x => { x with drained := x.drained ++ [mine] })
      .next ((s.otherRanks a).foldl (fun s r => s.tellRank o a r 3 e.toNat) s1)

/-- `EPOCH_ADVANCE`: drained messages that have arrived are counted, stale ones dropped; when all ranks have drained, the axis
takes the new epoch and the fence starts (10 R317, R318). -/
def execEpochAdvance (ch : W32) (s : State) : Ans :=
  match s.fenceAt ch with
  | none => .next s.dropStale
  | some (o, a, e) =>
    let mine := fun (x : Nat × Packet) => x.1 == o.ctx && x.2.kind == 0x12 && x.2.collMsg == 3 && x.2.collEpoch == e && s.srcAxis x.2 == a
    let ranks := (s.rxOpen.filter mine).map (fun x => (a, e, s.srcRank x.2))
    let s0 : State := { s with rxOpen := s.rxOpen.filter (fun x => !mine x) }
    let s1 := s0.dropStale.modCtx o.ctx (fun x => { x with drained := x.drained ++ ranks.filter (fun y => !x.drained.contains y) })
    let all := (s1.ctx? o.ctx).any (fun x => (List.range (s.boxExt a)).all (fun r => x.drained.contains (a, e, r)))
    if all then
      let s2 := s1.modCtx o.ctx (fun x => { x.setEpoch a e with drained := x.drained.filter (fun y => !(y.1 == a && y.2.1 == e)) })
      .next (s2.startColl ch 0xC3 (fun _ => true)).settle
    else .next s1

/-- The cause that an abort gives a collective: the one of the start round that it names, or `COLL_ABORTED`. -/
def abortCause (p : Packet) : Cause :=
  if fieldN p.body 23 16 = Cause.sigMismatch.num then .sigMismatch
  else if fieldN p.body 23 16 = Cause.validation.num then .validation
  else .collAborted

/-- `COLL_ABORTED`: the abort in opened packet `k` completes the collective here, and goes on to the ranks of its other axes
(10 R319, 11 R342; log 93). -/
def execCollAborted (k : Nat) (s : State) : Ans :=
  .next (s.serveColl k [0x12] [4] (fun _ _ => true) (fun s o p =>
    let st : BitVec 16 := BitVec.ofNat 16 (fieldN p.body 15 0)
    let cause := abortCause p
    let s0 := (s.sendAbort o ((collAxes o.desc).filter (· != s.srcAxis p)) cause st).emptySlots o
    let s1 := (s0.modOp o.id (fun x => { x with abortStatus := st })).failOp o.id cause
    if st = Status.hwFault.code then { s1 with scopeDue := s1.scopeDue ++ [⟨4, some o.ctx, none⟩] } else s1)).settle

/-- 10 R321, 11 R331: the axis, collective and receive conditions behind the reduce-scatter figure, as they stand: a closed ring of 16
whose four ports are `UP` on eight lanes within their loop, a KB8 wire, elements and slots enough, and shards within 1 %. -/
def State.scatterMeets (s : State) (d : CollD) (run : CollRun) (a : Axis) : Bool :=
  cfgMode s.part.partCfg a == 1 && cfgRole s.part.partCfg a == 2 && s.boxExt a == 16 && (List.range 4).all (fun i => let p := s.port (4 * a + i); p.st == .up && p.width == 2 && decide (p.loopNs ≤ 1660))
    && fmtOf d.fmtWire == .kb8 && decide (2000000000 ≤ d.count) && decide (128 ≤ d.rxPkts)
    && (d.extTbl == 0 || decide (100 * run.ext.foldl max 0 ≤ 101 * run.ext.foldl min d.count))

/-- Note whether a completed reduce-scatter met the conditions of its figure (16 R472). -/
def State.noteScatter (s : State) (o : Op) (d : CollD) (run : CollRun) : State :=
  match (collAxes o.desc).head? with
  | some a => if d.opcode = 0xC1 then s.modCtx o.ctx (fun x => { x with scatterMet := s.scatterMeets d run a }) else s
  | none => s

/-- `COLLECTIVE_COMPLETE`: a collective without `STEP` or `CLOSE` whose outputs are accepted and whose packets are credited
back completes (10 R289). -/
def execCollectiveComplete (op : Nat) (s : State) : Ans :=
  match s.op? op with
  | none => .next s
  | some o =>
    let d := CollD.of o.desc
    match o.coll with
    | none => .next s
    | some run =>
      if o.kind ≠ 3 ∨ !run.done d ∨ d.step ∨ d.close then .next s
      else
        let s1 := if d.priv then s.holdAgreed o.ctx run.cur else s
        .next ((s1.noteScatter o d run).completeHere o)

/-- `VERDICT_SET`: the verdict collective completes and sets `VERDICT`; a second one of the step only counts
(07 R199). -/
def execVerdictSet (op : Nat) (s : State) : Ans :=
  match s.op? op with
  | none => .next s
  | some o =>
    let d := CollD.of o.desc
    match o.coll with
    | none => .next s
    | some run =>
      if o.kind ≠ 3 ∨ !run.done d ∨ !d.step then .next s
      else
        let s1 := s.modCtx o.ctx (fun x =>
          if run.firstVerdict then { x with verdict := if run.cur.headD 0 = 0 then .commit else .skip }
          else { x with seqErr := x.seqErr + 1 })
        .next (s1.completeHere o)

end Sys2Proof.Machine
end

