-- ==== Sys2Proof/Machine/Copy.lean ====
section
/-! DEFINITION. Copy channels (08 R233 to R240, R517, R518): descriptors and their validation, layout transforms, and
copies to and from peer modules; and the rill path (08 R241 to R244). -/

namespace Sys2Proof.Machine

/-! ### The descriptor (08 R235) -/

/-- The fields of a copy descriptor. -/
structure CopyD where
  /-- `SRC`. -/
  src : W64
  /-- `DST`. -/
  dst : W64
  /-- `AUX`. -/
  aux : Nat
  /-- `SRC_PITCH`. -/
  sp : Nat
  /-- `DST_PITCH`. -/
  dp : Nat
  /-- Source rows, or indices of a rill operation. -/
  rows : Nat
  /-- Elements of a source row, or pieces of 32 bytes of a rill entry. -/
  cols : Nat
  /-- `OPCODE`. -/
  opcode : Nat
  /-- `TILE_R_LOG2`. -/
  rLog : Nat
  /-- `TILE_C_LOG2`. -/
  cLog : Nat
  /-- `FMT_DST`. -/
  fd : Nat
  /-- `FMT_SRC`. -/
  fs : Nat
  /-- `CLASS`. -/
  cls : Nat
  /-- `ROUND`. -/
  round : Nat
  deriving DecidableEq, Repr

/-- Read the fields of a copy descriptor. -/
def CopyD.of (d : BitVec 1024) : CopyD where
  src := BitVec.ofNat 64 (fieldN d 511 448)
  dst := BitVec.ofNat 64 (fieldN d 447 384)
  aux := fieldN d 383 336
  sp := fieldN d 335 304
  dp := fieldN d 303 272
  rows := fieldN d 271 252 + 1
  cols := fieldN d 251 232 + 1
  opcode := fieldN d 63 56
  rLog := fieldN d 55 52
  cLog := fieldN d 51 48
  fd := fieldN d 47 44
  fs := fieldN d 43 40
  cls := fieldN d 36 35
  round := fieldN d 34 32

/-- A rill operation. -/
def CopyD.rill (d : CopyD) : Bool := d.opcode == 0x84 || d.opcode == 0x85

/-- Bytes of a source element. -/
def CopyD.sb (d : CopyD) : Nat := (fmtOf d.fs).bytes

/-- Bytes of a destination element. -/
def CopyD.db (d : CopyD) : Nat := (fmtOf d.fd).bytes

/-- Bytes of a rill entry. -/
def CopyD.entry (d : CopyD) : Nat := 32 * d.cols

/-- Height of a `RETILE` block. -/
def CopyD.bh (d : CopyD) : Nat := 2 ^ d.rLog

/-- Width of a `RETILE` block. -/
def CopyD.bw (d : CopyD) : Nat := 2 ^ d.cLog

/-- Blocks of `RETILE` along a row (08 R518). -/
def CopyD.blkCols (d : CopyD) : Nat := cdiv d.cols d.bw

/-- Bytes from `SRC` that the copy reads, as far as its descriptor shows: one entry of a rill table (log 92), none where a
lowering block decides. -/
def CopyD.srcSpan (d : CopyD) : Nat :=
  match d.opcode with
  | 0x80 | 0x81 | 0x82 => (d.rows - 1) * d.sp + d.cols * d.sb
  | 0x84 => d.entry
  | 0x85 => (d.rows - 1) * d.sp + d.entry
  | _ => 0

/-- Bytes from `DST` that the copy writes, as far as its descriptor shows. -/
def CopyD.dstSpan (d : CopyD) : Nat :=
  match d.opcode with
  | 0x80 => (d.rows - 1) * d.dp + d.cols * d.db
  | 0x81 => (d.cols - 1) * d.dp + d.rows * d.db
  | 0x82 => (cdiv d.rows d.bh * d.blkCols - 1) * d.dp + d.bh * d.bw * d.db
  | 0x84 => (d.rows - 1) * d.dp + d.entry
  | 0x85 => d.entry
  | _ => 0

/-- 08 R236: a pitch holds one row of its side. -/
def CopyD.pitchOk (d : CopyD) : Bool :=
  match d.opcode with
  | 0x80 => decide (d.cols * d.sb ≤ d.sp) && decide (d.cols * d.db ≤ d.dp)
  | 0x81 => decide (d.cols * d.sb ≤ d.sp) && decide (d.rows * d.db ≤ d.dp)
  | 0x82 => decide (d.cols * d.sb ≤ d.sp) && decide (d.bh * d.bw * d.db ≤ d.dp)
  | 0x83 => true
  | _ => decide (d.entry ≤ d.sp) && decide (d.entry ≤ d.dp)

/-- A format code that a copy takes: no MX format, no KB8, none reserved. -/
def copyFmt (c : Nat) : Bool := match Fmt.ofCode c with | some f => !f.scaled | none => false

/-- INT32 or INT16. -/
def wideInt (c : Nat) : Bool := fmtOf c == .int32 || fmtOf c == .int16

/-- The module that a global address names is this one. -/
def State.isOwn (s : State) (g : W64) : Bool := gXyz g == s.ownXyz

/-- 01 R47, R50, R132, 11 R327: what validation asks of a side of a copy. -/
def State.sideOk (s : State) (c : Nat) (g : W64) (k : Nat) (isSrc : Bool) : Bool :=
  let a := gLocal g
  gPadOk g && rangeMapped a (max 1 k) &&
  (if s.isOwn g then
    (match placeOf a with
      | .tier => true
      | .spad l _ => (s.ctx? c).any (fun x => x.tiles.contains l)
      | .debug l _ => isSrc && (s.ctx? c).any (fun x => x.inDebug && x.tiles.contains l)
      | .unmapped => false)
  else
    (match placeOf a with | .debug _ _ => false | .unmapped => false | _ => true)
      && s.inBox (xyzOn (gXyz g) 0) (xyzOn (gXyz g) 1) (xyzOn (gXyz g) 2))

/-- The list or the other side of a rill operation: Tier F, or a scratchpad (08 R241); the other side may lie on a peer module. -/
def State.rillSide (s : State) (c : Nat) (g : W64) (k : Nat) : Bool :=
  s.sideOk c g k false && (inSpad (gLocal g) || !inTierS (gLocal g))

/-- The table of a rill operation: Tier F on this module (08 R236, R241). -/
def State.rillTable (s : State) (g : W64) : Bool := s.isOwn g && gPadOk g && placeOf (gLocal g) == .tier && !inTierS (gLocal g)

/-- 08 R236: the checks of a copy descriptor at fetch that answer `VALIDATION`. -/
def State.copyOk (s : State) (c : Nat) (raw : BitVec 1024) : Bool :=
  let d := CopyD.of raw
  let apart := !(gXyz d.src == gXyz d.dst && decide (gLocal d.src < gLocal d.dst + d.dstSpan) && decide (gLocal d.dst < gLocal d.src + d.srcSpan))
  let own := fun (a : Nat) => (s.ownXyz.setWidth 64 <<< 52) ||| BitVec.ofNat 64 a
  decide (0x80 ≤ d.opcode) && decide (d.opcode ≤ 0x85) && decide (d.round ≤ 3) && decide (d.cls < (if d.rill then 1 else 3))
    && fieldN raw 180 64 == 0 && fieldN raw 39 37 == 0 && copyFmt d.fs && copyFmt d.fd
    && (d.opcode != 0x81 || (wideInt d.fs == wideInt d.fd)) && d.pitchOk && apart
    && (if d.opcode = 0x84 then s.rillTable d.src && s.rillSide c d.dst d.dstSpan
      else if d.opcode = 0x85 then s.rillTable d.dst && s.rillSide c d.src d.srcSpan
      else s.sideOk c d.src d.srcSpan true && s.sideOk c d.dst d.dstSpan false)
    && (!d.rill || (let t := if d.opcode = 0x84 then (gLocal d.src, d.sp) else (gLocal d.dst, d.dp)
          t.1 % 32 == 0 && t.2 % 32 == 0 && s.rillSide c (own d.aux) (4 * d.rows)))
    && (d.opcode != 0x83 || placeOf d.aux == .tier)
    && (d.opcode != 0x82 || (d.fs == d.fd && decide (d.bh ≤ d.rows) && decide (d.bw ≤ d.cols) && decide (d.rLog ≤ 12) && decide (d.cLog ≤ 12)))

/-- 08 R229: the `k` bytes of a side on this module lie in windows of the context, or in no tier. -/
def State.inWindows (s : State) (c a k : Nat) : Bool :=
  match placeOf a with
  | .tier => s.covered c a k
  | _ => true

/-- 08 R229: the local ranges of a copy lie in windows of its context; otherwise it is refused at fetch with `WINDOW`. -/
def State.copyWindowOk (s : State) (c : Nat) (raw : BitVec 1024) : Bool :=
  let d := CopyD.of raw
  (d.opcode == 0x84 || !s.isOwn d.src || s.inWindows c (gLocal d.src) (max 1 d.srcSpan))
    && (d.opcode == 0x85 || !s.isOwn d.dst || s.inWindows c (gLocal d.dst) (max 1 d.dstSpan))
    && (!d.rill || s.inWindows c d.aux (4 * d.rows)) && (d.opcode != 0x83 || s.inWindows c d.aux 64)

/-! ### The lowering block (08 R240) -/

/-- The fields of a lowering block. -/
structure LowerD where
  ow : Nat
  oh : Nat
  pw : Nat
  ph : Nat
  sw : Nat
  sh : Nat
  kw : Nat
  kh : Nat
  w : Nat
  h : Nat
  c : Nat
  deriving DecidableEq, Repr

/-- Read a lowering block. -/
def LowerD.of (b : BitVec 512) : LowerD where
  ow := fieldN b 175 160
  oh := fieldN b 159 144
  pw := fieldN b 143 128
  ph := fieldN b 127 112
  sw := fieldN b 111 96
  sh := fieldN b 95 80
  kw := fieldN b 79 64
  kh := fieldN b 63 48
  w := fieldN b 47 32
  h := fieldN b 31 16
  c := fieldN b 15 0

/-- Elements of a destination row. -/
def LowerD.rowLen (l : LowerD) : Nat := l.kh * l.kw * l.c

/-- Images of the input: rows of the destination are a whole number of output images. -/
def LowerD.images (l : LowerD) (rows : Nat) : Nat := rows / max 1 (l.oh * l.ow)

/-- What is checked of a lowering block when the copy starts (log 22). -/
def LowerD.ok (l : LowerD) (b : BitVec 512) (d : CopyD) : Bool :=
  fieldN b 511 176 == 0 && decide (1 ≤ l.sw) && decide (1 ≤ l.sh) && decide (1 ≤ l.oh * l.ow) && d.rows % max 1 (l.oh * l.ow) == 0
    && decide (l.c * d.sb ≤ d.sp) && decide (l.rowLen * d.db ≤ d.dp)

/-- Bytes of the input of a lowering. -/
def LowerD.srcSpan (l : LowerD) (d : CopyD) : Nat := (l.images d.rows * l.h * l.w - 1) * d.sp + l.c * d.sb

/-- Bytes of the output of a lowering. -/
def LowerD.dstSpan (l : LowerD) (d : CopyD) : Nat := (d.rows - 1) * d.dp + l.rowLen * d.db

/-- 08 R236: the input and the output of a lowering do not overlap, which its block alone shows (log 22). -/
def LowerD.apart (l : LowerD) (d : CopyD) : Bool :=
  !(gXyz d.src == gXyz d.dst && decide (gLocal d.src < gLocal d.dst + l.dstSpan d) && decide (gLocal d.dst < gLocal d.src + l.srcSpan d))

/-! ### Chunks: runs of elements that one read and one write move -/

/-- A run of elements: its source, none for zeros, and the bytes between elements on each side. -/
structure Chunk where
  /-- Local address of the first source element. -/
  src : Option Nat
  /-- Bytes between source elements. -/
  sStep : Nat
  /-- Local address of the first destination element. -/
  dst : Nat
  /-- Bytes between destination elements. -/
  dStep : Nat
  /-- Elements. -/
  n : Nat
  deriving DecidableEq, Repr

/-- Cut a run into runs of at most `k` elements. -/
def Chunk.cut (c : Chunk) (k : Nat) : List Chunk :=
  (cutRun k 0 c.n c.n).map (fun p => { c with
    src := c.src.map (· + p.1 * c.sStep), dst := c.dst + p.1 * c.dStep, n := p.2 })

/-- The runs of a row of a lowering, in the order (kh, kw, ch). -/
def LowerD.rowChunks (l : LowerD) (d : CopyD) (r : Nat) : List Chunk :=
  let n := r / (l.oh * l.ow)
  let oh := r / l.ow % l.oh
  let ow := r % l.ow
  (List.range (l.kh * l.kw)).map (fun i =>
    let h : Int := ((oh * l.sh + i / l.kw : Nat) : Int) - l.ph
    let w : Int := ((ow * l.sw + i % l.kw : Nat) : Int) - l.pw
    let inside := decide (0 ≤ h) && decide (h < l.h) && decide (0 ≤ w) && decide (w < l.w)
    { src := if inside then some (gLocal d.src + ((n * l.h + h.toNat) * l.w + w.toNat) * d.sp) else none
      sStep := d.sb
      dst := gLocal d.dst + r * d.dp + i * l.c * d.db
      dStep := d.db
      n := l.c })

/-- The runs of a copy (08 R235, R240, R518): by source row, except a transposition, which goes by destination row; one from a
peer module goes by source row, and one between two peers by element (log 92). -/
def CopyD.runs (d : CopyD) (low : BitVec 512) (srcOwn dstOwn : Bool) : List Chunk :=
  let s0 := gLocal d.src
  let d0 := gLocal d.dst
  let rows := List.range d.rows
  match d.opcode with
  | 0x80 => rows.map (fun r => { src := some (s0 + r * d.sp), sStep := d.sb, dst := d0 + r * d.dp, dStep := d.db, n := d.cols })
  | 0x81 =>
    if srcOwn then
      (List.range d.cols).map (fun c => { src := some (s0 + c * d.sb), sStep := d.sp, dst := d0 + c * d.dp, dStep := d.db, n := d.rows })
    else if dstOwn then rows.map (fun r => { src := some (s0 + r * d.sp), sStep := d.sb, dst := d0 + r * d.db, dStep := d.dp, n := d.cols })
    else rows.flatMap (fun r => (List.range d.cols).map (fun c =>
      { src := some (s0 + r * d.sp + c * d.sb), sStep := d.sb, dst := d0 + c * d.dp + r * d.db, dStep := d.db, n := 1 }))
  | 0x82 => rows.flatMap (fun r => (List.range d.blkCols).map (fun j =>
      { src := some (s0 + r * d.sp + j * d.bw * d.sb)
        sStep := d.sb
        dst := d0 + (r / d.bh * d.blkCols + j) * d.dp + r % d.bh * d.bw * d.db
        dStep := d.db
        n := min d.bw (d.cols - j * d.bw) }))
  | 0x83 => rows.flatMap ((LowerD.of low).rowChunks d)
  | _ => []

/-- The chunks of a copy: what a packet takes at most where a side is on a peer module (08 R517: 4 KiB).  A read of a peer's
scratchpad asks for 512 bytes at most, so that its answer marks each 8-byte word (log 92). -/
def CopyD.chunks (d : CopyD) (low : BitVec 512) (srcOwn dstOwn : Bool) : List Chunk :=
  let rs := d.runs low srcOwn dstOwn
  let most := if !srcOwn && inSpad (gLocal d.src) then 512 else 4096
  if srcOwn && dstOwn then rs else rs.flatMap (fun c => c.cut (most / max 1 (max d.sb d.db)))

/-- Convert the code of an element: as it is where the formats are the same (08 R237, R238). -/
def CopyD.conv (d : CopyD) (code : Nat) : Cvt :=
  if d.fs = d.fd then ⟨code, false, false⟩ else convert (fmtOf d.fd) (Round.ofField d.round 0) (decode (fmtOf d.fs) code)

/-- An element of a copy: its converted code, and whether its source was poisoned. -/
abbrev CopyEl := Cvt × Bool

/-- The bytes that `n` elements of `k` bytes reach, `step` bytes apart: (address, length) of each piece. -/
def pieces (a step k n : Nat) : List (Nat × Nat) :=
  if step = k then [(a, n * k)] else (List.range n).map (fun i => (a + i * step, k))

/-- The pieces of this module's memory that a chunk reads. -/
def Chunk.reads (x : Chunk) (d : CopyD) : List (Nat × Nat) :=
  match x.src with
  | some a => pieces a x.sStep d.sb x.n
  | none => []

/-- What the reads of a chunk leave: poisoned lines are counted, and those of `CLASS` 1 are latency-critical, each line once
(08 R222, R232). -/
def State.chunkNote (s : State) (c : Nat) (d : CopyD) (x : Chunk) : State :=
  let ls := ((x.reads d).flatMap (fun p => s.tierLines c p.1 p.2)).eraseDups
  (if d.cls = 1 then s.lcLines ls else s).countPoison ls

/-- Read and convert the elements of a chunk of this module's memory. -/
def State.chunkRead (s : State) (c : Nat) (d : CopyD) (x : Chunk) : List CopyEl :=
  (List.range x.n).map (fun i => match x.src with
    | some a => (d.conv (s.readAt c (a + i * x.sStep) d.sb), s.badRead c (a + i * x.sStep) d.sb)
    | none => (d.conv 0, false))

/-- Count the events of converted elements of a copy, and note poison (08 R237, R239). -/
def State.copyEvents (s : State) (id : Nat) (spad : Bool) (es : List CopyEl) : State :=
  s.modOp id (fun o => { o with
    spad := o.spad || (spad && o.cause == .none && es.any (·.2))
    satEv := sat32 (o.satEv + (es.filter (·.1.sat)).length)
    nfEv := sat32 (o.nfEv + (es.filter (·.1.nf)).length)
    cause := if o.cause = .none ∧ es.any (·.2) then .memUncorrectable else o.cause })

/-- Write the elements of a chunk to this module's memory, marking what came from poisoned lines (08 R239).  Elements that lie
together are written together: a word that they fill is written whole (01 R36, log 92). -/
def State.chunkWrite (s : State) (c : Nat) (d : CopyD) (x : Chunk) (es : List CopyEl) : State :=
  let s1 := if x.dStep = d.db then s.writeAt c x.dst (es.flatMap (fun e => toBytes d.db e.1.code))
    else es.zipIdx.foldl (fun s e => s.writeAt c (x.dst + e.2 * x.dStep) (toBytes d.db e.1.1.code)) s
  es.zipIdx.foldl (fun s e => if e.1.2 then s.poisonWrite c (x.dst + e.2 * x.dStep) d.db else s) s1

/-! ### Copies to and from peer modules (08 R517; the layout of `META` and `BODY` is log 21) -/

/-- First 8 bytes of the tenant identity of a context (08 R229). -/
def State.ident8 (s : State) (c : Nat) : Nat := ((s.ctx? c).map (fun x => x.owner.toNat % 2 ^ 64)).getD 0

/-- Number of an operation in copy packets. -/
def Op.wire (o : Op) : Nat := o.id % 2 ^ 40

/-- Cut a list of elements where poison begins or ends. -/
def runsByBad : List CopyEl → List (List CopyEl)
  | [] => []
  | e :: es => match runsByBad es with
    | (f :: fs) :: rest => if f.2 = e.2 then (e :: f :: fs) :: rest else [e] :: (f :: fs) :: rest
    | r => [e] :: r

/-- Send the elements of chunk `i` to a peer module, and note the acknowledgements that are due. -/
def State.chunkSend (s : State) (o : Op) (d : CopyD) (i : Nat) (x : Chunk) (es : List CopyEl) : State :=
  let gs := (runsByBad es).foldl (fun (acc : List (List CopyEl × Nat) × Nat) g => (acc.1 ++ [(g, acc.2)], acc.2 + g.length)) ([], 0)
  gs.1.zipIdx.foldl (fun s g =>
    let tag := (2 * (i * 4096 + g.2) + 1) % 2 ^ 43
    let bs := g.1.1.flatMap (fun e => toBytes d.db e.1.code)
    let gaddr : W64 := ((gXyz d.dst).setWidth 64 <<< 52) ||| BitVec.ofNat 64 (x.dst + g.1.2 * d.db)
    let m := pack 184 [(63, 0, s.ident8 o.ctx), (103, 64, o.wire), (146, 104, tag), (159, 147, bs.length), (160, 160, b2n (g.1.1.any (·.2)))]
    (s.modOp o.id (fun y => { y with remote := y.remote ++ [tag] })).sendData o.ctx 0x01 (hSlot o.ch) (gXyz d.dst) gaddr 0 m (flitsOf bs)) s

/-- Ask a peer module for `n` bytes from `a`; they are for `dst`. -/
def State.askPeer (s : State) (o : Op) (d : CopyD) (i n a dst : Nat) : State :=
  let tag := 2 * i % 2 ^ 43
  let body := pack 256 [(63, 0, s.ident8 o.ctx), (103, 64, o.wire), (146, 104, tag), (159, 147, n), (207, 160, a), (255, 208, dst)]
  (s.modOp o.id (fun y => { y with remote := y.remote ++ [tag] })).sendCtl o.ctx 0x02 (hSlot o.ch) (gXyz d.src) body

/-- Read requests to a peer module that have not been answered. -/
def State.readsTo (s : State) (peer : BitVec 12) : Nat :=
  ((s.ops.filter (fun o => o.kind == 2 && gXyz (CopyD.of o.desc).src == peer)).map (fun o => (o.remote.filter (· % 2 == 0)).length)).sum

/-- The module holds an end-to-end credit for a peer's request queue (09 R276). -/
def State.mayAsk (s : State) (peer : BitVec 12) : Bool :=
  let n := s.readsTo peer
  decide (n = 0) || decide (n < Config.readCredits + 1)

/-- Send the read requests of an operation that hold a credit, in order; `n` of them at most. -/
def State.askMore (id : Nat) : Nat → State → State
  | 0, s => s
  | n + 1, s =>
    match s.op? id with
    | none => s
    | some o =>
      let d := CopyD.of o.desc
      match o.asks with
      | [] => s
      | i :: rest =>
        if !s.mayAsk (gXyz d.src) then s
        else
          let s1 := s.modOp id (fun y => { y with asks := rest })
          State.askMore id n (match (d.chunks o.lower (s.isOwn d.src) (s.isOwn d.dst))[i]? with
            | some x => s1.askPeer o d i ((x.n - 1) * x.sStep + d.sb) (x.src.getD 0) x.dst
            | none => s1)

/-- The operations whose read requests wait go on as far as there are credits, in fetch order (09 R276). -/
def State.askAll (s : State) : State :=
  ((s.ops.filter (fun o => !o.asks.isEmpty)).map (fun o => (o.id, o.asks.length))).foldl (fun s e => State.askMore e.1 e.2 s) s

/-- Put the elements of a chunk where they go. -/
def State.chunkPut (s : State) (o : Op) (d : CopyD) (i : Nat) (x : Chunk) (es : List CopyEl) : State :=
  let s1 := s.copyEvents o.id (s.isOwn d.src && inSpad (gLocal d.src)) es
  if s.isOwn d.dst then s1.chunkWrite o.ctx d x es else s1.chunkSend o d i x es

/-- The operation is finished once nothing is outstanding. -/
def State.copyFinish (s : State) (id : Nat) : State :=
  s.modOp id (fun o => if o.remote.isEmpty ∧ o.asks.isEmpty then { o with phase := .finished } else o)

/-- Join runs of elements whose destinations follow each other without a gap. -/
def joinRuns (db : Nat) : List (Chunk × List CopyEl) → List (Chunk × List CopyEl)
  | [] => []
  | (x, es) :: rest =>
    match joinRuns db rest with
    | (y, fs) :: more =>
      if x.dStep = db ∧ y.dStep = db ∧ y.dst = x.dst + x.n * db then ({ x with n := x.n + y.n }, es ++ fs) :: more
      else (x, es) :: (y, fs) :: more
    | [] => [(x, es)]

/-- A copy within this module: its runs are read, and written where they lie together. -/
def State.copyLocal (s : State) (o : Op) (d : CopyD) (cs : List Chunk) : State :=
  let rs := cs.map (fun x => (x, s.chunkRead o.ctx d x))
  let s1 := cs.foldl (fun s x => s.chunkNote o.ctx d x) s
  let s2 := s1.copyEvents o.id (inSpad (gLocal d.src)) (rs.flatMap (·.2))
  (joinRuns d.db rs).foldl (fun s r => s.chunkWrite o.ctx d r.1 r.2) s2

/-- Move every chunk of a started copy: local sources now, remote ones when their data come. -/
def State.copyRun (s : State) (o : Op) (d : CopyD) : State :=
  let cs := d.chunks o.lower (s.isOwn d.src) (s.isOwn d.dst)
  let s1 :=
    if s.isOwn d.src ∧ s.isOwn d.dst then s.copyLocal o d cs
    else if s.isOwn d.src then
      cs.zipIdx.foldl (fun s x => (s.chunkNote o.ctx d x.1).chunkPut o d x.2 x.1 (s.chunkRead o.ctx d x.1)) s
    else
      let zeros := cs.zipIdx.filter (fun x => x.1.src.isNone)
      let far := (cs.zipIdx.filter (fun x => x.1.src.isSome)).map (·.2)
      let s1 := zeros.foldl (fun s x => s.chunkPut o d x.2 x.1 (s.chunkRead o.ctx d x.1)) s
      State.askMore o.id far.length (s1.modOp o.id (fun y => { y with asks := far }))
  s1.copyFinish o.id

/-- An access of a chunk is held, on one of its sides on this module (01 R41, 07 R216, 08 R247). -/
def State.chunkHeld (s : State) (c : Nat) (d : CopyD) (x : Chunk) : Bool :=
  (s.isOwn d.src && (x.reads d).any (fun p => s.accessHeld c p.1 p.2))
    || (s.isOwn d.dst && (pieces x.dst x.dStep d.db x.n).any (fun p => s.accessHeld c p.1 p.2))

/-- An access of a copy is held; that of its lowering block, or, once the block is known, those of its chunks. -/
def State.copyHeld (s : State) (c : Nat) (d : CopyD) : Bool :=
  let low := if d.opcode = 0x83 then BitVec.ofNat 512 (s.readAt c d.aux 64) else 0
  (d.opcode == 0x83 && s.accessHeld c d.aux 64)
    || (d.chunks low (s.isOwn d.src) (s.isOwn d.dst)).any (s.chunkHeld c d)

/-- Leave the head of a copy channel. -/
def State.copyLeave (s : State) (o : Op) (low : BitVec 512) : State :=
  s.leave o (fun x => { x with phase := .running, issueAt := s.now, lower := low })

/-- 08 R233: the head of a copy channel starts if it has the given opcode, its waits are taken and nothing holds it. -/
def State.startCopy (s : State) (h : W32) (opcode : Nat) : State :=
  match s.headOfChan h with
  | none => s
  | some o =>
    let d := CopyD.of o.desc
    if o.kind ≠ 2 ∨ d.opcode ≠ opcode ∨ !o.waitsTaken ∨ s.copyHeld o.ctx d then s
    else if opcode = 0x83 then
      let low : BitVec 512 := BitVec.ofNat 512 (s.readAt o.ctx d.aux 64)
      let l := LowerD.of low
      let s0 := (if d.cls = 1 then s.lcRead o.ctx d.aux 64 else s).noteRead o.ctx d.aux 64
      let s1 := s0.copyLeave o low
      let o1 := { o with lower := low }
      if s.badRead o.ctx d.aux 64 then (s1.noteSpad o.id (inSpad d.aux)).failOp o.id .memUncorrectable
      else if !l.ok low d ∨ !l.apart d ∨ !s.sideOk o.ctx d.src (l.srcSpan d) true ∨ !s.sideOk o.ctx d.dst (l.dstSpan d) false then s1.failOp o.id .validation
      else if (s.isOwn d.src && !s.inWindows o.ctx (gLocal d.src) (l.srcSpan d)) || (s.isOwn d.dst && !s.inWindows o.ctx (gLocal d.dst) (l.dstSpan d)) then
        s1.failOp o.id .window
      else s1.copyRun o1 d
    else (s.copyLeave o 0).copyRun o d

/-- `COPY` (0x80): copies rows from source to destination, directly or with conversion (08 R235, R237). -/
def execCopy (ch : W32) (s : State) : Ans := .next (s.startCopy ch 0x80).settle

/-- `TRANSPOSE` (0x81): writes destination (c, r) from source (r, c) (08 R235). -/
def execTranspose (ch : W32) (s : State) : Ans := .next (s.startCopy ch 0x81).settle

/-- `RETILE` (0x82): writes the source as row-major blocks, one block per destination row (08 R518). -/
def execRetile (ch : W32) (s : State) : Ans := .next (s.startCopy ch 0x82).settle

/-- `LOWER` (0x83): lowers an NHWC convolution input into matrix rows (08 R240). -/
def execLower (ch : W32) (s : State) : Ans := .next (s.startCopy ch 0x83).settle

/-- 08 R229: the context whose memory a request from a peer module may reach: its window takes remote accesses, or its
tile holds the scratchpad, it is bound to the packet's partition, and its tenant identity is the sender's. -/
def State.remoteTarget (s : State) (p : Packet) (ident a k : Nat) : Option Nat :=
  (s.ctxs.find? (fun e =>
    e.2.ptag.toNat == p.ptag && !e.2.tiles.isEmpty && e.2.owner.toNat % 2 ^ 64 == ident && rangeMapped a k &&
    (match placeOf a with
      | .tier => (s.windowsOf e.1).any (fun w => w.2.ready && w.2.remoteRx && decide (w.2.base ≤ a) && decide (a + k ≤ w.2.base + w.2.length))
      | .spad l _ => e.2.tiles.contains l
      | _ => false))).map (·.1)

/-- Acknowledge or refuse a request of a peer module. -/
def State.copyAck (s : State) (c : Nat) (p : Packet) (wire tag : Nat) (refused : Bool) : State :=
  s.sendCtl c 0x04 p.slot p.src (pack 256 [(103, 64, wire), (146, 104, tag), (160, 160, b2n refused)])

/-- `COPY_WR`: the opened packet `k`, a remote write, is checked, written and acknowledged (08 R517, R229). -/
def execCopyWr (k : Nat) (s : State) : Ans :=
  match s.rxOpen[k]? with
  | none => .next s
  | some (c, p) =>
    if p.kind ≠ 0x01 then .next s
    else
      let m := p.metaF
      let a := gLocal p.gaddr
      let len := min (fieldN m 159 147) (64 * p.payload.length)
      let s1 : State := { s with rxOpen := s.rxOpen.eraseIdx k }
      match s.remoteTarget p (fieldN m 63 0) a len with
      | none => .next (s1.copyAck c p (fieldN m 103 64) (fieldN m 146 104) true)
      | some t =>
        if s.accessHeld t a len then .next s
        else
          let s2 := s1.writeAt t a (p.bytes.take len)
          let s3 := if bitN m 160 then s2.poisonWrite t a len else s2
          .next (s3.copyAck c p (fieldN m 103 64) (fieldN m 146 104) false)

/-- Accesses of a rill operation. -/
def CopyD.rillTotal (d : CopyD) : Nat := d.rows * d.cols

/-- Index at position `j` of a rill operation's list. -/
def State.rillIndex (s : State) (o : Op) (d : CopyD) (j : Nat) : Nat := s.readAt o.ctx (d.aux + 4 * j) 4

/-- Local address of table entry `i`. -/
def CopyD.tableAt (d : CopyD) (i : Nat) : Nat := if d.opcode = 0x84 then gLocal d.src + i * d.sp else gLocal d.dst + i * d.dp

/-- Local address of row `j` of the other side. -/
def CopyD.rowAt (d : CopyD) (j : Nat) : Nat := if d.opcode = 0x84 then gLocal d.dst + j * d.dp else gLocal d.src + j * d.sp

/-- The rill queue of some stack holds an access of an operation. -/
def State.rillBusy (s : State) (id : Nat) : Bool := s.devices.any (fun x => x.rillQ.any (fun e => e.op == id))

/-- A rill operation whose accesses have all been served, and whose peer has answered, is finished. -/
def State.rillFinish (s : State) (id : Nat) : State :=
  if s.rillBusy id then s
  else s.modOp id (fun o =>
    if o.phase = .running ∧ o.remote.isEmpty ∧ (o.cause ≠ .none ∨ (CopyD.of o.desc).rillTotal ≤ o.rillNext) then { o with phase := .finished } else o)

/-- Write 32 bytes of a rill access, at a table entry or a row; what came from poison marks its destination, and the operation
stops (08 R239). -/
def State.rillPut (s : State) (o : Op) (b : Nat) (bs : List Byte) (bad spad : Bool) : State :=
  let s1 := s.writeAt o.ctx b bs
  if bad then
    (s1.poisonWrite o.ctx b bs.length).modOp o.id (fun o => { o with
      spad := o.spad || (o.cause == .none && spad)
      cause := if o.cause = .none then .memUncorrectable else o.cause })
  else s1

/-- A piece of a copy of either kind has ended: a rill operation is finished when its accesses are done, another copy when
nothing is outstanding; read requests that wait go on. -/
def State.pieceDone (s : State) (o : Op) : State :=
  (if (CopyD.of o.desc).rill then s.rillFinish o.id else s.copyFinish o.id).askAll

/-- The started copy that an answer of a peer module belongs to, when the tag is outstanding. -/
def State.copyOf (s : State) (c wire tag : Nat) : Option Op :=
  s.ops.find? (fun o => o.kind == 2 && o.ctx == c && o.wire == wire && o.phase == .running && o.remote.contains tag)

/-- `COPY_WR_ACK`: the opened packet `k` counts a remote write as accepted, or ends the copy with `REMOTE_REFUSED`
(08 R234, R229). -/
def execCopyWrAck (k : Nat) (s : State) : Ans :=
  match s.rxOpen[k]? with
  | none => .next s
  | some (c, p) =>
    if p.kind ≠ 0x04 then .next s
    else
      let s1 : State := { s with rxOpen := s.rxOpen.eraseIdx k }
      let tag := fieldN p.body 146 104
      match s.copyOf c (fieldN p.body 103 64) tag with
      | none => .next s1
      | some o =>
        if bitN p.body 160 then .next (s1.failOp o.id .remoteRefused).askAll.settle
        else .next ((s1.modOp o.id (fun o => { o with remote := o.remote.erase tag })).pieceDone o)

/-- The bytes that one bit of an answer marks as poisoned: a word of a scratchpad, or a line of a tier (01 R36, 08 R239). -/
def poisonUnit (a : Nat) : Nat := if inSpad a then 8 else 64

/-- `COPY_RD_REQ`: the opened packet `k`, a remote read request, is checked and answered (08 R517, R229, R239). -/
def execCopyRdReq (k : Nat) (s : State) : Ans :=
  match s.rxOpen[k]? with
  | none => .next s
  | some (c, p) =>
    if p.kind ≠ 0x02 then .next s
    else
      let b := p.body
      let a := fieldN b 207 160
      let len := min 4096 (max 1 (fieldN b 159 147))
      let wire := fieldN b 103 64
      let tag := fieldN b 146 104
      let s1 : State := { s with rxOpen := s.rxOpen.eraseIdx k }
      match s.remoteTarget p (fieldN b 63 0) a len with
      | none => .next (s1.copyAck c p wire tag true)
      | some t =>
        if s.accessHeld t a len then .next s
        else
          let u := poisonUnit a
          let bad := ((List.range (cdiv (a % u + len) u)).map (fun i =>
            let lo := max a (u * (a / u + i))
            if s.badRead t lo (min (a + len) (u * (a / u + i + 1)) - lo) then 2 ^ i else 0)).sum
          let m := pack 184 [(39, 0, wire), (82, 40, tag), (147, 83, bad)]
          let gaddr : W64 := (p.src.setWidth 64 <<< 52) ||| BitVec.ofNat 64 (fieldN b 255 208)
          .next ((s1.noteRead t a len).sendData c 0x03 p.slot p.src gaddr 0 m (flitsOf (toBytes len (s.readAt t a len))))

/-- The elements of a chunk that an answer brings, `bad` marking what is poisoned. -/
def CopyD.answered (d : CopyD) (x : Chunk) (bs : List Byte) (bad : Nat) : List CopyEl :=
  let a := x.src.getD 0
  let u := poisonUnit a
  (List.range x.n).map (fun i =>
    let off := i * x.sStep
    (d.conv (ofBytes ((bs.drop off).take d.sb)), (List.range d.sb).any (fun k => bad.testBit ((a % u + off + k) / u))))

/-- `COPY_RD_RSP`: the opened packet `k` brings data of a remote read, which go to the copy's destination, or to the table
entry that a scatter asked them for (08 R241, R517). -/
def execCopyRdRsp (k : Nat) (s : State) : Ans :=
  match s.rxOpen[k]? with
  | none => .next s
  | some (c, p) =>
    if p.kind ≠ 0x03 then .next s
    else
      let m := p.metaF
      let tag := fieldN m 82 40
      let bad := fieldN m 147 83
      let s1 : State := { s with rxOpen := s.rxOpen.eraseIdx k }
      match s.copyOf c (fieldN m 39 0) tag with
      | none => .next s1
      | some o =>
        let d := CopyD.of o.desc
        let s2 := s1.modOp o.id (fun o => { o with remote := o.remote.erase tag })
        if d.rill then
          let a := gLocal p.gaddr
          if s.accessHeld o.ctx a 32 then .next s else .next ((s2.rillPut o a (p.bytes.take 32) (decide (bad ≠ 0)) true).pieceDone o)
        else match (d.chunks o.lower (s.isOwn d.src) (s.isOwn d.dst))[tag / 2]? with
        | none => .next s1
        | some x =>
          if s.chunkHeld o.ctx d x then .next s
          else .next ((s2.chunkPut o d (tag / 2) x (d.answered x p.bytes bad)).pieceDone o)

/-! ### The rill path (08 R241 to R244) -/

/-- The row side of a rill operation is on this module. -/
def State.rillLocal (s : State) (d : CopyD) : Bool := s.isOwn (if d.opcode = 0x84 then d.dst else d.src)

/-- An access of a rill operation finds something held: its index, its table entry, or its row (01 R41, 07 R216, 08 R247). -/
def State.rillHeld (s : State) (o : Op) (d : CopyD) (j p a : Nat) : Bool :=
  s.accessHeld o.ctx (a + 32 * p) 32 || (s.rillLocal d && s.accessHeld o.ctx (d.rowAt j + 32 * p) 32)

/-- Issue accesses of a rill operation until one is held, or an index stops it (08 R243, R244). -/
def State.rillIssue (id : Nat) : Nat → State → State
  | 0, s => s
  | n + 1, s =>
    match s.op? id with
    | none => s
    | some o =>
      let d := CopyD.of o.desc
      let j := o.rillNext / d.cols
      let p := o.rillNext % d.cols
      if o.phase ≠ .running ∨ o.cause ≠ .none ∨ d.rillTotal ≤ o.rillNext ∨ s.accessHeld o.ctx (d.aux + 4 * j) 4 then s
      else if s.badRead o.ctx (d.aux + 4 * j) 4 then
        (s.noteRead o.ctx (d.aux + 4 * j) 4).modOp id (fun o => { o with cause := .memUncorrectable, spad := inSpad (d.aux + 4 * j) })
      else
        let i := s.rillIndex o d j
        let a := d.tableAt i
        if !s.inWindow o.ctx a d.entry true then s.modOp id (fun o => { o with cause := .window })
        else
          let dev := (s.deviceAt (s.xaddr o.ctx (a + 32 * p))).getD 0
          let q := (s.dev dev).rillQ
          if s.rillHeld o d j p a ∨ 1024 ≤ q.length ∨ 256 ≤ (q.filter (fun e => e.ch == o.ch)).length then s
          else State.rillIssue id n ((s.modDev dev (fun x => { x with
            rillQ := x.rillQ ++ [⟨o.ch, id, o.rillNext, i⟩], rillTurn := hSlot o.ch })).modOp id (fun o => { o with rillNext := o.rillNext + 1 }))

/-- Issue what a rill operation may issue now. -/
def State.rillGo (s : State) (id : Nat) : State :=
  match s.op? id with
  | none => s
  | some o => (State.rillIssue id ((CopyD.of o.desc).rillTotal + 1) s).rillFinish id

/-- Start the head of a copy channel as a rill operation. -/
def State.startRill (s : State) (h : W32) (opcode : Nat) : State :=
  match s.headOfChan h with
  | none => s
  | some o =>
    if o.kind ≠ 2 ∨ o.opcode ≠ opcode ∨ !o.waitsTaken then s else (s.copyLeave o 0).rillGo o.id

/-- Serve one rill access: 32 bytes of the table line and of a row (08 R242).  A row on a peer module is written by a
packet, or asked for and written when it comes (08 R517). -/
def State.rillServe (s : State) (o : Op) (e : RillAcc) : State :=
  let d := CopyD.of o.desc
  let p := 32 * (e.acc % d.cols)
  let t := d.tableAt e.idx + p
  let r := d.rowAt (e.acc / d.cols) + p
  let a := if d.opcode = 0x84 then t else r
  if s.rillLocal d then
    (s.noteRead o.ctx a 32).rillPut o (if d.opcode = 0x84 then r else t) (toBytes 32 (s.readAt o.ctx a 32)) (s.badRead o.ctx a 32) (inSpad a)
  else if d.opcode = 0x84 then
    let el : List CopyEl := (List.range 32).map (fun i => (⟨s.readAt o.ctx (t + i) 1, false, false⟩, s.badRead o.ctx t 32))
    let x : Chunk := { src := some t, sStep := 1, dst := r, dStep := 1, n := 32 }
    ((s.noteRead o.ctx t 32).copyEvents o.id false el).chunkSend o { d with fs := 9, fd := 9 } e.acc x el
  else s.askPeer o d e.acc 32 r t

/-- An access at the head of a rill queue waits: its row lies in a tile whose binding changes (01 R41), or on a peer whose
request queue gives no credit (09 R276). -/
def State.rillWaits (s : State) (o : Op) (e : RillAcc) : Bool :=
  let d := CopyD.of o.desc
  if s.rillLocal d then
    (match placeOf (d.rowAt (e.acc / d.cols)) with
      | .spad l _ => s.isHeld l
      | _ => false)
  else d.opcode == 0x85 && !s.mayAsk (gXyz d.src)

/-- `RILL_GATHER` (0x84): the head of a copy channel starts to gather table entries by an index list (08 R241). -/
def execRillGather (ch : W32) (s : State) : Ans := .next (s.startRill ch 0x84)

/-- `RILL_SCATTER` (0x85): the head of a copy channel starts to scatter rows to table entries (08 R241). -/
def execRillScatter (ch : W32) (s : State) : Ans := .next (s.startRill ch 0x85)

/-- The rill operations that have not issued every access, by their channels in the rotation of a stack's queue (08 R243). -/
def State.rillHeads (s : State) (stack : Nat) : List Nat :=
  let os := sortBy (fun o => hSlot o.ch) (s.ops.filter (fun o => o.kind == 2 && (CopyD.of o.desc).rill && o.phase == .running))
  let at_ := (s.dev stack).rillTurn
  (os.filter (fun o => decide (at_ < hSlot o.ch)) ++ os.filter (fun o => decide (hSlot o.ch ≤ at_))).map (·.id)

/-- Every rill operation issues what it may, in the rotation of a stack's queue. -/
def State.rillAdmit (s : State) (stack : Nat) : State := (s.rillHeads stack).foldl State.rillGo s

/-- `RILL_QUEUE_FREE`: the oldest access of a stack's rill queue is served, its entry frees, and the queue admits from its
channels in rotation (08 R242, R243). -/
def execRillQueueFree (stack : Fin 20) (s : State) : Ans :=
  match (s.dev stack.val).rillQ with
  | [] => .next (s.rillAdmit stack.val)
  | e :: rest =>
    match s.op? e.op with
    | none => .next ((s.modDev stack.val (fun x => { x with rillQ := rest })).rillAdmit stack.val)
    | some o =>
      if s.rillWaits o e then .next s
      else .next (((s.modDev stack.val (fun x => { x with rillQ := rest })).rillServe o e).rillAdmit stack.val)

end Sys2Proof.Machine
end

