-- ==== Sys2Proof/Machine/Close.lean ====
section
/-! DEFINITION. The close of a step (07 R212, R216), and the rewind of a replayed step (11 R346). -/

namespace Sys2Proof.Machine

/-- `VALID` of a privileged entry (07 R208). -/
def privValid (e : BitVec 1024) : Bool := bitN e 31

/-- `EXP` of a privileged entry. -/
def privExpOf (e : BitVec 1024) : Int := signedN 8 (fieldN e 15 8)

/-- Bits of an entry replaced. -/
def setBits {w : Nat} (x : BitVec w) (hi lo v : Nat) : BitVec w :=
  (x &&& ~~~(place w hi lo (2 ^ (hi + 1 - lo) - 1))) ||| place w hi lo v

/-- 07 R212: H, the largest finite positive value of `HIST`, or 0. -/
def privHigh (e : BitVec 1024) : Rat :=
  (List.range 16).foldl (fun h j =>
    match ofF32 (BitVec.ofNat 32 (fieldN e (32 * j + 543) (32 * j + 512))) with
    | .fin q _ => max h q
    | _ => h) 0

/-- 07 R212: push an agreed maximum into an entry. -/
def privPush (e : BitVec 1024) (a : W32) : BitVec 1024 :=
  let head := (fieldN e 23 20 + 1) % 16
  let e1 := setBits (setBits (setBits e 23 20 head) (32 * head + 543) (32 * head + 512) a.toNat) 255 224 a.toNat
  let h := privHigh e1
  if h = 0 then e1
  else
    let x := log2Ceil (h / (fmtOf (fieldN e 27 24)).maxFinite) + fieldN e 19 16
    setBits e1 15 8 (unsignedN 8 (max (-127) (min 127 x)))

/-- Write the `EXP` values of a context into its tiles' copies (07 R208). -/
def State.copyExp (s : State) (c : Nat) : State :=
  match s.ctx? c with
  | none => s
  | some x =>
    let es := x.priv.foldl (fun m e => smPutD 0 m e.1 (BitVec.ofInt 8 (privExpOf e.2))) []
    x.tiles.foldl (fun s l => s.modTileL l (fun t => { t with privExp := es })) s

/-- 07 R212: push the agreed maxima, if any, and write the mirrors. -/
def State.pushMaxima (s : State) (c : Nat) : State :=
  match s.ctx? c with
  | none => s
  | some x =>
    match x.agreed with
    | none => s
    | some vs =>
      let priv := x.priv.map (fun e => if privValid e.2 then (e.1, privPush e.2 (vs.getD e.1 0)) else e)
      let s1 := (s.modCtx c (fun x => { x with priv := priv, agreed := none })).copyExp c
      priv.foldl (fun s e =>
        let m := fieldN e.2 303 256
        if privValid e.2 ∧ m ≠ 0 then s.store c m (toBytes 128 e.2.toNat) else s) s1

/-- Step 1 of a close: a `PENDING` verdict counts as `SKIP`, and as a sequence error (07 R216). -/
def Ctx.beginClose (x : Ctx) (sig : Option Signal) : Ctx :=
  { x with
    closing := .holding sig (x.verdict == .commit)
    seqErr := if x.verdict = .pending then x.seqErr + 1 else x.seqErr }

/-- `STEP_CLOSE`: a `BARRIER` with `CLOSE` completes, and the close of the step begins; its completion sync is signalled
at the end (07 R216). -/
def execStepClose (op : Nat) (s : State) : Ans :=
  match s.op? op with
  | none => .next s
  | some o =>
    let d := CollD.of o.desc
    match o.coll with
    | none => .next s
    | some run =>
      if o.kind ≠ 3 ∨ !run.done d ∨ !d.close then .next s
      else
        let sig : Option Signal := o.sync.signal.map (fun i =>
          { ctx := o.ctx, id := i, loc := false, tile := o.tile, ch := o.ch, idx := o.idx })
        .next ((s.completeOp op false).modCtx o.ctx (fun x =>
          if x.closing = .idle then x.beginClose sig else { x with closeQ := x.closeQ ++ [sig] }))

/-- A close of this context lets a sparing begin that waits for one: its tiles lie on the source die, or no context's do
(11 R348). -/
def State.beginsAt (s : State) (c : Nat) (x : Sparing) : Bool :=
  x.atClose && !x.closeSeen && ((s.ctxsOnDie x.src).contains c || (s.ctxsOnDie x.src).isEmpty)

/-- 11 R348: the sparings that a close of a context lets begin.  Their tiles stop issuing at once, so that the next step
runs on the spare. -/
def State.closeSeenBy (s : State) (c : Nat) : State :=
  let due := s.pkg.sparings.filter (s.beginsAt c)
  let s1 := s.modPkg (fun p => { p with sparings := p.sparings.map (fun x => if s.beginsAt c x then { x with closeSeen := true } else x) })
  due.foldl (fun s x => (s.boundTo x.src x.tile).foldl (fun s l => s.modTileL l (fun t => { t with moving := true })) s) s1

/-- An access that a rill operation of a context has issued, and that reaches a banked range, is in flight (07 R216). -/
def State.rillBanked (s : State) (c : Nat) : Bool :=
  s.devices.any (fun x => x.rillQ.any (fun e => (s.op? e.op).any (fun o =>
    let d := CopyD.of o.desc
    let p := 32 * (e.acc % d.cols)
    o.ctx == c && (s.bankHeld c (d.tableAt e.idx + p) 32 || (s.rillLocal d && s.bankHeld c (d.rowAt (e.acc / d.cols) + p) 32)))))

/-- `CLOSE_FLIP`: the held close of a context takes effect: the flip or the skip, the maxima, and the release
(07 R216).  Issued rill accesses to banked ranges, and a change of binding under way, finish first. -/
def execCloseFlip (ctx : Fin 64) (s : State) : Ans :=
  let c := ctx.val
  match s.ctx? c with
  | none => .next s
  | some x =>
    match x.closing with
    | .idle => .next s
    | .holding sig commit =>
      if !s.pkg.remapHold.isEmpty ∨ s.rillBanked c then .next s
      else
        let s1 := s.modCtx c (fun x => { x with
          bankSel := if commit then !x.bankSel else x.bankSel
          stepCount := if commit then x.stepCount + 1 else x.stepCount
          skipCount := if commit then x.skipCount else x.skipCount + 1 })
        let s2 := (s1.pushMaxima c).modCtx c (fun x => { x with
          verdict := .pending
          sampled := false
          closing := .idle
          closeEpochs := (x.epochX, x.epochY, x.epochZ)
          closeStreams := x.streams })
        let s3 : State := match sig with
          | some g => { s2 with signals := s2.signals ++ [g] }
          | none => s2
        let s4 := s3.modCtx c (fun x => match x.closeQ with
          | [] => x
          | g :: gs => { x.beginClose g with closeQ := gs })
        .next (s4.closeSeenBy c)

/-- 11 R346: rewind a context to the start of the current step. -/
def State.rewind (s : State) (c : Nat) : State :=
  match s.ctx? c with
  | none => s
  | some x =>
    x.tiles.foldl (fun s l => s.modTileL l (fun t => { t with privAmax := [] }))
      (s.modCtx c (fun x => { x with
        verdict := .pending
        stepHealth := false
        sampled := false
        agreed := none
        replaying := false
        drained := []
        epochX := x.closeEpochs.1
        epochY := x.closeEpochs.2.1
        epochZ := x.closeEpochs.2.2
        streams := x.closeStreams }))

end Sys2Proof.Machine
end

