-- ==== Sys2Proof/Machine/Context.lean ====
section
/-! DEFINITION. Contexts (06 R158 to R161; 12 R373, R374; 14 R409, R410). -/

namespace Sys2Proof.Machine

/-- `CTX_CREATE`: the lowest free ID, the seed and the starting step count (06 R160). -/
def execCtxCreate (sess : Fin 64) (seq : W32) (s : State) : Ans :=
  aidar sess seq 0x0101 s (fun x r =>
    let free := (List.range 64).find? (fun c => (s.ctx? c).isNone)
    checked [s.pkgCheck r, (free.isNone, .noResource, 0)]
      (match free, x.role with
        | some c, .tenant i =>
          let y : Ctx := { owner := i, seed := BitVec.ofNat 64 (r.num 0 8), stepCount := BitVec.ofNat 64 (r.num 8 8), inDebug := Option.isSome s.sec.debug }
          .done { s with ctxs := smPut s.ctxs c y } .ok (BitVec.ofNat 3456 c) 1
        | _, _ => .refuse .denied 0))

/-- `CTX_KEY_INSTALL`: the memory key goes to the context's slot on every M-die, and the partition key is held
(14 R409). -/
def execCtxKeyInstall (sess : Fin 64) (seq : W32) (s : State) : Ans :=
  aidar sess seq 0x0603 s (fun x r =>
    let c := r.num 0 1
    checked (ctxCheck s x c ++ [badArg (!r.clean [(0, 1), (8, 98)] || r.num 8 32 == r.num 40 32 || r.num 104 2 == 0), s.pkgCheck r,
        ctxStCheck s c [.created], (((s.ctx? c).bind (·.memKey)).isSome, .stateConflict, 0x59)])
      (.done (s.modCtx c (fun y => { y with
          memKey := some (BitVec.ofNat 512 (r.num 8 64))
          partKey := some (BitVec.ofNat 16 (r.num 104 2), BitVec.ofNat 256 (r.num 72 32)) }))
        .ok ((Config.sha384 256 (r.num 72 32)).setWidth 32 |>.setWidth 3456) 4))

/-! ### The bind table (12 R374) -/

/-- A record of the bind table: its type, logical tile, index, and where its payload lies. -/
structure BindRec where
  /-- Type. -/
  typ : Nat
  /-- Logical tile, or 0xFFFF. -/
  tile : Nat
  /-- Index. -/
  idx : Nat
  /-- Offset of the payload in the table. -/
  off : Nat
  /-- Payload bytes. -/
  len : Nat
  deriving DecidableEq, Repr

/-- The type is per tile. -/
def BindRec.perTile (b : BindRec) : Bool := decide (b.typ ≤ 4) || b.typ == 7

/-- The payload length is one that the type gives. -/
def BindRec.lenOk (b : BindRec) : Bool :=
  match b.typ with
  | 1 => b.len == 4096
  | 2 => b.len == 192
  | 3 => b.len == 32
  | 4 => b.len == 4
  | 5 => b.len == 128
  | 6 => b.len == 32
  | 7 => decide (1 ≤ b.len) && decide (b.len ≤ 262144)
  | 8 => b.len == 0
  | _ => false

/-- Read the records up to `END`; none when a record is malformed or the table has no `END`. -/
def parseBind (rd : Nat → Nat → Nat) (size : Nat) (mask : Nat → Bool) : Nat → Nat → Option (List BindRec)
  | 0, _ => none
  | fuel + 1, off =>
    if size < off + 16 then none
    else
      let b : BindRec := { typ := rd off 2, tile := rd (off + 2) 2, idx := rd (off + 4) 4, off := off + 16, len := rd (off + 8) 4 }
      if !b.lenOk || decide (size < b.off + b.len) then none
      else if (if b.perTile then !(decide (b.tile < 480) && mask b.tile) else b.tile != 0xFFFF) then none
      else if b.typ = 8 then some []
      else (parseBind rd size mask fuel (roundUp (b.off + b.len) 16)).map (b :: ·)

/-- No per-tile type of a tile, and no privileged entry, repeats. -/
def bindUnique (bs : List BindRec) : Bool :=
  let keys := bs.filterMap (fun b => if b.perTile then some (b.typ, b.tile) else if b.typ = 5 then some (b.typ, b.idx) else none)
  keys.eraseDups.length == keys.length

/-- A privileged entry as the table gives it keeps the rules of 07 R208. -/
def State.privOk (s : State) (c idx : Nat) (e : BitVec 1024) : Bool :=
  let m := fieldN e 303 256
  decide (idx < 64) && (fieldN e 15 8 != 0x80) && (m % 128 == 0) && (m == 0 || s.inWindow c m 128 true)
    && (!privValid e || [0x3, 0x4, 0x5, 0x6, 0x7, 0x8, 0xB].contains (fieldN e 27 24))

/-- A privileged entry as loaded: the fields that 07 R208 names, the others 0. -/
def privLoad (e : BitVec 1024) : BitVec 1024 :=
  pack 1024 [(1023, 512, fieldN e 1023 512), (303, 256, fieldN e 303 256), (31, 31, fieldN e 31 31), (27, 24, fieldN e 27 24),
    (23, 20, fieldN e 23 20), (19, 16, fieldN e 19 16), (15, 8, fieldN e 15 8)]

/-- A bank-table entry (07 R213). -/
def bankOf (e : BitVec 256) : BankEntry :=
  { base0 := fieldN e 207 160, base1 := fieldN e 255 208, pages := fieldN e 159 128, banked := bitN e 1 }

/-- The ranges of a bank-table entry. -/
def BankEntry.ranges (e : BankEntry) : List (Nat × Nat) :=
  (e.base0, e.base0 + e.pages * bankPage) :: (if e.banked then [(e.base1, e.base1 + e.pages * bankPage)] else [])

/-- 07 R215: the bank table is acceptable. -/
def State.banksOk (s : State) (c : Nat) (es : List BankEntry) : Bool :=
  let rs := es.flatMap BankEntry.ranges
  es.all (fun e => decide (1 ≤ e.pages) && (e.base0 % bankPage == 0) && (e.base1 % bankPage == 0) && (e.banked || e.base1 == 0))
    && rs.all (fun r => s.inWindow c r.1 (r.2 - r.1) false)
    && (List.range rs.length).all (fun i => (rs.drop (i + 1)).all (fun q =>
        let p := rs.getD i (0, 0)
        decide (p.2 ≤ q.1) || decide (q.2 ≤ p.1)))

/-- What a bind table holds. -/
structure BindTable where
  /-- Its records. -/
  recs : List BindRec
  /-- Privileged entries by index. -/
  priv : SMap (BitVec 1024)
  /-- Valid entries of the bank table. -/
  bank : List BankEntry
  deriving DecidableEq, Repr

/-- Read the bind table of a `CTX_BIND`; none when it breaks a rule of 12 R374 or of a payload's home chapter. -/
def State.bindTable (s : State) (c : Nat) (r : Req) : Option BindTable :=
  let a := r.num 8 8
  let n := r.num 16 4
  let rd := fun off k => s.tierRead c (a + off) k
  if a % 16 ≠ 0 ∨ !s.inWindow c a n true then none
  else match parseBind rd n (fun l => (r.num 32 64).testBit l) (n / 16 + 1) 0 with
    | none => none
    | some bs =>
      let priv := (bs.filter (fun b => b.typ == 5)).map (fun b => (b.idx, BitVec.ofNat 1024 (rd b.off 128)))
      let bank := (bs.filter (fun b => b.typ == 6)).map (fun b => BitVec.ofNat 256 (rd b.off 32))
      let valid := (bank.filter (fun e => bitN e 0)).map bankOf
      let pcfgOk := bs.all (fun b => b.typ != 4 || decide (rd b.off 4 / 2 ^ 30 ≠ 3))
      if bindUnique bs ∧ pcfgOk ∧ priv.all (fun e => s.privOk c e.1 e.2) ∧ s.banksOk c valid then
        some { recs := bs, priv := priv.foldl (fun m e => smPutD 0 m e.1 (privLoad e.2)) [], bank := valid }
      else none

/-- A half of a millrace link entry as loaded: reserved bits are 0 (00 R14, 04 R119). -/
def mrLoad (x : Nat) : W64 := BitVec.ofNat 64 x &&& ~~~(0x0F000000001F0000#64)

/-- Write a bind-table record of a tile into it (06 R160, R192). -/
def Tile.load (t : Tile) (rd : Nat → Nat → Nat) (b : BindRec) : Tile :=
  match b.typ with
  | 1 => { t with
      mrIn := (List.range 256).foldl (fun m i => smPutD 0 m i (mrLoad (rd (b.off + 16 * i) 8))) []
      mrOut := (List.range 256).foldl (fun m i => smPutD 0 m i (mrLoad (rd (b.off + 16 * i + 8) 8))) [] }
  | 2 => { t with lsync := (List.range 48).map (fun i => rd (b.off + 4 * i) 3) }
  | 3 => { t with qcfg := (List.range 8).map (fun i => rd (b.off + 4 * i) 3) }
  | 4 => { t with selBias := rd b.off 4 / 2 ^ 30, offDelay := rd b.off 3 }
  | 7 => { t with uc := { t.uc with st := .halted, mem := (List.range b.len).foldl (fun m i => memPut m i (BitVec.ofNat 8 (rd (b.off + i) 1))) [] } }
  | _ => t

/-- A tile as a context is bound to it: `UC_STAT` and local memory clear, `QCFG` and `TILE_PCFG` take their defaults, and
its records are loaded (06 R160, R193; log 86). -/
def Tile.bind (t : Tile) (rd : Nat → Nat → Nat) (bs : List BindRec) : Tile :=
  bs.foldl (fun t b => t.load rd b) { t with
    uc := { faults := t.uc.faults, syncErr := t.uc.syncErr }, qcfg := List.replicate 8 250, selBias := 0, offDelay := 6250 }

/-- The tables of a tile, kept with its context (17 R487). -/
def Tile.tables (t : Tile) (l : Nat) : TileTables := { tile := l, lsync := t.lsync, mrOut := t.mrOut, mrIn := t.mrIn }

/-- Bind a context (06 R160; 07 R197, R208, R213; 10 R315). -/
def State.bindCtx (s : State) (c : Nat) (r : Req) (b : BindTable) : State :=
  let tiles := (List.range 480).filter (fun l => (r.num 32 64).testBit l)
  let rd := fun off k => s.tierRead c (r.num 8 8 + off) k
  let s1 := tiles.foldl (fun s l => s.modTileL l (fun t => t.bind rd (b.recs.filter (fun x => x.perTile && x.tile == l)))) s
  let s2 := s1.modCtx c (fun y => { y with
    st := .bound
    tiles := tiles
    syncSpace := some (BitVec.ofNat 32 (r.num 4 4))
    ptag := BitVec.ofNat 16 (r.num 20 2)
    priv := b.priv
    bank := b.bank
    tables := tiles.map (fun l => (s1.tileL l).tables l)
    bankSel := false
    epochX := 0
    epochY := 0
    epochZ := 0
    closeEpochs := (0, 0, 0)
    streams := []
    closeStreams := [] })
  s2.copyExp c

/-- 14 R410: another bound context holds a different key for the tag of this context's partition key. -/
def State.keyClash (s : State) (c : Nat) : Bool :=
  match (s.ctx? c).bind (·.partKey) with
  | none => false
  | some k => s.ctxs.any (fun e => e.1 != c && e.2.st != .created && (match e.2.partKey with
      | some q => q.1 == k.1 && q.2 != k.2
      | none => false))

/-- `CTX_BIND` (06 R159, R160; 12 R374; 14 R410). -/
def execCtxBind (sess : Fin 64) (seq : W32) (s : State) : Ans :=
  aidar sess seq 0x0102 s (fun x r =>
    let c := r.num 0 1
    let h : W32 := BitVec.ofNat 32 (r.num 4 4)
    let hs : List Check := match checkHandle s h [5] (roleOwns s x.role) with
      | .error st => [(true, st, 0)]
      | .ok (.sync y) => [badArg (y.ctx != c)]
      | .ok _ => [badArg true]
    let table := s.bindTable c r
    let poisoned := s.inWindow c (r.num 8 8) (r.num 16 4) true && s.tierBad c (r.num 8 8) (r.num 16 4)
    let nb := ((table.map (·.bank.length)).getD 0)
    let taken := (List.range 480).any (fun l => (r.num 32 64).testBit l && s.ctxs.any (fun e => e.1 != c && e.2.tiles.contains l))
    checked (ctxCheck s x c ++ hs ++ [badArg (!r.clean [(0, 1), (4, 18), (32, 60)] || r.num 20 2 != s.ptag)])
      (if poisoned then .done (s.noteRead c (r.num 8 8) (r.num 16 4)) .hwFault 0 0
      else checked [badArg table.isNone,
          (s.keyClash c, .denied, 0), s.pkgCheck r, ctxStCheck s c [.created],
          (((s.ctx? c).bind (·.memKey)).isNone, .stateConflict, 0x56),
          (taken || decide (4096 < nb) || decide (16384 < nb + (s.ctxs.map (fun e => e.2.bank.length)).sum), .noResource, 0)]
        (match table with
          | some b => .ok (s.bindCtx c r b)
          | none => .refuse .badArg 0)))

/-! ### Quiescing and destroying (06 R160, R161) -/

/-- Every `RUNNING` channel of a context becomes `STOPPED`, and what its channels fetched and did not issue is
discarded (06 R160, R171, R184). -/
def State.stopChans (s : State) (c : Nat) : State :=
  let run := (s.chansWhere (fun h => h.ctx == c && h.st == .running)).map (·.1)
  run.foldl (fun s h => s.setChan h (fun y => { y with st := .stopped })) (s.discard (fun o => o.ctx == c && o.isQueued))

/-- An operation of a context is in flight: issued, or complete and held for its record (06 R174). -/
def State.inFlight (s : State) (c : Nat) : Bool := s.ops.any (fun o => o.ctx == c)

/-- `CTX_QUIESCE`: fetching stops on every channel of a context; issued work completes (06 R160). -/
def execCtxQuiesce (sess : Fin 64) (seq : W32) (s : State) : Ans :=
  aidar sess seq 0x0103 s (fun x r =>
    let c := r.num 0 1
    checked (ctxCheck s x c ++ [s.pkgCheck r, ctxStCheck s c [.running]])
      (.wait ((s.stopChans c).modCtx c (fun y => { y with quiescing := true, rewindDue := true }))))

/-- Halt the utility cores of a context's tiles at an instruction boundary (06 R192). -/
def State.haltCores (s : State) (c : Nat) : State :=
  (((s.ctx? c).map (·.tiles)).getD []).foldl (fun s l =>
    s.modUc l (fun u => if u.st = .running then { u with st := .halted } else u)) s

/-- `CTX_QUIESCE_DONE`: no operation of a quiescing context is in flight, and no close of it runs: it becomes `QUIESCED`,
its utility cores halt, and in a `REPLAY` partition, or where a replay began in that mode, it rewinds to the start of the
step (06 R160, R192; 11 R341, R346). -/
def execCtxQuiesceDone (ctx : Fin 64) (s : State) : Ans :=
  let c := ctx.val
  match s.ctx? c with
  | none => .next s
  | some x =>
    if x.st ≠ .running ∨ !x.quiescing ∨ s.inFlight c ∨ x.closing ≠ .idle ∨ !x.closeQ.isEmpty then .next s
    else
      let s1 := ((s.stopChans c).haltCores c).modCtx c (fun y => { y with st := .quiesced, quiescing := false, rewindDue := false })
      let s2 := if x.rewindDue ∧ (cfgReplay s.part.partCfg ∨ x.replaying) ∧ x.ptag.toNat = s.ptag ∧ s.ptag ≠ 0 then s1.rewind c else s1
      .next (s2.resolve (fun q => q.opcode == 0x0103 && q.num 0 1 == c) .ok 0 0 0).syncActive

/-- `CTX_DESTROY`: a context enters `DESTROYING` (06 R161). -/
def execCtxDestroy (sess : Fin 64) (seq : W32) (s : State) : Ans :=
  aidar sess seq 0x0104 s (fun x r =>
    let c := r.num 0 1
    checked (ctxCheck s x c ++ [s.pkgCheck r, ctxStCheck s c [.created, .bound, .running, .quiesced]]) (.ok (s.destroyCtx c)))

/-- `CTX_CLEAR_COMPLETE`: the clearing of a context in `DESTROYING` is complete: its tiles become unbound and its ID
free, and `CTX_DESTROYED` is posted (06 R161). -/
def execCtxClearComplete (ctx : Fin 64) (s : State) : Ans :=
  match s.ctx? ctx.val with
  | none => .next s
  | some x =>
    if x.st ≠ .destroying then .next s
    else
      let s1 := s.event 0x0401 5 ctx.val (some ctx.val) 0
      .next { s1 with ctxs := smErase s1.ctxs ctx.val }

end Sys2Proof.Machine
end

