-- ==== Sys2Proof/Machine/Channel.lean ====
section
/-! DEFINITION. Channels, windows and sync spaces: CHAN_CREATE, CHAN_START, CHAN_STOP, CHAN_DESTROY and CHAN_QUERY
(06 R159, R162 to R171; 08 R225, R227, R228, R233; 10 R287; 12 R371 to R373). -/

namespace Sys2Proof.Machine

/-! ### CHAN_CREATE of a ring (06 R166, R167, R170) -/

/-- The number of ring entries is a power of two from `lo` to 65,536. -/
def ringSizeOk (lo n : Nat) : Bool := decide (lo ≤ n) && (List.range 17).any (fun k => 2 ^ k == n)

/-- The channel of a `CHAN_CREATE` body of kind 1, 2 or 3. -/
def Req.chan (r : Req) (engine : Nat) : Chan :=
  let k := r.num 0 1
  { kind := k, ctx := r.num 1 1, tile := if k = 1 then r.num 4 2 else 0x1FF, engine := engine
    stream := if k = 3 then r.num 4 2 else 0
    ring := r.num 8 8, ringN := r.num 16 4, cpl := r.num 24 8, cplN := r.num 32 4, ctrl := r.num 40 8 }

/-- Rings and control block keep the rules of 06 R167 and 10 R287. -/
def State.ringOk (s : State) (c : Chan) : Bool :=
  let e := if c.kind = 3 then 128 else 64
  ringSizeOk (if c.kind = 3 then 32 else 64) c.ringN && ringSizeOk 64 c.cplN && (c.ring % 4096 == 0) && (c.cpl % 4096 == 0)
    && (c.ctrl % 128 == 0) && s.inWindow c.ctx c.ring (c.ringN * e) true && s.inWindow c.ctx c.cpl (c.cplN * 64) true
    && s.inWindow c.ctx c.ctrl 128 true

/-- Channels whose control blocks lie in a stack (06 R170). -/
def State.watchesOn (s : State) (d : Nat) : Nat := (s.chansWhere (fun c => s.deviceAt c.ctrl == some d)).length

/-- `CHAN_CREATE` of a compute, copy or collective channel.  A copy channel with engine 0xFF has none until its first
destination tile is known (08 R233). -/
def State.createRing (s : State) (r : Req) (x : Sess) : CmdOut :=
  let k := r.num 0 1
  let own := decide (k = 2) && (r.num 4 1 == 0xFF)
  let c := r.chan (if k = 2 then r.num 4 1 else 0)
  let named := [(0, 2), (4, if k = 2 then 1 else 2), (8, 12), (24, 12), (40, 8)]
  let tiles := ((s.ctx? c.ctx).map (·.tiles)).getD []
  let target := match k with
    | 1 => tiles.contains c.tile
    | 2 => own || decide (c.engine < 20)
    | _ => (s.chansWhere (fun y => y.kind == 3 && y.ctx == c.ctx && y.stream == c.stream)).isEmpty
  let stack := (s.deviceAt c.ctrl).getD 0
  let full := (k == 1 && decide (4 ≤ (s.chansWhere (fun y => y.kind == 1 && y.tile == c.tile)).length)) || decide (1024 ≤ s.watchesOn stack)
  let new := s.newHandle (.chan c)
  checked (ctxCheck s x c.ctx ++ [badArg (!r.clean named || !s.ringOk c || !target), s.pkgCheck r,
      ctxStCheck s c.ctx [.bound, .running, .quiesced], (full || new.isNone, .noResource, 0)])
    (match new with
      | some (h, s1) => .done (s1.writeCtl h) .ok (h.setWidth 3456) 4
      | none => .refuse .noResource 0)

/-! ### CHAN_CREATE of a window (08 R225, R227) -/

/-- Bytes of a lot of a tier. -/
def lotBytes (tierS : Bool) : Nat := if tierS then 0x05000000 else 0x02800000

/-- The devices of a mask, numbered over both tiers; all of them when it is 0. -/
def devSet (tierS : Bool) (mask : Nat) : List Nat :=
  let n := if tierS then 40 else 20
  ((List.range n).filter (fun i => mask == 0 || mask.testBit i)).map (fun i => if tierS then 20 + i else i)

/-- The window of a `CHAN_CREATE` body of kind 4. -/
def Req.window (r : Req) : Window :=
  let t := r.num 4 1 == 1
  { ctx := r.num 1 1, tierS := t, base := r.num 8 8, length := r.num 16 8, remoteRx := r.num 5 1 == 1, devices := devSet t (r.num 24 5) }

/-- The attributes of a window keep the rules of 08 R227. -/
def State.windowOk (s : State) (r : Req) : Bool :=
  let w := r.window
  let lot := lotBytes w.tierS
  let lo := if w.tierS then tierSBase else 0
  let hi := if w.tierS then tierSBase + tierSSize else tierFSize
  let d := if w.tierS then 40 else 20
  decide (r.num 4 1 ≤ 1) && decide (r.num 5 1 ≤ 1) && decide (r.num 24 5 < 2 ^ d) && decide (lo ≤ w.base) && ((w.base - lo) % lot == 0)
    && decide (0 < w.length) && (w.length % lot == 0) && decide (w.base + w.length ≤ hi) && (d % max 1 w.devices.length == 0)
    && !(s.handles.live.any (fun e => match e.2 with
        | .window y => decide (y.base < w.base + w.length) && decide (w.base < y.base + y.length)
        | _ => false))

/-- The free frames of a device, lowest first. -/
def State.freeFramesOf (s : State) (d : Nat) : List Nat :=
  let x := s.dev d
  (List.range (devFrames d)).filter (fun f => !x.retired.contains f && !x.frames.any (fun e => e.1 == f))

/-- Frames that a window takes on each of its devices: D / n for each lot (08 R225). -/
def Window.framesEach (w : Window) : Nat :=
  w.length / lotBytes w.tierS * ((if w.tierS then 40 else 20) / max 1 w.devices.length)

/-- Bind free frames of each device of a window's set to it; the module takes the lowest (log 32). -/
def State.takeFrames (s : State) (h : W32) (w : Window) : State :=
  w.devices.foldl (fun s d => s.modDev d (fun x => { x with
    frames := x.frames ++ ((s.freeFramesOf d).take w.framesEach).map (fun f => (f, h)) })) s

/-- `CHAN_CREATE` of a memory window: its frames are bound, and the command completes after the zero-fill (08 R228). -/
def State.createWindow (s : State) (r : Req) (x : Sess) : CmdOut :=
  let w := r.window
  let frames := w.devices.all (fun d => decide (w.framesEach ≤ (s.freeFramesOf d).length))
  let new := s.newHandle (.window w)
  checked (ctxCheck s x w.ctx ++ [badArg (!r.clean [(0, 2), (4, 2), (8, 21)] || !s.windowOk r), s.pkgCheck r,
      ctxStCheck s w.ctx [.created, .bound, .running, .quiesced], (((s.ctx? w.ctx).bind (·.memKey)).isNone, .stateConflict, 0x56),
      (!frames || decide (1024 ≤ (s.windowsOf w.ctx).length) || new.isNone, .noResource, 0)])
    (match new with
      | some (h, s1) => .wait (s1.takeFrames h w)
      | none => .refuse .noResource 0)

/-- `WINDOW_ZERO_FILL_DONE`: every line of a new window's frames has been written with zeros: the window exists, and its
`CHAN_CREATE` completes (08 R228, 06 R159). -/
def execWindowZeroFillDone (window : W32) (s : State) : Ans :=
  match s.hobj? window with
  | some (.window w) =>
    if w.ready then .next s
    else
      let s1 : State := { s with
        tier := memClear s.tier w.base w.length
        tierPoison := s.tierPoison.filter (fun e => !(decide (w.base ≤ 64 * e.1) && decide (64 * e.1 < w.base + w.length))) }
      let s2 := s1.modObj window (fun o => match o with | .window w => .window { w with ready := true } | o => o)
      .next (s2.resolve (fun q => q.opcode == 0x0201 && q.num 0 1 == 4 && q.num 1 1 == w.ctx && q.num 8 8 == w.base) .ok 0 (window.setWidth 3456) 4)
  | _ => .next s

/-! ### CHAN_CREATE of a sync space (06 R159, R185) -/

/-- The context holds a sync space. -/
def State.holdsSync (s : State) (c : Nat) : Bool :=
  s.handles.live.any (fun e => match e.2 with | .sync y => y.ctx == c | _ => false)

/-- `CHAN_CREATE` of a sync space. -/
def State.createSync (s : State) (r : Req) (x : Sess) : CmdOut :=
  let c := r.num 1 1
  let n := r.num 16 4
  let new := s.newHandle (.sync { ctx := c, table := r.num 8 8, entries := n })
  checked (ctxCheck s x c ++ [badArg (!r.clean [(0, 2), (8, 12)] || n == 0 || decide (65536 < n) || !s.inWindow c (r.num 8 8) (8 * n) true),
      s.pkgCheck r, ctxStCheck s c [.created], (s.holdsSync c || new.isNone, .noResource, 0)])
    (match new with
      | some (h, s1) => .done s1 .ok (h.setWidth 3456) 4
      | none => .refuse .noResource 0)

/-- `CHAN_CREATE` (06 R171; 12 R371 to R373): kinds 0x6 and 0x7, and reserved kinds, are refused. -/
def execChanCreate (sess : Fin 64) (seq : W32) (s : State) : Ans :=
  aidar sess seq 0x0201 s (fun x r =>
    match r.num 0 1 with
    | 1 | 2 | 3 => s.createRing r x
    | 4 => s.createWindow r x
    | 5 => s.createSync r x
    | _ => checked (ctxCheck s x (r.num 1 1)) (.refuse .badArg 0))

/-! ### Starting and stopping (06 R171) -/

/-- Check 6 of 12 R368 for a handle of certain kinds (06 R164). -/
def handleCheck (s : State) (x : Sess) (h : W32) (kinds : List Nat) : Check :=
  match checkHandle s h kinds (roleOwns s x.role) with
  | .error st => (true, st, 0)
  | .ok _ => (false, .ok, 0)

/-- Check 8 of 12 R368 for the state of a channel. -/
def chanStCheck (s : State) (h : W32) (states : List ChSt) : Check :=
  match s.chan? h with
  | none => (false, .ok, 0)
  | some c => (!states.contains c.st, .stateConflict, 0x30 + c.st.num)

/-- The utility core of a tile starts or resumes when a compute channel of the tile starts (06 R192). -/
def State.startCore (s : State) (c : Chan) : State :=
  if c.kind = 1 then s.modUc c.tile (fun u => if u.st = .halted then { u with st := .running, started := true } else u) else s

/-- The context of a channel is quiescing, so a `CHAN_START` waits (log 33). -/
def State.quiescingOf (s : State) (h : W32) : Bool :=
  match s.chan? h with
  | none => false
  | some c => ((s.ctx? c.ctx).map (·.quiescing)).getD false

/-- Start a channel: `CONSUMER` takes the restart index when there is one, the write-watch is armed and a fetch is due
(06 R171, 12 R373). -/
def State.startChan (s : State) (h : W32) (c : Chan) (restart : Option W32) : State :=
  let i := restart.getD c.consumer
  let s1 := s.setChan h (fun y => { y with st := .running, consumer := i, nextFetch := i, doneIdx := [], fired := true })
  ((s1.startCore c).modCtx c.ctx (fun y => { y with st := .running })).syncActive

/-- `CHAN_START` (06 R171, 11 R345): refused with `ST_BUSY` during a sparing of the context. -/
def execChanStart (sess : Fin 64) (seq : W32) (s : State) : Ans :=
  .next (s.runReq sess.val seq 0x0202 (fun r => !s.quiescingOf (BitVec.ofNat 32 (r.num 0 4))) (fun x r =>
    let h : W32 := BitVec.ofNat 32 (r.num 0 4)
    let busy := ((s.chan? h).map (fun c => s.sparingOf c.ctx)).getD false
    checked [handleCheck s x h [1, 2, 3], badArg (!r.clean [(0, 5), (8, 4)] || decide (1 < r.num 4 1)), s.pkgCheck r,
        chanStCheck s h [.idle, .stopped], (busy, .busy, 0)]
      (match s.chan? h with
        | some c => .ok (s.startChan h c (if r.num 4 1 = 1 then some (BitVec.ofNat 32 (r.num 8 4)) else none))
        | none => .refuse .badArg 0)))

/-- `CHAN_STOP`: fetching stops, and what was fetched and not issued is discarded; the command completes when issued
work has.  A `FAULTED` channel becomes `STOPPED` with no other action (06 R171, R184). -/
def execChanStop (sess : Fin 64) (seq : W32) (s : State) : Ans :=
  aidar sess seq 0x0203 s (fun x r =>
    let h : W32 := BitVec.ofNat 32 (r.num 0 4)
    checked [handleCheck s x h [1, 2, 3], s.pkgCheck r, chanStCheck s h [.running, .faulted]]
      (if (s.chan? h).any (fun c => c.st == .faulted) then .ok (s.setChan h (fun y => { y with st := .stopped }))
        else .wait ((s.discard (fun o => o.ch == h && o.isQueued)).setChan h (fun y => { y with st := .stopped, stopping := true }))))

/-- `CHAN_STOP_DONE`: the last issued operation of a stopped channel has written its record (06 R171). -/
def execChanStopDone (chan : W32) (s : State) : Ans :=
  match s.chan? chan with
  | none => .next s
  | some c =>
    if !c.stopping ∨ s.ops.any (fun o => o.ch == chan) then .next s
    else .next ((s.modChan chan (fun y => { y with stopping := false })).resolve (fun q => q.opcode == 0x0203 && q.num 0 4 == chan.toNat) .ok 0 0 0)

/-! ### Destroying and querying -/

/-- Check 8 of 12 R368 for `CHAN_DESTROY` (12 R371): a ring that is `RUNNING`, a window of a `RUNNING` context, or a sync
space of a context that is not `CREATED`. -/
def State.destroyCheck (s : State) (h : W32) : Check :=
  match s.hobj? h with
  | some (.chan _) => chanStCheck s h [.idle, .stopped, .faulted]
  | some (.window w) => ctxStCheck s w.ctx [.created, .bound, .quiesced, .destroying]
  | some (.sync y) => ctxStCheck s y.ctx [.created]
  | _ => (false, .ok, 0)

/-- Check 5 of 12 R368 for `CHAN_DESTROY`, whose role depends on the kind that the handle names: a tenant for kinds 1 to
5, the operator for kind 7 (12 R371). -/
def destroyRole (x : Sess) (h : W32) : Check :=
  let wrong := match x.role with
    | .operator => decide (1 ≤ hKind h) && decide (hKind h ≤ 5)
    | .tenant _ => hKind h == 7
    | .noRole => true
  (wrong, .denied, 0)

/-- `CHAN_DESTROY`: the handle is retired, with what its object holds (06 R163, R171; 08 R228). -/
def execChanDestroy (sess : Fin 64) (seq : W32) (s : State) : Ans :=
  aidar sess seq 0x0204 s (fun x r =>
    let h : W32 := BitVec.ofNat 32 (r.num 0 4)
    checked [destroyRole x h, handleCheck s x h [1, 2, 3, 4, 5, 6, 7], s.pkgCheck r, s.destroyCheck h]
      (.ok ((s.discard (fun o => o.ch == h && o.isQueued)).retireObj h)))

/-- The `CHAN_QUERY` result body (12 R373). -/
def queryBody (h : W32) (o : HObj) : BitVec 3456 :=
  let head := [(31, 0, h.toNat), (39, 32, o.kind), (47, 40, o.ctx?.getD 0xFF)]
  match o with
  | .chan c => pack 3456 (head ++ [(55, 48, 0x30 + c.st.num), (63, 56, c.cause.num), (95, 64, c.faultIndex.toNat), (127, 96, c.consumer.toNat),
      (159, 128, c.producer.toNat), (191, 160, c.cplProducer.toNat), (223, 192, c.cplConsumer.toNat)])
  | .window w => pack 3456 (head ++ [(263, 256, b2n w.tierS), (383, 320, w.base), (447, 384, w.length)])
  | .sync _ => pack 3456 head
  | .sub u => pack 3456 (head ++ [(287, 256, u.seq.toNat), (319, 288, u.dropped)])
  | .grant g => pack 3456 (head ++ [(383, 256, g.body.toNat)])

/-- `CHAN_QUERY` (12 R373). -/
def execChanQuery (sess : Fin 64) (seq : W32) (s : State) : Ans :=
  aidar sess seq 0x0205 s (fun x r =>
    let h : W32 := BitVec.ofNat 32 (r.num 0 4)
    checked [handleCheck s x h [1, 2, 3, 4, 5, 6, 7], s.pkgCheck r]
      (match s.hobj? h with
        | some o => .done s .ok (queryBody h o) 64
        | none => .refuse .badArg 0))

end Sys2Proof.Machine
end

