-- ==== Sys2Proof/Machine/Vector.lean ====
section
/-! DEFINITION. The arithmetic of the vector engine (05 R134 to R149, R514): beats, masks, the opcode table, exceptions
and validation. -/

namespace Sys2Proof.Machine

/-- The operation reads stream B (05 R145 table). -/
def readsB (op : Nat) : Bool :=
  [0x11, 0x12, 0x13, 0x14, 0x15, 0x16, 0x17, 0x18, 0x1B, 0x30, 0x32, 0x33, 0x44].contains op

/-- The operation reads row-statistics records at `A_SCALE`. -/
def usesRecords (op : Nat) : Bool := [0x30, 0x31, 0x32, 0x33, 0x44].contains op

/-- Beat length L from the widest stream (05 R134); the mask rows of `VCMP` do not count.  `FMT_OUT` counts also where the
output is a record or an FP32 value (ROW_STATS, ROW_STATS_MERGE, ROW_DOT, AMAX), whatever it names (DESIGN CHOICE, log 89). -/
def OpD.beatLen (d : OpD) : Nat :=
  let ws := [d.fa.width] ++ (if readsB d.opcode && d.bMode != 3 then [d.fb.width] else [])
    ++ (if d.opcode = 0x1B then [] else [d.fo.width])
  let w := ws.foldl max 0
  if 16 < w then 256 else if 8 < w then 512 else 1024

/-- Mask row pitch in bytes (05 R138). -/
def maskPitch (n : Nat) : Nat := cdiv n 512 * 64

/-- Offset of the mask byte of element (m, n). -/
def OpD.maskByte (d : OpD) (m n : Nat) : Nat := d.maskOff + m * maskPitch d.n + n / 8

/-- The element is active: masking applies only when `MASK_EN` is 1 and the element's bit is 0 (05 R141). -/
def OpD.active (d : OpD) (t : Tile) (m n : Nat) : Bool :=
  !d.maskEn || (memGet t.sp (d.maskByte m n)).getLsbD (n % 8)

/-- Coordinates of the element of stream B that serves element (m, n) (05 R137 `B_MODE`). -/
def OpD.bCoord (d : OpD) (m n : Nat) : Nat × Nat :=
  match d.bMode with
  | 1 => (0, n)
  | 2 => (m, 0)
  | _ => (m, n)

/-- The mask rows lie within scratchpad (05 R140). -/
def OpD.maskFits (d : OpD) : Bool :=
  !d.maskEn || decide (d.maskOff + (d.m - 1) * maskPitch d.n + cdiv d.n 8 ≤ spSize)

/-- Offset of the record of row `m` (05 R137). -/
def OpD.recAt (d : OpD) (m : Nat) : Nat := d.aScale + 32 * m

/-- Stream A of an operation that uses `A_SCALE` for records has no scale array of its own: its formats are neither MX
nor KB8. -/
def OpD.elemA (d : OpD) (p : Param) (t : Tile) (m n : Nat) : Val := shiftV p.inExp (d.strA.read t m n)

/-- Element of stream B, or `BSCALAR`. -/
def OpD.elemB (d : OpD) (p : Param) (t : Tile) (m n : Nat) : Val :=
  if d.bMode = 3 then p.bscalar else let c := d.bCoord m n; d.strB.read t c.1 c.2

/-- Result of one element: exact value, exceptions, saturation of a function, and whether a −∞ is carried unchanged. -/
structure Elem where
  /-- Exact result. -/
  v : Val
  /-- `INVALID`. -/
  inv : Bool := false
  /-- `DIV_ZERO`. -/
  dz : Bool := false
  /-- Saturation before the output conversion (05 R143, R144). -/
  sat : Bool := false
  deriving DecidableEq, Repr

/-- From an exact result. -/
def Res.elem (r : Res) : Elem := ⟨r.v, r.inv, r.dz, false⟩

/-- A × B + C, with one product sign for zeros (05 R142). -/
def fmaV (mode : Round) (a b c : Val) : Res := (mulV a b).bind (fun p => addV mode p c)

/-- A comparison relation of `VCMP`: 0 for =, 1 for <, 2 for ≤, 3 for >, 4 for ≥, 5 for ≠. -/
def cmpV (rel : Nat) (a b : Val) : Bool :=
  if a = .nan ∨ b = .nan then rel == 5
  else
    let eq := eqV a b
    let lt := ltV a b && !eq
    match rel with
    | 0 => eq
    | 1 => lt
    | 2 => lt || eq
    | 3 => !lt && !eq
    | 4 => !lt
    | _ => !eq

/-- `VCLAMP`: a NaN element stays NaN, a NaN bound places no limit on its side. -/
def clampV (lo hi a : Val) : Val :=
  if a = .nan then .nan
  else
    let x := if lo = .nan then a else maxV a lo
    if hi = .nan then x else minV x hi

/-- A record field as a value. -/
def recV (w : W32) : Val := ofF32 w

/-- The exact result of an opcode on its inputs (05 R142, R144).  `c` is the earlier output content. -/
def vecElem (op : Nat) (p : Param) (r : RowRec) (mode : Round) (a b c : Val) : Elem :=
  match op with
  | 0x10 => ⟨a, false, false, false⟩
  | 0x11 => (addV mode a b).elem
  | 0x12 => (addV mode a (negV b)).elem
  | 0x13 => (mulV a b).elem
  | 0x14 => (fmaV mode a b c).elem
  | 0x15 =>
    let x := mulV p.alpha a
    let y := mulV p.beta b
    let z := addV mode x.v y.v
    ⟨z.v, x.inv || y.inv || z.inv, false, false⟩
  | 0x16 => ⟨maxV a b, false, false, false⟩
  | 0x17 => ⟨minV a b, false, false, false⟩
  | 0x18 => (divV a b).elem
  | 0x19 => ⟨clampV p.clampLo p.clampHi a, false, false, false⟩
  | 0x1A => (fmaV mode p.alpha a p.beta).elem
  | 0x30 => (((addV mode a (negV (recV r.mean))).bind (fun x => mulV x (recV r.rstd))).bind (fun x => mulV x b)).elem
  | 0x31 =>
    if r.allNegInf then ⟨.zero, false, false, false⟩
    else
      let x := addV mode a (negV (recV r.max))
      let e := fnEval 0x20 x.v
      let q := divV e.v (recV r.sumexp)
      ⟨q.v, x.inv || q.inv, q.dz, e.sat⟩
  | 0x32 => ((addV mode a (negV (recV r.dot))).bind (fun x => mulV b x)).elem
  | 0x33 =>
    let cnt := Val.ofRat (r.count : Rat)
    let g := if r.rms then Res.mk .zero false false else divV (recV r.gsum) cnt
    let xh := (addV mode b (negV (recV r.mean))).bind (fun x => mulV x (recV r.rstd))
    let k := (xh.bind (fun x => mulV x (recV r.dot))).bind (fun x => divV x cnt)
    let u := (g.bind (fun g => addV mode a (negV g)))
    let w := u.bind (fun u => k.bind (fun k => addV mode u (negV k)))
    (w.bind (fun w => mulV (recV r.rstd) w)).elem
  | _ =>
    let f := fnEval op a
    ⟨f.v, f.inv, f.dz, f.sat⟩

/-- The record fields that an opcode reads as operands. -/
def recInputs (op : Nat) (r : RowRec) : List Val :=
  match op with
  | 0x30 => [recV r.mean, recV r.rstd]
  | 0x31 => if r.allNegInf then [] else [recV r.max, recV r.sumexp]
  | 0x32 => [recV r.dot]
  | 0x33 => [recV r.mean, recV r.rstd, recV r.dot] ++ (if r.rms then [] else [recV r.gsum])
  | _ => []

/-- The scalar operands of an opcode. -/
def paramInputs (op : Nat) (p : Param) : List Val :=
  match op with
  | 0x15 | 0x1A => [p.alpha, p.beta]
  | _ => []

/-- 05 R147, R148: reading the inputs of an element sets `NONFINITE`; a −∞ of stream A is exempt under `NINF_OK`. -/
def readNf (ninfOk : Bool) (a : Val) (others : List Val) : Bool :=
  (!a.isFinite && !(ninfOk && a == .inf true)) || others.any (fun v => !v.isFinite)

/-- Some input is a NaN: no `INVALID` then (05 R147). -/
def anyNan (vs : List Val) : Bool := vs.any (· == .nan)

/-- Opcodes whose carried −∞ R148 exempts. -/
def carriesNinf (op : Nat) : Bool := op == 0x10 || op == 0x16 || op == 0x17 || op == 0x19

/-- A read of the mask bits of the elements `ns` of row `m` meets poison (01 R36). -/
def OpD.maskBad (d : OpD) (t : Tile) (m : Nat) (ns : List Nat) : Bool :=
  !t.spPoison.isEmpty && d.maskEn && ns.any (fun n => t.bad (d.maskByte m n) 1)

/-- A read of element (m, n) of stream A meets poison. -/
def OpD.aBad (d : OpD) (t : Tile) (m n : Nat) : Bool :=
  if usesRecords d.opcode then t.bad (d.strA.bit m n / 8) (cdiv (d.strA.bit m n % 8 + d.fa.width) 8) else d.strA.badAt t m n

/-- A read of the element of stream B that serves element (m, n) meets poison. -/
def OpD.bBad (d : OpD) (t : Tile) (m n : Nat) : Bool :=
  readsB d.opcode && d.bMode != 3 && d.strB.badAt t (d.bCoord m n).1 (d.bCoord m n).2

/-- Offsets in a record of the 32-bit fields that an opcode takes as operands (01 R36, 05 R145, R152). -/
def OpD.recFields (d : OpD) (r : RowRec) : List Nat :=
  match d.opcode with
  | 0x30 => [8, 12]
  | 0x31 => if r.allNegInf then [28] else [0, 4, 28]
  | 0x32 => [20]
  | 0x33 => [8, 12, 20, 28] ++ (if r.rms then [] else [24])
  | 0x44 => if d.sub % 2 = 1 then [8, 12] else []
  | _ => []

/-- The record of row `m` gives an operand that is poisoned. -/
def OpD.recBad (d : OpD) (t : Tile) (m : Nat) : Bool :=
  !t.spPoison.isEmpty && (d.recFields (RowRec.read t (d.recAt m))).any (fun o => t.bad (d.recAt m + o) 4)

/-- The inputs of a beat meet a poisoned word (05 R514, 01 R36). -/
def OpD.beatBad (d : OpD) (t : Tile) (m : Nat) (ns : List Nat) : Bool :=
  !t.spPoison.isEmpty &&
    (d.maskBad t m ns || d.recBad t m
      || (d.outScaling { seed := 0, step := 0, ctx := 0, exp := 0 } == .given && ns.any (fun n => t.bad (d.strOut.scaleAt m n) 1))
      || ns.any (fun n => d.active t m n &&
        (d.aBad t m n || d.bBad t m n || (d.opcode == 0x14 && d.strOut.badAt t m n))))

/-- Stream A read without a scale array, for the operations that keep records there. -/
def OpD.readA (d : OpD) (p : Param) (t : Tile) (m n : Nat) : Val :=
  if usesRecords d.opcode then shiftV p.inExp (decode d.fa (memReadBits t.sp (d.strA.bit m n) d.fa.width))
  else d.elemA p t m n

/-- What one beat did. -/
structure BeatRes where
  segs : List BitSeg
  ev : Ev
  amax : Rat
  deriving DecidableEq, Repr

/-- The elements of a beat that are computed: (column, element, read sets `NONFINITE`). -/
def OpD.beatElems (d : OpD) (ic : IssueCtx) (p : Param) (t : Tile) (m : Nat) (ns : List Nat) :
    List (Nat × Elem × Bool) :=
  let r := RowRec.read t (d.recAt m)
  (ns.filter (d.active t m)).map (fun n =>
    let a := d.readA p t m n
    let b := if readsB d.opcode then d.elemB p t m n else .zero
    let c := if d.opcode = 0x14 then d.strOut.read t m n else .zero
    let e := vecElem d.opcode p r (d.roundAt ic m n) a b c
    let others := (if readsB d.opcode then [b] else []) ++ (if d.opcode = 0x14 then [c] else [])
      ++ (if usesRecords d.opcode then recInputs d.opcode r else []) ++ paramInputs d.opcode p
    (n, { e with v := shiftV p.outExp e.v, inv := e.inv && !anyNan (a :: others) }, readNf d.ninfOk a others))

/-- One beat of a vector operation: columns `ns` of row `m` (05 R134, R141 to R148).  A masked element of a KB8 block whose
unit byte is 0xFF is written 0x80 and counted as the block's other elements are (02 R60 over 05 R141: DESIGN CHOICE,
log 89). -/
def OpD.beat (d : OpD) (ic : IssueCtx) (p : Param) (t : Tile) (m : Nat) (ns : List Nat) : BeatRes :=
  let es := d.beatElems ic p t m ns
  let masked := ns.filter (fun n => !d.active t m n)
  let zeros := if d.maskMerge then [] else masked
  if d.opcode = 0x1B then
    let seg := fun (n : Nat) (v : Bool) => BitSeg.mk (8 * (d.outBase + m * d.outStride) + n) 1 (b2n v)
    { segs := es.map (fun e => seg e.1 (cmpV d.sub (d.readA p t m e.1) (d.elemB p t m e.1))) ++ zeros.map (fun n => seg n false)
      ev := { nf := b2n (es.any (·.2.2)) }, amax := 0 }
  else
    let vals := es.map (fun e => (e.1, e.2.1.v))
    let w := writeRow t d.strOut (d.outScaling ic) (d.roundAt ic m) m (vals ++ zeros.map (fun n => (n, Val.zero)))
    let exempt := d.ninfOk && carriesNinf d.opcode
      && es.all (fun e => e.2.1.v.isFinite || (e.2.1.v == .inf true && d.fo.hasInf))
    let nf := es.any (·.2.2) || (w.nf && !exempt)
    { segs := w.segs
      ev := { sat := b2n (w.sat || es.any (·.2.1.sat)), nf := max (b2n nf) w.nfElems
              inv := b2n (es.any (·.2.1.inv)), dz := b2n (es.any (·.2.1.dz)) }
      amax := if d.privScale then privMax vals else 0 }

/-- Beats of an operation: (row, columns), in order (05 R134). -/
def OpD.beats (d : OpD) : List (Nat × List Nat) :=
  let l := d.beatLen
  (List.range d.m).flatMap (fun m => (List.range (cdiv d.n l)).map (fun b =>
    (m, (List.range l).filterMap (fun j => if b * l + j < d.n then some (b * l + j) else none))))

/-- Progress of a streaming operation: `left` counts the beats that may still be written after a trapped saturation. -/
structure VRun where
  tile : Tile
  ev : Ev := {}
  cause : Cause := .none
  left : Option Nat := none
  amax : Rat := 0
  deriving DecidableEq, Repr

/-- One beat of a run. -/
def VRun.step (d : OpD) (ic : IssueCtx) (p : Param) (extra : Nat) (r : VRun) (b : Nat × List Nat) : VRun :=
  if r.cause = .poison ∨ r.left = some 0 then r
  else if d.beatBad r.tile b.1 b.2 then { r with cause := if r.cause = .none then .poison else r.cause, left := some 0 }
  else
    let x := d.beat ic p r.tile b.1 b.2
    let t := r.tile.writeBits x.segs
    let trap := d.satTrap && decide (x.ev.sat ≠ 0) && r.left.isNone
    { tile := if d.privScale then t.raiseAmax d.privIdx x.amax else t
      ev := r.ev.add x.ev
      cause := if trap then .satTrapped else r.cause
      left := if trap then some extra else r.left.map (· - 1)
      amax := max r.amax x.amax }

/-- Run a vector operation (05 R139, R142, R514).  How many beats are still written after a trapped saturation is a
free number (log 16). -/
def OpD.vecRun (d : OpD) (ic : IssueCtx) (draw : Nat) (t : Tile) : RunRes :=
  if d.paramEn && t.bad d.paramOff 64 then { tile := t, cause := .poison }
  else
    let r := d.beats.foldl (VRun.step d ic (d.param t) (Config.freeNat draw)) { tile := t }
    { tile := r.tile, ev := r.ev, cause := r.cause, drawn := 1 }

/-! ### Validation (05 R140) -/

/-- Formats that an opcode's output may take are those the vector engine writes: every format of 02 R52.  A stream A whose
`A_SCALE` holds records has no scale array, so that it takes no MX format or KB8 (DEDUCED, log 89). -/
def OpD.vectorOk (d : OpD) : Bool :=
  let op := d.opcode
  let isFmt := (Fmt.ofCode d.fmtA).isSome && (Fmt.ofCode d.fmtOut).isSome && (Fmt.ofCode d.fmtB).isSome
  let rowsB := if d.bMode = 1 then 1 else d.m
  let colsB := if d.bMode = 2 then 1 else d.n
  let bIn := readsB op && d.bMode != 3
  isFmt && d.paramPad == 0
    && [d.aBase, d.bBase, d.outBase].all (fun b => b % 64 == 0)
    && d.maskFits
    && (!d.paramEn || decide (d.paramOff + 64 ≤ spSize))
    && (if usesRecords op then
          decide (d.aBase + (d.m - 1) * d.aStride + d.fa.rowBytes d.n ≤ spSize) && !d.fa.scaled
            && decide (d.aScale + 32 * d.m ≤ spSize)
        else d.strA.fits d.m d.n && d.strA.scaleOk)
    && (!bIn || (d.strB.fits rowsB colsB && d.strB.scaleOk))
    && (d.bScale == 0 || (bIn && d.fb.scaled)) && (readsB op || d.bMode == 0)
    && (if op = 0x1B then
          d.fmtOut == 0 && decide (d.sub ≤ 5) && decide (maskPitch d.n ≤ d.outStride)
            && decide (d.outBase + (d.m - 1) * d.outStride + cdiv d.n 8 ≤ spSize) && d.outScale == 0
        else d.strOut.fits d.m d.n && d.strOut.scaleOk)
    && !(d.maskMerge && d.fo.scaled) && (!d.privScale || d.fo.privOk)
    && !(op == 0x18 && d.fa.isInt && (d.bMode == 3 || d.fb.isInt) && d.fo.isInt)

end Sys2Proof.Machine
end

