-- ==== Sys2Proof/Machine/Eddy.lean ====
section
/-! DEFINITION. The arithmetic of the eddy: top-k (04 R126 to R131), row statistics, sums and maxima
(05 R151 to R154). -/

namespace Sys2Proof.Machine

/-! ### Top-k -/

/-- A candidate: value and index. -/
structure Cand where
  v : Val
  idx : Nat
  deriving DecidableEq, Repr

/-- 04 R127: `a` ranks above `b`. -/
def Cand.above (a b : Cand) : Bool :=
  match a.v, b.v with
  | .nan, .nan => decide (a.idx < b.idx)
  | .nan, _ => true
  | _, .nan => false
  | x, y => if eqV x y then decide (a.idx < b.idx) else ltV y x

/-- Insert a candidate in rank order. -/
def insertCand (c : Cand) : List Cand → List Cand
  | [] => [c]
  | d :: ds => if c.above d then c :: d :: ds else d :: insertCand c ds

/-- The first `k` of the candidates in rank order. -/
def topCands (k : Nat) (cs : List Cand) : List Cand := (cs.foldl (fun l c => insertCand c l) []).take k

/-- The 128 bytes of a top-k record (04 R128). -/
def topkBytes (cs : List Cand) : List Byte :=
  let vs := (List.range 16).map (fun i => match cs[i]? with
    | some c => (convert .fp32 .rne c.v).code | none => 0xFF800000)
  let is := (List.range 16).map (fun i => match cs[i]? with | some c => c.idx | none => 0xFFFFFFFF)
  (vs ++ is).flatMap (toBytes 4)

/-- The candidates of a record (04 R128): an empty entry has index 0xFFFF_FFFF and value 0xFF80_0000. -/
def topkRead (t : Tile) (a : Nat) : List Cand :=
  (List.range 16).filterMap (fun i =>
    let v := memReadN t.sp (a + 4 * i) 4
    let x := memReadN t.sp (a + 64 + 4 * i) 4
    if x = 0xFFFFFFFF ∧ v = 0xFF800000 then none else some ⟨decodeFloat .fp32 v, x⟩)

/-- One read of an operation that works by rows: whether it meets a poisoned word that it takes as an operand, and whether
it takes a non-finite value. -/
structure RowRead where
  /-- The read meets poison (01 R36). -/
  bad : Bool
  /-- The read sets `NONFINITE` (05 R147, R148). -/
  nf : Bool
  deriving DecidableEq, Repr

/-- The reads of a list that set `NONFINITE` before one meets poison, if one does (05 R147, R514). -/
def readNfs (rs : List RowRead) : Nat := ((rs.takeWhile (fun r => !r.bad)).filter (·.nf)).length

/-- Progress of an operation that works row by row. -/
structure RRun where
  tile : Tile
  ev : Ev := {}
  cause : Cause := .none
  left : Option Nat := none
  deriving DecidableEq, Repr

/-- Outcome of a run by rows. -/
def RRun.res (r : RRun) (drawn : Nat) : RunRes := { tile := r.tile, ev := r.ev, cause := r.cause, drawn := drawn }

/-- One row of a run by rows: skipped after a stop; stopped by poison, with the non-finite values read before it counted
(05 R514). -/
def RRun.row (reads : Tile → Nat → List RowRead) (f : RRun → Nat → RRun) (r : RRun) (m : Nat) : RRun :=
  if r.cause = .poison ∨ r.left = some 0 then r
  else if (reads r.tile m).any (·.bad) then
    { r with
      ev := r.ev.add { nf := readNfs (reads r.tile m) }
      cause := if r.cause = .none then .poison else r.cause
      left := some 0 }
  else f r m

/-- The reads of one row by `TOPK`: a beat of 128 elements each (04 R127, log 18). -/
def OpD.topkReads (d : OpD) (t : Tile) (m : Nat) : List RowRead :=
  (chunksOf 128 d.n (List.range d.n)).map (fun ns =>
    ⟨ns.any (fun n => d.strA.badAt t m n), ns.any (fun n => !(d.strA.read t m n).isFinite)⟩)

/-- `TOPK`: one record per row; a NaN written sets `NONFINITE`, and so does a non-finite element read (04 R127, R128;
05 R147).  The flag counts once per read, and once for the record. -/
def OpD.topkRow (d : OpD) (r : RRun) (m : Nat) : RRun :=
  let top := topCands (d.kM1 % 16 + 1) ((List.range d.n).map (fun n => ⟨d.strA.read r.tile m n, d.elemCol0 + n⟩))
  { r with
    tile := r.tile.writeBytes (d.outBase + m * d.outStride) (topkBytes top)
    ev := r.ev.add { nf := readNfs (d.topkReads r.tile m) + b2n (top.any (fun c => c.v == .nan)) } }

/-- The reads of one row by `TOPK_MERGE`: eight records each (log 18). -/
def OpD.topkMergeReads (d : OpD) (t : Tile) (m : Nat) : List RowRead :=
  let a := d.aBase + m * d.aStride
  (chunksOf 8 d.n (List.range d.n)).map (fun ps =>
    ⟨ps.any (fun p => t.bad (a + 128 * p) 128), ps.any (fun p => (topkRead t (a + 128 * p)).any (fun c => !c.v.isFinite))⟩)

/-- `TOPK_MERGE`: the top k of the union of P records (04 R126). -/
def OpD.topkMergeRow (d : OpD) (r : RRun) (m : Nat) : RRun :=
  let cs := (List.range d.n).flatMap (fun p => topkRead r.tile (d.aBase + m * d.aStride + 128 * p))
  let top := topCands (d.kM1 % 16 + 1) cs
  { r with
    tile := r.tile.writeBytes (d.outBase + m * d.outStride) (topkBytes top)
    ev := r.ev.add { nf := readNfs (d.topkMergeReads r.tile m) + b2n (top.any (fun c => c.v == .nan)) } }

/-- Run `TOPK` or `TOPK_MERGE`. -/
def OpD.topkRun (d : OpD) (t : Tile) : RunRes :=
  ((List.range d.m).foldl (if d.opcode = 0x40 then RRun.row d.topkReads d.topkRow else RRun.row d.topkMergeReads d.topkMergeRow)
    { tile := t }).res 0

/-- 04 R129: the fields that a top-k operation may use. -/
def OpD.topkOk (d : OpD) : Bool :=
  let merge := d.opcode == 0x41
  (if merge then d.fmtA == 0 && decide (d.n ≤ 64) && d.elemCol0 == 0
      && decide (d.aBase + (d.m - 1) * d.aStride + 128 * d.n ≤ spSize)
    else [0, 1, 2, 3, 4].contains d.fmtA && d.strA.fits d.m d.n)
    && decide (d.kM1 ≤ 15) && decide (128 ≤ d.outStride)
    && decide (d.outBase + (d.m - 1) * d.outStride + 128 ≤ spSize)
    && d.aBase % 64 == 0 && d.outBase % 64 == 0
    && d.fmtB == 0 && d.fmtOut == 0 && d.accInit == 0 && d.accOut == 0 && d.bBase == 0 && d.bStride == 0
    && d.aScale == 0 && d.bScale == 0 && d.outScale == 0 && !d.privScale && !d.satTrap && d.vctl == 0

/-! ### Sums in fixed order (05 R151) -/

/-- A running value of the eddy: finite sums keep a 48-bit significand. -/
def eddyAdd (a b : Val) : Res :=
  let r := addV .rne a b
  { r with v := match r.v with | .fin q nz => .fin (round48 q) nz | o => o }

/-- Pairs of a list added. -/
def pairUp : List Val → List Val × Bool
  | a :: b :: t => let r := eddyAdd a b; let p := pairUp t; (r.v :: p.1, r.inv || p.2)
  | l => (l, false)

/-- The fixed pairwise tree over the lanes of a beat. -/
def treeSum : Nat → List Val → Val × Bool
  | 0, l => (l.headD .zero, false)
  | f + 1, l =>
    match l with
    | [] => (.zero, false)
    | [a] => (a, false)
    | l => let p := pairUp l; let r := treeSum f p.1; (r.1, p.2 || r.2)

/-- A list padded with +0 to `l` lanes: lanes at or beyond N add nothing. -/
def padLanes (l : Nat) (vs : List Val) : List Val := vs ++ List.replicate (l - vs.length) .zero

/-- The sum of a row in the internal format, before its rounding: trees of the beats of `l` terms, added in ascending beat
order (05 R151), with the exceptions of the terms and of the additions.  The running sum starts at +0, so that a row of −0
sums to +0 (DESIGN CHOICE, log 89). -/
def eddyAcc (l : Nat) (ts : List Res) : Res :=
  let r := (chunksOf l ts.length (ts.map (·.v))).foldl (fun a b =>
    let t := treeSum 12 (padLanes l b)
    let x := eddyAdd a.1 t.1
    (x.v, a.2 || t.2 || x.inv)) (Val.zero, false)
  { v := r.1, inv := r.2 || ts.any (·.inv), dz := ts.any (·.dz) }

/-- A result multiplied by 2^`e` (05 R139 `OUT_EXP`) and rounded once to FP32 under mode 0 (05 R143, R151). -/
def Res.once (e : Int) (r : Res) : FnRes :=
  let c := convert .fp32 .rne (shiftV e r.v)
  { v := decodeFloat .fp32 c.code, inv := r.inv, dz := r.dz, sat := c.sat }

/-- The value of a function as a term. -/
def FnRes.res (f : FnRes) : Res := ⟨f.v, f.inv, f.dz⟩

/-- FP32 pattern of a value that is already an FP32 value. -/
def f32 (v : Val) : W32 := toF32 .rne v

/-- The counted elements of row `m`: those that are active (05 R152 `COUNT`). -/
def OpD.counted (d : OpD) (p : Param) (t : Tile) (m : Nat) : List (Nat × Val) :=
  ((List.range d.n).filter (d.active t m)).map (fun n => (n, d.readA p t m n))

/-- The terms that a row's elements give, laid in their lanes; masked lanes add +0. -/
def OpD.lanes (d : OpD) (p : Param) (t : Tile) (m : Nat) (f : Nat → Val → Res) : List Res :=
  (List.range d.n).map (fun n => if d.active t m n then f n (d.readA p t m n) else ⟨.zero, false, false⟩)

/-- Exact difference. -/
def subR (a b : Val) : Res := addV .rne a (negV b)

/-- The square of a difference, as a term of `M2`. -/
def sqDiff (a b : Val) : Res := (subR a b).bind (fun x => mulV x x)

/-- `RSTD`: the FP32 reciprocal of √(M2 / COUNT + EPS) under R144. -/
def rstdOf (m2 cnt eps : Val) : FnRes :=
  let x := (divV m2 cnt).bind (fun q => addV .rne q eps)
  let f := fnEval 0x22 x.v
  { f with inv := f.inv || x.inv, dz := f.dz || x.dz }

/-- The FP32 results that a row-statistics record takes (05 R152); a field that is not selected is +0 without exceptions. -/
structure RecRes where
  /-- `MAX`. -/
  max : FnRes := ⟨.zero, false, false, false⟩
  /-- `SUMEXP`. -/
  sumexp : FnRes := ⟨.zero, false, false, false⟩
  /-- `MEAN`. -/
  mean : FnRes := ⟨.zero, false, false, false⟩
  /-- `M2`. -/
  m2 : FnRes := ⟨.zero, false, false, false⟩
  /-- `RSTD`. -/
  rstd : FnRes := ⟨.zero, false, false, false⟩
  /-- `DOT`. -/
  dot : FnRes := ⟨.zero, false, false, false⟩
  /-- `GSUM`. -/
  gsum : FnRes := ⟨.zero, false, false, false⟩
  deriving DecidableEq, Repr

/-- The results other than `MAX`. -/
def RecRes.sums (r : RecRes) : List FnRes := [r.sumexp, r.mean, r.m2, r.rstd, r.dot, r.gsum]

/-- The record of the results. -/
def RecRes.row (r : RecRes) (count : Nat) (rms nf allNeg : Bool) : RowRec :=
  { count := count, rms := rms, nf := nf, allNegInf := allNeg
    gsum := f32 r.gsum.v, dot := f32 r.dot.v, m2 := f32 r.m2.v, rstd := f32 r.rstd.v, mean := f32 r.mean.v
    sumexp := f32 r.sumexp.v, max := f32 r.max.v }

/-- The events of writing the record (05 R147, R148): one of each kind at most, and `INVALID` only where no input is a NaN. -/
def RecRes.ev (r : RecRes) (ninfOk nan : Bool) : Ev :=
  { sat := b2n ((r.max :: r.sums).any (·.sat))
    nf := b2n ((!r.max.v.isFinite && !(ninfOk && r.max.v == .inf true)) || r.sums.any (fun f => !f.v.isFinite))
    inv := b2n (!nan && (r.max :: r.sums).any (·.inv))
    dz := b2n ((r.max :: r.sums).any (·.dz)) }

/-- Results of one row's statistics. -/
structure RowStat where
  row : RowRec
  ev : Ev
  deriving DecidableEq, Repr

/-- The options that `SUB` selects (05 `ROW_STATS`): 0 soft maximum, 1 layer normalisation, 2 RMS, 3 both 0 and 1. -/
def subSoft (sub : Nat) : Bool := sub == 0 || sub == 3
/-- `MEAN`, `M2` and `RSTD` are selected. -/
def subNorm (sub : Nat) : Bool := sub == 1 || sub == 3
/-- `M2` and `RSTD` are selected. -/
def subM2 (sub : Nat) : Bool := subNorm sub || sub == 2

/-- The FP32 results from the terms of a row: `MAX`, the sums of the other fields in the internal format, and COUNT.
`MEAN` and the `M2` from which `RSTD` is formed are rounded once from their exact or internal values; every field written is
the result multiplied by 2^`OUT_EXP` and rounded once (05 R139, R152, R154; log 83). -/
def recResults (sub : Nat) (outExp : Int) (eps cnt mx : Val) (se : Res) (mean : Res) (m2 : Val → Res) : RecRes :=
  let m2r := m2 (if sub == 2 then Val.zero else (mean.once 0).v)
  { max := if subSoft sub then (Res.mk mx false false).once outExp else {v := .zero}
    sumexp := if subSoft sub then se.once outExp else {v := .zero}
    mean := if subNorm sub then mean.once outExp else {v := .zero}
    m2 := if subM2 sub then m2r.once outExp else {v := .zero}
    rstd := if subM2 sub then
        let f := rstdOf (m2r.once 0).v cnt eps
        { f.res.once outExp with sat := f.sat || (f.res.once outExp).sat }
      else {v := .zero} }

/-- One record of `ROW_STATS` (05 R152). -/
def OpD.rowStat (d : OpD) (p : Param) (t : Tile) (m : Nat) : RowStat :=
  let cs := (d.counted p t m).map (·.2)
  let cnt := Val.ofRat (cs.length : Rat)
  let allNeg := cs.all (· == .inf true)
  let mx := if allNeg then Val.inf true else cs.foldl maxV (cs.headD .zero)
  let sum := fun (f : Val → Res) => eddyAcc d.beatLen (d.lanes p t m (fun _ a => f a))
  let se := if allNeg then ⟨.zero, false, false⟩ else sum (fun a => (subR a mx).bind (fun x => (fnEval 0x20 x).res))
  let mean := (sum (fun a => ⟨a, false, false⟩)).bind (fun s => divV s cnt)
  let rr := recResults d.sub p.outExp p.eps cnt mx se mean (fun mu => sum (fun a => sqDiff a mu))
  { row := rr.row cs.length (d.sub == 2) (cs.any (fun v => !v.isFinite)) allNeg
    ev := rr.ev d.ninfOk (anyNan cs) }

/-- The beats of a row of N elements. -/
def OpD.rowBeats (d : OpD) : List (List Nat) := chunksOf d.beatLen d.n (List.range d.n)

/-- The reads of stream A, and of its mask, for row `m`, beat by beat (log 18). -/
def OpD.readsOfA (d : OpD) (p : Param) (t : Tile) (m : Nat) : List RowRead :=
  d.rowBeats.map (fun ns => ⟨d.maskBad t m ns || ns.any (fun n => d.active t m n && d.aBad t m n),
    ns.any (fun n => d.active t m n && readNf d.ninfOk (d.readA p t m n) [])⟩)

/-- Write a record at an offset, with its events; an early stop leaves later rows unwritten. -/
def RRun.put (d : OpD) (extra : Nat) (r : RRun) (a : Nat) (bs : List Byte) (e : Ev) : RRun :=
  let trap := d.satTrap && decide (e.sat ≠ 0) && r.left.isNone
  { tile := r.tile.writeBytes a bs
    ev := r.ev.add e
    cause := if trap then .satTrapped else r.cause
    left := if trap then some extra else r.left.map (· - 1) }

/-- Run `ROW_STATS`: one record a row at `OUT_BASE`, at the pitch of 32 bytes of R152 (log 82).  The two passes each read
the row (log 18). -/
def OpD.rowStatsRun (d : OpD) (draw : Nat) (t : Tile) : RunRes :=
  if d.paramEn && t.bad d.paramOff 64 then { tile := t, cause := .poison }
  else
    let p := d.param t
    ((List.range d.m).foldl (RRun.row (d.readsOfA p) (fun r m =>
      let x := d.rowStat p r.tile m
      r.put d (Config.freeNat draw) (d.outBase + 32 * m) x.row.bytes
        (x.ev.add { nf := 2 * readNfs (d.readsOfA p r.tile m) }))) { tile := t }).res 1

/-- The fields of a record that a merge combines under `SUB` (05 R154): `DOT` and `GSUM`, and those selected.  `RSTD` is
formed anew. -/
def RowRec.merged (sub : Nat) (r : RowRec) : List Val :=
  ([r.dot, r.gsum] ++ (if subSoft sub then [r.max, r.sumexp] else []) ++ (if subNorm sub then [r.mean] else [])
    ++ (if subM2 sub then [r.m2] else [])).map recV

/-- Offsets in a record of the 32-bit fields that a merge takes: also `COUNT` and the flags. -/
def mergedAt (sub : Nat) : List Nat :=
  [20, 24, 28] ++ (if subSoft sub then [0, 4] else []) ++ (if subNorm sub then [8] else []) ++ (if subM2 sub then [16] else [])

/-- Combine the records of one row (05 R154), in record order: the eddy takes one record a cycle (05 R153), so each record
is a beat of R151 and the sums run from record to record (log 82). -/
def mergeRecs (sub : Nat) (outExp : Int) (eps : Val) (ninfOk : Bool) (rs : List RowRec) : RowStat :=
  let count : Nat := (rs.foldl (fun (a : Nat) r => a + r.count) 0) % 2 ^ 24
  let cnt := Val.ofRat (count : Rat)
  let allNeg := rs.all (·.allNegInf)
  let mx := (rs.map (fun r => recV r.max)).foldl maxV (.inf true)
  let sum := fun (f : RowRec → Res) => eddyAcc 1 (rs.map f)
  let scaled := fun (r : RowRec) => mulV (Val.ofRat (r.count : Rat))
  let se := if allNeg then ⟨.zero, false, false⟩ else sum (fun r =>
    (if r.allNegInf then ⟨.zero, false, false⟩ else (subR (recV r.max) mx).bind (fun x => (fnEval 0x20 x).res)).bind
      (fun e => mulV (recV r.sumexp) e))
  let mean := (sum (fun r => scaled r (recV r.mean))).bind (fun s => divV s cnt)
  let m2 := fun mu => sum (fun r =>
    (if sub == 2 then ⟨.zero, false, false⟩ else (sqDiff (recV r.mean) mu).bind (scaled r)).bind (fun x => addV .rne (recV r.m2) x))
  let rr := { recResults sub outExp eps cnt mx se mean m2 with
    dot := (sum (fun r => ⟨recV r.dot, false, false⟩)).once outExp
    gsum := (sum (fun r => ⟨recV r.gsum, false, false⟩)).once outExp }
  { row := rr.row count (sub == 2) (rs.any (·.nf)) allNeg
    ev := rr.ev ninfOk (anyNan (rs.flatMap (RowRec.merged sub))) }

/-- The reads of one row's records by a merge, one record each (log 18). -/
def OpD.mergeReads (d : OpD) (t : Tile) (m : Nat) : List RowRead :=
  (List.range d.n).map (fun i =>
    let a := d.aBase + m * d.aStride + 32 * i
    ⟨(mergedAt d.sub).any (fun o => t.bad (a + o) 4),
      ((RowRec.read t a).merged d.sub).any (fun v => readNf d.ninfOk v [])⟩)

/-- Run `ROW_STATS_MERGE`: `N_M1` holds P − 1.  `MASK_EN` masks elements (m, n) of a stream, and records are none: it has no
effect here (DESIGN CHOICE, log 89). -/
def OpD.rowStatsMergeRun (d : OpD) (draw : Nat) (t : Tile) : RunRes :=
  if d.paramEn && t.bad d.paramOff 64 then { tile := t, cause := .poison }
  else
    let p := d.param t
    ((List.range d.m).foldl (RRun.row d.mergeReads (fun r m =>
      let rs := (List.range d.n).map (fun i => RowRec.read r.tile (d.aBase + m * d.aStride + 32 * i))
      let x := mergeRecs d.sub p.outExp p.eps d.ninfOk rs
      r.put d (Config.freeNat draw) (d.outBase + 32 * m) x.row.bytes (x.ev.add { nf := readNfs (d.mergeReads r.tile m) })))
      { tile := t }).res 1

/-- B of one element of `ROW_DOT`: normalised through the record's `MEAN` and `RSTD` when `SUB`[0] is 1. -/
def OpD.dotB (d : OpD) (p : Param) (t : Tile) (r : RowRec) (m n : Nat) : Res :=
  let b := d.elemB p t m n
  if d.sub % 2 = 1 then (subR b (recV r.mean)).bind (fun x => mulV x (recV r.rstd)) else ⟨b, false, false⟩

/-- The record fields that `ROW_DOT` takes as operands. -/
def OpD.dotFields (d : OpD) (r : RowRec) : List Val := if d.sub % 2 = 1 then [recV r.mean, recV r.rstd] else []

/-- The reads of one row by `ROW_DOT`: its record where it is taken, then a beat of A and a beat of B in turn, since both
share the port EP (05 R153, log 18). -/
def OpD.dotReads (d : OpD) (p : Param) (t : Tile) (m : Nat) : List RowRead :=
  let r := RowRec.read t (d.recAt m)
  let beatsB := d.rowBeats.map (fun ns => RowRead.mk (ns.any (fun n => d.active t m n && d.bBad t m n))
    (ns.any (fun n => d.active t m n && !(d.elemB p t m n).isFinite)))
  ⟨d.recBad t m, (d.dotFields r).any (fun v => !v.isFinite)⟩
    :: ((d.readsOfA p t m).zip beatsB).flatMap (fun x => [x.1, x.2])

/-- One row of `ROW_DOT`: `DOT` = Σ A × B and `GSUM` = Σ A, in the record at `A_SCALE`. -/
def OpD.rowDotRow (d : OpD) (p : Param) (t : Tile) (m : Nat) : RowStat :=
  let r := RowRec.read t (d.recAt m)
  let rr : RecRes :=
    { dot := (eddyAcc d.beatLen (d.lanes p t m (fun n a => (d.dotB p t r m n).bind (fun b => mulV a b)))).once p.outExp
      gsum := (eddyAcc d.beatLen (d.lanes p t m (fun _ a => ⟨a, false, false⟩))).once p.outExp }
  let nan := (List.range d.n).any (fun n => d.active t m n && anyNan [d.readA p t m n, d.elemB p t m n])
    || anyNan (d.dotFields r)
  { row := { r with dot := f32 rr.dot.v, gsum := f32 rr.gsum.v }, ev := rr.ev d.ninfOk nan }

/-- Run `ROW_DOT`: it rewrites only `DOT` and `GSUM` of each record. -/
def OpD.rowDotRun (d : OpD) (draw : Nat) (t : Tile) : RunRes :=
  if d.paramEn && t.bad d.paramOff 64 then { tile := t, cause := .poison }
  else
    let p := d.param t
    ((List.range d.m).foldl (RRun.row (d.dotReads p) (fun r m =>
      let x := d.rowDotRow p r.tile m
      r.put d (Config.freeNat draw) (d.recAt m + 20) (toBytes 4 x.row.dot.toNat ++ toBytes 4 x.row.gsum.toNat)
        (x.ev.add { nf := readNfs (d.dotReads p r.tile m) }))) { tile := t }).res 1

/-- Output (n) of `COL_SUM`: the column added in ascending row order, from C when `SUB`[0] is 1; multiplied by
2^`OUT_EXP` (05 R139), rounded once to FP32 and then converted when the output is not FP32. -/
def OpD.colSumAt (d : OpD) (p : Param) (t : Tile) (n : Nat) : FnRes :=
  let c0 := if d.sub % 2 = 1 then d.strOut.read t 0 n else .zero
  let rows := (List.range d.m).filter (fun m => d.active t m n)
  let r := rows.foldl (fun (a : Res) m => a.bind (fun x => eddyAdd x (d.readA p t m n))) ⟨c0, false, false⟩
  let o := r.once p.outExp
  { o with inv := o.inv && !anyNan (c0 :: rows.map (fun m => d.readA p t m n)) }

/-- The reads of `COL_SUM` and `AMAX` in order: the beats of C where the sum starts from it, then those of A row by row. -/
def OpD.allReads (d : OpD) (p : Param) (t : Tile) : List RowRead :=
  (if d.opcode = 0x45 ∧ d.sub % 2 = 1 then d.rowBeats.map (fun ns =>
      RowRead.mk (ns.any (fun n => d.strOut.badAt t 0 n)) (ns.any (fun n => !(d.strOut.read t 0 n).isFinite)))
    else []) ++ (List.range d.m).flatMap (d.readsOfA p t)

/-- Run `COL_SUM`.  A masked element adds nothing to its column. -/
def OpD.colSumRun (d : OpD) (ic : IssueCtx) (t : Tile) : RunRes :=
  if d.paramEn && t.bad d.paramOff 64 then { tile := t, cause := .poison }
  else
    let p := d.param t
    let rd := d.allReads p t
    if rd.any (·.bad) then { tile := t, ev := { nf := readNfs rd }, cause := .poison }
    else
      let vs := (List.range d.n).map (fun n => (n, d.colSumAt p t n))
      let outs := vs.map (fun e => (e.1, e.2.v))
      let w := writeRow t d.strOut (d.outScaling ic) (d.roundAt ic 0) 0 outs
      let t1 := t.writeBits w.segs
      let sat := w.sat || vs.any (·.2.sat)
      { tile := if d.privScale then t1.raiseAmax d.privIdx (privMax outs) else t1
        ev := { sat := b2n sat, nf := readNfs rd + max (b2n w.nf) w.nfElems, inv := b2n (vs.any (·.2.inv)) }
        cause := if d.satTrap && sat then .satTrapped else .none }

/-- Run `AMAX`: the FP32 value max |A| over all elements, times 2^`OUT_EXP` (05 R139), NaN if any element is NaN. -/
def OpD.amaxRun (d : OpD) (t : Tile) : RunRes :=
  if d.paramEn && t.bad d.paramOff 64 then { tile := t, cause := .poison }
  else
    let p := d.param t
    let rd := d.allReads p t
    if rd.any (·.bad) then { tile := t, ev := { nf := readNfs rd }, cause := .poison }
    else
      let vs := (List.range d.m).flatMap (fun m => (d.counted p t m).map (·.2))
      let o := (Res.mk (vs.foldl (fun a v => maxV a (absV v)) .zero) false false).once p.outExp
      { tile := t.writeBytes d.outBase (toBytes 4 (f32 o.v).toNat)
        ev := { sat := b2n o.sat, nf := readNfs rd + b2n (!o.v.isFinite) }
        cause := if d.satTrap && o.sat then .satTrapped else .none }

/-- Validation of the eddy opcodes other than top-k (05 R140, R152; 02 R59).  R52 names the eddy for FP32 alone, while
R134 to R137 give its streams every format and scale: every code of R52 is taken for the streams of ROW_STATS, ROW_DOT,
COL_SUM and AMAX (DESIGN CHOICE, log 89).  The records and the value that 0x42, 0x43, 0x44 and 0x46 write are FP32, so
`PRIV_SCALE` is refused there. -/
def OpD.eddyOk (d : OpD) : Bool :=
  let op := d.opcode
  let base := d.paramPad == 0 && [d.aBase, d.bBase, d.outBase].all (fun b => b % 64 == 0)
    && (Fmt.ofCode d.fmtA).isSome && (Fmt.ofCode d.fmtOut).isSome && (Fmt.ofCode d.fmtB).isSome
    && (!d.paramEn || decide (d.paramOff + 64 ≤ spSize)) && d.maskFits
    && !(d.maskMerge && d.fo.scaled) && (!d.privScale || (op == 0x45 && d.fo.privOk)) && (readsB op || d.bMode == 0)
  let aOk := d.strA.fits d.m d.n && d.strA.scaleOk
  let noB := d.bScale == 0
  match op with
  | 0x42 => base && aOk && noB && d.outScale == 0 && decide (d.sub ≤ 3)
      && decide (d.outBase + 32 * d.m ≤ spSize)
  | 0x43 => base && noB && d.aScale == 0 && d.outScale == 0 && decide (d.n ≤ 64) && decide (d.sub ≤ 3)
      && decide (d.aBase + (d.m - 1) * d.aStride + 32 * d.n ≤ spSize)
      && decide (d.outBase + 32 * d.m ≤ spSize)
  | 0x44 => base && !d.fa.scaled && decide (d.aBase + (d.m - 1) * d.aStride + d.fa.rowBytes d.n ≤ spSize)
      && decide (d.aScale + 32 * d.m ≤ spSize) && d.outScale == 0
      && (if d.bMode = 3 then noB
        else d.strB.fits (if d.bMode = 1 then 1 else d.m) (if d.bMode = 2 then 1 else d.n) && d.strB.scaleOk)
  | 0x45 => base && aOk && noB && d.strOut.fits 1 d.n && d.strOut.scaleOk
  | _ => base && aOk && noB && d.outScale == 0 && decide (d.outBase + 4 ≤ spSize)

end Sys2Proof.Machine
end

