-- ==== Sys2Proof/Machine/Sluice.lean ====
section
/-! DEFINITION. The sluice (05 R155 to R157): gathering and spreading rows by index lists, and building expert lists. -/

namespace Sys2Proof.Machine

/-- Bytes of one list entry by index format (05 R155). -/
def listEntry : Nat → Nat
  | 1 => 2
  | 2 => 4
  | _ => 8

/-- Index format of `COMPRESS` and `EXPAND`: `SUB`[1:0]. -/
def OpD.idxFmt (d : OpD) : Nat := d.sub % 4

/-- Row number of list entry `j`. -/
def OpD.listRow (d : OpD) (t : Tile) (j : Nat) : Nat :=
  let e := listEntry d.idxFmt
  memReadN t.sp (d.bBase + e * j) (min e 4)

/-- Weight of list entry `j` of a `ROW32W` list. -/
def OpD.listWeight (d : OpD) (t : Tile) (j : Nat) : Val := decodeFloat .fp32 (memReadN t.sp (d.bBase + 8 * j + 4) 4)

/-- Bit mask of `BITS` lists, at `B_BASE` and `B_STRIDE`. -/
def OpD.listBit (d : OpD) (t : Tile) (m n : Nat) : Bool := (memGet t.sp (d.bBase + m * d.bStride + n / 8)).getLsbD (n % 8)

/-- Copy the bits of one element from a stream to another of the same width. -/
def copyElem (t : Tile) (src dst : Stream) (m n m' n' : Nat) : BitSeg :=
  ⟨dst.bit m' n', dst.fmt.width, memReadBits t.sp (src.bit m n) src.fmt.width⟩

/-- The scale bytes of a whole row, moved with it. -/
def copyScales (t : Tile) (src dst : Stream) (n m m' : Nat) : List BitSeg :=
  if src.fmt.scaled then (List.range (cdiv n 32)).map (fun i =>
    ⟨8 * (dst.scale + m' * dst.pitch + i), 8, (memGet t.sp (src.scale + m * src.pitch + i)).toNat⟩)
  else []

/-- The elements `ns` of row `m` of A moved to row `m'` of the output, each to the column paired with it.  Bits keep their
format and value (05 R157); under `PRIV_SCALE` each value is written at the privileged scale (07 R209). -/
def OpD.moveElems (d : OpD) (ic : IssueCtx) (t : Tile) (m m' : Nat) (ns : List (Nat × Nat)) : Written :=
  if d.privScale then
    writeRow t d.strOut (d.outScaling ic) (d.roundAt ic m') m' (ns.map (fun e => (e.2, d.strA.read t m e.1)))
  else { segs := ns.map (fun e => copyElem t d.strA d.strOut m e.1 m' e.2) }

/-- A whole row moved from row `m` of A to row `m'` of the output, with its scales. -/
def OpD.moveRow (d : OpD) (ic : IssueCtx) (t : Tile) (m m' : Nat) : Written :=
  let w := d.moveElems ic t m m' ((List.range d.n).map (fun n => (n, n)))
  if d.privScale then w else { w with segs := w.segs ++ copyScales t d.strA d.strOut d.n m m' }

/-- Write what a move of the elements `ns` of row `m` of A gives, with the flags of its conversion, its trap (04 R114), and
`PRIV_AMAX` raised under `PRIV_SCALE` (07 R210). -/
def OpD.putMove (d : OpD) (r : RRun) (m : Nat) (ns : List Nat) (w : Written) (nf : Nat) : RRun :=
  let t := r.tile.writeBits w.segs
  { r with
    tile := if d.privScale then t.raiseAmax d.privIdx (privMax (ns.map (fun n => (n, d.strA.read r.tile m n)))) else t
    ev := r.ev.add { sat := b2n w.sat, nf := nf + max (b2n w.nf) w.nfElems }
    cause := if d.satTrap && w.sat then .satTrapped else r.cause }

/-- The 512-byte piece of its row in which an element begins: the sluice moves one piece a cycle (05 R155). -/
def pieceOf (f : Fmt) (n : Nat) : Nat := n * f.width / 4096

/-- Cycles in which the sluice reads a non-finite element among the given ones of row `m` of A (04 R112, 05 R148). -/
def OpD.rowNf (d : OpD) (t : Tile) (m : Nat) (ns : List Nat) : Nat :=
  (((ns.filter (fun n => readNf d.ninfOk (d.strA.read t m n) [])).map (pieceOf d.fa)).eraseDups).length

/-- Rows that fit a range of scratchpad at a pitch, from a base. -/
def rowsThatFit (base stride rowBytes : Nat) : Nat :=
  if spSize < base + rowBytes then 0 else if stride = 0 then 1 else (spSize - base - rowBytes) / stride + 1

/-- Rows of the side that an index list names (05 R157): the input side of `COMPRESS`, the output side of `EXPAND`.
The descriptor gives no count of its own for that side, so it is the number of rows that fit the 8 MiB of scratchpad
from the side's base at its pitch, with their scales where the format has them (log 19). -/
def Stream.sideRows (x : Stream) (cols : Nat) : Nat :=
  let rows := rowsThatFit x.base x.stride (x.fmt.rowBytes cols)
  if x.fmt.scaled then min rows (rowsThatFit x.scale x.pitch (cdiv cols 32)) else rows

/-- Row `m` of A is poisoned. -/
def OpD.aRowBad (d : OpD) (t : Tile) (m : Nat) : Bool :=
  !t.spPoison.isEmpty && (List.range d.n).any (fun n => d.strA.badAt t m n)

/-- Entry `j` of a `COMPRESS` with a row list. -/
def OpD.compressEntry (d : OpD) (ic : IssueCtx) (r : RRun) (j : Nat) : RRun :=
  let e := listEntry d.idxFmt
  let idx := d.listRow r.tile j
  if r.cause ≠ .none then r
  else if r.tile.bad (d.bBase + e * j) e then { r with cause := .poison }
  else if d.strA.sideRows d.n ≤ idx then { r with cause := .sluiceRange }
  else if d.aRowBad r.tile idx then { r with cause := .poison }
  else d.putMove r idx (List.range d.n) (d.moveRow ic r.tile idx j) (d.rowNf r.tile idx (List.range d.n))

/-- Row `m` of a `COMPRESS` with a bit mask: active elements from the start of the output row, and their count.  An
element that is not active is no operand (01 R36). -/
def OpD.compressBits (d : OpD) (ic : IssueCtx) (r : RRun) (m : Nat) : RRun :=
  let act := (List.range d.n).filter (d.listBit r.tile m)
  if r.cause ≠ .none then r
  else if r.tile.bad (d.bBase + m * d.bStride) (cdiv d.n 8) || act.any (fun n => d.strA.badAt r.tile m n) then
    { r with cause := .poison }
  else
    let w := d.moveElems ic r.tile m m act.zipIdx
    d.putMove r m act { w with segs := w.segs ++ [⟨8 * (d.outScale + 4 * m), 32, act.length⟩] } (d.rowNf r.tile m act)

/-- Run `COMPRESS`.  Its bit list or row list is its only mask: `MASK_EN` has no effect on the sluice (DESIGN CHOICE,
log 89). -/
def OpD.compressRun (d : OpD) (ic : IssueCtx) (t : Tile) : RunRes :=
  if d.paramEn && t.bad d.paramOff 64 then { tile := t, cause := .poison }
  else ((List.range d.m).foldl (if d.idxFmt = 0 then d.compressBits ic else d.compressEntry ic) { tile := t }).res 0

/-- `WSUM` of the elements `ns` of one row, one piece of the output: C + w × row, each element rounded once, with the
exponents of the parameter block (05 R139, R142, R155). -/
def OpD.wsumPiece (d : OpD) (ic : IssueCtx) (p : Param) (t : Tile) (j idx : Nat) (ns : List Nat) : Written × Ev :=
  let w := d.listWeight t j
  let a := fun n => shiftV p.inExp (d.strA.read t j n)
  let c := fun n => d.strOut.read t idx n
  let es := ns.map (fun n => (n, fmaV (d.roundAt ic idx n) w (a n) (c n)))
  let out := writeRow t d.strOut .derive (d.roundAt ic idx) idx (es.map (fun e => (e.1, shiftV p.outExp e.2.v)))
  (out, { sat := b2n out.sat
          nf := b2n (out.nf || ns.any (fun n => readNf d.ninfOk (a n) [w, c n]))
          inv := b2n (es.any (fun e => e.2.inv && !anyNan [w, a e.1, c e.1])) })

/-- `WSUM` of one row, piece by piece (05 R155, R157). -/
def OpD.wsumRow (d : OpD) (ic : IssueCtx) (p : Param) (t : Tile) (j idx : Nat) : Written × Ev :=
  (List.range (pieceOf d.fo (d.n - 1) + 1)).foldl (fun x i =>
    let y := d.wsumPiece ic p t j idx ((List.range d.n).filter (fun n => pieceOf d.fo n == i))
    (x.1.join y.1, x.2.add y.2)) ({}, {})

/-- Entry `j` of an `EXPAND` with a row list. -/
def OpD.expandEntry (d : OpD) (ic : IssueCtx) (p : Param) (r : RRun) (j : Nat) : RRun :=
  let e := listEntry d.idxFmt
  let idx := d.listRow r.tile j
  let wsum := decide (4 ≤ d.sub)
  if r.cause ≠ .none then r
  else if r.tile.bad (d.bBase + e * j) e then { r with cause := .poison }
  else if d.strOut.sideRows d.n ≤ idx then { r with cause := .sluiceRange }
  else if d.aRowBad r.tile j || (wsum && (List.range d.n).any (fun n => d.strOut.badAt r.tile idx n)) then
    { r with cause := .poison }
  else if wsum then
    let w := d.wsumRow ic p r.tile j idx
    { r with
      tile := r.tile.writeBits w.1.segs
      ev := r.ev.add w.2
      cause := if d.satTrap && w.1.sat then .satTrapped else r.cause }
  else d.putMove r j (List.range d.n) (d.moveRow ic r.tile j idx) (d.rowNf r.tile j (List.range d.n))

/-- Row `m` of an `EXPAND` with a bit mask: packed elements go to the active positions, and the other positions follow
05 R141. -/
def OpD.expandBits (d : OpD) (ic : IssueCtx) (r : RRun) (m : Nat) : RRun :=
  let act := (List.range d.n).filter (d.listBit r.tile m)
  let idle := (List.range d.n).filter (fun n => !d.listBit r.tile m n)
  if r.cause ≠ .none then r
  else if r.tile.bad (d.bBase + m * d.bStride) (cdiv d.n 8)
      || (List.range act.length).any (fun k => d.strA.badAt r.tile m k) then { r with cause := .poison }
  else
    let w := d.moveElems ic r.tile m m (act.zipIdx.map (fun e => (e.2, e.1)))
    let zeros := if d.maskMerge then [] else idle.map (fun n => BitSeg.mk (d.strOut.bit m n) d.fo.width 0)
    d.putMove r m (List.range act.length) { w with segs := w.segs ++ zeros } (d.rowNf r.tile m (List.range act.length))

/-- Run `EXPAND`. -/
def OpD.expandRun (d : OpD) (ic : IssueCtx) (t : Tile) : RunRes :=
  if d.paramEn && t.bad d.paramOff 64 then { tile := t, cause := .poison }
  else ((List.range d.m).foldl (if d.idxFmt = 0 then d.expandBits ic else d.expandEntry ic (d.param t)) { tile := t }).res 0

/-- Progress of `ROUTE_BUILD`: entries per list (all that named it), and entries outside the range. -/
structure Routes where
  tile : Tile
  counts : SMap Nat := []
  outside : Nat := 0
  /-- Groups of 16 entries, read in one cycle each (05 R155), that held a non-finite value; the last one is first. -/
  nfs : List Nat := []
  poison : Bool := false
  deriving DecidableEq, Repr

/-- Write the bytes that lie within scratchpad: the lists of `ROUTE_BUILD` take their length from the parameter block,
which validation does not read (log 19). -/
def Tile.writeIn (t : Tile) (a : Nat) (bs : List Byte) : Tile := t.writeBytes a (bs.take (spSize - a))

/-- One entry of one token's record (05 R156). -/
def OpD.routeEntry (d : OpD) (p : Param) (m : Nat) (r : Routes) (k : Nat) : Routes :=
  let a := d.aBase + m * d.aStride
  let v := memReadN r.tile.sp (a + 4 * k) 4
  let i := memReadN r.tile.sp (a + 64 + 4 * k) 4
  let g := (m * d.n + k) / 16
  let nfs := if readNf d.ninfOk (decodeFloat .fp32 v) [] && !r.nfs.contains g then g :: r.nfs else r.nfs
  if p.expert0 ≤ i ∧ i < p.expert0 + p.experts then
    let e := i - p.expert0
    let c := smGet 0 r.counts e
    { r with
      tile := if c < p.capacity then
          r.tile.writeIn (d.outBase + e * d.outStride + 8 * c) (toBytes 4 m ++ toBytes 4 v)
        else r.tile
      counts := smPut r.counts e (c + 1)
      nfs := nfs }
  else { r with outside := r.outside + 1, nfs := nfs }

/-- One token: the values and indices of its k entries are the operands (01 R36). -/
def OpD.routeToken (d : OpD) (p : Param) (r : Routes) (m : Nat) : Routes :=
  let k := min d.n 16
  let a := d.aBase + m * d.aStride
  if r.poison then r
  else if r.tile.bad a (4 * k) || r.tile.bad (a + 64) (4 * k) then { r with poison := true }
  else (List.range k).foldl (d.routeEntry p m) r

/-- Run `ROUTE_BUILD`: the lists, and at `OUT_SCALE` a count for each list and one for the rest. -/
def OpD.routeRun (d : OpD) (t : Tile) : RunRes :=
  if d.paramEn && t.bad d.paramOff 64 then { tile := t, cause := .poison }
  else
    let p := d.param t
    let r := (List.range d.m).foldl (d.routeToken p) { tile := t }
    if r.poison then { tile := r.tile, ev := { nf := r.nfs.length }, cause := .poison }
    else
      { tile := r.tile.writeIn d.outScale
          ((List.range p.experts).flatMap (fun e => toBytes 4 (smGet 0 r.counts e)) ++ toBytes 4 r.outside)
        ev := { nf := r.nfs.length } }

/-- Validation of the sluice opcodes (05 R140, R155; 02 R59): what the descriptor alone shows.  R52 names no format for the
sluice, and every code is taken; a BITS list with an MX format or KB8, whose scales its rows could not keep, is refused
(DESIGN CHOICE, log 89).  The lists that 0x52 writes are in no format, so `PRIV_SCALE` is refused there. -/
def OpD.sluiceOk (d : OpD) : Bool :=
  let base := d.paramPad == 0 && [d.aBase, d.bBase, d.outBase].all (fun b => b % 64 == 0)
    && (Fmt.ofCode d.fmtA).isSome && (Fmt.ofCode d.fmtOut).isSome && (Fmt.ofCode d.fmtB).isSome
    && (!d.paramEn || decide (d.paramOff + 64 ≤ spSize)) && d.bMode == 0 && d.bScale == 0 && d.maskFits
    && !(d.maskMerge && d.fo.scaled) && (!d.privScale || (d.opcode != 0x52 && d.fo.privOk))
  let bits := d.idxFmt == 0
  let listOk := if bits then decide (d.bBase + (d.m - 1) * d.bStride + cdiv d.n 8 ≤ spSize)
    else decide (d.bBase + listEntry d.idxFmt * d.m ≤ spSize)
  match d.opcode with
  | 0x50 => base && decide (d.sub ≤ 3) && listOk && d.fmtA == d.fmtOut && d.strA.scaleOk
      && (if bits then d.strA.fits d.m d.n && !d.fa.scaled && decide (d.outScale + 4 * d.m ≤ spSize)
          else d.strA.fits 1 d.n && d.strOut.scaleOk && d.strOut.fits d.m d.n)
      && decide (d.outBase + (d.m - 1) * d.outStride + d.fo.rowBytes d.n ≤ spSize)
  | 0x51 => base && (decide (d.sub ≤ 3) || d.sub == 7) && listOk
      && (if d.sub = 7 then d.fmtOut == 0 || d.fmtOut == 1 else d.fmtA == d.fmtOut)
      && (!bits || !d.fa.scaled) && d.strA.scaleOk && d.strOut.scaleOk
      && d.strA.fits d.m d.n && d.strOut.fits (if bits then d.m else 1) d.n
  | _ => base && decide (d.n ≤ 16) && decide (d.aBase + (d.m - 1) * d.aStride + 128 ≤ spSize) && d.aScale == 0

end Sys2Proof.Machine
end

