-- ==== Sys2Proof/Machine/Sched.lean ====
section
/-! DEFINITION. The scoreboard and issue of tile operations (06 R177 to R183, 07 R200, R217), their completion
(06 R173), drains (04 R115 to R117) and the millrace (04 R118 to R124); one meaning for each tile opcode. -/

namespace Sys2Proof.Machine

/-! ### Footprints (06 R177) -/

/-- A byte range of scratchpad: first byte, end, and whether the operation writes it. -/
structure Span where
  /-- First byte. -/
  lo : Nat
  /-- End. -/
  hi : Nat
  /-- The operation writes it. -/
  w : Bool
  deriving DecidableEq, Repr

/-- The range of rows of a given length, rounded outward to 64 bytes. -/
def rowSpan (base stride rows len : Nat) (w : Bool) : List Span :=
  [⟨base / 64 * 64, roundUp (base + (rows - 1) * stride + len) 64, w⟩]

/-- The ranges of a stream: its rows, and its scale rows where its format has them. -/
def Stream.spans (x : Stream) (rows cols : Nat) (w : Bool) : List Span :=
  rowSpan x.base x.stride rows (x.fmt.rowBytes cols) w
    ++ (if x.fmt.scaled then rowSpan x.scale x.pitch rows (cdiv cols 32) w else [])

/-- From an offset to the end of scratchpad: rows that an index list chooses, and lists and counts whose length a parameter
block gives (log 19). -/
def openSpan (base : Nat) (w : Bool) : List Span := [⟨base / 64 * 64, spSize, w⟩]

/-- The ranges that an operation reads and writes. -/
def OpD.spans (d : OpD) : List Span :=
  let param := if d.paramEn then rowSpan d.paramOff 0 1 64 false else []
  let mask := if d.maskEn then rowSpan d.maskOff (maskPitch d.n) d.m (cdiv d.n 8) false else []
  let strB := if readsB d.opcode && d.bMode != 3 then
    d.strB.spans (if d.bMode = 1 then 1 else d.m) (if d.bMode = 2 then 1 else d.n) false else []
  match d.opcode with
  | 0x01 => (d.matA (d.kM1 + 1)).spans d.m (d.kM1 + 1) false ++ (d.matB (d.kM1 + 1)).spans d.n (d.kM1 + 1) false
      ++ (if d.accOut = 1 then d.strOut.spans d.m d.n true else [])
  | 0x02 => (d.matA d.n).spans d.m d.n false ++ (d.matB d.n).spans d.m d.n false
      ++ (if d.accOut = 1 then d.strOut.spans d.m d.n true else [])
  | 0x40 => d.strA.spans d.m d.n false ++ rowSpan d.outBase d.outStride d.m 128 true
  | 0x41 => rowSpan d.aBase d.aStride d.m (128 * d.n) false ++ rowSpan d.outBase d.outStride d.m 128 true
  | 0x42 => d.strA.spans d.m d.n false ++ mask ++ param ++ rowSpan d.outBase 32 d.m 32 true
  | 0x43 => rowSpan d.aBase d.aStride d.m (32 * d.n) false ++ param ++ rowSpan d.outBase 32 d.m 32 true
  | 0x44 => d.strA.spans d.m d.n false ++ strB ++ mask ++ param ++ rowSpan d.aScale 32 d.m 32 true
  | 0x45 => d.strA.spans d.m d.n false ++ mask ++ param ++ d.strOut.spans 1 d.n true
  | 0x46 => d.strA.spans d.m d.n false ++ mask ++ param ++ rowSpan d.outBase 0 1 4 true
  | 0x50 => (if d.idxFmt = 0 then d.strA.spans d.m d.n false ++ rowSpan d.bBase d.bStride d.m (cdiv d.n 8) false
        ++ rowSpan d.outScale 4 d.m 4 true
      else openSpan d.aBase false ++ rowSpan d.bBase 0 1 (listEntry d.idxFmt * d.m) false)
      ++ param ++ d.strOut.spans d.m d.n true
  | 0x51 => d.strA.spans d.m d.n false
      ++ (if d.idxFmt = 0 then rowSpan d.bBase d.bStride d.m (cdiv d.n 8) false ++ d.strOut.spans d.m d.n true
          else rowSpan d.bBase 0 1 (listEntry d.idxFmt * d.m) false ++ openSpan d.outBase true) ++ param
  | 0x52 => rowSpan d.aBase d.aStride d.m 128 false ++ openSpan d.outBase true ++ openSpan d.outScale true ++ param
  | op => d.strA.spans d.m d.n false ++ strB ++ mask ++ param
      ++ (if usesRecords op then rowSpan d.aScale 32 d.m 32 false else [])
      ++ (if op = 0x1B then rowSpan d.outBase d.outStride d.m (cdiv d.n 8) true else d.strOut.spans d.m d.n true)

/-- Two ranges conflict. -/
def Span.hits (a b : Span) : Bool := (a.w || b.w) && decide (a.lo < b.hi) && decide (b.lo < a.hi)

/-- Two operations conflict: ranges of scratchpad, or accumulator regions, which matrix operations write (06 R177). -/
def OpD.conflicts (a b : OpD) : Bool :=
  a.spans.any (fun x => b.spans.any x.hits)
    || (decide (a.opcode ≤ 2) && decide (b.opcode ≤ 2) && decide (a.accRow < b.accRow + b.regionRows)
      && decide (b.accRow < a.accRow + a.regionRows))

/-- 06 R178: an operation fetched earlier on the tile conflicts and is incomplete. -/
def State.hazard (s : State) (o : Op) : Bool :=
  s.ops.any (fun x => x.kind == 1 && x.tile == o.tile && decide (x.id < o.id) && x.incomplete
    && (OpD.of x.desc).conflicts (OpD.of o.desc))

/-! ### Issue (06 R180 to R183) -/

/-- An issued operation still holds the engine: the array, while a part waits for millrace rows (04 R123). -/
def State.engineBusy (s : State) (o : Op) : Bool :=
  s.ops.any (fun x => x.kind == 1 && x.tile == o.tile && x.phase == .issued && engineOf x.opcode == engineOf o.opcode)

/-- The die of a physical tile runs. -/
def State.dieRuns (s : State) (p : Nat) : Bool :=
  let d := s.die (p / 8)
  d.cstate == .enabled && !d.trip && !d.routerFailed && !s.pkg.outOfService

/-- What an operation reads of its context when it issues (07 R217), and how far its millrace rows let it go. -/
def State.issueCtx (s : State) (o : Op) : IssueCtx :=
  { seed := ((s.ctx? o.ctx).map (·.seed)).getD 0, step := o.stepAt, ctx := o.ctx, exp := o.expAt
    rowIssues := o.rowIssues, landed := o.landed, granted := o.granted }

/-- Run an issued operation to the end of its arithmetic, or as far as its millrace rows have landed.  A send that an early
stop finds without a grant does not start: the rows it held are not sent (04 R114, R513). -/
def State.runOp (s : State) (o : Op) (run : OpD → IssueCtx → Nat → Tile → RunRes) : State :=
  let d := OpD.of o.desc
  let p := s.phys o.tile
  let r := run d (s.issueCtx o) s.draw (s.tileP p)
  let rows := (if r.cause ≠ .none ∧ d.accOut = 2 ∧ !o.granted then [] else o.rowsDue) ++ r.rows
  let s1 := ((s.modTileP p (fun _ => r.tile)).use r.drawn).opEvents o p r.ev
  s1.modOp o.id (fun x => { x with
    cause := r.cause
    rowsDue := rows
    rowIssues := r.issued
    phase := if r.waits then .issued else if rows.isEmpty ∧ x.rowsSent.isEmpty then .finished else .running })

/-! ### The millrace (04 R118 to R124) -/

/-- `PEER_TILE` of a link-table half. -/
def mrTile (h : W64) : Nat := fieldN h 37 29
/-- `PEER_ENTRY`. -/
def mrEntry (h : W64) : Nat := fieldN h 28 21
/-- `FMT`. -/
def mrFmt (h : W64) : Nat := fieldN h 61 60
/-- `CTX`. -/
def mrCtx (h : W64) : Nat := fieldN h 43 38
/-- `VALID`. -/
def mrValid (h : W64) : Bool := bitN h 63
/-- `REMOTE`. -/
def mrRemote (h : W64) : Bool := bitN h 62
/-- Peer coordinates. -/
def mrXyz (h : W64) : BitVec 12 := BitVec.ofNat 12 (fieldN h 55 44)

/-- `BODY` or low `META` of a millrace packet (log 21). -/
def mrBits (m : MrMsg) : Nat :=
  let row := match m.kind with | .row r _ => r | .ack r => r | .reject r _ => r | .grant => 0
  (pack 64 [(8, 0, m.tile), (16, 9, m.entry), (18, 17, m.fmt), (27, 19, m.fromTile), (35, 28, m.fromEntry), (47, 36, row),
    (48, 48, match m.kind with | .reject _ _ => 1 | _ => 0), (49, 49, match m.kind with | .reject _ out => b2n out | _ => 0)]).toNat

/-- Send a millrace message: across the panel, or as a torus packet to the peer module (04 R124). -/
def State.sendMr (s : State) (slot : Nat) (peer : Option (BitVec 12)) (m : MrMsg) : State :=
  match peer with
  | none => { s with mrMsgs := s.mrMsgs ++ [m] }
  | some c =>
    match m.kind with
    | .row _ data => s.sendData m.ctx 0x20 slot c 0 0 (BitVec.ofNat 184 (mrBits m)) (flitsOf (toBytes 512 data.toNat))
    | .grant => s.sendCtl m.ctx 0x21 slot c (BitVec.ofNat 256 (mrBits m))
    | _ => s.sendCtl m.ctx 0x22 slot c (BitVec.ofNat 256 (mrBits m))

/-- A millrace message of an operation from one of its sides. -/
def Op.mrMsg (o : Op) (half : W64) (kind : MrKind) : MrMsg :=
  { kind := kind, ctx := o.ctx, tile := mrTile half, entry := mrEntry half, fmt := mrFmt half, fromTile := o.tile,
    fromEntry := (OpD.of o.desc).link, peer := none }

/-- Where a half sends: none is this module. -/
def mrTo (half : W64) : Option (BitVec 12) := if mrRemote half then some (mrXyz half) else none

/-- Count a completed hand-off on a side of a link entry (04 R119). -/
def State.countHandoff (s : State) (l e : Nat) (out : Bool) : State :=
  let up := fun (m : SMap W64) => smMod m e (fun h => setFieldN h (fieldN h 15 0 + 1))
  s.modTileL l (fun t => if out then { t with mrOut := up t.mrOut } else { t with mrIn := up t.mrIn })
where
  /-- Replace `HANDOFFS`. -/
  setFieldN (h : W64) (v : Nat) : W64 := (h &&& ~~~(0xFFFF#64)) ||| BitVec.ofNat 64 (v % 65536)

/-- Issue the head of a queue: it holds its engine; a part that receives sends its grant first (04 R121). -/
def State.issueHead (s : State) (o : Op) (run : OpD → IssueCtx → Nat → Tile → RunRes) : State :=
  let d := OpD.of o.desc
  let t := s.tileL o.tile
  let f := fun (x : Op) => { x with
    phase := OpPhase.issued
    ableAt := none
    issueAt := s.now
    stepAt := ((s.ctx? o.ctx).map (·.stepCount)).getD 0
    expAt := (smGet 0 t.privExp d.privIdx).toInt }
  let s1 := s.leave o f
  if d.opcode ≤ 2 ∧ d.accInit = 2 then
    let half := smGet 0 t.mrIn d.link
    s1.sendMr (hSlot o.ch) (mrTo half) (o.mrMsg half .grant)
  else s1.runOp (f o) run

/-- An operation completes without running (06 R183). -/
def State.skipHead (s : State) (o : Op) (frozen : Bool) : State :=
  s.leave o (fun x => { x with phase := .finished, frozen := frozen, skipped := !frozen })

/-! ### The choice of a head (06 R180 to R183, 07 R200) -/

/-- The verdict of the context that a logical tile is bound to. -/
def State.verdictOn (s : State) (l : Nat) : Verdict := (((s.ctxOfTile l).bind s.ctx?).map (·.verdict)).getD .pending

/-- A head completes without running: `FROZEN`, or `GUARD` under `SKIP` (06 R183, 07 R200). -/
def State.headSkips (s : State) (o : Op) : Bool :=
  let d := OpD.of o.desc
  d.frozen || (d.guard && s.verdictOn o.tile == .skip)

/-- A head can issue to its engine, but for the clocks of its tile (06 R180, 07 R200); a pending hop addition goes before every
head of the vector engine (10 R301). -/
def State.issuable (s : State) (o : Op) : Bool :=
  o.waitsTaken && !s.headSkips o && !((OpD.of o.desc).guard && s.verdictOn o.tile == .pending) && !s.hazard o && !s.engineBusy o
    && !(engineOf o.opcode == 1 && s.hopPending o.tile)

/-- The engines of a logical tile take operations: it runs, is not moving, and its die runs. -/
def State.tileOpen (s : State) (l : Nat) : Bool :=
  let t := s.tileL l
  t.park == .running && !t.moving && s.dieRuns (s.phys l)

/-- The heads of a tile that can issue to an engine, by queue. -/
def State.ableHeads (s : State) (l engine : Nat) : List Op :=
  ((List.range 8).filterMap (s.headOf l)).filter (fun o => engineOf o.opcode == engine && s.issuable o)

/-- The classes of a head in the order of 06 R182: `BWD`, then `FWD`, then neither. -/
def Op.classRank (o : Op) : Nat := let d := OpD.of o.desc; if d.bwd then 0 else if d.fwd then 1 else 2

/-- What the choice under `SEL_BIAS` compares, smaller first: 64 losses in a row, the class that the setting prefers, the
tide from which the head could issue, its class, its queue (06 R182). -/
def Op.choiceKey (o : Op) (selBias now : Nat) : List Nat :=
  let d := OpD.of o.desc
  [b2n (decide (o.losses < 64)), b2n ((selBias == 1 && !d.bwd) || (selBias == 2 && !d.fwd)), o.ableAt.getD now, o.classRank, o.queue]

/-- The first list is the smaller one, entry by entry. -/
def keyBefore : List Nat → List Nat → Bool
  | a :: as, b :: bs => decide (a < b) || (decide (a = b) && keyBefore as bs)
  | _, _ => false

/-- The scheduler chooses this head: no other that can issue to its engine comes before it (06 R182). -/
def State.chosen (s : State) (o : Op) : Bool :=
  let key := fun (x : Op) => x.choiceKey (s.tileL o.tile).selBias s.now
  (s.ableHeads o.tile (engineOf o.opcode)).all (fun x => x.id == o.id || keyBefore (key o) (key x))

/-- The heads that lose a choice to another one. -/
def State.countLosses (s : State) (o : Op) : State :=
  let lost := ((s.ableHeads o.tile (engineOf o.opcode)).map (·.id)).filter (· != o.id)
  { s with ops := s.ops.map (fun x => if lost.contains x.id then { x with losses := x.losses + 1 } else x) }

/-- Note from which tide each head of a compute queue has been able to issue (06 R182). -/
def State.noteAble (s : State) : State :=
  { s with ops := s.ops.map (fun o =>
      if o.isQueued && o.kind == 1 then
        if ((s.headLike o).map (·.id) == some o.id) && s.issuable o && s.tileOpen o.tile then
          (if o.ableAt.isNone then { o with ableAt := some s.now } else o)
        else if o.ableAt.isSome || o.losses != 0 then { o with ableAt := none, losses := 0 }
        else o
      else o) }

/-- The issued matrix operation of a queue, which waits for millrace rows, can issue again: its next row has landed
(04 R123). -/
def Op.goesOn (o : Op) : Bool :=
  let d := OpD.of o.desc
  match d.issues[o.rowIssues]? with
  | some i => d.fed o.landed i
  | none => true

/-- The head of a queue, where it is of this opcode: it completes without running under `FROZEN` and `GUARD`, or issues when
it can and is chosen (06 R180 to R183, 07 R200). -/
def State.tryHead (s : State) (opcode l q : Nat) (run : OpD → IssueCtx → Nat → Tile → RunRes) : State :=
  match s.headOf l q with
  | none => s
  | some o =>
    if o.opcode ≠ opcode ∨ !o.waitsTaken ∨ (s.ctxOfTile l).isNone then s
    else if s.headSkips o then s.skipHead o (OpD.of o.desc).frozen
    else if s.issuable o ∧ s.tileOpen l ∧ s.chosen o then (s.countLosses o).issueHead o run
    else s

/-- The operation of this opcode on a queue of a tile: one that waits for millrace rows goes on as far as they have landed;
otherwise the head is tried (06 R180, R183; 04 R123). -/
def State.runHead (s : State) (opcode l q : Nat) (run : OpD → IssueCtx → Nat → Tile → RunRes) : State :=
  match s.ops.find? (fun x => x.kind == 1 && x.tile == l && x.queue == q && x.opcode == opcode && x.phase == .issued) with
  | some o => if o.goesOn ∧ s.dieRuns (s.phys l) then s.runOp o run else s.tryHead opcode l q run
  | none => s.tryHead opcode l q run

/-- The answer of a tile opcode's command. -/
def tileOp (opcode : Nat) (l q : Nat) (run : OpD → IssueCtx → Nat → Tile → RunRes) (s : State) : Ans :=
  .next (s.runHead opcode l q run)

/-! ### Drains and completion -/

/-- Completed rows of the operation drain or are sent while later ones are still computed (04 R117, R122). -/
def Op.drains (o : Op) : Bool := o.phase == .running || o.phase == .issued

/-- `DRAIN_ROW`: the next row of a draining operation is read, converted and written (04 R115 to R117). -/
def execDrainRow (op : Nat) (s : State) : Ans :=
  match s.op? op with
  | none => .next s
  | some o =>
    let d := OpD.of o.desc
    match o.rowsDue with
    | [] => .next s
    | row :: rest =>
      if o.kind ≠ 1 ∨ !o.drains ∨ d.accOut ≠ 1 ∨ !s.dieRuns (s.phys o.tile) then .next s
      else
        let p := s.phys o.tile
        let t := s.tileP p
        let w := d.drainRow (s.issueCtx o) t row
        let am := privMax (d.drainVals t.acc row ((row - d.accRow) / d.m))
        let s1 := s.modTileP p (fun t =>
          let t1 := t.writeBits w.segs
          if d.privScale then t1.raiseAmax d.privIdx am else t1)
        let s2 := s1.opEvents o p { sat := b2n w.sat, nf := b2n w.nf }
        .next (s2.modOp op (fun x => { x with
          rowsDue := rest
          phase := if rest.isEmpty ∧ x.phase = .running then .finished else x.phase }))

/-- `OPERATION_COMPLETE`: a finished operation completes: its record, its signal, and its fault (06 R173). -/
def execOperationComplete (op : Nat) (s : State) : Ans :=
  match s.op? op with
  | none => .next s
  | some o => if o.phase = .finished then .next (s.completeHere o).settle else .next s

/-- The issued or running operation that holds a side of a link entry. -/
def State.mrHolder (s : State) (l e : Nat) (out : Bool) : Option Op :=
  s.ops.find? (fun o =>
    let d := OpD.of o.desc
    o.kind == 1 && o.tile == l && d.link == e && decide (d.opcode ≤ 2)
      && (if out then d.accOut == 2 && o.incomplete && !o.isQueued else d.accInit == 2 && o.phase == .issued))

/-- A message does not match its destination half: context, entry or format, or the part and module it comes from (04 R119,
R124). -/
def mrMismatch (half : W64) (m : MrMsg) : Bool :=
  !mrValid half || mrCtx half != m.ctx || mrFmt half != m.fmt || mrTile half != m.fromTile || mrEntry half != m.fromEntry
    || mrTo half != m.peer

/-- The answer to a message goes back to where it came from, with the slot of the compute channel of the operation that
the message met; a message that meets no operation is answered with slot 0 (04 R124). -/
def State.mrReply (s : State) (m : MrMsg) (o : Option Op) (kind : MrKind) : State :=
  s.sendMr ((o.map (fun x => hSlot x.ch)).getD 0) m.peer { m with kind := kind, tile := m.fromTile, entry := m.fromEntry, fromTile := m.tile, fromEntry := m.entry, peer := none }

/-- Drop a message at its destination: counted in `MR_REJECT`, and rejected to its sender; the operation that holds the
destination entry completes with `MILLRACE_REJECT` where `fail` asks it. -/
def State.mrDrop (s : State) (m : MrMsg) (out fail : Bool) (row : Nat) : State :=
  let h := s.mrHolder m.tile m.entry out
  let s1 := (s.accFlag (s.phys m.tile) 2 1).mrReply m h (.reject row !out)
  match (if fail then h else none) with
  | some o => s1.failOp o.id .millraceReject
  | none => s1

/-- `MR_GRANT`: grant `k` of the messages on their way reaches its sender (04 R121). -/
def execMrGrant (k : Nat) (s : State) : Ans :=
  match s.mrMsgs[k]? with
  | some m =>
    if m.kind ≠ .grant ∨ s.pkg.remapHold.contains m.tile then .next s
    else
      let s1 : State := { s with mrMsgs := s.mrMsgs.eraseIdx k }
      if mrMismatch (smGet 0 (s.tileL m.tile).mrOut m.entry) m then .next (s1.mrDrop m true true 0)
      else match s.mrHolder m.tile m.entry true with
        | some o => .next (s1.modOp o.id (fun x => { x with granted := true }))
        | none => .next s
  | none => .next s

/-- `MILLRACE_SEND`: after the grant, an operation reads and sends its next row (04 R122). -/
def execMillraceSend (op : Nat) (s : State) : Ans :=
  match s.op? op with
  | none => .next s
  | some o =>
    let d := OpD.of o.desc
    match o.rowsDue with
    | [] => .next s
    | row :: rest =>
      if o.kind ≠ 1 ∨ !o.drains ∨ d.accOut ≠ 2 ∨ !o.granted ∨ !s.dieRuns (s.phys o.tile) then .next s
      else
        let t := s.tileL o.tile
        let half := smGet 0 t.mrOut d.link
        let data : BitVec 4096 := BitVec.ofNat 4096 (ofBytes ((List.range 128).flatMap (fun j => toBytes 4 (smGet 0 t.acc (row * 128 + j)).toNat)))
        let r := row - d.accRow
        .next ((s.modOp op (fun x => { x with rowsDue := rest, rowsSent := x.rowsSent ++ [r] })).sendMr (hSlot o.ch) (mrTo half)
          (o.mrMsg half (.row r data)))

/-- `MR_ROW`: row `k` of the messages on their way lands, and is acknowledged (04 R122); one that no receiving
operation holds, or that does not match, is rejected (04 R124). -/
def execMrRow (k : Nat) (s : State) : Ans :=
  match s.mrMsgs[k]? with
  | some m =>
    match m.kind with
    | .row r data =>
      if s.pkg.remapHold.contains m.tile then .next s
      else
        let s1 : State := { s with mrMsgs := s.mrMsgs.eraseIdx k }
        if mrMismatch (smGet 0 (s.tileL m.tile).mrIn m.entry) m then .next (s1.mrDrop m false true r)
        else match s.mrHolder m.tile m.entry false with
          | none => .next (s1.mrDrop m false false r)
          | some o =>
            let d := OpD.of o.desc
            if d.regionRows ≤ r then .next (s1.mrDrop m false true r)
            else
              let s2 := (s1.modTileL m.tile (fun t => { t with acc := (List.range 128).foldl (fun a j =>
                smPutD 0 a ((d.accRow + r) * 128 + j) (BitVec.ofNat 32 (fieldN data (32 * j + 31) (32 * j)))) t.acc })).modOp o.id
                  (fun x => { x with landed := if x.landed.contains r then x.landed else x.landed ++ [r] })
              let all := (List.range d.regionRows).all (fun i => i == r || o.landed.contains i)
              let s3 := if all ∧ !o.landed.contains r then s2.countHandoff m.tile m.entry false else s2
              .next (s3.mrReply m (some o) (.ack r))
    | _ => .next s
  | none => .next s

/-- `MR_ACK`: an acknowledgement or rejection reaches its operation (04 R122, R124). -/
def execMrAck (k : Nat) (s : State) : Ans :=
  match s.mrMsgs[k]? with
  | some m =>
    if s.pkg.remapHold.contains m.tile then .next s
    else
      let s1 : State := { s with mrMsgs := s.mrMsgs.eraseIdx k }
      match m.kind with
      | .ack r =>
        match s.mrHolder m.tile m.entry true with
        | none => .next s1
        | some o =>
          let left := o.rowsSent.erase r
          let done := left.isEmpty && o.rowsDue.isEmpty && o.phase == .running
          let s2 := s1.modOp o.id (fun x => { x with rowsSent := left, phase := if done then .finished else x.phase })
          .next (if done ∧ o.cause = .none then s2.countHandoff m.tile m.entry true else s2)
      | .reject _ toOut =>
        let s2 := s1.accFlag (s.phys m.tile) 2 1
        match s.mrHolder m.tile m.entry toOut with
        | some o => .next (s2.failOp o.id .millraceReject)
        | none => .next s2
      | _ => .next s
  | none => .next s

/-! ### The opcodes: each runs on the queue of a logical tile -/

/-- `MATMUL` (0x01) (R88). Runs C = A × Bᵀ on the array in passes over column blocks and chunks. -/
def execMatmul (tile : Fin 480) (queue : Fin 8) (s : State) : Ans :=
  tileOp 0x01 tile.val queue.val (fun d ic _ t => d.matRun ic t) s

/-- `EW_MUL` (0x02) (R98). Multiplies two tensors element by element on the array into accumulator memory. -/
def execEwMul (tile : Fin 480) (queue : Fin 8) (s : State) : Ans :=
  tileOp 0x02 tile.val queue.val (fun d ic _ t => d.matRun ic t) s

/-- `VCONVERT` (0x10) (R512). Converts stream A to the output format, deriving or reading KB8 units and MX scales. -/
def execVconvert (tile : Fin 480) (queue : Fin 8) (s : State) : Ans :=
  tileOp 0x10 tile.val queue.val (fun d ic draw t => d.vecRun ic draw t) s

/-- `VADD` (0x11) (R142). Adds streams A and B element by element. -/
def execVadd (tile : Fin 480) (queue : Fin 8) (s : State) : Ans :=
  tileOp 0x11 tile.val queue.val (fun d ic draw t => d.vecRun ic draw t) s

/-- `VSUB` (0x12) (R142). Subtracts stream B from stream A. -/
def execVsub (tile : Fin 480) (queue : Fin 8) (s : State) : Ans :=
  tileOp 0x12 tile.val queue.val (fun d ic draw t => d.vecRun ic draw t) s

/-- `VMUL` (0x13) (R142). Multiplies streams A and B. -/
def execVmul (tile : Fin 480) (queue : Fin 8) (s : State) : Ans :=
  tileOp 0x13 tile.val queue.val (fun d ic draw t => d.vecRun ic draw t) s

/-- `VFMA` (0x14) (R142). Forms A × B + C, rounded once. -/
def execVfma (tile : Fin 480) (queue : Fin 8) (s : State) : Ans :=
  tileOp 0x14 tile.val queue.val (fun d ic draw t => d.vecRun ic draw t) s

/-- `VAXPBY` (0x15) (R142). Forms α × A + β × B, rounded once. -/
def execVaxpby (tile : Fin 480) (queue : Fin 8) (s : State) : Ans :=
  tileOp 0x15 tile.val queue.val (fun d ic draw t => d.vecRun ic draw t) s

/-- `VMAX` (0x16) (R142). Writes the larger of A and B. -/
def execVmax (tile : Fin 480) (queue : Fin 8) (s : State) : Ans :=
  tileOp 0x16 tile.val queue.val (fun d ic draw t => d.vecRun ic draw t) s

/-- `VMIN` (0x17) (R142). Writes the smaller of A and B. -/
def execVmin (tile : Fin 480) (queue : Fin 8) (s : State) : Ans :=
  tileOp 0x17 tile.val queue.val (fun d ic draw t => d.vecRun ic draw t) s

/-- `VDIV` (0x18) (R142). Divides A by B. -/
def execVdiv (tile : Fin 480) (queue : Fin 8) (s : State) : Ans :=
  tileOp 0x18 tile.val queue.val (fun d ic draw t => d.vecRun ic draw t) s

/-- `VCLAMP` (0x19) (R142). Clamps A between CLAMP_LO and CLAMP_HI. -/
def execVclamp (tile : Fin 480) (queue : Fin 8) (s : State) : Ans :=
  tileOp 0x19 tile.val queue.val (fun d ic draw t => d.vecRun ic draw t) s

/-- `VSCALE` (0x1A) (R142). Forms α × A + β, rounded once. -/
def execVscale (tile : Fin 480) (queue : Fin 8) (s : State) : Ans :=
  tileOp 0x1A tile.val queue.val (fun d ic draw t => d.vecRun ic draw t) s

/-- `VCMP` (0x1B) (R142). Writes mask rows comparing A with B under the relation that SUB selects. -/
def execVcmp (tile : Fin 480) (queue : Fin 8) (s : State) : Ans :=
  tileOp 0x1B tile.val queue.val (fun d ic draw t => d.vecRun ic draw t) s

/-- `VEXP` (0x20) (R144). Computes e to the power A. -/
def execVexp (tile : Fin 480) (queue : Fin 8) (s : State) : Ans :=
  tileOp 0x20 tile.val queue.val (fun d ic draw t => d.vecRun ic draw t) s

/-- `VLOG` (0x21) (R144). Computes ln A. -/
def execVlog (tile : Fin 480) (queue : Fin 8) (s : State) : Ans :=
  tileOp 0x21 tile.val queue.val (fun d ic draw t => d.vecRun ic draw t) s

/-- `VRSQRT` (0x22) (R144). Computes 1 / √A. -/
def execVrsqrt (tile : Fin 480) (queue : Fin 8) (s : State) : Ans :=
  tileOp 0x22 tile.val queue.val (fun d ic draw t => d.vecRun ic draw t) s

/-- `VRECIP` (0x23) (R144). Computes 1 / A. -/
def execVrecip (tile : Fin 480) (queue : Fin 8) (s : State) : Ans :=
  tileOp 0x23 tile.val queue.val (fun d ic draw t => d.vecRun ic draw t) s

/-- `VSQRT` (0x24) (R144). Computes √A. -/
def execVsqrt (tile : Fin 480) (queue : Fin 8) (s : State) : Ans :=
  tileOp 0x24 tile.val queue.val (fun d ic draw t => d.vecRun ic draw t) s

/-- `VTANH` (0x25) (R144). Computes tanh A. -/
def execVtanh (tile : Fin 480) (queue : Fin 8) (s : State) : Ans :=
  tileOp 0x25 tile.val queue.val (fun d ic draw t => d.vecRun ic draw t) s

/-- `VSIGMOID` (0x26) (R144). Computes the logistic sigmoid of A. -/
def execVsigmoid (tile : Fin 480) (queue : Fin 8) (s : State) : Ans :=
  tileOp 0x26 tile.val queue.val (fun d ic draw t => d.vecRun ic draw t) s

/-- `VGELU` (0x27) (R144). Computes A × Φ(A). -/
def execVgelu (tile : Fin 480) (queue : Fin 8) (s : State) : Ans :=
  tileOp 0x27 tile.val queue.val (fun d ic draw t => d.vecRun ic draw t) s

/-- `VSILU` (0x28) (R144). Computes A × sigmoid(A). -/
def execVsilu (tile : Fin 480) (queue : Fin 8) (s : State) : Ans :=
  tileOp 0x28 tile.val queue.val (fun d ic draw t => d.vecRun ic draw t) s

/-- `NORM_APPLY` (0x30) (R142). Applies normalisation through row-statistics records. -/
def execNormApply (tile : Fin 480) (queue : Fin 8) (s : State) : Ans :=
  tileOp 0x30 tile.val queue.val (fun d ic draw t => d.vecRun ic draw t) s

/-- `SOFTMAX_APPLY` (0x31) (R142). Applies the soft maximum through row-statistics records. -/
def execSoftmaxApply (tile : Fin 480) (queue : Fin 8) (s : State) : Ans :=
  tileOp 0x31 tile.val queue.val (fun d ic draw t => d.vecRun ic draw t) s

/-- `SOFTMAX_BWD` (0x32) (R142). Forms the soft-maximum backward product B × (A − DOT). -/
def execSoftmaxBwd (tile : Fin 480) (queue : Fin 8) (s : State) : Ans :=
  tileOp 0x32 tile.val queue.val (fun d ic draw t => d.vecRun ic draw t) s

/-- `NORM_BWD` (0x33) (R142). Forms the normalisation backward result from the records. -/
def execNormBwd (tile : Fin 480) (queue : Fin 8) (s : State) : Ans :=
  tileOp 0x33 tile.val queue.val (fun d ic draw t => d.vecRun ic draw t) s

/-- `TOPK` (0x40) (R126). Selects the k largest elements of each row with their indices. -/
def execTopk (tile : Fin 480) (queue : Fin 8) (s : State) : Ans :=
  tileOp 0x40 tile.val queue.val (fun d _ _ t => d.topkRun t) s

/-- `TOPK_MERGE` (0x41) (R126). Merges top-k records of column-split rows into one record per row. -/
def execTopkMerge (tile : Fin 480) (queue : Fin 8) (s : State) : Ans :=
  tileOp 0x41 tile.val queue.val (fun d _ _ t => d.topkRun t) s

/-- `ROW_STATS` (0x42) (R152). Writes one row-statistics record per row in two passes. -/
def execRowStats (tile : Fin 480) (queue : Fin 8) (s : State) : Ans :=
  tileOp 0x42 tile.val queue.val (fun d _ draw t => d.rowStatsRun draw t) s

/-- `ROW_STATS_MERGE` (0x43) (R154). Combines P row-statistics records per row into one. -/
def execRowStatsMerge (tile : Fin 480) (queue : Fin 8) (s : State) : Ans :=
  tileOp 0x43 tile.val queue.val (fun d _ draw t => d.rowStatsMergeRun draw t) s

/-- `ROW_DOT` (0x44) (R152). Writes DOT and GSUM of each row into its record. -/
def execRowDot (tile : Fin 480) (queue : Fin 8) (s : State) : Ans :=
  tileOp 0x44 tile.val queue.val (fun d _ draw t => d.rowDotRun draw t) s

/-- `COL_SUM` (0x45) (R151). Writes column sums added in ascending row order. -/
def execColSum (tile : Fin 480) (queue : Fin 8) (s : State) : Ans :=
  tileOp 0x45 tile.val queue.val (fun d ic _ t => d.colSumRun ic t) s

/-- `AMAX` (0x46) (R151). Writes the largest magnitude over all elements. -/
def execAmax (tile : Fin 480) (queue : Fin 8) (s : State) : Ans :=
  tileOp 0x46 tile.val queue.val (fun d _ _ t => d.amaxRun t) s

/-- `COMPRESS` (0x50) (R157). Gathers rows or active elements into dense output rows by an index list. -/
def execCompress (tile : Fin 480) (queue : Fin 8) (s : State) : Ans :=
  tileOp 0x50 tile.val queue.val (fun d ic _ t => d.compressRun ic t) s

/-- `EXPAND` (0x51) (R157). Spreads input rows to the output rows of an index list, in place or weighted. -/
def execExpand (tile : Fin 480) (queue : Fin 8) (s : State) : Ans :=
  tileOp 0x51 tile.val queue.val (fun d ic _ t => d.expandRun ic t) s

/-- `ROUTE_BUILD` (0x52) (R156). Builds per-expert index lists from top-k records up to capacity, and counts every
route. -/
def execRouteBuild (tile : Fin 480) (queue : Fin 8) (s : State) : Ans :=
  tileOp 0x52 tile.val queue.val (fun d _ _ t => d.routeRun t) s

end Sys2Proof.Machine
end

