-- ==== Sys2Proof/Machine/Link.lean ====
section
/-! DEFINITION. The link layer (09 R250 to R258, R262), training and identity (09 R264 to R268), port pairs (09 R269 to
R271), routing, multicast and passage (09 R272 to R280, 11 R328, R334, R339), and the opening of sealed packets
(14 R415). -/

namespace Sys2Proof.Machine

/-! ### Link events and states (09 R264, R268) -/

/-- A link event of a port: its flag, its occurrence counter, and an alert where one is enabled (12 R375). -/
def State.linkEvt (s : State) (j i : Nat) (data : BitVec 3328) : State :=
  let p := s.port j
  let s1 := s.modPort j (fun p => { p with evt := setFlag p.evt i 1, counts := modAt p.counts i (· + 1) })
  if alerts p.evt p.evtEn i 1 then s1.event (0x0100 + i) 3 j none data else s1

/-- The lanes of a port that are in use. -/
def Port.lanes (p : Port) : List Nat := (List.range 9).filter (fun k => p.laneMap.getLsbD k)

/-- Add a weight to the health of every lane in use of a port (log 23). -/
def State.lanesScore (s : State) (j : Nat) (w : Rat) : State := (s.port j).lanes.foldl (fun s k => s.addScore (laneObj j k) w) s

/-- The direction that a port and its partner serve: 0 X+, 1 X−, 2 Y+, and so on. -/
def portDir (j : Nat) : Nat := j / 2

/-- Lower bit of `WIDTH` from a lane map: eight lanes are 2, four are 1. -/
def widthOf (lanes : BitVec 9) : Nat :=
  let n := ((List.range 9).filter (fun k => lanes.getLsbD k)).length
  if n = 8 then 2 else if n = 4 then 1 else 0

/-- A port of which the P-die works and that is not fenced. -/
def State.portUsable (s : State) (j : Nat) : Bool := !(s.die (84 + portP j)).fenced && (s.port j).st != .fenced

/-- The port exchanges frames with its peer. -/
def Port.linked (p : Port) : Bool := p.st == .identify || p.st == .quarantine || p.st == .up

/-- A port enters `RETRAIN` and keeps its retry buffer (09 R264). -/
def State.enterRetrain (s : State) (j : Nat) : State :=
  let s1 := s.modPort j (fun p => { p with
    st := .retrain
    resends := 0
    laneAsked := none
    laneAgreed := none
    realigning := false
    retrainAt := (p.retrainAt.filter (fun t => decide (s.now < t + 60 * 10 ^ 9))) ++ [s.now] })
  (s1.linkEvt j 0 0).lanesScore j 20

/-- A frame of VC0 to VC5. -/
def TxFrame.routed (f : TxFrame) : Bool := decide (f.pkt.vc < 6)

/-- Send again, in order, the frames that have not been acknowledged: all of them on an `UP` port, on another those before
the first of VC0 to VC5 (09 R256, R264).  An `UP` port that has done so 16 times without an advance of `ACK_SEQ` retrains
(09 R257). -/
def State.resend (s : State) (j : Nat) : State :=
  let p := s.port j
  let fs := if p.st = .up then p.retryBuf else p.retryBuf.takeWhile (fun f => !f.routed)
  if fs.isEmpty then s
  else
    let s1 := (fs.foldl (fun s f => s.sendAgain j f) s).modPort j (fun p => { p with
      resends := p.resends + 1
      flow := p.flow.map (fun f => { f with retry := min (f.retry + fs.length) 0xFFFF }) })
    if p.st = .up ∧ 16 ≤ p.resends + 1 then s1.enterRetrain j else s1

/-- Frames numbered on from a `SEQ`. -/
def renumber (fs : List TxFrame) (seq : Nat) : List TxFrame := fs.zipIdx.map (fun e => { e.1 with seq := (seq + e.2) % 4096 })

/-- Lay the unacknowledged frames of VC0 to VC5 aside, as none of them has been accepted: the others take their numbers
(09 R264; log 95). -/
def Port.layAside (p : Port) : Port :=
  match p.retryBuf.findIdx? TxFrame.routed with
  | none => p
  | some i =>
    let base := ((p.retryBuf[i]?).map (·.seq)).getD p.txSeq
    let late := (p.retryBuf.drop i).filter (fun f => !f.routed)
    { p with
      retryBuf := p.retryBuf.take i ++ renumber late base
      txSeq := (base + late.length) % 4096
      kept := p.kept ++ p.retryBuf.filter TxFrame.routed }

/-- Take the frames laid aside back, behind the others. -/
def Port.takeBack (p : Port) : Port :=
  { p with
    retryBuf := p.retryBuf ++ renumber p.kept p.txSeq
    txSeq := (p.txSeq + p.kept.length) % 4096
    kept := [] }

/-- A port comes `UP`: all channels open, its direction is no longer lost, and what waited goes on (09 R264); a failover that
has moved no packet ends. -/
def State.portUp (s : State) (j : Nat) : State :=
  let s1 := s.modPort j (fun p => { p.takeBack with st := .up, told := false, identDue := false, byPartner := p.byPartner && p.failedOver })
  let s2 : State := { s1 with part := { s1.part with lost := s1.part.lost &&& ~~~(1#6 <<< portDir j) } }
  (s2.resend j).pump j

/-- A port is fenced: its transmitter is off (09 R264). -/
def State.fencePort (s : State) (j : Nat) : State :=
  if (s.port j).st = .fenced then s
  else (s.modPort j (fun p => { p with st := .fenced, light := false })).linkEvt j 9 0

/-! ### Identity (09 R265 to R267, 14 R416) -/

/-- The `IDENT` body that a port sends. -/
def State.ident (s : State) (j : Nat) : BitVec 256 :=
  let a := portAxis j
  pack 256 [(255, 192, s.sec.serial.toNat), (191, 180, s.ownXyz.toNat), (179, 178, a), (177, 177, b2n (portNeg j)),
    (176, 176, j % 2), (175, 160, s.ptag), (159, 152, 1), (151, 144, 2), (143, 140, s.fabExt a - 1), (139, 139, b2n (s.fabClosed a)),
    (127, 0, (s.port j).nonce.toNat)]

/-- Send `IDENT` on a port. -/
def State.sendIdent (s : State) (j : Nat) : State :=
  let b := s.ident j
  let key := match s.sec.fabricKey with
    | some f => identKey f s.sec.serial
    | none => 0
  s.sendHop j 0x30 key 256 b.toNat b

/-- The installed entry of a port, as an event reports it (12 R373, R375). -/
def Expect.bits (e : Expect) : Nat := (pack 256 [(63, 0, e.serial.toNat), (75, 64, e.coord.toNat), (95, 80, e.ptag.toNat)]).toNat

/-- 09 R266: the last `IDENT` of a port matches, apart from its major revision. -/
def State.identMatches (s : State) (j : Nat) : Bool :=
  let p := s.port j
  let b := p.peerIdent
  let a := portAxis j
  let n := s.fabExt a
  let c := s.coord a
  let peer := coordOf (BitVec.ofNat 12 (fieldN b 191 180)) 11 a
  let next := if portNeg j then (if s.fabClosed a then (c + n - 1) % n == peer else c == peer + 1)
    else (if s.fabClosed a then (c + 1) % n == peer else c + 1 == peer)
  match p.expect with
  | none => false
  | some e =>
    p.peerTagOk && fieldN b 255 192 == e.serial.toNat && fieldN b 191 180 == e.coord.toNat && fieldN b 175 160 == e.ptag.toNat
      && fieldN b 179 178 == a && fieldN b 176 176 == j % 2 && fieldN b 143 140 + 1 == n && bitN b 139 == s.fabClosed a
      && bitN b 177 == !portNeg j && fieldN b 138 128 == 0 && next

/-- A port acts on the `IDENT` it has received (09 R264, R266, R267, R281). -/
def State.identify (s : State) (j : Nat) : State :=
  let p := s.port j
  let quarantine := fun (s : State) => s.modPort j (fun p => { p with st := .quarantine })
  if p.st ≠ .identify ∧ p.st ≠ .quarantine ∧ p.st ≠ .up then s
  else if p.expect.isNone then (quarantine s).linkEvt j 5 0
  else if fieldN p.peerIdent 159 152 ≠ 1 then (quarantine s).linkEvt j 4 0
  else if !s.identMatches j then
    (quarantine s).linkEvt j 3 (pack 3328 [(255, 0, p.peerIdent.toNat), (511, 256, (p.expect.map Expect.bits).getD 0)])
  else if 4000 < p.loopNs then (quarantine s).linkEvt j 6 0
  else
    let s1 := s.modPort j (fun p => { p with revMajor := 1, revMinor := BitVec.ofNat 8 (min 2 (fieldN p.peerIdent 151 144)) })
    if p.st = .up then s1
    else
      let s2 := if 1660 < p.loopNs then s1.linkEvt j 7 0 else s1
      s2.portUp j

/-! ### Input buffers (09 R262) -/

/-- Flits of the pool that a channel holds: those granted to it, and those from before the last training. -/
def Port.poolOf (p : Port) (v : Nat) : Nat := p.pool.getD v 0 + p.oldFlits.getD v 0

/-- Blocks of 512 flits that a channel may hold of the pool, and that are free. -/
def Port.poolRoom (p : Port) (v limit : Nat) : Bool :=
  decide (p.poolOf v + 512 ≤ 7168) && decide (p.pool.sum + p.oldFlits.sum + 512 ≤ 10240)
    && (!(v == 4 || v == 5) || decide (p.poolOf 4 + p.poolOf 5 + 512 ≤ limit))

/-- Flits that wait on a channel of a port. -/
def Port.waiting (p : Port) (v : Nat) : Nat := ((p.inQ.filter (fun e => e.1 == v)).map (fun e => e.2.payload.length + 1)).sum

/-- A packet enters the input buffer of a port, which grants its channel pool space while packets wait (09 R262). -/
def State.enqueue (s : State) (j : Nat) (p : Packet) : State :=
  let v := p.vc
  let limit := s.shareOn (portAxis j) * 10240 / 100
  let s1 := s.modPort j (fun q =>
    let q1 := { q with inQ := q.inQ ++ [(v, p)] }
    if q1.poolRoom v limit then { q1 with pool := modAt q1.pool v (· + 512), creditDue := modAt q1.creditDue v (· + 512) } else q1)
  s1.modFlow j v (fun f => { f with occMax := max f.occMax (min 0xFFFF ((s1.port j).waiting v)) })

/-- Flits leave the buffer of a channel: their credits return, but for those of an earlier training and for pool space that is
taken back (09 R262). -/
def State.freeFlits (s : State) (j v n : Nat) : State :=
  let s1 := s.modPort j (fun q =>
    let old := min n (q.oldFlits.getD v 0)
    let back := if q.waiting v = 0 then min (n - old) (q.pool.getD v 0) else 0
    { q with
      oldFlits := modAt q.oldFlits v (· - old)
      pool := modAt q.pool v (· - back)
      creditDue := modAt q.creditDue v (· + (n - old - back)) })
  if (s1.port j).linked then s1.sendEmpty j else s1

/-- Take the oldest packet that meets a test out of the input buffer of a port. -/
def State.takeIn (s : State) (j : Nat) (f : Nat → Packet → Bool) : Option (Packet × State) :=
  (takeFirst (fun e => f e.1 e.2) (s.port j).inQ).map (fun r =>
    (r.1.2, (s.modPort j (fun q => { q with inQ := r.2 })).freeFlits j r.1.1 (r.1.2.payload.length + 1)))

/-- A packet has arrived whole at a port: it is dropped (09 R259, 11 R328, R339), as one of VC0 to VC5 is in `QUARANTINE`
(09 R264), or enters the buffer. -/
def State.arrive (s : State) (j : Nat) (p : Packet) : State :=
  let v := p.vc
  let n := p.payload.length + 1
  let s1 := s.modFlow j v (fun f => { f with rx := flowAdd f.rx n })
  let drop := fun (s : State) => (s.dropAt j v).freeFlits j v n
  if p.reserved then drop s1
  else if kindClass p.kind = some 2 then s1.enqueue j p
  else if (s.port j).st = .quarantine then drop s1
  else if s.leveeStops j v then drop s1
  else if (s.ptag = 0 ∨ p.ptag ≠ s.ptag) ∧ !s.grantFor (portAxis j) p.ptag then drop (s1.partEvt 0 0 0 none 0)
  else s1.enqueue j p

/-- Flits of the packet that a first flit begins. -/
def flitsIn (h : BitVec 512) : Nat := if fieldN h 127 126 = 1 then 1 + fieldN h 120 114 else 1

/-- Take the flits of a frame, each with the mark that ends an aborted packet (09 R258, R270). -/
def State.takeFlits (s : State) (j : Nat) : List (BitVec 512 × Bool) → State
  | [] => s
  | (f, ab) :: rest =>
    let part := (s.port j).rxPart ++ [f]
    let n := flitsIn (part.headD 0)
    if ab then
      let pl := part.drop 1 ++ List.replicate (n - part.length) 0
      State.takeFlits ((s.modPort j (fun p => { p with rxPart := [] })).arrive j { head := part.headD 0, payload := pl, aborted := true }) j rest
    else if n ≤ part.length then
      State.takeFlits ((s.modPort j (fun p => { p with rxPart := [] })).arrive j { head := part.headD 0, payload := part.drop 1 }) j rest
    else State.takeFlits (s.modPort j (fun p => { p with rxPart := part })) j rest

/-! ### Frames (09 R254 to R257) -/

/-- Drop from the retry buffer what `ACK_SEQ` covers. -/
def ackFrames (q : List TxFrame) (ack : Nat) : List TxFrame :=
  match q.findIdx? (fun f => f.seq == ack) with
  | some i => q.drop (i + 1)
  | none => q

/-- The filled slots of a frame, with the mark of `ABORT_SLOT`. -/
def filledSlots (slots : BitVec 8192) (map abort : Nat) : List (BitVec 512 × Bool) :=
  ((List.range 16).filter (fun i => map.testBit i)).map (fun i =>
    (BitVec.ofNat 512 (fieldN slots (512 * i + 511) (512 * i)), abort == i + 1))

/-- Move a lane's traffic to another lane (09 R251). -/
def Port.moveLane (p : Port) (lane spare : Nat) : Port :=
  { p with laneMap := (p.laneMap &&& ~~~(1#9 <<< lane)) ||| (1#9 <<< spare), laneFailed := p.laneFailed ||| (1#9 <<< lane) }

/-- The lane of a port that is not in use and has not failed. -/
def Port.spareLane (p : Port) : Option Nat := (List.range 9).find? (fun k => !p.laneMap.getLsbD k && !p.laneFailed.getLsbD k)

/-- A lane of a port can be spared: it is in use, and the spare lane is free. -/
def Port.canSpare (p : Port) (lane : Nat) : Bool := p.spareLane.isSome && p.laneMap.getLsbD lane

/-- Switch a lane's traffic to the spare lane (09 R251); a `NAK` that came meanwhile is answered then. -/
def State.switchLane (s : State) (j lane : Nat) : State :=
  let p := s.port j
  let s1 := s.modPort j (fun q => { q.moveLane lane (p.spareLane.getD lane) with laneAsked := none, laneAgreed := none, realigning := true, nakHeld := false })
  if p.nakHeld then s1.resend j else s1

/-- `LANE_OP` of an accepted frame (09 R251): a request is acknowledged where a spare is free; an acknowledgement of this end's
request lets it announce the switch at the next sequence number and make it, with its event and the lane's health (16 R469);
an announced switch that this end has agreed to is made. -/
def State.laneOp (s : State) (j op lane : Nat) : State :=
  let p := s.port j
  match op with
  | 1 => if p.st = .up ∧ p.canSpare lane then (s.modPort j (fun p => { p with laneAgreed := some lane })).sendFrame j [] p.txSeq 0 lane 2 else s
  | 2 =>
    if p.laneAsked = some lane ∧ p.canSpare lane then
      (((s.sendFrame j [] p.txSeq 0 lane 3).switchLane j lane).linkEvt j 1 0).directHealth (laneObj j lane) .failed .margin
    else s
  | 3 => if p.laneAgreed = some lane ∧ p.canSpare lane then s.switchLane j lane else s
  | _ => s

/-- What an accepted frame's trailer says: credits, acknowledgements, and `NAK`, which waits for a lane switch under way
(09 R255, R256, "When link events meet"). -/
def State.takeTrailer (s : State) (j : Nat) (trailer : BitVec 256) : State :=
  let p := s.port j
  let kept := ackFrames p.retryBuf (fieldN trailer 147 136)
  let s1 := s.modPort j (fun p => { p with
    realigning := false
    credits := p.credits.zipIdx.map (fun c => c.1 + fieldN trailer (167 + 8 * c.2) (160 + 8 * c.2))
    retryBuf := kept
    resends := if kept.length = p.retryBuf.length then p.resends else 0 })
  let busy := p.laneAsked.isSome || p.laneAgreed.isSome
  let s2 := if !bitN trailer 135 then s1 else if busy then s1.modPort j (fun p => { p with nakHeld := true }) else s1.resend j
  s2.laneOp j (fieldN trailer 108 107) (fieldN trailer 112 109)

/-- After a realignment `IDENT` goes out once the peer's `ACK_SEQ` has come, ahead of the frames of VC0 to VC5 (log 95). -/
def State.dueIdent (s : State) (j : Nat) : State :=
  if (s.port j).st = .identify ∧ (s.port j).identDue then
    let s1 := s.modPort j (fun p => { p.layAside with identDue := false })
    (s1.resend j).sendIdent j
  else s

/-- The first packet of a frame is of VC0 to VC5. -/
def routedFrame (part : List (BitVec 512)) (flits : List (BitVec 512 × Bool)) : Bool :=
  match part ++ flits.map (·.1) with
  | h :: _ => decide (fieldN h 123 121 < 6)
  | [] => false

/-- `FRAME_RX`: a frame arrives at a port.  One with a good CRC that is the next in sequence is accepted, its trailer and its
flits; an `EMPTY` frame has no place in the sequence, and its trailer is taken (log 95); every other frame is discarded, one
of VC0 to VC5 in `QUARANTINE` too, and `NAK` is sent (09 R254 to R257, R264). -/
def execFrameRx (port : Fin 12) (slots : BitVec 8192) (trailer : BitVec 256) (s : State) : Ans :=
  let j := port.val
  let p := s.port j
  let flits := filledSlots slots (fieldN trailer 133 118) (fieldN trailer 117 113)
  let nak := fun (s : State) => (s.modPort j (fun p => { p with nakDue := true })).sendEmpty j
  if !p.linked then .next s
  else if (frameCrc slots.toNat (fieldN trailer 223 0)).toNat ≠ fieldN trailer 255 224 then
    .next (nak (s.lanesScore j (mkRat 1 1000))).settle
  else if bitN trailer 134 then
    let s1 := ((s.takeTrailer j trailer).dueIdent j).pump j
    .next (if fieldN trailer 159 148 = (p.rxSeq + 1) % 4096 then s1 else nak s1).settle
  else if fieldN trailer 159 148 ≠ (p.rxSeq + 1) % 4096 ∨ (p.st = .quarantine ∧ routedFrame p.rxPart flits) then .next (nak s)
  else
    let s1 := ((s.takeTrailer j trailer).modPort j (fun p => { p with rxSeq := fieldN trailer 159 148 })).dueIdent j
    .next (((s1.takeFlits j flits).pump j).sendEmpty j).settle

/-- `LINK_SILENCE`: a port without a good frame for 4 µs enters `RETRAIN`, but not between a lane switch and its realignment
(09 R251, R257). -/
def execLinkSilence (port : Fin 12) (s : State) : Ans :=
  let p := s.port port.val
  if p.st = .up ∧ !p.realigning then .next (s.enterRetrain port.val).settle else .next s

/-- Begin to spare a lane of an `UP` port: the other end is asked (09 R251); without a free spare lane, with a request under
way, or on another port, nothing happens. -/
def State.spareLane (s : State) (j lane : Nat) : State :=
  let p := s.port j
  if p.st = .up ∧ p.canSpare lane ∧ p.laneAsked = none then
    (s.modPort j (fun p => { p with laneAsked := some lane })).sendFrame j [] p.txSeq 0 lane 1
  else s

/-- `LANE_SPARE`: a lane of an `UP` port is spared (09 R251). -/
def execLaneSpare (port : Fin 12) (lane : Fin 9) (s : State) : Ans := .next (s.spareLane port.val lane.val).settle

/-- `LANE_FAIL_NO_SPARE`: a lane of an `UP` port fails with the spare in use: the port retrains on the four lanes
`best` (09 R252). -/
def execLaneFailNoSpare (port : Fin 12) (lane : Fin 9) (best : BitVec 9) (s : State) : Ans :=
  let j := port.val
  let p := s.port j
  let failed := p.laneFailed ||| (1#9 <<< lane.val)
  if p.st = .up ∧ p.spareLane = none ∧ p.laneMap.getLsbD lane.val ∧ widthOf best = 1 ∧ best &&& failed = 0 then
    let s1 := (s.modPort j (fun p => { p with laneFailed := failed, laneMap := best, width := 1 })).linkEvt j 2 0
    .next ((s1.directHealth (laneObj j lane.val) .failed .margin).enterRetrain j).settle
  else .next s

/-! ### Training (09 R264) -/

/-- `LIGHT_DETECT`: an enabled port that is dark sees light, and begins a training attempt with a fresh nonce
(09 R264, 14 R416). -/
def execLightDetect (port : Fin 12) (s : State) : Ans :=
  let j := port.val
  let on := s.pkg.st != .standby && !(s.pkg.st == .boot && decide (s.pkg.bootStep < 9))
  if (s.port j).st = .dark ∧ on ∧ s.portUsable j then
    .next ((s.modPort j (fun p => { p with st := .training, light := true, retryDue := false, nonce := Config.freeBits 128 s.draw, peerSeen := false, peerTagOk := false })).use 1)
  else .next s

/-- The lanes that a training attempt puts in use, of those that it finds good: none that has failed, unless the port has
been serviced, and lanes 0 to 7 where all nine are good (09 R250, R252; 17 R492; log 87). -/
def Port.trainedLanes (p : Port) (lanes : BitVec 9) : BitVec 9 :=
  let l := if p.serviced then lanes else lanes &&& ~~~p.laneFailed
  if l = 0x1FF then 0x0FF else l

/-- The packets of VC0 to VC5 that the frames of a port carry and the other end has not acknowledged, each once. -/
def Port.unsent (p : Port) : List Packet :=
  let fs := (p.retryBuf ++ p.kept).filter TxFrame.routed
  (fs.zipIdx.filter (fun e => e.1.nth == 0 || e.2 == 0)).map (fun e => e.1.pkt)

/-- The partner of a port out of `UP` is still to take packets that the other end may not have accepted (09 R270). -/
def State.failoverDue (s : State) (j : Nat) : Bool :=
  let p := s.port j
  !p.failedOver && !p.unsent.isEmpty && (s.port (portPartner j)).st == .up

/-- `TRAINING_ATTEMPT_END`: a training attempt ends: with a loop delay and the lanes found good (all, eight or four of
them), the port sends `IDENT`; otherwise the attempt has failed (09 R252, R264, R281).  After service of the port, the
lanes found good return to service and to health `GOOD` (17 R492). -/
def execTrainingAttemptEnd (port : Fin 12) (loop : Option (BitVec 16)) (lanes : BitVec 9) (s : State) : Ans :=
  let j := port.val
  if (s.port j).st ≠ .training ∨ (s.port j).retryDue ∨ s.failoverDue j then .next s
  else match loop with
    | some ns =>
      let use := (s.port j).trainedLanes lanes
      if widthOf use = 0 then .next ((s.modPort j (fun p => { p with retryDue := true })).linkEvt j 8 0)
      else
        let s1 := s.modPort j (fun p => { p with
          st := .identify, loopNs := ns.toNat, laneMap := use, width := widthOf use
          laneFailed := if p.serviced then p.laneFailed &&& ~~~lanes else p.laneFailed, rxSeq := 4095, txSeq := 0,
          nakDue := false, txQ := p.unsent ++ p.txQ, retryBuf := [], kept := [], resends := 0, rxPart := [], identDue := false,
          credits := List.replicate 8 256, creditDue := List.replicate 8 0, oldFlits := (List.range 8).map p.waiting,
          pool := List.replicate 8 0, laneAsked := none, laneAgreed := none, realigning := false, nakHeld := false })
        let s2 := if (s.port j).serviced then
            ((List.range 9).filter (fun k => lanes.getLsbD k)).foldl (fun s k => s.repairedHealth (laneObj j k)) (s1.modPort j (fun p => { p with serviced := false }))
          else s1
        .next (s2.sendIdent j).settle
    | none => .next ((s.modPort j (fun p => { p with retryDue := true })).linkEvt j 8 0)

/-- `TRAINING_RETRY`: 1 s after a failed attempt the port tries again, with a fresh nonce (09 R264, 14 R416). -/
def execTrainingRetry (port : Fin 12) (s : State) : Ans :=
  let j := port.val
  if (s.port j).st = .training ∧ (s.port j).retryDue then
    .next ((s.modPort j (fun p => { p with retryDue := false, nonce := Config.freeBits 128 s.draw })).use 1)
  else .next s

/-- `IDENT`: the port takes the `IDENT` packet that waits in its buffer, and acts on it (09 R266, R267, 14 R416). -/
def execIdent (port : Fin 12) (s : State) : Ans :=
  let j := port.val
  match s.takeIn j (fun _ p => p.kind == 0x30) with
  | none => .next s
  | some (p, s1) =>
    let b := p.body
    let ok := match s.sec.fabricKey with
      | some f => p.tag == linkTag (identKey f (BitVec.ofNat 64 (fieldN b 255 192))) 256 b.toNat
      | none => false
    .next ((s1.modPort j (fun q => { q with peerIdent := b, peerTagOk := ok, peerSeen := true })).identify j)

/-- `IDENT_REFRESH`: every 100 ms a port in `UP` or `QUARANTINE` sends `IDENT` (09 R265). -/
def execIdentRefresh (port : Fin 12) (s : State) : Ans :=
  let p := s.port port.val
  if p.st = .up ∨ p.st = .quarantine then .next (s.sendIdent port.val) else .next s

/-- `RETRAIN_REALIGNED`: a retraining port has realigned, and identifies its peer again (09 R264); with frames of VC0 to VC5 in
its retry buffer it first learns which of them the peer has accepted (log 95). -/
def execRetrainRealigned (port : Fin 12) (s : State) : Ans :=
  let j := port.val
  if (s.port j).st = .retrain then
    let s1 := s.modPort j (fun p => { p with st := .identify })
    .next (if (s.port j).retryBuf.any TxFrame.routed then (s1.modPort j (fun p => { p with identDue := true })).sendEmpty j else s1.sendIdent j)
  else .next s

/-- `RETRAIN_TIMEOUT`: 10 ms in `RETRAIN`: the port trains anew, with a fresh nonce (09 R264, 14 R416); failover clears its
retry buffer (`State.failOver`). -/
def execRetrainTimeout (port : Fin 12) (s : State) : Ans :=
  let j := port.val
  if (s.port j).st = .retrain then
    .next ((s.modPort j (fun p => { p with st := .training, identDue := false, retryDue := false, nonce := Config.freeBits 128 s.draw })).use 1)
  else .next s

/-- `LINK_FENCED`: a port that has entered `RETRAIN` eight times within 60 s, or whose P-die is fenced, is fenced
(09 R264). -/
def execLinkFenced (port : Fin 12) (s : State) : Ans :=
  let j := port.val
  let p := s.port j
  if 8 ≤ (p.retrainAt.filter (fun t => decide (s.now < t + 60 * 10 ^ 9))).length ∨ (s.die (84 + portP j)).fenced then .next (s.fencePort j)
  else .next s

/-! ### Port pairs (09 R269 to R271) -/

/-- The link key of a port (14 R416). -/
def State.portLinkKey (s : State) (j : Nat) : BitVec 256 :=
  let p := s.port j
  linkKey (s.sec.fabricKey.getD 0) s.sec.serial (BitVec.ofNat 64 (fieldN p.peerIdent 255 192)) p.nonce (BitVec.ofNat 128 (fieldN p.peerIdent 127 0))

/-- A packet goes on from a port by another: the channel that it takes there (09 R274). -/
def State.onward (s : State) (inPort out : Nat) (p : Packet) : Packet :=
  let upper := portAxis inPort == portAxis out && p.vc % 2 == 1
  p.setField 123 121 (s.nextVc out p upper)

/-- Where a unicast packet of the control or data class leaves, when it is not for this module: a granted owner's packet
keeps its direction, and one of the module's own partition goes by dimension order. -/
def State.unicastOut (s : State) (j : Nat) (p : Packet) : Option Nat :=
  if s.isTransit p then some (s.carrier (portFor (portAxis j) (!portNeg j) (p.slot % 2 == 1))) else s.routePort p.dst p.slot

/-- Where a multicast packet goes on along its axis (09 R279): the port, or none where its span is finished; `end_` says that
an open line ends before the span does. -/
def State.multicastOut (s : State) (p : Packet) : Option Nat :=
  if !s.isTransit p ∧ xyzOn p.dst p.mcAxis = s.coord p.mcAxis then none
  else some (s.carrier (portFor p.mcAxis p.mcNeg (p.slot % 2 == 1)))

/-- Where a packet goes on, if it does. -/
def State.wayOut (s : State) (j : Nat) (p : Packet) : Option Nat := if p.mc then s.multicastOut p else s.unicastOut j p

/-- 09 R270: a port that has left `UP` holds part of a packet.  A router that could send the whole packet on has begun to: it
completes it with zero flits, the last one marked in `ABORT_SLOT`; any other part is discarded. -/
def State.abortPart (s : State) (j : Nat) : State :=
  let part := (s.port j).rxPart
  let s1 := s.modPort j (fun p => { p with rxPart := [] })
  match part with
  | [] => s
  | h :: pl =>
    let p : Packet := { head := h, payload := pl ++ List.replicate (flitsIn h - part.length) 0, aborted := true }
    match s.wayOut j p with
    | none => s1
    | some out =>
      let q := s.onward j out p
      if !p.reserved ∧ p.vc < 6 ∧ s.canSend out q ∧ !s.leveeStops out q.vc then s1.transmit out q else s1

/-- `PARTNER_TAKEOVER`: a port is out of `UP`, for 1 ms where it retrains: its partner carries the direction, and the last
frame accepted on it is reported over the partner, a packet begun being ended (09 R269, R270; the layout of `LINK_CTRL` is
log 21).  On a link at minor revision 1 a retraining port waits with a packet it has in part (09 R267). -/
def execPartnerTakeover (port : Fin 12) (s : State) : Ans :=
  let j := port.val
  let k := portPartner j
  let p := s.port j
  if p.st = .up ∨ p.st = .identify ∨ p.st = .dark ∨ p.told ∨ (s.port k).st ≠ .up
      ∨ (p.st = .retrain ∧ p.revMinor.toNat < 2 ∧ p.rxPart ≠ []) then .next s
  else
    let body := pack 256 [(11, 0, p.rxSeq)]
    let s1 := (s.abortPart j).modPort j (fun p => { p with byPartner := true, told := true })
    .next (s1.sendHop k 0x31 (s.portLinkKey k) 256 body.toNat body)

/-- The packets of VC0 to VC5 of frames after a given one, each once (09 R270). -/
def unreported (fs : List TxFrame) (seq : Nat) : List Packet :=
  let rest := (ackFrames fs seq).filter TxFrame.routed
  (rest.zipIdx.filter (fun e => e.1.nth == 0 || e.2 == 0)).map (fun e => e.1.pkt)

/-- 09 R270: the other end has reported the last frame that it accepted on port `j`.  Every packet with a flit beyond that
frame goes over the partner again, ahead of what waits for `j`; the flits that were never accepted hold no credit of `j`, and
the management frames behind them take their numbers. -/
def State.failOver (s : State) (j seq : Nat) : State :=
  let k := portPartner j
  let p := s.port j
  let again := unreported p.retryBuf seq ++ unreported p.kept 4096
  let back := fun (v : Nat) => ((again.filter (fun x => x.vc == v)).map (fun x => x.payload.length + 1)).sum
  let s1 := s.modPort j (fun q =>
    let q1 := { q with retryBuf := ackFrames q.retryBuf seq }.layAside
    { q1 with
      byPartner := true
      failedOver := true
      kept := []
      credits := q.credits.zipIdx.map (fun c => c.1 + back c.2)
      txQ := q.txQ.filter (fun x => decide (6 ≤ x.vc)) })
  let s2 := s1.modPort k (fun q => { q with
    byPartner := false
    failedOver := false
    txQ := again ++ p.txQ.filter (fun x => decide (x.vc < 6)) ++ q.txQ })
  ((s2.resend j).pump j).pump k

/-- `LINK_CTRL`: the report of the other end arrives over a port: its partner fails over to it (09 R270), once for each time
that the partner leaves `UP`. -/
def execLinkCtrl (port : Fin 12) (s : State) : Ans :=
  let k := port.val
  let j := portPartner k
  match s.takeIn k (fun _ p => p.kind == 0x31) with
  | none => .next s
  | some (p, s1) =>
    if s.sec.fabricKey.isNone ∨ p.tag ≠ linkTag (s.portLinkKey k) 256 p.body.toNat ∨ (s.port j).failedOver then .next s1
    else .next (s1.failOver j (fieldN p.body 11 0)).settle

/-- `FAILBACK`: a returned port takes its traffic back once what its partner has queued of it is acknowledged
(09 R271). -/
def execFailback (port : Fin 12) (s : State) : Ans :=
  let j := port.val
  let q := s.port (portPartner j)
  let mine := fun (p : Packet) => p.slot % 2 == j % 2 && decide (p.vc < 6)
  if (s.port j).st = .up ∧ (s.port j).byPartner ∧ !q.txQ.any mine ∧ !q.retryBuf.any (fun f => mine f.pkt) then
    .next ((s.modPort j (fun p => { p with byPartner := false, failedOver := false })).pump j)
  else .next s

/-- `NEIGHBOUR_LOST`: both ports of a direction have been out of `UP` for 10 ms: the neighbour is lost, the packets held
for it are dropped, the collectives that pass it complete with `PEER_LOST`, and the fault scope acts (11 R343). -/
def execNeighbourLost (dir : Fin 6) (s : State) : Ans :=
  let a := 2 * dir.val
  if (s.port a).st = .up ∨ (s.port (a + 1)).st = .up ∨ s.part.lost.getLsbD dir.val ∨ s.pkg.st = .standby then .next s
  else
    let drop := fun (s : State) (j : Nat) =>
      ((s.port j).unsent ++ (s.port j).txQ.filter (fun p => decide (p.vc < 6))).foldl (fun s p => s.dropAt j p.vc)
        (s.modPort j (fun p => { p.layAside with kept := [], txQ := p.txQ.filter (fun x => decide (6 ≤ x.vc)) }))
    let s1 := drop (drop s a) (a + 1)
    let s1 := if s.usesLink (dir.val / 2) (dir.val % 2 == 1) then
        s1.failWhere (fun o => s.collFlying o && (collAxes o.desc).contains (dir.val / 2)) .peerLost else s1
    let s2 : State := { s1 with part := { s1.part with lost := s1.part.lost ||| (1#6 <<< dir.val) }
                                scopeDue := s1.scopeDue ++ [⟨3, none, none⟩] }
    .next (s2.partEvt 2 3 a none 0).settle

/-! ### Routing (09 R272 to R276, R279, R280; 11 R334) -/

/-- The oldest packet of the control or data class on a channel of a port, with the state that it leaves. -/
def State.headIn (s : State) (j v : Nat) : Option (Packet × State) := s.takeIn j (fun w p => w == v && kindClass p.kind != some 2)

/-- A packet at the head of an input channel goes on by a port: it stays where it is until that port can send all of it, its
channel at the next module included, and leaves the buffer then (09 R258, R280); a levee drops it (11 R339).  `s1` is the
state without the packet. -/
def State.goOn (s s1 : State) (j out : Nat) (p : Packet) : State :=
  let q := s.onward j out p
  if s.leveeStops out q.vc then s1.dropAt out q.vc
  else if s.canSend out q then s1.transmit out q
  else s

/-- A packet of the module's partition is delivered here; an aborted one is dropped (09 R270). -/
def State.deliver (s : State) (j : Nat) (p : Packet) : State := if p.aborted then s else { s with rxSealed := s.rxSealed ++ [(j, p)] }

/-- Route the oldest packet of a channel of a port, if it is unicast, and goes across the panel (`across`) or does not. -/
def State.route (s : State) (j v : Nat) (across : Bool) : State :=
  if (s.port j).st = .identify then s
  else match s.headIn j v with
    | none => s
    | some (p, s1) =>
      if p.mc then s
      else match s.unicastOut j p with
        | none => if across then s else s1.deliver j p
        | some out => if (portP out != portP j) == across then s.goOn s1 j out p else s

/-- `PACKET_ROUTE`: the oldest packet of a channel of a port, a unicast one, is delivered here, or forwarded to a port of the
same P-die (09 R272). -/
def execPacketRoute (port : Fin 12) (vc : Fin 6) (s : State) : Ans := .next (s.route port.val vc.val false)

/-- `PASSAGE`: the oldest packet of a channel of a port, a unicast one, crosses the panel to the P-die of the port by which it
leaves, when that can take all of it (09 R280). -/
def execPassage (port : Fin 12) (vc : Fin 6) (s : State) : Ans := .next (s.route port.val vc.val true)

/-- `MULTICAST`: the oldest packet of a channel of a port, a multicast one, is delivered to a module of its partition, and goes
on along its axis until its span is finished (09 R279). -/
def execMulticast (port : Fin 12) (vc : Fin 6) (s : State) : Ans :=
  let j := port.val
  if (s.port j).st = .identify then .next s
  else match s.headIn j vc.val with
    | none => .next s
    | some (p, s1) =>
      let a := p.mcAxis
      let own := !s.isTransit p
      let here := fun (t : State) => if own then t.deliver j p else t
      if !p.mc then .next s
      else match s.multicastOut p with
        | none => .next (here s1)
        | some out =>
          let q := s.onward j out p
          let end_ := own && !s.boxClosed a && (if p.mcNeg then s.rank a == 0 else s.rank a + 1 == s.boxExt a)
          if end_ then .next (here (s1.dropAt j vc.val))
          else if s.canSend out q ∨ s.leveeStops out q.vc then .next (here (s.goOn s1 j out p))
          else .next s

/-! ### Opening (14 R415) -/

/-- The contexts that hold the key of a partition tag, with that key. -/
def State.keysOf (s : State) (tag : Nat) : List (Nat × BitVec 256) :=
  s.ctxs.filterMap (fun e => match e.2.partKey with
    | some (t, k) => if t.toNat = tag then some (e.1, k) else none
    | none => none)

/-- A millrace message from an opened packet (log 21). -/
def mrOfBits (b : BitVec 64) (kind : Nat) (data : BitVec 4096) (c : Nat) (src : BitVec 12) : MrMsg :=
  let row := fieldN b 47 36
  { kind := if kind = 0x20 then .row row data else if kind = 0x21 then .grant else if bitN b 48 then .reject row (bitN b 49) else .ack row
    ctx := c, tile := fieldN b 8 0, entry := fieldN b 16 9, fmt := fieldN b 18 17, fromTile := fieldN b 27 19,
    fromEntry := fieldN b 35 28, peer := some src }

/-- An opened packet reaches its agent: millrace messages their tile, the others the engines. -/
def State.opened (s : State) (c : Nat) (p : Packet) : State :=
  if [0x20, 0x21, 0x22].contains p.kind then
    let b : BitVec 64 := BitVec.ofNat 64 (if p.isData then p.metaF.toNat else p.body.toNat)
    let owner := match s.ctxOfTile (fieldN b 8 0) with
      | some x => if ((s.ctx? x).map (·.ptag.toNat)) == some p.ptag then x else c
      | none => c
    { s with mrMsgs := s.mrMsgs ++ [mrOfBits b p.kind (BitVec.ofNat 4096 (ofBytes p.bytes)) owner p.src] }
  else { s with rxOpen := s.rxOpen ++ [(c, p)] }

/-- `PACKET_OPEN`: delivered packet `k` is opened under the nearest generation of matching parity, or dropped and counted
in `SEAL_FAIL` of the P-die at which it arrived (14 R415). -/
def execPacketOpen (k : Nat) (s : State) : Ans :=
  match s.rxSealed[k]? with
  | none => .next s
  | some (j, p) =>
    let s1 : State := { s with rxSealed := s.rxSealed.eraseIdx k }
    let g := openGen s.now (fieldN p.head 39 39 == 1)
    match (s.keysOf p.ptag).findSome? (fun e => (p.open? (genKey e.2 g p.ptag)).map (fun q => (e.1, q))) with
    | some (c, q) => .next (s1.opened c q)
    | none => .next { s1 with sec := { s1.sec with sealFail := modAt s1.sec.sealFail (portP j) (· + 1) } }

end Sys2Proof.Machine
end

