-- ==== Sys2Proof/Machine/Partition.lean ====
section
/-! DEFINITION. Commands on fabric, partition, links, grants and levees (11 R322, R323, R325, R329, R333, R338, R340,
R341; 09 R264; 12 R373; 14 R416, R417). -/

namespace Sys2Proof.Machine

/-- `PART_SET_COORD`: `FAB_CFG` is written (11 R322). -/
def execPartSetCoord (sess : Fin 64) (seq : W32) (s : State) : Ans :=
  aidar sess seq 0x0301 s (fun _ r =>
    let v : W32 := BitVec.ofNat 32 (r.num 0 4) &&& ~~~(0xF8#32)
    let bad := [0, 1, 2].any (fun a => decide (coordOf v 19 a + 1 ≤ coordOf v 31 a))
    checked [badArg bad, s.pkgCheck r, (s.ptag != 0, .stateConflict, 0x50)] (.ok { s with part := { s.part with fabCfg := v } }))

/-- 11 R325, R329: a partition configuration that `PART_JOIN` refuses. -/
def State.joinBad (s : State) (v : W64) : Bool :=
  let axisBad := fun (a : Axis) =>
    let n := s.fabExt a
    let e := cfgExt v a
    let o := cfgOrg v a
    let m := cfgMode v a
    let closed := s.fabClosed a
    decide (n < e) || (m == 3) || (m == 1 && (e != n || !closed)) || (m == 2 && (decide (n ≤ e) || !closed || !cfgReplay v))
      || (decide (n < o + e) && !closed) || ((cfgRole v a == 0) != (e == 1)) || decide (e ≤ (s.coord a + n - o % n) % n)
  let roles := [cfgRole v 0, cfgRole v 1, cfgRole v 2]
  [0, 1, 2].any axisBad || decide (1 < roles.count 1) || decide (1 < roles.count 3)

/-- A context is bound to the present partition. -/
def State.onPartition (s : State) : Bool :=
  s.ptag != 0 && s.ctxs.any (fun e => e.2.st != .created && e.2.ptag.toNat == s.ptag)

/-- `PART_CFG` without its roles. -/
def cfgSansRoles (v : W64) : W64 := v &&& ~~~(0x3F000#64)

/-- `PART_JOIN`: `PART_CFG` is written; tag 0 leaves the partition, and clears the rest with it (11 R323, R325, R329). -/
def execPartJoin (sess : Fin 64) (seq : W32) (s : State) : Ans :=
  aidar sess seq 0x0302 s (fun _ r =>
    let v0 : W64 := BitVec.ofNat 64 (r.num 0 8) &&& ~~~(0x7FF#64)
    let v := if cfgPtag v0 = 0 then 0 else v0
    checked [badArg (v != 0 && s.joinBad v), s.pkgCheck r,
        (s.onPartition && cfgSansRoles v != cfgSansRoles s.part.partCfg, .stateConflict, 0x52)]
      (.ok { s with part := { s.part with partCfg := v } }))

/-- The module holds a transit grant. -/
def State.holdsGrant (s : State) : Bool := s.handles.live.any (fun e => match e.2 with | .grant _ => true | _ => false)

/-- `FAULT_MODE_SET` (11 R338, R341). -/
def execFaultModeSet (sess : Fin 64) (seq : W32) (s : State) : Ans :=
  aidar sess seq 0x0305 s (fun _ r =>
    let m := r.num 0 1
    let transit := [0, 1, 2].any (fun a => cfgMode s.part.partCfg a == 2)
    checked [badArg (decide (1 < m)), s.pkgCheck r, (m == 0 && s.holdsGrant, .stateConflict, 0x53),
        (m == 0 && transit, .stateConflict, 0x55)]
      (.ok { s with part := { s.part with partCfg := (s.part.partCfg &&& ~~~(0x800#64)) ||| (BitVec.ofNat 64 m <<< 11) } }))

/-- `LEVEE_RAISE`: levees on the named ports are raised or lowered, unless one would be raised on a port of an axis with a
grant (11 R340). -/
def execLeveeRaise (sess : Fin 64) (seq : W32) (s : State) : Ans :=
  aidar sess seq 0x0306 s (fun _ r =>
    let m := r.num 0 2
    let act := r.num 2 1
    let ports := (List.range 12).filter (fun j => m.testBit j)
    let granted := s.handles.live.any (fun e => match e.2 with
      | .grant g => ports.any (fun j => portAxis j == fieldN g.body 47 46)
      | _ => false)
    let up := if act = 1 then s.part.levee ||| BitVec.ofNat 12 m else s.part.levee &&& ~~~(BitVec.ofNat 12 m)
    checked [badArg (!r.clean [(0, 3)] || decide (4096 ≤ m) || decide (1 < act)), s.pkgCheck r, (act == 1 && granted, .stateConflict, 0x53)]
      (.done { s with part := { s.part with levee := up } } .ok (up.setWidth 3456) 2))

/-- `SHARE` of the grants on an axis, with a new one. -/
def State.newShare (s : State) (b : BitVec 128) : Nat := s.shareOn (fieldN b 47 46) + fieldN b 45 40

/-- Grants held. -/
def State.grants (s : State) : Nat := (s.handles.live.filter (fun e => match e.2 with | .grant _ => true | _ => false)).length

/-- A signature over the low bits of a request's body, made with the operator root key in effect (14 R417, R419). -/
def State.operatorSigned (s : State) (bits msg : Nat) (sig : Nat) : Bool :=
  match s.sec.owner with
  | none => false
  | some o => Config.ecdsaOk o.key bits msg (BitVec.ofNat 768 sig)

/-- `TRANSIT_GRANT`: a signed grant is verified and installed, and its handle returned (11 R333). -/
def execTransitGrant (sess : Fin 64) (seq : W32) (s : State) : Ans :=
  aidar sess seq 0x0304 s (fun _ r =>
    let b : BitVec 128 := BitVec.ofNat 128 (r.num 0 16)
    let tag := fieldN b 63 48
    let last : Bool := match smGet? s.part.issues tag with
      | some i => decide (fieldN b 31 0 ≤ i.toNat)
      | none => false
    let new := s.newHandle (.grant { body := b })
    checked [(!s.operatorSigned 128 b.toNat (r.num 16 96), .authFailed, 0),
        badArg (fieldN b 127 64 != s.sec.serial.toNat || fieldN b 47 46 == 3 || decide (50 < fieldN b 45 40) || fieldN b 39 32 != 0),
        (last, .denied, 0), s.pkgCheck r, ((s.ptag != 0 && !cfgReplay s.part.partCfg) || tag == s.ptag, .stateConflict, 0x54),
        (decide (8 ≤ s.grants) || decide (50 < s.newShare b) || new.isNone, .noResource, 0)]
      (match new with
        | some (h, s1) => .done { s1 with part := { s1.part with issues := smPut s1.part.issues tag (BitVec.ofNat 32 (fieldN b 31 0)) } } .ok
            (h.setWidth 3456) 4
        | none => .refuse .noResource 0))

/-! ### LINK_EXPECT (09 R264, 12 R373, 14 R416) -/

/-- Action of the entry of port `j`. -/
def Req.linkAct (r : Req) (j : Nat) : Nat := r.num (28 + 24 * j) 1

/-- The entry of port `j`. -/
def Req.linkEntry (r : Req) (j : Nat) : Expect :=
  { serial := BitVec.ofNat 64 (r.num (16 + 24 * j) 8), coord := BitVec.ofNat 12 (r.num (24 + 24 * j) 2), ptag := BitVec.ofNat 16 (r.num (26 + 24 * j) 2) }

/-- Record in flash which ports are fenced (13 R383 step 10). -/
def State.recordFence (s : State) (j : Nat) (on : Bool) : State :=
  s.modRepair (fun r => { r with fenced := if on then r.fenced ||| (1#12 <<< j) else r.fenced &&& ~~~(1#12 <<< j) })

/-- Release the fence of a port: it returns to `DARK`, and its next training returns its lanes to service (09 R264,
17 R492). -/
def State.releasePort (s : State) (j : Nat) : State :=
  if (s.port j).st = .fenced ∧ !(s.die (84 + portP j)).fenced then
    (s.modPort j (fun p => { p with st := .dark, retrainAt := [], serviced := true })).recordFence j false
  else s

/-- Apply the entry of a port; a quarantined port checks its peer anew (09 R264). -/
def State.linkAction (s : State) (r : Req) (j : Nat) : State :=
  match r.linkAct j with
  | 1 =>
    let s1 := s.modPort j (fun p => { p with expect := some (r.linkEntry j) })
    if (s.port j).st = .quarantine ∧ (s.port j).peerSeen ∧ s1.identMatches j then s1.identify j else s1
  | 2 => s.modPort j (fun p => { p with expect := none })
  | 3 => (s.fencePort j).recordFence j true
  | 4 => s.releasePort j
  | _ => s

/-- `LINK_EXPECT`: the entries of the named ports are applied, and a fabric key that is not zero is installed. -/
def execLinkExpect (sess : Fin 64) (seq : W32) (s : State) : Ans :=
  aidar sess seq 0x0303 s (fun _ r =>
    let m := r.num 0 2
    let ports := (List.range 12).filter (fun j => m.testBit j)
    let key := r.num 400 32
    let named := [(0, 2), (400, 32)] ++ (List.range 12).map (fun j => (16 + 24 * j, 13))
    checked [badArg (!r.clean named || decide (4096 ≤ m) || ports.any (fun j => decide (4 < r.linkAct j))), s.pkgCheck r]
      (let s1 : State := if key = 0 then s else { s with sec := { s.sec with fabricKey := some (BitVec.ofNat 256 key) } }
       .ok (ports.foldl (fun s j => s.linkAction r j) s1).settle))

end Sys2Proof.Machine
end

