-- ==== Sys2Proof/Machine/Manager.lean ====
section
/-! DEFINITION. Managers and their images: verification, crashes and restarts, staging and activation (13 R377 to R394;
14 R401 to R404). -/

namespace Sys2Proof.Machine

/-! ### Managers -/

/-- A manager: 0 to 87 that of a die, 88 the package manager. -/
def State.mgr (s : State) (n : Nat) : Mgr := if n = 88 then s.pkg.mgr else (s.die n).mgr

/-- Change a manager. -/
def State.modMgr (s : State) (n : Nat) (f : Mgr → Mgr) : State :=
  if n = 88 then s.modPkg (fun p => { p with mgr := f p.mgr }) else s.modDie n (fun d => { d with mgr := f d.mgr })

/-- The die that an event about a manager names. -/
def State.mgrDie (s : State) (n : Nat) : Nat := if n = 88 then s.primaryDie else n

/-- Image class of a manager (13 R386). -/
def mgrClass (n : Nat) : Nat := if n < 64 then 3 else if n < 84 then 2 else if n < 88 then 1 else 0

/-- The managers of an image class. -/
def classMgrs (k : Nat) : List Nat := (List.range 89).filter (fun n => mgrClass n == k)

/-- The die of a manager is enabled: an `ENABLED` C-die, or another die that is not fenced. -/
def State.dieOn (s : State) (n : Nat) : Bool := if n < 64 then (s.die n).cstate == .enabled else n == 88 || !(s.die n).fenced

/-- The managers of the enabled dies of a class; for `PKG`, the package manager. -/
def State.enabledMgrs (s : State) (k : Nat) : List Nat := (classMgrs k).filter s.dieOn

/-- Those of them that are not held in reset. -/
def State.liveMgrs (s : State) (k : Nat) : List Nat := (s.enabledMgrs k).filter (fun n => (s.mgr n).st != .held)

/-- Dies of a class that run a slot: `DIES_ON_A` and `DIES_ON_B` (13 R390). -/
def State.diesOn (s : State) (k : Nat) (slot : Bool) : Nat :=
  ((classMgrs k).filter (fun n => (s.mgr n).st != .held && (s.mgr n).slot == slot)).length

/-! ### Images (13 R386; 14 R401 to R404) -/

/-- Largest image of a class, in bytes (13 R386). -/
def classLimit (k : Nat) : Nat := (if k = 0 then 32 else if k = 4 then 64 else 8) * 2 ^ 20

/-- `VERSION` of an image. -/
def Image.version (i : Image) : Nat := fieldN i.header 95 64

/-- `SVN` of an image. -/
def Image.svn (i : Image) : Nat := fieldN i.header 63 56

/-- Bytes of the signature block: the ECDSA signature, then the LMS signature (14 R401). -/
def sigBytes : Nat := 96 + 1772

/-- The image that bytes hold: header, payload, and signature block (14 R401). -/
def readImage (bs : List Byte) : Image :=
  let sig := bs.drop (bs.length - sigBytes)
  { header := BitVec.ofNat 512 (ofBytes (bs.take 64))
    payload := (bs.drop 64).take (bs.length - 64 - sigBytes)
    ecdsa := BitVec.ofNat 768 (ofBytes (sig.take 96))
    lms := BitVec.ofNat 14176 (ofBytes (sig.drop 96)) }

/-- Step 1 of 14 R402: `MAGIC`, `CLASS`, `LENGTH` and the reserved bits are valid; `SVN` runs from 0 to 64 (14 R401). -/
def Image.headerOk (i : Image) (k : Nat) : Bool :=
  let h := i.header
  fieldN h 31 0 == 0x4B594231 && fieldN h 55 52 == k && decide (fieldN h 127 96 ≤ classLimit k) && fieldN h 51 32 == 0
    && fieldN h 127 96 == i.payload.length && decide (i.svn ≤ 64)

/-- Steps 2 and 3 of 14 R402: both signatures of the header verify, under keys in flash whose digests the mask ROM holds. -/
def State.signed (s : State) (i : Image) : Bool :=
  Config.sha384 768 s.pkg.imageKey.toNat == Config.romImageKeys.1 && Config.ecdsaOk s.pkg.imageKey 512 i.header.toNat i.ecdsa
    && Config.sha384 448 s.pkg.imageKeyLms.toNat == Config.romImageKeys.2 && Config.lmsOk s.pkg.imageKeyLms i.header i.lms

/-- Step 5 of 14 R402: the SHA-384 of the payload equals `PAYLOAD_HASH`. -/
def Image.hashOk (i : Image) : Bool :=
  (Config.sha384 (8 * i.payload.length) (ofBytes i.payload)).toNat == fieldN i.header 511 128

/-- An image class. -/
def State.fwClass (s : State) (k : Nat) : FwClass := s.pkg.fw.getD k { slotA := none, slotB := none }

/-- Change an image class. -/
def State.modFw (s : State) (k : Nat) (f : FwClass → FwClass) : State := s.modPkg (fun p => { p with fw := modAt p.fw k f })

/-- The image of a slot: false A, true B. -/
def FwClass.image (c : FwClass) (slot : Bool) : Option Image := if slot then c.slotB else c.slotA

/-- Write the image of a slot. -/
def FwClass.setImage (c : FwClass) (slot : Bool) (i : Option Image) : FwClass :=
  if slot then { c with slotB := i } else { c with slotA := i }

/-- An image of a class passes verification (14 R402). -/
def State.verifies (s : State) (k : Nat) (i : Image) : Bool :=
  i.headerOk k && s.signed i && decide ((s.fwClass k).arb ≤ i.svn) && i.hashOk

/-- The image of a slot passes verification. -/
def State.slotOk (s : State) (k : Nat) (slot : Bool) : Bool := ((s.fwClass k).image slot).any (s.verifies k)

/-- The measurement of the image of a slot (14 R404). -/
def State.measure (s : State) (k : Nat) (slot : Bool) : BitVec 384 :=
  match (s.fwClass k).image slot with
  | some i => Config.sha384 512 i.header.toNat
  | none => 0

/-- A manager begins to run the image of a slot, which has been verified. -/
def State.runSlot (s : State) (n : Nat) (slot : Bool) : State :=
  s.modMgr n (fun m => { m with
    st := .running, slot := slot, stale := false, startAt := s.now, trial := none, failedOnce := false, rollBack := false
    fallback := false, meas := s.measure (mgrClass n) slot, core := {} })

/-- The slot that a die ran last goes into the repair record (13 R386, 17 R483). -/
def State.recordSlot (s : State) (n : Nat) (slot : Bool) : State := s.modRepair (fun r => { r with slots := r.slots.set n slot })

/-- 13 R384: start a manager on a slot, or else on the other one, as `FALLBACK`; none when both images fail. -/
def State.startOn (s : State) (n : Nat) (want : Bool) : Option State :=
  let k := mgrClass n
  if s.slotOk k want then some (s.runSlot n want)
  else if s.slotOk k (!want) then
    some (((s.runSlot n (!want)).modMgr n (fun m => { m with fallback := true })).event 0x0504 2 (s.mgrDie n) none 0)
  else none

/-- 13 R384: start a manager on its recorded slot, or else on the other one. -/
def State.startMgr (s : State) (n : Nat) : Option State := s.startOn n (s.pkg.record.slots.getD n false)

/-! ### Fencing a die (17 R474) -/

/-- Fence a die of any class, but for a `RETIRED` C-die (17 R474). -/
def State.fenceDie (s : State) (d : Nat) : State :=
  if d < 64 then s.fenceCDie d
  else
    let s1 := (s.modDie d (fun x => { x with fenced := true })).holdMgr d
    if d < 84 then s1
    else
      let p := d - 84
      let s2 := ((List.range 12).filter (fun j => portP j == p)).foldl State.fencePort s1
      let s3 := [p, p + 4].foldl (fun s j => s.modEth j (fun e => { e with up := false })) s2
      ((s3.sess.filter (fun e => e.2.port % 4 == p)).map (·.1)).foldl State.endSession s3

/-- The faults that fencing a die is for the fault scope (11 R342, 17 R474). -/
def State.fenceScope (s : State) (d : Nat) : State :=
  if d < 64 then (if s.carries d then { s with scopeDue := s.scopeDue ++ [⟨0, none, some d⟩] } else s)
  else { s with scopeDue := s.scopeDue ++ [⟨2, none, some d⟩] }

/-! ### Sparing targets that fail (17 R485) -/

/-- A target fails its preparation: it is fenced and marked `FAILED`, and the sparing goes on with the next qualifying
die; without one, or where the command named the target, it ends, and its tiles issue again (17 R485). -/
def State.targetFails (s : State) (x : Sparing) (cause : HealthCause) : State :=
  let s1 := ((s.fenceDie x.target).directHealth (dieObj x.target) .failed cause).event 0x0584 2 x.target none 0
  let rest := s1.pkg.sparings.filter (· != x)
  let s2 := s1.modPkg (fun p => { p with sparings := rest })
  match (if x.fixedTarget then none else s2.chooseTarget x.src x.tile.isSome) with
  | some t => s2.modPkg (fun p => { p with sparings := p.sparings ++
      [{ x with target := t, place := (s2.openTiles t).headD 0, phase := .preparing }] })
  | none =>
    let s3 := (s2.boundTo x.src x.tile).foldl (fun s l => s.modTileL l (fun t => { t with moving := false })) s2
    s3.resolve (fun q => q.opcode == 0x0512 && q.num 0 1 == x.src) .noResource 0 0 0

/-! ### Crashes and restarts (13 R379, R390 to R394) -/

/-- A manager of a wave reports that it runs the new image, which has been verified: it is the slot that its die ran
last (13 R388). -/
def State.reports (s : State) (n : Nat) : State :=
  let m := s.mgr n
  match m.st, m.trial with
  | .activating, some old =>
    if s.slotOk (mgrClass n) (!old) then ((s.runSlot n (!old)).modMgr n (fun m => { m with trial := some old })).recordSlot n (!old) else s
  | .running, some old => (s.modMgr n (fun m => { m with failedOnce := false })).recordSlot n (!old)
  | _, _ => s

/-- Waves of every activation in progress are cancelled; the dies already restarted keep the new image
(13 "When manager events meet"). -/
def State.cancelWaves (s : State) : State :=
  let s1 := s.pkg.fw.foldl (fun s c => if c.act = 1 then (c.wave.filter (· != 88)).foldl State.reports s else s) s
  s1.modPkg (fun p => { p with fw := p.fw.map (fun c => if c.act = 1 then { c with act := 0, todo := [], wave := [], cut := false } else c) })

/-- Crashes of the trailing 10 min, the present one among them (13 R392). -/
def Mgr.crashWindow (m : Mgr) (now : Nat) : List Nat := m.crashAt.filter (fun t => decide (now < t + 600 * 10 ^ 9)) ++ [now]

/-- The manager is on trial with a new image: it has not reported that it runs, or started within the last 60 s
(13 R390). -/
def Mgr.onTrial (m : Mgr) (now : Nat) : Bool := m.trial.isSome && (m.st != .running || decide (now < m.startAt + 60 * 10 ^ 9))

/-- A manager is reset by hardware: a crash is counted (also in the health of its die, 16 R470), its telemetry is stale, and it restarts (13 R379, R391 to
R394).  On trial, a first failure within its wave restarts it on the new image, and any other returns it to its previous
slot (13 R390). -/
def State.crash (s : State) (n : Nat) : State :=
  let m := s.mgr n
  if m.st = .held then s
  else
    let win := m.crashWindow s.now
    let inWave := s.pkg.fw.any (fun c => c.wave.contains n)
    let trial := m.onTrial s.now
    let s1 := s.modMgr n (fun m => { m with
      st := .restarting
      stale := true
      crashes := min (m.crashes + 1) 0xFFFFFFFF
      crashAt := win
      trial := if trial then m.trial else none
      failedOnce := trial && inWave
      rollBack := m.rollBack || (trial && (!inWave || m.failedOnce) && n != 88) })
    let s2 := if n = 88 then s1.cancelWaves
      else
        let seen := if m.stale then smGet {} s.telem.held n else s.capture (fun o => objDie o == some n)
        ({ s1 with telem := { s1.telem with held := smPut s1.telem.held n seen } } : State).addScore (dieObj n) 100
    let s3 :=
      if win.length ≠ 3 then s2
      else if n = 88 then (s2.modPkg (fun p => { p with crashLimit := true })).event 0x0509 2 s2.primaryDie none 0
      else
        let a := (s2.directHealth (dieObj n) .suspect .crashLimit).event 0x0509 2 n none 0
        match a.pkg.sparings.find? (fun x => x.target == n && x.phase == .preparing) with
        | some x => a.targetFails x .crashLimit
        | none => a
    s3.settle

/-- `WATCHDOG_EXPIRY`: a manager has not serviced its watchdog for 10 ms (13 R379). -/
def execWatchdogExpiry (mgr : Fin 89) (s : State) : Ans := .next (s.crash mgr.val)

/-- `UNRECOVERABLE_TRAP`: a manager takes an unrecoverable trap (13 R379). -/
def execUnrecoverableTrap (mgr : Fin 89) (s : State) : Ans := .next (s.crash mgr.val)

/-- A manager is in the wave of an activation in progress. -/
def State.inWave (s : State) (n : Nat) : Bool := s.pkg.fw.any (fun c => c.act != 0 && c.wave.contains n)

/-- A die of which both images fail is held in reset: it is fenced, but for the primary die (13 R384). -/
def State.bothFail (s : State) (n : Nat) : State :=
  if n = s.primaryDie then s.modMgr n Mgr.hold else ((s.fenceDie n).fenceScope n).settle

/-- `MGR_RESTARTED`: a crashed die manager runs again: on the new image, once verified, where it failed once within its
wave, and otherwise from its recorded slot (13 R384, R391); a die of which both images fail is fenced. -/
def execMgrRestarted (die : Fin 88) (s : State) : Ans :=
  let n := die.val
  let m := s.mgr n
  if m.st ≠ .restarting ∨ m.rollBack then .next s
  else match m.trial with
    | some old =>
      if s.slotOk (mgrClass n) (!old) then
        let s1 := ((s.runSlot n (!old)).modMgr n (fun m => { m with trial := some old, failedOnce := true })).event 0x0508 2 n none 0
        .next (if s.inWave n then s1 else s1.reports n)
      else .next s
    | none => match s.startMgr n with
      | some s1 => .next (s1.event 0x0508 2 n none 0)
      | none => .next (s.bothFail n)

/-! ### Activation (13 R388 to R390; 14 R403) -/

/-- A condition under which activations wait: the weir is in emergency, or a cause of R382 holds (13 R389). -/
def State.emergency (s : State) : Bool := s.power.emerg || s.power.inputRange || s.dies.any (·.trip)

/-- The requests of `FW_ACTIVATE` of a class. -/
def actReq (k : Nat) (q : Req) : Bool := q.opcode == 0x0502 && q.num 0 1 == k

/-- Every enabled die of a class runs the slot that is not its boot slot. -/
def State.allOn (s : State) (k : Nat) (slot : Bool) : Bool :=
  (s.enabledMgrs k).all (fun n => (s.mgr n).st == .running && (s.mgr n).slot == slot && s.pkg.record.slots.getD n false == slot)

/-- Some enabled die of a class ran the slot last that is not its boot slot: an image is staged there, or the class is
mixed (13 R388, "When manager events meet"). -/
def State.mixed (s : State) (k : Nat) : Bool :=
  let new := !(s.fwClass k).bootSlot
  (s.enabledMgrs k).any (fun n => s.pkg.record.slots.getD n false == new)

/-- The other slot becomes the boot slot of a class, once every enabled die of it runs it: fuse bits are burned up to
its `SVN`, `STAGED` clears, and `FW_ACTIVATED` is raised (13 R386, R388, 14 R403). -/
def State.promote (s : State) (k : Nat) : State :=
  let c := s.fwClass k
  let new := !c.bootSlot
  if (c.staged ∨ s.mixed k) ∧ s.allOn k new then
    (s.modFw k (fun c => { c with
      bootSlot := new
      staged := false
      arb := max c.arb (min 64 (((c.image new).map (·.svn)).getD 0)) })).event 0x0501 0 0 none (pack 3328 [(7, 0, k)])
  else s

/-- Boot slots follow the dies that are left when one is fenced or retired (13 R386, R388). -/
def State.followBoot (s : State) : State := ((List.range 6).filter s.mixed).foldl State.promote s

/-- An activation ends.  Its request completes with `ST_OK`; where waves have been cancelled the spec states no status,
so it is a free value. -/
def State.endActivation (s : State) (k : Nat) : State :=
  let cut := (s.fwClass k).cut
  let s1 := s.modFw k (fun c => { c with act := 0, todo := [], wave := [], cut := false })
  let s2 := if cut then (s1.resolveCode (actReq k) (Config.freeBits 16 s.draw) 0 0 0).use 1 else s1.resolve (actReq k) .ok 0 0 0
  s2.promote k

/-- The next wave starts: at most eight managers, in ascending die ID; the package manager restarts itself
(13 R388). -/
def State.startWave (s : State) (k : Nat) : State :=
  let c := s.fwClass k
  if c.todo.isEmpty then s.endActivation k
  else
    let w := c.todo.take 8
    let s1 := s.modFw k (fun c => { c with act := 1, wave := w, todo := c.todo.drop 8 })
    w.foldl (fun s n => s.modMgr n (fun m => { m with st := .activating, stale := true, trial := some m.slot, failedOnce := false, rollBack := false })) s1

/-- `FW_ACTIVATE`: the named managers restart on the staged slot in waves, or the activation waits for the end of an
emergency (13 R388, R389). -/
def execFwActivate (sess : Fin 64) (seq : W32) (s : State) : Ans :=
  aidar sess seq 0x0502 s (fun _ r =>
    let k := r.num 0 1
    let c := s.fwClass k
    let window := r.num 16 4
    let todo := (s.liveMgrs k).filter (fun n => (n == 88 || (r.num 4 11).testBit n) && (s.mgr n).slot != !c.bootSlot)
    checked [badArg (!r.clean [(0, 1), (4, 11), (16, 4)] || decide (6 ≤ k) || decide (86400 < window)), s.pkgCheck r,
        (!(c.staged || s.mixed k), .stateConflict, 0x58), (c.act != 0, .busy, 0)]
      (let s1 := s.modFw k (fun c => { c with
          todo := todo
          wave := []
          cut := false
          windowEnd := r.takenAt + (if window = 0 then 600 else window) * 10 ^ 9 })
       if s.power.emerg then .done (s1.modFw k (fun c => { c with act := 2 })) .deferred 0 0
       else if todo.isEmpty then .ok (s1.endActivation k)
       else .wait (s1.startWave k)))

/-- A manager of a wave has not restarted: it crashed, or its new image fails verification (13 R390). -/
def State.waveStuck (s : State) (n : Nat) : Bool :=
  let m := s.mgr n
  m.st == .restarting || (m.st == .activating && !(m.trial.any (fun old => s.slotOk (mgrClass n) (!old))))

/-- `ACTIVATION_WAVE`: the managers of the wave in progress report that they run, and the next wave starts, pauses for an
emergency, or the activation ends (13 R388, R389). -/
def execActivationWave (cls : Fin 6) (s : State) : Ans :=
  let k := cls.val
  let c := s.fwClass k
  if c.act ≠ 1 ∨ s.pkg.mgr.st ≠ .running ∨ c.wave.any s.waveStuck then .next s
  else
    let s1 := (c.wave.foldl State.reports s).modFw k (fun c => { c with wave := [] })
    if c.todo.isEmpty then .next (s1.endActivation k)
    else if s.emergency then .next (s1.modFw k (fun c => { c with act := 2 }))
    else .next (s1.startWave k)

/-- `ACTIVATION_RESUME`: the limits have been clear of emergency for 100 ms, and a deferred or paused activation goes on
(13 R389). -/
def execActivationResume (cls : Fin 6) (s : State) : Ans :=
  let k := cls.val
  if (s.fwClass k).act ≠ 2 ∨ s.emergency ∨ s.pkg.mgr.st ≠ .running then .next s
  else .next (s.startWave k)

/-- `FW_ACTIVATION_EXPIRED`: the activation window ends with waves pending: they are cancelled, and the image stays
staged (13 R389). -/
def execFwActivationExpired (cls : Fin 6) (s : State) : Ans :=
  let k := cls.val
  let c := s.fwClass k
  if c.act = 0 ∨ (c.act = 1 ∧ c.todo.isEmpty) then .next s
  else
    let s1 := (s.modFw k (fun c => { c with todo := [], cut := true })).event 0x0502 0 0 none (pack 3328 [(7, 0, k)])
    if c.wave.isEmpty then .next (s1.endActivation k) else .next s1

/-- `FW_ROLLED_BACK`: a manager on a new image has not reported within 50 ms, or crashed within 60 s of its start: it
restarts on its previous slot, which stays the recorded one and is verified like any image, and the waves that remain are
cancelled (13 R384, R390). -/
def execFwRolledBack (die : Fin 88) (s : State) : Ans :=
  let n := die.val
  let m := s.mgr n
  let k := mgrClass n
  match m.trial with
  | none => .next s
  | some old =>
    if m.st ≠ .restarting ∧ m.st ≠ .activating then .next s
    else
      let s0 := match s.startOn n old with
        | none => s.bothFail n
        | some s1 => if m.st = MgrSt.restarting then (s1.recordSlot n old).event 0x0508 2 n none 0 else s1.recordSlot n old
      let s1 := s0.event 0x0503 2 n none 0
      if (s.fwClass k).act = 0 then .next s1
      else
        let s2 := s1.modFw k (fun c => { c with todo := [], wave := c.wave.filter (· != n), cut := true })
        if (s2.fwClass k).wave.isEmpty then .next (s2.endActivation k) else .next s2

/-! ### The module's identity (14 R398) -/

/-- The device-identity key: it derives from the unique device secret alone. -/
def State.deviceKey (s : State) : BitVec 384 := Config.deriveKey s.sec.secret []

/-- The root of trust derives the alias key from the unique device secret and the measurement of the `PKG` image that it
verified, and issues its certificate under the device-identity key (log 97). -/
def State.issueAlias (s : State) : State :=
  let key := Config.deriveKey s.sec.secret [s.pkg.mgr.meas.toNat]
  let subject := Config.ecdsaPublic key
  let cert : Cert := { subject := subject, signature := Config.ecdsaSign s.deviceKey s.draw (toBytes 96 subject.toNat) }
  ({ s with sec := { s.sec with aliasKey := some (key, cert) } } : State).use 1

/-- The certificate chain that the module presents: Penua root, manufacturing CA, device identity, alias. -/
def State.chain (s : State) : List Cert :=
  [s.sec.rootCert, s.sec.caCert, { subject := Config.ecdsaPublic s.deviceKey, signature := s.sec.idSig }]
    ++ (s.sec.aliasKey.map (·.2)).toList

/-- 13 R393: every command that was taken and has no result record completes with `ST_RESTARTED`. -/
def State.abandonRequests (s : State) : State :=
  s.sess.foldl (fun s e => e.2.reqs.foldl (fun s q => s.finishReq e.1 q Status.restarted.code 0 0 0 false) s) s

/-- 13 R393, 14 R407: after a restart of the package manager every session needs `HELLO` again, and an unfinished key
exchange is abandoned. -/
def State.greetAgain (s : State) : State :=
  { s with
    sess := s.sess.map (fun e => (e.1, { e.2 with restarted := true, handshake := 0 })) }

/-- `PKG_MANAGER_RESTART`: the package manager runs again, after a crash from its recorded slot, and after its own
activation on the staged one (13 R388, R393). -/
def execPkgManagerRestart (s : State) : Ans :=
  let old := s.pkg.mgr
  let started : Option State := match old.st with
    | .restarting => (s.startMgr 88).map (fun s1 => s1.event 0x0508 2 s.primaryDie none 0)
    | .activating =>
      let new := !(old.trial.getD false)
      if s.slotOk 0 new then some ((((s.runSlot 88 new).recordSlot 88 new).cancelWaves).promote 0)
      else (s.startMgr 88).map State.cancelWaves
    | _ => none
  match started with
  | none => .next s
  | some s1 => .next s1.issueAlias.abandonRequests.greetAgain

/-! ### Staging (13 R387) -/

/-- 13 R380: what every entry of `STANDBY` does to an image class: no activation goes on. -/
def FwClass.rest (c : FwClass) : FwClass := { c with staged := false, act := 0, todo := [], wave := [], cut := false, windowEnd := 0 }

/-- The slot of a class that `FW_STAGE` writes. -/
def FwClass.inactive (c : FwClass) : Bool := !c.bootSlot

end Sys2Proof.Machine
end

