-- ==== Sys2Proof/Machine/Boot.lean ====
section
/-! DEFINITION. Package states: `STANDBY`, the boot sequence, and `SAFE` (13 R380 to R385; 15 R438 to R440; 17 R481,
R491; 18 R496, R497), and the staging of images (13 R387). -/

namespace Sys2Proof.Machine

/-! ### STANDBY (13 R380) -/

/-- A memory device without main power: counters and frames go; hard repairs and the reading of temperature stay. -/
def Device.rest (d : Device) : Device := { hardRepairs := d.hardRepairs, temp := d.temp }

/-- A die in `STANDBY`: its headwater domain keeps its binding state, its trip and its junction reading, and its manager
is held in reset. -/
def Die.rest (d : Die) : Die :=
  { cstate := d.cstate, routerFailed := d.routerFailed, trip := d.trip, tj := d.tj, mgr := d.mgr.hold }

/-- The package enters `STANDBY`: every die but its headwater domain is in reset, and every context, channel, handle,
queue pair and session is discarded; the remap table, the repair record, the flash, the sealed store and the headwater
domains keep what they hold (13 R380; 15 R423). -/
def State.toStandby (s : State) : State :=
  let z := State.reset
  let p := s.pkg
  let s1 : State := { z with
    pending := s.pending
    draw := s.draw
    out := s.out
    pkg := { z.pkg with
      imageKey := p.imageKey
      imageKeyLms := p.imageKeyLms
      primary := p.primary
      primarySel := p.primarySel
      resetHigh := p.resetHigh
      thermTrip := p.thermTrip
      mgr := p.mgr.hold
      crashLimit := p.crashLimit
      fw := p.fw.map FwClass.rest
      flashA := p.flashA
      flashB := p.flashB
      bank0 := p.bank0
      bank1 := p.bank1
      activeBank := p.activeBank
      generation := p.generation
      outOfService := p.outOfService }
    dies := s.dies.map Die.rest
    tiles := (s.tiles.filter (fun e => e.2.unusable)).map (fun e => (e.1, { unusable := true }))
    devices := s.devices.map Device.rest
    eth := s.eth.map (fun e => { macsec := e.macsec })
    sec := { s.sec with debug := none, sealCount := z.sec.sealCount, sealFail := z.sec.sealFail, epochStale := z.sec.epochStale }
    power := { s.power with avg100 := 0, peak1 := 0, panel := [], panelWait := [], emerg := false, inputEmerg := false, convOn := false }
    time := s.time
    telem := { z.telem with health := s.telem.health }
    bb := s.bb }
  s1.bbNotify s

/-- `MOD_RESET_ASSERT`: `MOD_RESET_N` is asserted, or the main input is lost: the package enters `STANDBY` (13 R380). -/
def execModResetAssert (mainLost : Bool) (s : State) : Ans :=
  let s1 : State := if mainLost then { s with power := { s.power with mainOn := false } } else s.modPkg (fun p => { p with resetHigh := false })
  if s.power.stbyOn then .next s1.toStandby else .next s1

/-- What is lost with standby power: the key store, and whatever else the headwater domains hold (13 R380, 14 R422,
15 R423). -/
def State.losePower (s : State) : State :=
  let s1 := s.toStandby
  { s1 with
    pkg := { s1.pkg with thermTrip := false, mgr := { s1.pkg.mgr with sram := [] } }
    dies := s1.dies.map (fun d => { d with trip := false, tj := 0, mgr := { d.mgr with sram := [] } })
    sec := { s1.sec with fabricKey := none, aliasKey := none }
    time := { refValid := s1.time.refValid }
    bb := {}
    power := { s1.power with stbyOn := false } }

/-- `STANDBY_LOW`: the standby input has been below 10.8 V for 10 µs: the main conversion turns off, and the module is
as without standby power (18 R497). -/
def execStandbyLow (s : State) : Ans := if s.power.stbyOn then .next s.losePower else .next s

/-- `STANDBY_INPUT_PRESENT`: the standby input is present: the package is in `STANDBY`, with its headwater domains
running (13 R380). -/
def execStandbyInputPresent (s : State) : Ans := .next { s with power := { s.power with stbyOn := true } }

/-- `MAIN_INPUT_RETURN`: the main input is connected again, within its range, and soft-starts; the package stays in
`STANDBY` until its cold restart (18 R496, 13 R380). -/
def execMainInputReturn (s : State) : Ans :=
  if s.power.mainOn then .next s
  else
    let s1 : State := { s with power := { s.power with mainOn := true, inputRange := false } }
    .next (s1.bbNotify s)

/-! ### Cold restart and boot (13 R383 to R385) -/

/-- The ownership certificate that takes effect at a cold restart; a new owner erases the connectivity keys of the former
one (14 R399, R422). -/
def State.takeOwner (s : State) : State :=
  match s.sec.pending with
  | none => s
  | some c => { s with sec := { s.sec with owner := some c, pending := none }, eth := s.eth.map (fun e => { e with macsec := none }) }

/-- Sealed-store entries that fail authentication are treated as absent: bit 0 the ownership certificate in effect, bit 1 the
pending one, bit 2 + j the connectivity key of Ethernet port j (14 R395, R397). -/
def State.unseal (s : State) (bad : BitVec 10) : State :=
  { s with
    sec := { s.sec with
      owner := if bad.getLsbD 0 then none else s.sec.owner
      pending := if bad.getLsbD 1 then none else s.sec.pending }
    eth := s.eth.mapIdx (fun j e => if bad.getLsbD (2 + j) then { e with macsec := none } else e) }

/-- A manager at a cold restart: held in reset, its counters clear, and its slot as the repair record has it (13 R394). -/
def State.coldMgr (s : State) (n : Nat) (m : Mgr) : Mgr :=
  { m.hold with slot := s.pkg.record.slots.getD n false, crashes := 0, crashAt := [], startAt := 0 }

/-- `COLD_RESTART`: `MOD_RESET_N` is released with both inputs in range: `PRIMARY_SEL` is sampled, the key store is
erased, counters clear, tide starts from 0, E is 14,000 W, health is restored, and boot begins (13 R380, R383, R385;
14 R420, R422; 15 R431, R442; 16 R470). -/
def execColdRestart (how : ColdStart) (s : State) : Ans :=
  if s.pkg.st ≠ .standby ∨ s.pkg.resetHigh ∨ !s.power.stbyOn then .next s
  else if !s.power.mainOn ∨ s.power.inputRange then .next (s.modPkg (fun p => { p with resetHigh := true }))
  else
    let s1 := (s.unseal how.unsealed).takeOwner
    let s2 : State := { s1 with
      pkg := { s1.pkg with st := .boot, resetHigh := true, primary := how.primarySel, primarySel := how.primarySel, mgr := s1.coldMgr 88 s1.pkg.mgr, crashLimit := false }
      dies := s1.dies.mapIdx (fun n d => { d with mgr := s1.coldMgr n d.mgr })
      sec := { s1.sec with fabricKey := none, aliasKey := none, debugSeen := false }
      power := { s1.power with envelope := 14000 }
      time := { refValid := s1.time.refValid }
      telem := { s1.telem with health := s1.pkg.record.health } }
    .next (s2.bbNotify s)

/-- A C-die that boot fences: the event is seen after step 11 (13 R384, 17 R474). -/
def State.bootFence (s : State) (d : Nat) : State :=
  let s1 := s.fenceDie d
  if d < 64 then s1.event 0x0581 2 d none 0 else s1

/-- Release a die during boot (13 R383, R384): an enabled C-die, or another die.  When both of its images fail it is
fenced; the primary die stays in reset. -/
def State.releaseDie (s : State) (d : Nat) : State :=
  match s.startMgr d with
  | some s1 => s1.modDie d (fun x => { x with alloc := s.power.envelope * 10 / 88 })
  | none => if d = s.primaryDie then s else s.bootFence d

/-- The die is released: its manager is not held in reset. -/
def State.released (s : State) (d : Nat) : Bool := (s.mgr d).st != .held

/-- Step 1: the root of trust tests itself, chooses the recorded slot, starts the package manager, and issues the alias
certificate (13 R383, R384; 14 R398). -/
def State.bootStep1 (s : State) (f : BootFacts) : State :=
  let fail := fun (n : Nat) => (s.modPkg (fun p => { p with bootFail := n, alert := true }))
  if !f.selfTest then fail 2
  else
    let s1 := s.modPkg (fun p => { p with
      flashA := { p.flashA with valid := f.copyA, slots := if !f.copyA ∧ !f.copyB then List.replicate 89 false else p.flashA.slots }
      flashB := { p.flashB with valid := f.copyB } })
    match s1.startMgr 88 with
    | some s2 => s2.issueAlias.modPkg (fun p => { p with bootStep := 1 })
    | none => fail 1

/-- Step 2: the remap table, its generation, the states of the dies and their recorded slots are restored from the repair
record (01 R39, R40; 13 R383). -/
def State.bootStep2 (s : State) : State :=
  let r := s.pkg.record
  { s with
    pkg := { s.pkg with bank0 := r.remap, bank1 := r.remap, activeBank := r.bank, generation := r.gen }
    dies := ((s.dies.take 64).zipWith (fun (d : Die) c => { d with cstate := c }) r.cstate ++ s.dies.drop 64).mapIdx
      (fun n (d : Die) => { d with mgr := { d.mgr with slot := r.slots.getD n false } })
    tiles := r.unusable.foldl (fun m p => smPutD {} m p { unusable := true }) [] }

/-- Step 7: memory training; the soft repairs, spared lines and retired frames of the repair record are applied again,
and an M-die of which a device fails twice is fenced (13 R383, R384; 17 R491). -/
def State.bootStep7 (s : State) (f : BootFacts) : State :=
  let r := s.pkg.record
  let s1 := (List.range 60).foldl (fun s d => s.modDev d (fun x => { x with
    softRepairs := smGet [] r.soft d
    spared := smGet [] r.lines d
    retired := smGet [] r.frames d })) s
  ((List.range 20).filter (fun i => f.failed.getLsbD (64 + i) && s.released (64 + i))).foldl (fun s i => s.fenceDie (64 + i)) s1

/-- A C-die fails in boot: it is spared when a spare has eight free tiles (13 R384). -/
def State.bootSpare (s : State) (d : Nat) : State :=
  if d < 64 ∧ s.carries d then (s.startSparing d none none false false).getD s else s

/-- The result body of a BIST run (17 R479). -/
def bistBody (d k : Nat) (pass : Bool) (repairs sig expected us : Nat) : Nat :=
  (pack 224 [(7, 0, d), (15, 8, k), (23, 16, b2n pass), (63, 32, repairs), (127, 64, sig), (191, 128, expected), (223, 192, us)]).toNat

/-- The signature that the `MANIFEST` image in use holds for a die and a kind (17 R479). -/
def State.expectedSig (s : State) (d k : Nat) : BitVec 64 :=
  let c := s.fwClass 5
  match c.image c.bootSlot with
  | some i => Config.manifestEntry i.header (if d < 64 then 0 else if d < 84 then 1 else 2) k
  | none => 0

/-- The `BIST_DONE` event of a die that fails `QUICK` in boot; its signature and its duration are free (13 R384,
17 R479). -/
def State.bootBist (s : State) (d repairs : Nat) : State :=
  let body := bistBody d 0 false repairs (Config.freeBits 64 s.draw).toNat (s.expectedSig d 0).toNat (Config.freeBits 32 (s.draw + 1)).toNat
  (s.event 0x0580 2 d none (BitVec.ofNat 3328 body)).use 2

/-- Step 9: quick BIST of every released die, with repairs applied; a die that fails is named by a BIST event, is `FAILED`,
fenced and, where it is a C-die, spared.  C-dies whose images failed are spared in this step as well (13 R383, R384; 17 R480
to R482). -/
def State.bootStep9 (s : State) (f : BootFacts) : State :=
  let s1 := s.modRepair (fun r => { r with sram := f.repairs.foldl (fun m e =>
    if s.released e.1.val then smPut m e.1.val (smGet 0 m e.1.val + e.2.toNat) else m) r.sram })
  let unstarted := (List.range 64).filter (fun d => (s1.die d).cstate == .fenced && !s1.slotOk 3 false && !s1.slotOk 3 true)
  let bad := (List.range 88).filter (fun d => f.failed.getLsbD d && s.released d)
  let s2 := bad.foldl (fun s d =>
    let a := (s.directHealth (dieObj d) .failed .bist).bootBist d (((f.repairs.find? (fun e => e.1.val == d)).map (·.2.toNat)).getD 0)
    if d = s.primaryDie then a else a.bootFence d) s1
  (unstarted ++ bad).foldl State.bootSpare s2

/-- Step 10: every port that the repair record has as fenced, or whose P-die is fenced, is fenced; the others train
(13 R383). -/
def State.bootStep10 (s : State) : State :=
  ((List.range 12).filter (fun j => s.pkg.record.fenced.getLsbD j || (s.die (84 + portP j)).fenced)).foldl State.fencePort s

/-- Step 11: the Ethernet ports of the P-dies that run come up (13 R383). -/
def State.bootStep11 (s : State) (f : BootFacts) : State :=
  (List.range 8).foldl (fun s j => if f.eth.getLsbD j && !(s.die (84 + j % 4)).fenced then s.modEth j (fun e => { e with up := true }) else s) s

/-- The work of boot step `k` (13 R383). -/
def State.bootWork (s : State) (k : Nat) (f : BootFacts) : State :=
  match k with
  | 2 => s.bootStep2
  | 3 => { s with power := { s.power with convOn := true } }
  | 4 => (List.range 4).foldl (fun s i => s.releaseDie (84 + i)) s
  | 5 => (List.range 20).foldl (fun s i => s.releaseDie (64 + i)) s
  | 6 => ((List.range 64).filter (fun d => (s.die d).cstate == .enabled)).foldl State.releaseDie s
  | 7 => s.bootStep7 f
  | 9 => s.bootStep9 f
  | 10 => s.bootStep10
  | 11 => s.bootStep11 f
  | 12 => s.postBoot
  | _ => s

/-- The flash slots hold what the verifier finds there in this step (14 R395). -/
def State.noteAltered (s : State) (f : BootFacts) : State :=
  f.altered.foldl (fun s e => s.modFw e.1.val (fun c => c.setImage e.2.1 (e.2.2.map readImage))) s

/-- `BOOT_STEP_END`: the next boot step ends; a step waits for a die manager that is restarting, and the package stays
at step 0 when the root of trust or both package-manager images fail (13 R383, R384). -/
def execBootStepEnd (facts : BootFacts) (s : State) : Ans :=
  if s.pkg.st ≠ .boot ∨ s.pkg.bootFail ≠ 0 ∨ s.dies.any (fun d => d.mgr.st == .restarting) ∨ s.pkg.mgr.st = .restarting then .next s
  else
    let k := s.pkg.bootStep + 1
    let s0 := s.noteAltered facts
    if k = 1 then .next ((s0.bootStep1 facts).bbNotify s)
    else if 9 < k ∧ !s.pkg.sparings.isEmpty then .next s
    else
      let s1 := ((s0.bootWork k facts).modPkg (fun p => { p with bootStep := k })).settle
      if k < 12 then .next s1 else .next ((s1.modPkg (fun p => { p with st := .ready })).bbNotify s)

/-! ### SAFE (13 R380, R382) -/

/-- `SAFE_WHY`: the causes of R382 that hold: weir emergency, junction trip, main input out of range. -/
def State.safeCauses (s : State) (emerg : Bool) : BitVec 3 :=
  pack 3 [(0, 0, b2n emerg), (1, 1, b2n (s.dies.any (·.trip))), (2, 2, b2n s.power.inputRange)]

/-- Quiesce a context for `SAFE`: its channels stop, and its issued work completes (13 R380). -/
def State.safeQuiesce (s : State) (c : Nat) : State :=
  match s.ctx? c with
  | none => s
  | some x => if x.st = .running then (s.stopChans c).modCtx c (fun x => { x with quiescing := true }) else s

/-- The package enters `SAFE` from `READY` or `ACTIVE` for the causes given; in `SAFE` further causes are added
(13 R380). -/
def State.enterSafe (s : State) (why : BitVec 3) : State :=
  if s.pkg.st = .safe then s.modPkg (fun p => { p with safeWhy := p.safeWhy ||| why })
  else if (s.pkg.st = .ready ∨ s.pkg.st = .active) ∧ why ≠ 0 then
    let s1 := s.modPkg (fun p => { p with st := .safe, safeWhy := why, alert := true })
    ((s1.ctxs.map (·.1)).foldl State.safeQuiesce s1).bbNotify s
  else s

/-- `SAFE_ENTRY`: a weir emergency has lasted longer than 1 s, or another cause of R382 holds (13 R382, 15 R438). -/
def execSafeEntry (s : State) : Ans := .next (s.enterSafe (s.safeCauses s.power.emerg))

/-- `SAFE_EXIT`: every cause of R382 has been clear for 1 s: the package returns to `READY` and releases `ALERT_N`
(13 R380). -/
def execSafeExit (s : State) : Ans :=
  if s.pkg.st ≠ .safe ∨ s.emergency then .next s
  else .next (((s.modPkg (fun p => { p with st := .ready, safeWhy := 0, alert := false })).bbNotify s).syncActive)

/-! ### Staging (13 R387) -/

/-- Check 7 of 12 R368 for `FW_STAGE`: the class and the length (13 R387). -/
def stageArgs (r : Req) : Check :=
  badArg (!r.clean [(0, 1), (4, 16)] || decide (6 ≤ r.num 0 1) || decide (classLimit (r.num 0 1) < r.num 4 4))

/-- The package manager reads the image over the session's queue pair, when the request has reached that check. -/
def State.stageRead (s : State) (n : Nat) (seq : W32) : State :=
  match s.waiting? n seq 0x0501 (fun _ => true) with
  | none => s
  | some (x, r) =>
    if s.pkg.mgr.st = .running ∧ !s.objBusy r ∧ (earlyChecks x r ++ [stageArgs r]).all (fun c => !c.1) then
      s.emit (.rdmaRead x.qpn (r.num 8 8) (r.num 16 4) (r.num 4 4))
    else s

/-- The status of `FW_STAGE` for the bytes read, and what it writes into the inactive slot (13 R387, 14 R402).  A reset
during the write leaves the slot empty and the package in `STANDBY`. -/
def State.stageOut (s : State) (r : Req) (data : List Byte) (flash : FlashWrite) : CmdOut :=
  let k := r.num 0 1
  let c := s.fwClass k
  let n := r.num 4 4
  let img := readImage (data.take n)
  let busy := c.act != 0 || s.diesOn k c.inactive != 0
  checked [stageArgs r, (data.length < n || !s.verifies k img, .authFailed, 0), s.pkgCheck r, (busy, .busy, 0), (flash == .differs, .hwFault, 0)]
    (if flash = .cut then
      .ok ((s.modFw k (fun c => c.setImage c.inactive none)).modPkg (fun p => { p with resetHigh := false })).toStandby
    else .ok (s.modFw k (fun c => c.setImage c.inactive (some img))))

/-- After `FW_STAGE` has completed, `STAGED` is set and `FW_STAGED` is raised (13 R387); a reset during the write leaves
nothing staged. -/
def State.staged (s : State) (r : Req) (flash : FlashWrite) : State :=
  let k := r.num 0 1
  if flash = .cut then s
  else
    let v := (((s.fwClass k).image (s.fwClass k).inactive).map (·.version)).getD 0
    (s.modFw k (fun c => { c with staged := true })).event 0x0500 0 0 none (pack 3328 [(7, 0, k), (63, 32, v)])

/-- `FW_STAGE`: the package manager reads the image by an RDMA READ on the session's queue pair, from the virtual address in
bytes 8 to 15 under the R_Key in bytes 16 to 19, verifies it, and writes it into its class's inactive slot (13 R387,
14 R402).  The row gives the bytes that the read returns, and how the write of the flash goes. -/
def execFwStage (sess : Fin 64) (seq : W32) (data : List (BitVec 8)) (equal cut : Bool) (s : State) : Ans :=
  let flash : FlashWrite := if cut then .cut else if equal then .equal else .differs
  let s1 := s.stageRead sess.val seq
  .next (s1.runThen sess.val seq 0x0501 (fun _ r => s1.stageOut r data flash) (fun r t => t.staged r flash))

end Sys2Proof.Machine
end

