-- ==== Sys2Proof/Machine/Park.lean ====
section
/-! DEFINITION. Parking and waking of tiles (06 R193 to R196), and wake admission (15 R429, R430). -/

namespace Sys2Proof.Machine

/-- The head of a queue can issue, or complete without running, but for the clocks of its tile (06 R180, R183; 07 R200). -/
def State.headAble (s : State) (l q : Nat) : Bool :=
  match s.headOf l q with
  | none => false
  | some o => s.issuable o || (o.waitsTaken && s.headSkips o)

/-- An operation issued from a queue has not completed (06 R193). -/
def State.queueRuns (s : State) (l q : Nat) : Bool :=
  s.ops.any (fun o => o.kind == 1 && o.tile == l && o.queue == q && o.incomplete && !o.isQueued)

/-- No operation, bore, drain or millrace transfer is in flight on a tile (06 R193). -/
def State.tileQuiet (s : State) (l : Nat) : Bool :=
  !s.ops.any (fun o => o.kind == 1 && o.tile == l && o.incomplete && !o.isQueued)

/-- `QUEUE_PARK`: a queue whose head cannot issue, or that is empty, and whose issued operations have completed, has waited
longer than its `GATE_THRESH` and counts as parked; the tile clock-gates when every queue does and nothing is in flight on it (06 R193). -/
def execQueuePark (tile : Fin 480) (queue : Fin 8) (s : State) : Ans :=
  let l := tile.val
  let q := queue.val
  let t := s.tileL l
  if s.headAble l q ∨ s.queueRuns l q ∨ t.qcfg.getD q 250 = 0xFFFFFF ∨ !s.dieRuns (s.phys l) then .next s
  else
    let p := t.parked ||| (1#8 <<< q)
    if p = 0xFF ∧ t.park = .running ∧ s.tileQuiet l then
      .next (s.modTileL l (fun t => { t with parked := p, park := .gated, parkedAt := s.now }))
    else .next (s.modTileL l (fun t => { t with parked := p }))

/-- `TILE_POWER_OFF`: a tile has been clock-gated for `OFF_DELAY` and powers its engines off (06 R193). -/
def execTilePowerOff (tile : Fin 480) (s : State) : Ans :=
  let t := s.tileL tile.val
  if t.park = .gated ∧ t.offDelay ≠ 0xFFFFFF then .next (s.modTileL tile.val (fun t => { t with park := .off })) else .next s

/-- The queues whose head can issue no longer count as parked. -/
def State.unparked (s : State) (l : Nat) : BitVec 8 :=
  (List.range 8).foldl (fun m q => if s.headAble l q then m &&& ~~~(1#8 <<< q) else m) (s.tileL l).parked

/-- A tile leaves its parked time, which counts in `PARKED_NS`. -/
def State.unpark (s : State) (l : Nat) : State :=
  let p := s.unparked l
  s.modTileL l (fun t => { t with park := .running, wakeAt := none, parked := p, parkedNs := bump t.parkedNs (s.now - t.parkedAt) })

/-- `TILE_WAKE`: an event lets a head of a parked tile issue, so the tile wakes: 400 ns later when it is clock-gated, and
after wake admission when it is powered off (06 R196). -/
def execTileWake (tile : Fin 480) (s : State) : Ans :=
  let l := tile.val
  if !(List.range 8).any (s.headAble l) then .next s
  else match (s.tileL l).park with
    | .gated => .next (s.modTileL l (fun t => { t with park := .waking, wakeAt := some s.now }))
    | .off => .next (s.modTileL l (fun t => { t with park := .waking }))
    | _ => .next s

/-- The tiles that began to wake from clock-gated 400 ns ago run (06 R196). -/
def State.wakeGated (s : State) : State :=
  (s.tiles.filterMap (fun e => if e.2.wakeAt.any (fun t => decide (t + 400 ≤ s.now)) then s.logicalOf e.1 else none)).foldl State.unpark s

/-- `WAKE_TOKEN_REQUEST`: a waking tile asks for a die token, and for a panel token once it holds the die token
(15 R429). -/
def execWakeTokenRequest (tile : Fin 480) (s : State) : Ans :=
  let p := s.phys tile.val
  let d := s.die (p / 8)
  if (s.tileP p).park ≠ .waking ∨ (s.tileP p).wakeAt.isSome then .next s
  else if d.tokens.contains p then
    if s.power.panel.contains p ∨ s.power.panelWait.contains p then .next s
    else .next { s with power := { s.power with panelWait := s.power.panelWait ++ [p] } }
  else if d.tokenWait.contains p then .next s
  else .next (s.modDie (p / 8) (fun d => { d with tokenWait := d.tokenWait ++ [p] }))

/-- `WAKE_TOKEN_GRANT`: a token pool that has a free token grants it to the earliest waiting request: the pool of a
C-die holds two, that of the panel sixteen (15 R429). -/
def execWakeTokenGrant (pool : Option (Fin 64)) (s : State) : Ans :=
  match pool with
  | some die =>
    let d := s.die die.val
    match d.tokenWait with
    | p :: ps => if d.tokens.length < 2 then .next (s.modDie die.val (fun d => { d with tokens := d.tokens ++ [p], tokenWait := ps })) else .next s
    | [] => .next s
  | none =>
    match s.power.panelWait with
    | p :: ps =>
      if s.power.panel.length < 16 then .next { s with power := { s.power with panel := s.power.panel ++ [p], panelWait := ps } }
      else .next s
    | [] => .next s

/-- `TILE_POWER_UP`: a tile that holds both tokens powers its engines up, issues again and returns both tokens
(15 R430); while its die is tripped it keeps both and its power-up holds. -/
def execTilePowerUp (tile : Fin 480) (s : State) : Ans :=
  let l := tile.val
  let p := s.phys l
  if (s.tileP p).park = .waking ∧ s.dieRuns p ∧ (s.die (p / 8)).tokens.contains p ∧ s.power.panel.contains p then
    let s1 := (s.unpark l).modDie (p / 8) (fun d => { d with tokens := d.tokens.filter (· != p) })
    .next { s1 with power := { s1.power with panel := s1.power.panel.filter (· != p) } }
  else .next s

end Sys2Proof.Machine
end

