-- ==== Sys2Proof/Machine/Power.lean ====
section
/-! DEFINITION. Power: the envelope, budget messages, lending and stretching, and the weir (15 R428 to R440). -/

namespace Sys2Proof.Machine

/-! ### Registers (15, "Weir registers") -/

/-- `PWR_STAT`, at offset 0x00C0_0000 of the package block. -/
def State.pwrStat (s : State) : W64 :=
  pack 64 [(63, 48, s.power.envelope), (47, 32, s.power.avg100), (31, 16, s.power.peak1), (12, 8, 16 - s.power.panel.length),
    (2, 2, b2n s.power.inputRange), (1, 1, b2n s.power.emerg), (0, 0, b2n (s.dies.any (·.trip)))]

/-- `WEIR_STAT`, at offset 0x0300 of a die's block. -/
def Die.weirStat (d : Die) : W64 :=
  pack 64 [(63, 56, unsignedN 8 d.tj), (55, 40, d.alloc), (39, 24, d.use), (23, 16, d.stretchMax), (11, 10, d.tokens.length),
    (7, 4, d.wcause.toNat), (3, 3, b2n d.trip), (2, 2, b2n d.emerg), (1, 1, b2n (d.stretch.any (0 < ·))), (0, 0, b2n d.staleAlloc)]

/-! ### The envelope (15 R431) -/

/-- `POWER_ENVELOPE_SET`: the sustained envelope E, from 6,000 to 14,000 W (15 R431). -/
def execPowerEnvelopeSet (sess : Fin 64) (seq : W32) (s : State) : Ans :=
  aidar sess seq 0x0701 s (fun _ r =>
    let e := r.num 0 4
    checked [badArg (!r.clean [(0, 4)] || decide (e < 6000) || decide (14000 < e)), s.pkgCheck r]
      (let s1 : State := { s with power := { s.power with envelope := e } }
       .ok (if s.power.envelope = e then s1 else s1.event 0x0704 0 0 none 0)))

/-! ### Budget messages (15 R433, R434) -/

/-- `BUDGET_REPORT`: a die manager reports the use and the demand of its die, in 0.1 W, its largest stretch and the
serial of the last allocation; `DIE_POWER` takes a sample (15 R433, 16 R457). -/
def execBudgetReport (die : Fin 88) (use demand : BitVec 16) (s : State) : Ans :=
  let d := s.die die.val
  if d.mgr.st ≠ .running then .next s
  else
    let s1 := s.emit (.report die.val use.toNat demand.toNat d.stretchMax d.allocSerial)
    let s2 := s1.modDie die.val (fun d => { d with use := use.toNat, demand := demand.toNat, stretchMax := d.stretch.foldl max 0 })
    .next (s2.gaugeSample 0x13000001 (dieObj die.val) (use.setWidth 64))

/-- Eight 16-bit amounts, the first in the low bits. -/
def eight16 (x : BitVec 128) : List Nat := (List.range 8).map (fun i => fieldN x (16 * i + 15) (16 * i))

/-- `ALLOCATION`: the package manager answers a die with its allocation, which the die's weir applies (15 R433); the
shares of a C-die's tiles sum to `ALLOC` at most. -/
def execAllocation (die : Fin 88) (alloc : BitVec 16) (shares : BitVec 128) (s : State) : Ans :=
  let sh := if die.val < 64 then eight16 shares else List.replicate 8 0
  if s.pkg.mgr.st ≠ .running ∨ (s.die die.val).mgr.st ≠ .running ∨ alloc.toNat < sh.sum then .next s
  else
    let s1 := s.modDie die.val (fun d => { d with
      alloc := alloc.toNat, share := sh, allocSerial := d.allocSerial + 1, allocAt := s.now, staleAlloc := false })
    .next (s1.emit (.alloc die.val alloc.toNat (s1.die die.val).allocSerial))

/-- `STALE_ALLOC`: a die has received no allocation for 1 ms, and keeps its last one (15 R434). -/
def execStaleAlloc (die : Fin 88) (s : State) : Ans :=
  let d := s.die die.val
  if d.staleAlloc ∨ d.mgr.st = .held then .next s
  else .next ((s.modDie die.val (fun d => { d with staleAlloc := true })).event 0x0705 2 die.val none 0)

/-! ### Lending and stretching (15 R428, R435 to R437) -/

/-- A tile draws power for its engines: it runs, or wakes and holds both tokens (15 R436). -/
def State.tileDraws (s : State) (p : Nat) : Bool :=
  match (s.tileP p).park with
  | .running => true
  | .waking => (s.die (p / 8)).tokens.contains p && s.power.panel.contains p
  | _ => false

/-- Residual draw of a parked tile, in 0.1 W: 2 W clock-gated, 0 W powered off (15 R436). -/
def State.residual (s : State) (p : Nat) : Nat := if (s.tileP p).park = .gated then 20 else 0

/-- The tiles of a C-die that run: none without die common power. -/
def State.runningTiles (s : State) (d : Nat) : List Nat :=
  if s.power.convOn && decide (d < 64) && (s.die d).cstate == .enabled then ((List.range 8).map (8 * d + ·)).filter s.tileDraws else []

/-- The pool of a C-die, in 0.1 W: the shares of its parked tiles less their residual draw (15 R436). -/
def State.pool (s : State) (d : Nat) : Nat :=
  (((List.range 8).filter (fun i => !s.tileDraws (8 * d + i))).map (fun i => (s.die d).share.getD i 0 - s.residual (8 * d + i))).sum

/-- Stretch for the budget, in 1/256: max(0, 1 − available / demand), rounded up, where the available power is the
tile's share and its part of the pool lent to `n` tiles (15 R435, R436). -/
def budgetStretch (demand share pool n : Nat) : Nat :=
  if demand = 0 ∨ n = 0 then 0 else cdiv (256 * (demand * n - (share * n + pool))) (demand * n)

/-- Stretch for the junction temperature, in 1/256: 1/16 for each °C from 105 °C (15 R437). -/
def heatStretch (tj : Int) : Nat := 16 * (tj - 105).toNat

/-- Stretch that the main input asks: 0.75 on every tile at 360 A (15 R437). -/
def panelStretch (r : WeirReading) : Nat := if 3600 ≤ r.current.toNat then 192 else r.panelRaise.toNat

/-- Stretch of one running tile: the largest that any cause asks, at most 0.75 (15 R428, R437). -/
def tileStretch (budget heat rail panel : Nat) : Nat := min 192 (max (max budget heat) (max rail panel))

/-- The stretches of the eight tiles of a die under a reading, and whether the budget stretches one. -/
def State.stretches (s : State) (d : Nat) (r : WeirReading) : List Nat × Bool :=
  let run := s.runningTiles d
  let dem := eight16 r.demand
  let b := fun (i : Nat) => budgetStretch (dem.getD i 0) ((s.die d).share.getD i 0) (s.pool d) run.length
  ((List.range 8).map (fun i =>
      if run.contains (8 * d + i) then tileStretch (b i) (heatStretch r.tj.toInt) r.railRaise.toNat (panelStretch r) else 0),
    (List.range 8).any (fun i => run.contains (8 * d + i) && decide (0 < b i)))

/-- `CAUSE` of `WEIR_STAT`: tile budget, temperature, rail slack, panel input limit (15, "Weir registers"). -/
def weirCauses (r : WeirReading) (budget running : Bool) : BitVec 4 :=
  if running then
    pack 4 [(0, 0, b2n budget), (1, 1, b2n (decide (0 < heatStretch r.tj.toInt))), (2, 2, b2n (decide (0 < r.railRaise.toNat))),
      (3, 3, b2n (decide (0 < panelStretch r)))]
  else 0

/-! ### Emergency (15 R437, R438) -/

/-- An emergency condition of R437 holds. -/
def State.weirCondition (s : State) : Bool := s.power.inputEmerg || s.power.inputRange || s.dies.any (·.emerg)

/-- The weir enters emergency when a condition holds: `WEIR_EMERGENCY` is raised with `PWR_STAT` (15 R438). -/
def State.enterEmergency (s : State) : State :=
  if s.power.emerg ∨ !s.weirCondition then s
  else
    let s1 : State := { s with power := { s.power with emerg := true, emergAt := s.now } }
    s1.event 0x0700 0 0 none (s1.pwrStat.setWidth 3328)

/-- `WEIR_UPDATE`: the weir of a die reckons, every 1 µs, the stretch and the loans of its tiles, and the emergency
conditions (15 R435 to R438); `STRETCH` takes a sample for each tile (16 R457). -/
def execWeirUpdate (die : Fin 88) (reading : WeirReading) (s : State) : Ans :=
  let d := die.val
  let st := s.stretches d reading
  let run := !(s.runningTiles d).isEmpty
  let hot := decide (110 ≤ reading.tj.toInt) && reading.lasted.getLsbD 0
  let slow := decide (192 ≤ reading.railRaise.toNat) && reading.lasted.getLsbD 1
  let full := (decide (192 ≤ reading.panelRaise.toNat) && reading.lasted.getLsbD 2) || (decide (3500 ≤ reading.current.toNat) && reading.lasted.getLsbD 3)
  let s1 := s.modDie d (fun x => { x with
    tj := reading.tj.toInt
    stretch := st.1
    stretchMax := max x.stretchMax (st.1.foldl max 0)
    wcause := weirCauses reading st.2 run
    emerg := hot || slow })
  let s2 : State := { s1 with power := { s1.power with inputEmerg := full } }
  let s3 := if d < 64 then (List.range 8).foldl (fun s i => s.gaugeSample 0x13000002 (objId 4 (8 * d + i)) (BitVec.ofNat 64 (st.1.getD i 0))) s2 else s2
  .next s3.enterEmergency

/-- `WEIR_CLEAR`: no emergency condition has held for 100 ms (15 R438). -/
def execWeirClear (s : State) : Ans :=
  if !s.power.emerg ∨ s.weirCondition then .next s
  else
    let s1 : State := { s with power := { s.power with emerg := false } }
    .next (s1.event 0x0701 0 0 none 0)

/-! ### Trips and the main input (15 R437 to R440) -/

/-- `THERM_TRIP`: a junction sensor reads 115 °C or more: the clocks of the die stop, `THERM_TRIP_N` is asserted, and the
package enters `SAFE` (15 R439). -/
def execThermTrip (die : Fin 88) (tj : BitVec 8) (s : State) : Ans :=
  if tj.toInt < 115 ∨ (s.die die.val).trip then .next s
  else
    let s1 := (s.modDie die.val (fun x => { x with trip := true, tj := tj.toInt })).modPkg (fun p => { p with thermTrip := true })
    .next (((s1.event 0x0702 2 die.val none 0).enterSafe 2).bbNotify s)

/-- `TRIP_RECOVER`: every sensor of a tripped die reads below 100 °C: its clocks restart, and `THERM_TRIP_N` is released
when no die is tripped (15 R439). -/
def execTripRecover (die : Fin 88) (tj : BitVec 8) (s : State) : Ans :=
  if 100 ≤ tj.toInt ∨ !(s.die die.val).trip then .next s
  else
    let s1 := s.modDie die.val (fun x => { x with trip := false, tj := tj.toInt })
    .next ((s1.modPkg (fun p => { p with thermTrip := s1.dies.any (·.trip) })).bbNotify s)

/-- `TRIP_SHUTDOWN`: a tripped die still reads 120 °C or more 100 ms after its trip: the main conversion turns off, and
the package enters `STANDBY` (15 R439, R440). -/
def execTripShutdown (die : Fin 88) (tj : BitVec 8) (s : State) : Ans :=
  if tj.toInt < 120 ∨ !(s.die die.val).trip then .next s
  else .next (s.modDie die.val (fun x => { x with tj := tj.toInt })).toStandby

/-- `INPUT_RANGE`: the main input reads `volts`, in 10 mV.  Outside 46 to 56 V the package enters `SAFE` at once; below
44 V for 100 µs or above 58 V for 10 µs (`held`) the main conversion turns off (15 R437 to R440, 18 R510). -/
def execInputRange (volts : BitVec 16) (held : Bool) (s : State) : Ans :=
  let v := volts.toNat
  let out := decide (v < 4600) || decide (5600 < v)
  let off := held && (decide (v < 4400) || decide (5800 < v))
  if !s.power.mainOn ∨ !s.power.stbyOn then .next s
  else
    let s1 : State := { s with power := { s.power with inputRange := out } }
    let s2 := if out = s.power.inputRange then s1 else s1.event 0x0703 0 0 none 0
    let s3 := if out then (s2.enterEmergency).enterSafe 4 else s2
    if off then .next ((s3.toStandby).bbNotify s) else .next (s3.bbNotify s)

end Sys2Proof.Machine
end

