-- ==== Sys2Proof/Machine/Secure.lean ====
section
/-! DEFINITION. Security: attestation, keying of sessions, and debug sessions (14 R399 to R408, R419 to R421). -/

namespace Sys2Proof.Machine

/-! ### Registers (14, "Registers") -/

/-- `SEC_STAT`, at offset 0x0070_0000 of the package block. -/
def State.secStat (s : State) : W64 :=
  pack 64 [(63, 32, (s.sec.owner.map (·.issue.toNat)).getD 0), (15, 15, b2n (Option.isSome s.sec.debug)), (14, 14, b2n s.sec.debugSeen),
    (13, 13, b2n s.sec.pending.isSome), (6, 0, (s.sess.filter (fun e => e.2.role != .noRole)).length)]

/-- `ARB_COUNT`, at offset 0x0070_0008 of the package block. -/
def State.arbCount (s : State) : W64 := pack 64 ((List.range 6).map (fun k => (8 * k + 6, 8 * k, (s.fwClass k).arb)))

/-! ### Measurement blocks (14 R404, R406) -/

/-- A header measurement with its slot and `SVN`. -/
def State.headerBlock (s : State) (meas : BitVec 384) (k : Nat) (slot : Bool) : Nat :=
  let svn := (((s.fwClass k).image slot).map (·.svn)).getD 0
  (pack 400 [(383, 0, meas.toNat), (384, 384, b2n slot), (399, 392, svn)]).toNat

/-- The values of a repair record, in a sequence. -/
def Repair.values (r : Repair) : List Nat :=
  [r.seq, r.gen.toNat, b2n r.bank, r.fenced.toNat] ++ r.remap ++ r.cstate.map (fun c => match c with | .enabled => 0 | .spare => 1 | .fenced => 2 | .retired => 3)
    ++ r.unusable ++ r.sram.flatMap (fun e => [e.1, e.2]) ++ r.soft.flatMap (fun e => e.1 :: e.2.flatMap (fun x => [x.1, x.2.1, x.2.2]))
    ++ r.lines.flatMap (fun e => e.1 :: e.2) ++ r.frames.flatMap (fun e => e.1 :: e.2) ++ r.slots.map b2n
    ++ r.health.flatMap (fun e => [e.1, e.2.score.toNat, e.2.st.num])

/-- The measurement blocks 1 to 94, all of one instant (14 R406). -/
def State.measBlocks (s : State) : List Nat :=
  (List.range 88).map (fun d => s.headerBlock (s.mgr d).meas (mgrClass d) (s.mgr d).slot)
    ++ [4, 5].map (fun k => s.headerBlock (s.measure k (s.fwClass k).bootSlot) k (s.fwClass k).bootSlot)
    ++ [Config.romDigest.toNat,
      (Config.digest ((if s.pkg.activeBank then s.pkg.bank1 else s.pkg.bank0) ++ [s.pkg.generation.toNat] ++ s.pkg.record.values)).toNat,
      (Config.digest [s.secStat.toNat, s.arbCount.toNat]).toNat,
      (Config.digest [s.pkgState.toNat, s.part.fabCfg.toNat, s.part.partCfg.toNat, s.part.levee.toNat]).toNat]

/-! ### SPDM (14 R405, R406; the codes and layouts of SPDM 1.3, log 98) -/

/-- Request code of a message. -/
def spdmCode (m : List Byte) : Nat := (m.getD 1 0).toNat

/-- The requests of the subset: those of the table, and the encapsulated requests of mutual authentication. -/
def spdmRequests : List Nat := [0x81, 0x82, 0x83, 0x84, 0x85, 0x86, 0xE0, 0xE1, 0xE3, 0xE4, 0xE5, 0xEA, 0xEB]

/-- An `ERROR` message. -/
def spdmError (code data : BitVec 8) : List Byte := [0x13, 0x7F, code, data]

/-- The certificate slot that a request names, where it names one. -/
def spdmSlot (m : List Byte) : Nat :=
  match spdmCode m with
  | 0x82 => (m.getD 2 0).toNat % 16
  | 0x83 => (m.getD 2 0).toNat
  | 0xE4 => (m.getD 3 0).toNat
  | 0xE0 => if (m.getD 2 0).getLsbD 0 then (m.getD 36 0).toNat % 16 else 0
  | _ => 0

/-- `NEGOTIATE_ALGORITHMS` offers the one algorithm of each kind that the module has: ECDSA P-384 and SHA-384. -/
def spdmOffers (m : List Byte) : Bool := (m.getD 8 0).getLsbD 7 && (m.getD 12 0).getLsbD 1

/-- What the subset refuses: a short message, another version, an unsupported request, a slot other than 0, or a choice of
algorithms without those of the module. -/
def spdmRefusal (m : List Byte) : Option (List Byte) :=
  let code := spdmCode m
  if m.length < 4 then some (spdmError 0x01 0)
  else if m.getD 0 0 ≠ (if code = 0x84 then 0x10 else 0x13) then some (spdmError 0x41 0)
  else if !spdmRequests.contains code then some (spdmError 0x07 (BitVec.ofNat 8 code))
  else if spdmSlot m ≠ 0 ∨ (code = 0xE3 ∧ !spdmOffers m) then some (spdmError 0x01 0)
  else none

/-- `VERSION`: 1.3 only. -/
def spdmVersion : List Byte := [0x10, 0x04, 0, 0, 0, 1, 0x00, 0x13]

/-- `CAPABILITIES`: `CERT`, `CHAL`, `MEAS` with signature, `MUT_AUTH`, `KEY_EX`, `ENCAP`, `HANDSHAKE_IN_THE_CLEAR` and
`CHUNK`, with messages of up to 432 bytes. -/
def spdmCapabilities : List Byte :=
  [0x13, 0x61, 0, 0, 0, Config.spdmLimits.1, 0, 0] ++ toBytes 4 0x29316 ++ toBytes 4 432 ++ toBytes 4 Config.spdmLimits.2.toNat

/-- `ALGORITHMS`: the DMTF measurement specification, SHA-384, ECDSA P-384, secp384r1, AES-256-GCM, and the SPDM key
schedule. -/
def spdmAlgorithms : List Byte :=
  [0x13, 0x63, 4, 0, 52, 0, 1, 0] ++ toBytes 4 0x04 ++ toBytes 4 0x80 ++ toBytes 4 0x02 ++ List.replicate 16 0
    ++ [2, 0x20, 0x10, 0, 3, 0x20, 0x02, 0, 4, 0x20, 0x80, 0, 5, 0x20, 0x01, 0]

/-- The answer to a request carries a signature: to `CHALLENGE` and `KEY_EXCHANGE`, and to `GET_MEASUREMENTS` that asks for
one. -/
def spdmSigned (m : List Byte) : Bool :=
  let code := spdmCode m
  code == 0x83 || code == 0xE4 || (code == 0xE0 && (m.getD 2 0).getLsbD 0)

/-- The responder's answer to one whole request, signed with the alias key where it is signed (14 R405, R406). -/
def State.spdmReply (s : State) (n : Nat) (m : List Byte) : List Byte :=
  match spdmRefusal m with
  | some e => e
  | none =>
    match spdmCode m with
    | 0x84 => spdmVersion
    | 0xE1 => spdmCapabilities
    | 0xE3 => spdmAlgorithms
    | _ =>
      let a := Config.spdmAnswer n s.draw m (s.chain.flatMap (fun c => [c.subject.toNat, c.signature.toNat])) s.measBlocks
      if spdmSigned m then
        a ++ toBytes 96 (Config.ecdsaSign ((s.sec.aliasKey.map (·.1)).getD 0) s.draw (Config.spdmTranscript n m a)).toNat
      else a

/-- Two bytes and four bytes of a message, little-endian. -/
def spdmNum (m : List Byte) (off k : Nat) : Nat := ofBytes ((m.drop off).take k)

/-- What a session has done with a message: what it holds of chunks now, the bytes that come before the answer, and the
whole request that is to be answered, or the answer itself. -/
structure SpdmIn where
  chunkIn : Option ChunkIn
  chunkOut : Option ChunkOut
  ack : List Byte
  req : Option (List Byte)
  answer : List Byte

/-- `CHUNK_SEND`: a part of a long request; the last part completes it (14 R405). -/
def Sess.chunkSend (x : Sess) (m : List Byte) : SpdmIn :=
  let handle := m.getD 3 0
  let seq := spdmNum m 4 2
  let size := spdmNum m 8 4
  let last := (m.getD 2 0).getLsbD 0
  let ack := fun (early : Byte) => [0x13, 0x05, early, handle, m.getD 4 0, m.getD 5 0]
  let data := (m.drop (if seq = 0 then 16 else 12)).take size
  let prev := if seq = 0 then some (ChunkIn.mk handle 0 (spdmNum m 12 4) [])
    else x.chunkIn.filter (fun c => c.handle == handle && c.next == seq)
  match prev with
  | none => { chunkIn := none, chunkOut := x.chunkOut, ack := [], req := none, answer := ack 1 ++ spdmError 0x01 0 }
  | some c =>
    let got := c.got ++ data
    if data.length ≠ size ∨ c.total < got.length ∨ (last ∧ got.length ≠ c.total) then
      { chunkIn := none, chunkOut := x.chunkOut, ack := [], req := none, answer := ack 1 ++ spdmError 0x01 0 }
    else if last then { chunkIn := none, chunkOut := x.chunkOut, ack := ack 0, req := some got, answer := [] }
    else { chunkIn := some { c with next := seq + 1, got := got }, chunkOut := x.chunkOut, ack := [], req := none, answer := ack 0 }

/-- `CHUNK_GET`: the next part of a long answer (14 R405). -/
def Sess.chunkGet (x : Sess) (m : List Byte) : SpdmIn :=
  let handle := m.getD 3 0
  let seq := spdmNum m 4 2
  match x.chunkOut.filter (fun c => c.handle == handle && c.next == seq) with
  | none => { chunkIn := x.chunkIn, chunkOut := none, ack := [], req := none, answer := spdmError 0x01 0 }
  | some c =>
    let total := if seq = 0 then toBytes 4 c.rest.length else []
    let part := c.rest.take (420 - total.length)
    let rest := c.rest.drop part.length
    let last : Byte := if rest.isEmpty then 1 else 0
    { chunkIn := x.chunkIn
      chunkOut := if rest.isEmpty then none else some { c with next := seq + 1, rest := rest }
      ack := []
      req := none
      answer := [0x13, 0x06, last, handle, m.getD 4 0, m.getD 5 0, 0, 0] ++ toBytes 4 part.length ++ total ++ part }

/-- What a session does with a message: a chunk, or a whole request. -/
def Sess.spdmTake (x : Sess) (m : List Byte) : SpdmIn :=
  if (spdmRefusal m).isSome then { chunkIn := x.chunkIn, chunkOut := x.chunkOut, ack := [], req := some m, answer := [] }
  else if spdmCode m = 0x85 then x.chunkSend m
  else if spdmCode m = 0x86 then x.chunkGet m
  else { chunkIn := none, chunkOut := none, ack := [], req := some m, answer := [] }

/-- The message that a request carries. -/
def Req.message (r : Req) : List Byte := (toBytes 432 r.body.toNat).take r.len

/-- What the responder of a session does with a message: the session's chunks, and the answer.  An answer too long for one
body of 432 bytes leaves in chunks (14 R405). -/
def State.spdm (s : State) (n : Nat) (x : Sess) (m : List Byte) : Sess × List Byte :=
  let i := x.spdmTake m
  let y := { x with chunkIn := i.chunkIn, chunkOut := i.chunkOut }
  match i.req with
  | none => (y, i.answer)
  | some q =>
    let a := s.spdmReply n q
    if i.ack.length + a.length ≤ 432 then (y, i.ack ++ a)
    else ({ y with chunkOut := some { handle := x.chunkHandle, rest := a }, chunkHandle := x.chunkHandle + 1 },
      i.ack ++ spdmError 0x0F 0 ++ [x.chunkHandle])

/-- A session with the chunks of another. -/
def Sess.withChunks (x y : Sess) : Sess := { x with chunkIn := y.chunkIn, chunkOut := y.chunkOut, chunkHandle := y.chunkHandle }

/-- Bytes as a result body. -/
def bodyOf (bs : List Byte) : BitVec 3456 := BitVec.ofNat 3456 (ofBytes bs)

/-- `ATTEST`: one SPDM 1.3 request, answered as a responder (14 R405, R406). -/
def execAttest (sess : Fin 64) (seq : W32) (s : State) : Ans :=
  aidar sess seq 0x0601 s (fun x r =>
    let a := s.spdm sess.val x r.message
    checked [s.pkgCheck r] (.done ((s.modSess sess.val (·.withChunks a.1)).use 1) .ok (bodyOf a.2) a.2.length))

/-! ### Keying a session (14 R399, R400, R407, R408) -/

/-- A presented ownership certificate is stored when it is for this serial, and newer than what is stored (14 R399). -/
def State.presentOwner (s : State) (c : Option (W64 × W32 × BitVec 768)) : State :=
  match c with
  | none => s
  | some (serial, issue, key) =>
    let stored := ((s.sec.pending.or s.sec.owner).map (·.issue.toNat)).getD 0
    let have_ := (s.sec.pending.or s.sec.owner).isSome
    if serial = s.sec.serial ∧ (stored < issue.toNat ∨ !have_) then { s with sec := { s.sec with pending := some { issue := issue, key := key } } }
    else s

/-- The role that a verified chain gives (14 R400). -/
def State.roleOf (s : State) (endKey leaf : BitVec 768) : Role :=
  if s.sec.owner.any (fun c => c.key == endKey) then .operator else .tenant (Config.sha384 768 leaf.toNat)

/-- The keys of both directions, as the key schedule gives them: no one can tell them beforehand, so they are free
values (14 R408). -/
def newKeys (n : Nat) : SessKeys :=
  let k := Config.freeBits 704 n
  { reqKey := BitVec.ofNat 256 (fieldN k 255 0), reqIv := BitVec.ofNat 96 (fieldN k 351 256), rspKey := BitVec.ofNat 256 (fieldN k 607 352)
    rspIv := BitVec.ofNat 96 (fieldN k 703 608) }

/-- What a whole request is for the flow: `KEY_EXCHANGE`, an encapsulated message, or `FINISH`, as its request code says and
its contents bear out; 0 for a message that fails (14 R407). -/
def State.flowMeaning (s : State) (n : Nat) (x : Sess) (m : List Byte) : Nat :=
  let k := Config.spdmMeaning n s.draw x.handshake m
  if (spdmRefusal m).isSome then 0
  else match spdmCode m, k with
    | 0xE4, 1 | 0xEA, 2 | 0xEB, 2 | 0xEB, 3 | 0xE5, 4 => k
    | _, _ => 0

/-- The session after a message of the flow: `KEY_EXCHANGE`, the encapsulated requests that verify the requester's chain,
and `FINISH`, which gives the session its role and keys; any other message ends the flow (14 R407). -/
def State.keyStep (s : State) (n : Nat) (x : Sess) (msg : List Byte) (meaning : Nat) : Sess :=
  match meaning, x.handshake with
  | 1, 0 => { x with handshake := 1 }
  | 2, 1 => x
  | 3, 1 =>
    let c := Config.spdmChain n s.draw msg
    { x with handshake := 2, chainEnd := c.1, chainLeaf := c.2 }
  | 4, 2 => { x with handshake := 0, role := s.roleOf x.chainEnd x.chainLeaf, keys := some (newKeys s.draw) }
  | _, _ => { x with handshake := 0 }

/-- The message ends the flow before `FINISH` completes: it fails, or does not belong there (14 R407). -/
def keyFails (x : Sess) (meaning : Nat) : Bool :=
  match meaning, x.handshake with
  | 1, 0 => false
  | 2, 1 => false
  | 3, 1 => false
  | 4, 2 => false
  | _, _ => true

/-- What a whole request of the flow does: to the session, and to the ownership certificate when it presents one; a part of
one in a chunk does nothing yet. -/
def State.keyFlow (s : State) (n : Nat) (x : Sess) (m : List Byte) : State :=
  match (x.spdmTake m).req with
  | none => s
  | some q => (s.modSess n (fun x => s.keyStep n x q (s.flowMeaning n x q))).presentOwner (Config.spdmOwner n s.draw q)

/-- A message of the flow ends it without success. -/
def State.flowFails (s : State) (n : Nat) (x : Sess) (m : List Byte) : Bool :=
  (x.spdmTake m).req.any (fun q => keyFails x (s.flowMeaning n x q))

/-- `SESSION_KEY`: one SPDM message of the key-exchange flow. The status of a message that ends the flow is not stated:
it is `ST_OK`, with the SPDM response, or `ST_AUTH_FAILED`, as a free value has it (14 R407, log 37). -/
def execSessionKey (sess : Fin 64) (seq : W32) (s : State) : Ans :=
  aidar sess seq 0x0602 s (fun x r =>
    let n := sess.val
    let a := s.spdm n x r.message
    checked [(x.keys.isSome, .denied, 0), s.pkgCheck r]
      (.done (((s.keyFlow n x r.message).modSess n (·.withChunks a.1)).use 2)
        (if s.flowFails n x r.message && Config.freeBits 1 (s.draw + 1) == 1 then .authFailed else .ok) (bodyOf a.2) a.2.length))

/-! ### Debug sessions (14 R419 to R421) -/

/-- `DEBUG_OPEN`: under an authorization of the operator for this module that has not expired, every context is destroyed
and a debug session opens (14 R419, R420). -/
def execDebugOpen (sess : Fin 64) (seq : W32) (s : State) : Ans :=
  aidar sess seq 0x0F01 s (fun _ r =>
    checked [(!s.operatorSigned 128 (r.num 0 16) (r.num 16 96), .authFailed, 0),
        (r.num 0 8 != s.sec.serial.toNat || decide (r.num 8 8 < s.now), .denied, 0), s.pkgCheck r,
        (Option.isSome s.sec.debug, .stateConflict, 0x5A)]
      (let s1 := (s.ctxs.map (·.1)).foldl State.destroyCtx s
       .ok { s1 with sec := { s1.sec with debug := some sess.val, debugSeen := true } }))

/-- `DEBUG_SESSION_END`: the Aidar session that opened the debug session ends, and with it the debug session: the
contexts created while it was open are destroyed (14 R421). -/
def execDebugSessionEnd (s : State) : Ans :=
  match s.sec.debug with
  | none => .next s
  | some n => .next (s.endSession n)

end Sys2Proof.Machine
end

