-- ==== Sys2Proof/Machine/Session.lean ====
section
/-! DEFINITION. Aidar sessions: connection, mailbox, taking of requests, ring, and the commands HELLO, BYE and PING
(12 R360 to R371). -/

namespace Sys2Proof.Machine

/-- The module accepts sessions: from the end of boot step 11 on, in any package state but `STANDBY` (12 R360,
13 R383). -/
def State.takesSessions (s : State) : Bool :=
  match s.pkg.st with
  | .standby => false
  | .boot => decide (11 ≤ s.pkg.bootStep)
  | _ => true

/-- The session that holds a queue pair. -/
def State.sessOfQp (s : State) (q : Nat) : Option (Nat × Sess) := s.sess.find? (fun e => !e.2.closed && e.2.qpn == q)

/-- Queue pairs in being: of open sessions, and data queue pairs (12 R355). -/
def State.qpCount (s : State) : Nat := (s.sess.filter (fun e => !e.2.closed)).length + s.qps.length

/-- The number that a new queue pair takes: the lowest free one (log 34). -/
def State.newQp (s : State) : Nat :=
  ((List.range 4097).find? (fun n => (smGet? s.qps n).isNone && (s.sessOfQp n).isNone)).getD 0

/-- The address of a session's mailbox area (12 R361). -/
def mailboxAt (n : Nat) : Nat := 0xFF00FF800000 + n * 0x8000

/-- No open session holds the number: it is unused, or its session has ended (12 R360). -/
def State.sessFree (s : State) (n : Nat) : Bool := (s.sess? n).all (·.closed)

/-- `AIDAR_CONNECT`: a connection request under the Aidar service ID arrives on a port, with the ring's address, R_Key and
log₂ of its entries; a session opens, or the request is rejected (12 R355, R360).  What an ended session of the same
number has still to run goes on under it. -/
def execAidarConnect (port : Fin 8) (ringVa : BitVec 64) (rkey : W32) (log2 : BitVec 8) (s : State) : Ans :=
  if !s.takesSessions ∨ !(s.ethPort port.val).up then .next s
  else
    let n := (List.range 64).find? s.sessFree
    match n with
    | none => .next (s.emit (.cmReject port.val))
    | some n =>
      if log2.toNat < 6 ∨ 12 < log2.toNat ∨ 4096 ≤ s.qpCount then .next (s.emit (.cmReject port.val))
      else
        let key := Config.freeBits 32 s.draw
        let x : Sess :=
          { port := port.val, ringVa := ringVa, rkey := rkey, log2 := log2.toNat, qpn := s.newQp, areaKey := key
            reqs := ((s.sess? n).map (·.reqs)).getD [] }
        let s1 : State := { s with sess := smPut s.sess n x }
        .next ((s1.emit (.cmAccept port.val x.qpn (BitVec.ofNat 64 (mailboxAt n)) key n)).use 1)

/-- `SESSION_END`: a session queue pair enters its error state, or its port goes down: the session ends (12, 14 R421). -/
def execSessionEnd (sess : Fin 64) (s : State) : Ans := .next (s.endSession sess.val)

/-! ### The mailbox (12 R361 to R363) -/

/-- The request slots of an area lie from this offset on. -/
def slotsAt : Nat := 0x200

/-- `OWNER` of a slot. -/
def slotOwner (img : Image512) : Nat := fieldN img 7 0

/-- `SEQ` of a slot. -/
def slotSeq (img : Image512) : W32 := BitVec.ofNat 32 (fieldN img 79 48)

/-- A slot holds an image whose line 0 has been written: `POSTED` in `OWNER` fires the write-watch, and a reserved value is
ignored and counted in `SLOT_ERR` (12 R362). -/
def Sess.post (x : Sess) (slot : Nat) (image : Image512) : Sess :=
  let bit : BitVec 32 := 1#32 <<< slot
  let o := slotOwner image
  { x with
    slots := smPutD 0 x.slots slot image
    posted := if o = 1 then x.posted ||| bit else x.posted &&& ~~~bit
    slotErr := if o ≤ 1 then x.slotErr else x.slotErr + 1 }

/-- An image with bytes of it overwritten from an offset on. -/
def overlay (image : Image512) (off : Nat) (bs : List Byte) : Image512 :=
  let m : Image512 := BitVec.ofNat 4096 ((2 ^ (8 * bs.length) - 1) <<< (8 * off))
  (image &&& ~~~m) ||| (BitVec.ofNat 4096 (ofBytes bs <<< (8 * off)) &&& m)

/-- Bytes that a write at an offset of the area puts into a slot; only a write that reaches line 0 posts it (12 R362). -/
def Sess.writeSlot (x : Sess) (off : Nat) (bs : List Byte) (slot : Nat) : Sess :=
  let base := slotsAt + 512 * slot
  let lo := max off base
  let part := (bs.drop (lo - off)).take (base + 512 - lo)
  if part.isEmpty then x
  else
    let image := overlay (smGet 0 x.slots slot) (lo - base) part
    if lo - base < 64 then x.post slot image else { x with slots := smPutD 0 x.slots slot image }

/-- A write of an area's lines: `RING_CONSUMER` in the control line, and the request slots (12 R361, R362). -/
def Sess.writeArea (x : Sess) (off : Nat) (bs : List Byte) : Sess :=
  if off < 64 then
    let w := ofBytes ((toBytes 4 x.consumer.toNat).zipIdx.map (fun e => if e.2 < off then e.1 else bs.getD (e.2 - off) e.1))
    { x with consumer := BitVec.ofNat 32 w }
  else (List.range 32).foldl (fun x i => x.writeSlot off bs i) x

/-- A range of an area lies in the control line, or in the request slots (12 R361). -/
def areaLines (off len : Nat) : Bool :=
  decide (off + len ≤ 64) || (decide (slotsAt ≤ off) && decide (off + len ≤ slotsAt + 32 * 512))

/-- A 4-byte word of the area, as it reads (00 R14, 12 R361, R362). -/
def Sess.areaWord (x : Sess) (off : Nat) : W32 :=
  if off < 4 then x.consumer
  else if areaLines off 4 && decide (slotsAt ≤ off) then
    let k := (off - slotsAt) % 512
    let v : W32 := BitVec.ofNat 32 ((smGet 0 x.slots ((off - slotsAt) / 512)).toNat >>> (8 * k))
    if k < 4 then v &&& 0xFFFF00FF else if 8 ≤ k ∧ k < 12 then v &&& 0xFFFF else if 12 ≤ k ∧ k < 64 then 0 else v
  else 0

/-- `SLOT_POST`: the host writes a request slot of its session's mailbox (12 R362). -/
def execSlotPost (sess : Fin 64) (slot : Fin 32) (image : BitVec 4096) (s : State) : Ans :=
  match s.sess? sess.val with
  | none => .next s
  | some x =>
    if x.closed then .next s else .next (s.modSess sess.val (fun x => x.post slot.val image))

/-- 14 R408: the body of a sealed slot, when its tag verifies; a slot of a session without keys is in clear.  Slots are
sealed from the completion of the key exchange on, whether or not the record of `FINISH` has been written. -/
def Sess.openSlot (x : Sess) (img : Image512) : Option (BitVec 3456) :=
  match x.keys with
  | some k =>
    let head := fieldN img 511 8 * 256 + 1
    (Config.gcmOpen k.reqKey (ivOf k.reqIv k.slotCtr) 512 head 3456 (fieldN img 3967 512) (BitVec.ofNat 128 (fieldN img 4095 3968))).map
      (BitVec.ofNat 3456)
  | none => some (BitVec.ofNat 3456 (fieldN img 3967 512))

/-- The requests that a session has itself taken: not those of an ended session of its number. -/
def Sess.own (x : Sess) : List Req := x.reqs.filter (fun r => r.issuer.isNone)

/-- A slot's request as it is taken. -/
def takenReq (slot : Nat) (img : Image512) (body : BitVec 3456) (order t : Nat) : Req :=
  { seq := slotSeq img, slot := slot, opcode := BitVec.ofNat 16 (fieldN img 47 32), len := fieldN img 31 16, body := body
    order := order, takenAt := t }

/-- The package manager takes the request of a posted slot that is next in order (12 R363): the slot becomes `FREE`, and
the slot counter advances.  A 33rd request gets `ST_BUSY` (R366), a tag that fails `ST_AUTH_FAILED`, and an opcode that
no row runs is checked at once (R368). -/
def State.takeSlot (s : State) (n slot : Nat) (x : Sess) : State :=
  let img := smGet 0 x.slots slot
  let seq := slotSeq img
  let body := x.openSlot img
  let r := takenReq slot img (body.getD 0) s.takeOrder s.now
  let full := decide (32 ≤ x.own.length)
  let known := (opInfo r.opcode.toNat).isSome
  let keep := !full && body.isSome && known
  let x1 := { x with
    slots := smPutD 0 x.slots slot (img &&& ~~~(0xFF#4096))
    posted := x.posted &&& ~~~(1#32 <<< slot)
    nextSeq := some (seq + 1)
    keys := x.keys.map (fun k => { k with slotCtr := k.slotCtr + 1 })
    reqs := if keep then x.reqs ++ [r] else x.reqs }
  let s1 : State := { s with sess := smPut s.sess n x1, takeOrder := s.takeOrder + 1 }
  if keep then s1
  else if full then s1.answer n r (.refuse .busy 0)
  else if body.isNone then s1.answer n r (.refuse .authFailed 0)
  else s1.answer n r (checked (earlyChecks x r) (.refuse .badArg 0))

/-- `REQUEST_TAKE`: the package manager takes a posted request, in `SEQ` order (12 R363); after `BYE` it takes no more
(log 30). -/
def execRequestTake (sess : Fin 64) (slot : Fin 32) (s : State) : Ans :=
  match s.sess? sess.val with
  | none => .next s
  | some x =>
    let next : Bool := match x.nextSeq with
      | none => true
      | some q => q == slotSeq (smGet 0 x.slots slot.val)
    if x.closed ∨ x.bye ∨ x.reqs.any (fun q => q.opcode == 2) ∨ !x.posted.getLsbD slot.val ∨ !next ∨ s.pkg.mgr.st ≠ .running then .next s
    else .next (s.takeSlot sess.val slot.val x)

/-! ### The ring (12 R364) -/

/-- 12, "When session events coincide": after `BYE`'s record has been written, the connection closes. -/
def State.closeBye (s : State) (n : Nat) : State :=
  match s.sess? n with
  | none => s
  | some x => if x.bye && x.own.isEmpty && x.results.isEmpty then s.endSession n else s

/-- `RING_CONSUMER_WRITE`: the host writes `RING_CONSUMER`, and records that wait are written as far as there is room. -/
def execRingConsumerWrite (sess : Fin 64) (value : W32) (s : State) : Ans :=
  match s.sess? sess.val with
  | none => .next s
  | some x =>
    if x.closed then .next s
    else .next (((s.modSess sess.val (fun x => { x with consumer := value })).flush sess.val).closeBye sess.val)

/-- An RDMA WRITE on a session's queue pair: only the lines of its own area may be written, under the R_Key of the area;
any other is answered with a remote-access-error NAK, the queue pair enters its error state, and the session ends
(12 R361). -/
def State.writeMailbox (s : State) (n : Nat) (x : Sess) (rkey : W32) (va : Nat) (bs : List Byte) : State :=
  if rkey = x.areaKey ∧ mailboxAt n ≤ va ∧ areaLines (va - mailboxAt n) bs.length then
    (((s.modSess n (fun x => x.writeArea (va - mailboxAt n) bs)).emit (.rdmaAck x.qpn)).flush n).closeBye n
  else (s.emit (.nak x.qpn 2)).endSession n

/-! ### HELLO, BYE and PING -/

/-- The `HELLO` result body, 22 bytes (12 R370), of stepping B (00 R21). -/
def State.helloBody (s : State) (n : Nat) (x : Sess) (minor : Nat) : BitVec 3456 :=
  pack 3456 [(15, 0, 2), (31, 16, 3), (47, 32, minor), (55, 48, n), (63, 56, 0x10 + s.pkg.st.num), (71, 64, b2n (s.degWhy != 0)),
    (79, 72, 0x42), (143, 80, s.sec.serial.toNat), (175, 144, (x.nextSeq.getD 0).toNat)]

/-- `HELLO` (12 R370). -/
def execHello (sess : Fin 64) (seq : W32) (s : State) : Ans :=
  aidar sess seq 0x0001 s (fun x r =>
    checked [s.pkgCheck r, (x.helloDone && !x.restarted, .stateConflict, 0x5E)]
      (let minor := min (r.num 2 2) 3
       let body := s.helloBody sess.val x minor
       if r.num 0 2 = 2 then
         let mask : BitVec 32 := if minor = 3 ∧ r.len = 8 then BitVec.ofNat 32 (r.num 4 4) else 0
         .done (s.modSess sess.val (fun x => { x with helloDone := true, restarted := false, minor := minor, mask := mask })) .ok body 22
       else .done s .ifaceMismatch body 22))

/-- `BYE`: it completes after every other command of its session, and the connection closes once its record has been
written (12 R371). -/
def execBye (sess : Fin 64) (seq : W32) (s : State) : Ans :=
  match s.sess? sess.val with
  | none => .next s
  | some x =>
    if 1 < x.own.length then .next s
    else
      .next ((s.runReq sess.val seq 0x0002 (fun _ => true) (fun _ r =>
        checked [s.pkgCheck r] (.ok (s.modSess sess.val (fun x => { x with bye := true }))))).closeBye sess.val)

/-- `PING` (12 R373). -/
def execPing (sess : Fin 64) (seq : W32) (s : State) : Ans :=
  aidar sess seq 0x0003 s (fun x r =>
    checked [s.pkgCheck r]
      (.done s .ok (pack 3456 [(31, 0, (x.nextSeq.getD 0).toNat), (95, 32, s.now), (103, 96, 0x10 + s.pkg.st.num), (111, 104, b2n (s.degWhy != 0))]) 14))

end Sys2Proof.Machine
end

