-- ==== Sys2Proof/Machine/Time.lean ====
section
/-! DEFINITION. Tide: time roles, the servo, exchanges over the torus, PTP and the time pins (15 R425, R442 to R451;
14 R413; 18 R501). -/

namespace Sys2Proof.Machine

/-! ### Tide and its stamps (15 R442 to R444) -/

/-- Tide in 2^-16 ns. -/
def State.tide16 (s : State) : Nat := s.time.ns.toNat * 2 ^ 16 + s.time.frac.toNat

/-- A hardware timestamp, in 2^-16 ns: only bit 15 of `FRAC` is kept (15 R443). -/
def State.stamp (s : State) : Nat := s.tide16 / 2 ^ 15 * 2 ^ 15

/-- Advance tide by an amount in 2^-16 ns. -/
def State.advanceTide (s : State) (d : Nat) : State :=
  let t := s.tide16 + d
  { s with time := { s.time with ns := BitVec.ofNat 64 (t / 2 ^ 16), frac := BitVec.ofNat 16 t } }

/-- The largest rate correction, in 2^-16 ns per 0.5 ns: within 200 ppm (15 R444). -/
def rateMax : Int := 6

/-- Cut a rate to the bound of 15 R444. -/
def cutRate (r : Int) : Int := max (-rateMax) (min rateMax r)

/-! ### The place of the module in the tree of time (15 R448) -/

/-- The torus root that the module answers with: its own coordinate when it is the root (15 R449). -/
def State.timeRoot (s : State) : BitVec 12 := if s.time.torusRole = 1 then packXyz (s.coord 0) (s.coord 1) (s.coord 2) else s.time.root

/-- The direction toward the root on a fabric axis: true is −, as R272 gives it (15 R448). -/
def State.towardNeg (s : State) (a : Axis) : Bool :=
  let n := s.fabExt a
  let r := xyzOn s.time.root a
  if s.fabClosed a then
    let up := (r + n - s.coord a % n) % n
    decide (n - up < up)
  else decide (r < s.coord a)

/-- Links between the module and the root on an axis, along that direction (15 R448). -/
def State.linksOn (s : State) (a : Axis) : Nat :=
  let n := s.fabExt a
  let r := xyzOn s.time.root a
  if s.fabClosed a then
    let up := (r + n - s.coord a % n) % n
    min up (n - up)
  else max r (s.coord a) - min r (s.coord a)

/-- Hop count of a follower (15 R448). -/
def State.hops (s : State) : Nat := if s.time.torusRole = 2 then s.linksOn 0 + s.linksOn 1 + s.linksOn 2 else 0

/-- The port toward the parent: the first of Z, Y and X on which the coordinates differ, letter a while that port is `UP`,
and else b; none for a module that is no follower (15 R448). -/
def State.parentPort (s : State) : Option Nat :=
  if s.time.torusRole = 2 then
    (([2, 1, 0] : List Axis).find? (fun a => xyzOn s.time.root a != s.coord a)).map (fun a =>
      let pa := portFor a (s.towardNeg a) false
      if (s.port pa).st = .up then pa else portPartner pa)
  else none

/-- Choose the parent port anew; a change raises `TIME_PARENT_CHANGED` (15 R448). -/
def State.setParent (s : State) : State :=
  let p := s.parentPort.getD 15
  if p = s.time.parent then s
  else
    let s1 : State := { s with time := { s.time with parent := p } }
    s1.event 0x0783 0 0 none 0

/-- Code of the `SYNC` state. -/
def SyncSt.num : SyncSt → Nat
  | .unlocked => 0 | .locked => 1 | .holdover => 2 | .fault => 3

/-- `OFFSET`: the filtered offset in 1/16 ns, saturating at 24 bits (15 R451). -/
def offset16 (x : Int) : Int := max (-(2 ^ 23)) (min (2 ^ 23 - 1) (x / 2 ^ 12))

/-- `TIME_STAT`, at offset 0x00C0_0010 of the package block (15 R451). -/
def State.timeStat (s : State) : W64 :=
  pack 64 [(63, 40, unsignedN 24 s.time.offset), (39, 32, s.hops), (31, 20, s.time.root.toNat), (19, 16, s.time.parent),
    (11, 9, s.time.ptpRole), (8, 7, s.time.torusRole), (3, 2, s.time.sync.num)]

/-! ### The servo (15 R444, R448 to R450) -/

/-- Hold over: the last rate stays, and `TIME_HOLDOVER` is raised on entry; a module in `UNLOCKED` has nothing to hold
(15 R450). -/
def State.holdOver (s : State) : State :=
  if s.time.sync = .unlocked ∨ s.time.sync = .holdover then s
  else
    let s1 : State := { s with time := { s.time with sync := .holdover, good := 0, filter := [] } }
    s1.event 0x0781 0 0 none 0

/-- `TIME_FAULT` is raised (15 R444, R449). -/
def State.timeFault (s : State) : State := s.event 0x0782 0 0 none 0

/-- A measurement corrects tide: the first one of an `UNLOCKED` module steps it forward; a backward step of more than
1 ms is a fault, and the module slews; otherwise the offset enters the filter, which sets the rate, and 64 consecutive
offsets below 2 ns lock (15 R444, R448, R449). -/
def State.measured (s : State) (theta : Int) : State :=
  if theta < -(10 ^ 6 * 2 ^ 16) then
    let s1 : State := { s with time := { s.time with sync := .fault, rate := -rateMax, good := 0, filter := [], stepped := true } }
    if s.time.sync = .fault then s1 else s1.timeFault
  else if s.time.sync = .unlocked ∧ !s.time.stepped ∧ 0 < theta then
    let s1 := s.advanceTide theta.toNat
    { s1 with time := { s1.time with stepped := true } }
  else
    let f := (s.time.filter ++ [theta]).drop (s.time.filter.length + 1 - 16)
    let x := Config.tideFilter f
    let good := if theta.natAbs < 2 * 2 ^ 16 then min 64 (s.time.good + 1) else 0
    let s1 : State := { s with time := { s.time with
      stepped := true
      filter := f
      offset := offset16 x
      rate := cutRate (Config.servoRate x s.time.rate)
      good := good
      sync := if good = 64 then .locked else s.time.sync } }
    let s2 := s1.gaugeSample 0x14000001 (objId 0 0) (BitVec.ofInt 64 s1.time.offset)
    if good = 64 ∧ s.time.sync ≠ .locked then s2.event 0x0780 0 0 none 0 else s2

/-! ### Time roles (15 R445) -/

/-- `TIME_ROLE_SET`: the time roles of the module (15 R445). -/
def execTimeRoleSet (sess : Fin 64) (seq : W32) (s : State) : Ans :=
  aidar sess seq 0x0410 s (fun _ r =>
    let role := r.num 0 1
    let bad := decide (4 < role) || decide (2 < r.num 1 1) || decide (15 < r.num 3 1) || decide (2 < r.num 4 1) || decide (4095 < r.num 5 2)
      || ((role == 1 || role == 2) && r.num 3 1 == 0) || !r.clean [(0, 7), (8, 3)]
    checked [badArg bad, s.pkgCheck r]
      (let t : Time := { s.time with
          ptpRole := role
          profile := r.num 1 1
          domain := BitVec.ofNat 8 (r.num 2 1)
          portMask := BitVec.ofNat 4 (r.num 3 1)
          torusRole := r.num 4 1
          root := BitVec.ofNat 12 (r.num 5 2)
          prio := BitVec.ofNat 16 (r.num 8 2)
          clockClass := BitVec.ofNat 8 (r.num 10 1)
          ref10m := role == 3 && s.time.refValid }
       let s1 : State := { s with time := if t = s.time then t else { t with inFlight := none, filter := [], good := 0 } }
       .ok s1.setParent))

/-! ### Exchanges over the torus (15 R449) -/

/-- The bits of a `TIDE` body (15 R449), with the control packet's bit 128 as bit 0. -/
def State.tideBody (s : State) (t2 t3 : Nat) (reqId : BitVec 16) (msg : Nat) (err : Nat) : BitVec 256 :=
  pack 256 [(255, 192, t2 / 2 ^ 16), (191, 176, t2), (175, 112, t3 / 2 ^ 16), (111, 96, t3), (95, 80, reqId.toNat), (79, 72, s.hops),
    (71, 60, s.timeRoot.toNat), (59, 58, msg), (57, 56, s.time.sync.num), (55, 32, err)]

/-- Send a `TIDE` packet on a port, under its link tag (15 R448, 14 R416). -/
def State.sendTide (s : State) (j : Nat) (body : BitVec 256) : State := s.sendHop j 0x40 (s.portLinkKey j) 256 body.toNat body

/-- `TIDE_EXCHANGE`: every 125 µs a follower sends its parent a request; the bound on its error is a free value
(15 R449). -/
def execTideExchange (s : State) : Ans :=
  let s1 := s.setParent
  match s1.parentPort with
  | none => .next s1
  | some j =>
    if (s1.port j).st ≠ .up then .next s1
    else
      let id := s1.time.reqId
      let body := s1.tideBody 0 0 id 0 (Config.freeBits 24 s1.draw).toNat
      let s2 : State := { s1 with time := { s1.time with reqId := id + 1, inFlight := some (id, s1.stamp) }, draw := s1.draw + 1 }
      .next (s2.sendTide j body)

/-- The asymmetry of a port that the `CAL` image in use holds (15 R449). -/
def State.asym (s : State) (j : Nat) : Int :=
  let c := s.fwClass 4
  match c.image c.bootSlot with
  | some i => Config.calAsym i.header j
  | none => 0

/-- A stamp of a body, in 2^-16 ns. -/
def stampAt (b : BitVec 256) (lo : Nat) : Int := (fieldN b (lo + 63) lo * 2 ^ 16 + fieldN b (lo - 1) (lo - 16) : Nat)

/-- A response of the parent: a root that is not the follower's is a fault; else the offset is measured (15 R449). -/
def State.tideResponse (s : State) (j : Nat) (b : BitVec 256) : State :=
  match s.time.inFlight with
  | none => s
  | some (id, t1) =>
    if s.time.torusRole ≠ 2 ∨ j ≠ s.time.parent ∨ fieldN b 95 80 ≠ id.toNat then s
    else
      let s1 : State := { s with time := { s.time with inFlight := none } }
      if fieldN b 71 60 ≠ s.time.root.toNat then s1.timeFault.holdOver
      else
        let t4 : Int := (s.stamp : Nat)
        s1.measured (((stampAt b 192 - t1) - (t4 - stampAt b 112) - s.asym j) / 2)

/-- `TIDE`: the port takes the `TIDE` packet that waits in its buffer: a request is answered, and a response measures
the parent's offset; one whose tag does not verify is dropped (15 R449, 14 R416). -/
def execTide (port : Fin 12) (s : State) : Ans :=
  let j := port.val
  match s.takeIn j (fun _ p => p.kind == 0x40) with
  | none => .next s
  | some (p, s1) =>
    let b := p.body
    let ok := s.sec.fabricKey.isSome && p.tag == linkTag (s.portLinkKey j) 256 b.toNat && fieldN b 31 0 == 0
    if !ok then .next s1
    else if fieldN b 59 58 = 0 then
      let t := s1.stamp
      let body := s1.tideBody t t (BitVec.ofNat 16 (fieldN b 95 80)) 1 (Config.freeBits 24 s1.draw).toNat
      .next ((s1.use 1).sendTide j body)
    else if fieldN b 59 58 = 1 then .next (s1.tideResponse j b)
    else .next s1

/-! ### PTP and the time pins (15 R425, R446, R447; 18 R501) -/

/-- The slave port: the lowest port of the mask (15 R445). -/
def Time.slavePort (t : Time) : Option Nat := (List.range 4).find? t.portMask.getLsbD

/-- `PTP_EVENT_MESSAGE`: a network B port stamps an event message that it sends or receives; in one-step operation it
updates the `correctionField` of a message that it sends, to a value that no rule states.  A measurement of the servo in
the slave port's P-die manager, taken from the message, corrects tide (15 R445, R446). -/
def execPtpEventMessage (port : Fin 4) (sent oneStep : Bool) (correction : BitVec 64) (theta : Option (BitVec 64)) (s : State) : Ans :=
  if !(s.ethPort (4 + port.val)).up then .next s
  else
    let upd := sent && oneStep
    let c := if upd then Config.freeBits 64 s.draw else correction
    let s1 := (if upd then s.use 1 else s).emit (.ptp port.val (s.stamp / 2 ^ 15) c)
    match theta with
    | none => .next s1
    | some x =>
      if (s.time.ptpRole = 1 ∨ s.time.ptpRole = 2) ∧ s.time.slavePort = some port.val ∧ (s.die (84 + port.val)).mgr.st = .running ∧ !sent
      then .next (s1.measured x.toInt) else .next s1

/-- Tide past the last whole second, in 2^-16 ns. -/
def State.pastSecond (s : State) : Int := (s.tide16 % (10 ^ 9 * 2 ^ 16) : Nat)

/-- Offset of a grandmaster at an edge: the whole second that it aligns is the next one for the first step, and else the
nearest (15 R444, R447). -/
def State.ppsOffset (s : State) : Int :=
  let x := s.pastSecond
  let sec : Int := 10 ^ 9 * 2 ^ 16
  if x = 0 then 0
  else if (s.time.sync = .unlocked ∧ !s.time.stepped) ∨ sec ≤ 2 * x then sec - x
  else -x

/-- `PPS_EDGE`: a rising edge of `PPS_IN`: in `GRANDMASTER`, with five consecutive edges at intervals of 1 s ± 1 µs and
`REF10M_IN` valid, tide aligns to it (15 R447, 18 R501). -/
def execPpsEdge (s : State) : Ans :=
  let inSpan := s.time.ppsAt.any (fun t => decide (t + 999999000 ≤ s.now) && decide (s.now ≤ t + 1000001000))
  let good := if inSpan then min 4 (s.time.ppsGood + 1) else 0
  let s1 : State := { s with time := { s.time with ppsGood := good } }
  let s2 := if s.time.ptpRole = 3 ∧ good = 4 ∧ s.time.refValid then s1.measured s.ppsOffset else s1
  .next { s2 with time := { s2.time with ppsAt := some s2.now } }

/-- `PPS_OUT`: at a whole second of tide the module drives `PPS_OUT`, in every role (15 R447). -/
def execPpsOut (s : State) : Ans := if s.now % 10 ^ 9 = 0 ∧ s.power.stbyOn then .next (s.emit (.ppsOut s.now)) else .next s

/-- `REF10M_IN_VALID`: the validity of the signal at `REF10M_IN` changes: while the time role selects it, the reference
locks to it; a grandmaster that loses it holds over (15 R425, R447). -/
def execRef10mInValid (valid : Bool) (s : State) : Ans :=
  let s1 : State := { s with time := { s.time with refValid := valid, ref10m := valid && s.time.ptpRole == 3 } }
  .next (if !valid ∧ s.time.ptpRole = 3 then s1.holdOver else s1)

/-- `TIME_HOLDOVER`: a follower has neither port toward its parent `UP`, or a `SLAVE`, `BOUNDARY` or `GRANDMASTER` loses
its source (15 R447, R450). -/
def execTimeHoldover (s : State) : Ans :=
  let t := s.time
  let lost := t.torusRole == 2 && (match s.parentPort with | some j => decide ((s.port j).st ≠ .up) | none => false)
  if lost ∨ t.ptpRole = 1 ∨ t.ptpRole = 2 ∨ t.ptpRole = 3 then .next s.holdOver else .next s

/-- `SEAL_GENERATION`: tide enters the next generation of 2^33 ns, and the packet counts of the P-dies start again at 0
(14 R413, R414). -/
def execSealGeneration (s : State) : Ans :=
  let g := sealGenOf s.now
  if g = s.time.sealGen then .next s
  else .next { s with time := { s.time with sealGen := g }, sec := { s.sec with sealCount := List.replicate 4 0 } }

end Sys2Proof.Machine
end

