-- ==== Sys2Proof/Machine/Regs.lean ====
section
/-! DEFINITION. Control and status space: every register at its address (01 R43 and the register tables of every chapter),
reads and writes under the access codes (00 R13, R14), and the rule of the write-1-to-clear flags (00 R15 to R17). -/

namespace Sys2Proof.Machine

/-! ### Registers as words -/

/-- A register: its offset, its 4-byte words, and its value. -/
abbrev RegRow := Nat × Nat × Nat

/-- The 4-byte word at an offset, of the registers listed (00 R12). -/
def lookReg (rs : List RegRow) (off : Nat) : Option W32 :=
  (rs.find? (fun r => decide (r.1 ≤ off) && decide (off < r.1 + 4 * r.2.1))).map (fun r => BitVec.ofNat 32 (r.2.2 >>> (8 * (off - r.1))))

/-- The word at an offset of an array of registers: from `base` on, `n` of them, `pitch` bytes apart, each as `f` lists it
from its own offset 0. -/
def arrayReg (base pitch n : Nat) (f : Nat → List RegRow) (off : Nat) : Option W32 :=
  if base ≤ off ∧ off < base + n * pitch then lookReg (f ((off - base) / pitch)) ((off - base) % pitch) else none

/-! ### Tile registers (04 R113, R119; 05 R149; 06; 07 R210) -/

/-- Number of a `PARK` state. -/
def ParkSt.num : ParkSt → Nat
  | .running => 0 | .gated => 1 | .off => 2 | .waking => 3

/-- Number of a `UC_STATE`. -/
def UcSt.num : UcSt → Nat
  | .halted => 0 | .running => 1 | .excHalted => 2 | .noImage => 3

/-- `HEAD_REASON` of a queue (06, "Scheduler registers"; 07 R200: a `GUARD` head held by a `PENDING` verdict reads `SYNC`). -/
def State.headReason (s : State) (l q : Nat) : Nat :=
  match s.headOf l q with
  | none => if s.ops.any (fun o => o.kind == 1 && o.tile == l && o.queue == q && o.phase == .held) then 5 else 0
  | some o =>
    if o.noCell || s.xlates.any (fun x => match x.use with | .opWait i => i == o.id | _ => false) then 4
    else if !o.waitsTaken then 1
    else if (OpD.of o.desc).guard && !s.headSkips o && s.verdictOn l == .pending then 1
    else if (s.tileL l).park == .waking then 6
    else if s.hazard o then 2
    else if s.engineBusy o || o.losses != 0 then 3
    else 7

/-- `QSTAT` of a queue of a physical tile. -/
def State.qstat (s : State) (p q : Nat) : Nat :=
  let t := s.tileP p
  let w := min 0xFFFFFF ((s.now - t.qSince.getD q 0) / 8)
  let l := s.logicalOf p
  let depth := (s.ops.filter (fun o => o.kind == 1 && some o.tile == l && o.queue == q && o.isQueued)).length
  (pack 64 [(63, 40, w), (15, 12, (l.map (fun l => s.headReason l q)).getD 0), (11, 6, depth), (0, 0, b2n (t.parked.getLsbD q))]).toNat

/-- Scoreboard entries in use on a physical tile (06 R176). -/
def State.sbUsed (s : State) (p : Nat) : Nat := (s.ops.filter (fun o => o.kind == 1 && some o.tile == s.logicalOf p)).length

/-- `SCHED_STAT` of a physical tile. -/
def State.schedStat (s : State) (p : Nat) : Nat :=
  let c := s.ctxOfPhys p
  (pack 32 [(15, 15, b2n c.isSome), (14, 9, c.getD 0), (8, 7, (s.tileP p).park.num), (6, 0, s.sbUsed p)]).toNat

/-- `UC_TAKE` as it reads. -/
def UtilCore.takeReg (u : UtilCore) : Nat := (pack 32 [(31, 30, u.takeResult), (16, 16, b2n u.takeLocal), (15, 0, u.takeId)]).toNat

/-- `UC_STAT`. -/
def UtilCore.stat (u : UtilCore) : Nat := (pack 64 [(63, 16, u.faultPc.toNat), (15, 8, u.mcause.toNat), (1, 0, u.st.num)]).toNat

/-- The word at an offset of a physical tile's register block. -/
def State.tileReg (s : State) (p off : Nat) : Option W32 :=
  let t := s.tileP p
  (lookReg [(0x00, 1, t.accFlags.toNat), (0x04, 1, t.accAlert.toNat), (0x08, 2, t.satCount.toNat), (0x10, 2, t.nfCount.toNat),
      (0x18, 2, t.mrCount.toNat), (0x40, 1, t.vecFlags.toNat), (0x44, 1, t.vecAlert.toNat), (0x48, 2, t.invCount.toNat),
      (0x50, 2, t.dzCount.toNat), (0x140, 1, s.schedStat p), (0x148, 1, (pack 32 [(31, 30, t.selBias), (23, 0, t.offDelay)]).toNat),
      (0x1C0, 1, 0), (0x1C8, 1, t.uc.takeReg), (0x1D0, 2, t.uc.stat)] off).or
    ((arrayReg 0x100 8 8 (fun q => [(0, 2, s.qstat p q)]) off).or
    ((arrayReg 0x180 8 8 (fun q => [(0, 1, t.qcfg.getD q 0)]) off).or
    ((arrayReg 0x200 4 48 (fun i => [(0, 1, t.lsync.getD i 0)]) off).or
    ((arrayReg 0x400 4 64 (fun i => [(0, 1, (smGet 0 t.privAmax i).toNat)]) off).or
    (arrayReg 0x8000 16 256 (fun e => [(0, 2, (smGet 0 t.mrIn e).toNat), (8, 2, (smGet 0 t.mrOut e).toNat)]) off)))))

/-! ### Die registers (01, 09 R268, 10 R318, 13 R394, 14 R415, 15) -/

/-- Number of a `C_STATE`. -/
def CState.num : CState → Nat
  | .enabled => 0 | .spare => 1 | .fenced => 2 | .retired => 3

/-- Number of an `MSTATE`. -/
def MgrSt.num : MgrSt → Nat
  | .held => 0 | .verifying => 1 | .running => 2 | .restarting => 3 | .activating => 4

/-- `MGR_STAT` of a manager (13 R394). -/
def Mgr.stat (m : Mgr) (now : Nat) : Nat :=
  (pack 64 [(63, 32, m.crashes), (23, 16, min 255 (m.crashAt.filter (fun t => decide (now < t + 600 * 10 ^ 9))).length), (8, 8, b2n m.slot),
    (7, 7, b2n m.stale), (2, 0, m.st.num)]).toNat

/-- `DIE_INFO` of a die (01). -/
def State.dieInfo (s : State) (d : Nat) : Nat :=
  (pack 32 [(17, 16, if d < 64 then 0 else if d < 84 then 1 else 2), (15, 14, if d < 64 then (s.die d).cstate.num else 0), (6, 0, d)]).toNat

/-- An entry of a remap bank (01). -/
def remapEntry (bank : List Nat) (l : Nat) : Nat := if l < 480 then 2 ^ 31 + bank.getD l 0 else 0

/-- `LINK_STAT` of a port (09 R268). -/
def Port.linkStat (p : Port) : Nat :=
  (pack 64 [(63, 48, p.loopNs), (47, 40, p.revMajor.toNat), (39, 32, p.revMinor.toNat), (22, 14, p.laneMap.toNat), (13, 13, b2n p.byPartner),
    (9, 8, p.width), (2, 0, p.st.num)]).toNat

/-- Port with a local index on a P-die (09 R248). -/
def portOfP (p i : Nat) : Nat := 4 * i + [0, 2, 1, 3].getD p 0

/-- The registers of a port, from its block on (09 R268). -/
def Port.rows (p : Port) : List RegRow :=
  [(0x00, 2, p.linkStat), (0x08, 1, p.evt.toNat), (0x0C, 1, p.evtEn.toNat), (0x100, 8, p.peerIdent.toNat)]
    ++ (List.range 10).map (fun i => (0x40 + 8 * i, 2, (p.counts.getD i 0).toNat))

/-- The word at an offset of a die's block. -/
def State.dieReg (s : State) (d off : Nat) : Option W32 :=
  let x := s.die d
  (lookReg [(0x0000, 1, s.dieInfo d), (0x0100, 1, s.pkg.generation.toNat * 2 ^ 16 + b2n s.pkg.activeBank), (0x0200, 2, x.mgr.stat s.now),
      (0x0300, 2, x.weirStat.toNat), (0x0310, 4, s.tide16)] off).or
    ((arrayReg 0x1000 4 512 (fun l => [(0, 1, remapEntry s.pkg.bank0 l)]) off).or
    ((arrayReg 0x1800 4 512 (fun l => [(0, 1, remapEntry s.pkg.bank1 l)]) off).or
    (if d < 64 then
      if 0x100000 ≤ off ∧ off < 0x180000 then s.tileReg (8 * d + (off - 0x100000) / 0x10000) (off % 0x10000) else none
    else if 84 ≤ d then
      (arrayReg 0x20000 0x1000 3 (fun i => (s.port (portOfP (d - 84) i)).rows) off).or
        (lookReg [(0x30000, 2, (s.sec.epochStale.getD (d - 84) 0).toNat), (0x30010, 2, (s.sec.sealFail.getD (d - 84) 0).toNat)] off)
    else none)))

/-! ### The package block (07 R197, R208; 10 R315; 11; 13; 14; 15) -/

/-- `FW_STAT` of an image class (13 R390). -/
def State.fwStat (s : State) (k : Nat) : Nat :=
  let c := s.fwClass k
  (pack 128 [(127, 96, (c.slotB.map (·.version)).getD 0), (95, 64, (c.slotA.map (·.version)).getD 0), (63, 56, s.diesOn k true), (55, 48, s.diesOn k false),
    (40, 24, if c.act = 2 then (c.windowEnd - s.now) / 10 ^ 9 else 0), (5, 5, b2n c.staged), (4, 4, b2n c.bootSlot), (1, 0, c.act)]).toNat

/-- Number of a verdict. -/
def Verdict.num : Verdict → Nat
  | .pending => 0 | .commit => 1 | .skip => 2

/-- `STEP_STAT` of a context (07 R197). -/
def Ctx.stepStat (x : Ctx) : W32 :=
  pack 32 [(4, 4, b2n x.bankSel), (3, 2, x.verdict.num), (1, 1, b2n x.healthLate), (0, 0, b2n x.stepHealth)]

/-- The step registers of a context (07 R197). -/
def Ctx.stepRows (x : Ctx) : List RegRow :=
  [(0x00, 2, x.stepCount.toNat), (0x08, 2, x.skipCount.toNat), (0x10, 1, x.stepStat.toNat), (0x18, 2, x.healthLateCount.toNat),
    (0x20, 2, x.seqErr.toNat)]

/-- `COLL_EPOCH` of a context (10 R315). -/
def Ctx.collEpoch (x : Ctx) : Nat := x.epochX.toNat + x.epochY.toNat * 2 ^ 8 + x.epochZ.toNat * 2 ^ 16

/-- The registers of a context, when it exists. -/
def State.ctxRows (s : State) (c : Nat) (f : Ctx → List RegRow) : List RegRow := ((s.ctx? c).map f).getD []

/-- The word at an offset of the mailbox areas; the area of a session that is not open reads as 0 (12 R361). -/
def State.mailboxWord (s : State) (off : Nat) : Option W32 :=
  if off < 64 * 0x8000 then
    some (match s.sess? (off / 0x8000) with
      | some x => if x.closed then 0 else x.areaWord (off % 0x8000)
      | none => 0)
  else none

/-- The word at an offset of the package block. -/
def State.pkgReg (s : State) (off : Nat) : Option W32 :=
  (lookReg ([(0x10000, 1, s.pkgState.toNat), (0x10008, 2, s.pkg.mgr.stat s.now), (0x600000, 1, s.part.fabCfg.toNat),
      (0x600008, 2, s.part.partCfg.toNat), (0x600010, 1, s.part.levee.toNat), (0x600018, 1, s.part.evt.toNat),
      (0x60001C, 1, s.part.evtEn.toNat), (0x700000, 2, s.secStat.toNat), (0x700008, 2, s.arbCount.toNat), (0xC00000, 2, s.pwrStat.toNat),
      (0xC00010, 2, s.timeStat.toNat)] ++ (List.range 4).map (fun i => (0x600040 + 8 * i, 2, (s.part.counts.getD i 0).toNat))) off).or
    ((arrayReg 0x10100 0x10 6 (fun k => [(0, 4, s.fwStat k)]) off).or
    ((arrayReg 0x300000 0x40 64 (fun c => s.ctxRows c Ctx.stepRows) off).or
    ((arrayReg 0x400000 0x80 4096 (fun n => s.ctxRows (n / 64) (fun x => [(0, 32, (smGet 0 x.priv (n % 64)).toNat)])) off).or
    ((arrayReg 0x500000 0x10 64 (fun c => s.ctxRows c (fun x => [(0, 1, x.collEpoch)])) off).or
    (if 0x800000 ≤ off then s.mailboxWord (off - 0x800000) else none)))))

/-! ### Reads -/

/-- Base of control and status space (01 R43). -/
def ctlBase : Nat := 0xFF0000000000

/-- The package block lies at block 255. -/
def pkgBlock : Nat := 255

/-- The address lies in control and status space: in the block of a die, or in the package block (01 R43). -/
def inControl (a : Nat) : Bool :=
  decide (ctlBase ≤ a) && (decide ((a - ctlBase) / 2 ^ 24 < 88) || (a - ctlBase) / 2 ^ 24 == pkgBlock)

/-- The logical tile and offset of an address in an accumulator debug window (01 R44). -/
def accWindow (a : Nat) : Option (Nat × Nat) :=
  let l := (a - spadBase) / 2 ^ 24
  let off := (a - spadBase) % 2 ^ 24
  if spadBase ≤ a ∧ l < 480 ∧ 0x800000 ≤ off ∧ off < 0xA00000 then some (l, off - 0x800000) else none

/-- The 4-byte word at an address of control and status space or of an accumulator debug window; none where no register
lies (04 R132). -/
def State.reg32 (s : State) (a : Nat) : Option W32 :=
  match accWindow a with
  | some (l, off) => some (smGet 0 (s.tileL l).acc (off / 4))
  | none =>
    let d := (a - ctlBase) / 2 ^ 24
    let off := (a - ctlBase) % 2 ^ 24
    if d < 88 then s.dieReg d off else if d = pkgBlock then s.pkgReg off else none

/-- `REG_READ`: from 1 to 54 words of 8 bytes, inside the session's debug session (12 R373, 14 R421, 04 R132).  What a
place without a register reads as, no rule states: a free value. -/
def execRegRead (sess : Fin 64) (seq : W32) (s : State) : Ans :=
  aidar sess seq 0x0F02 s (fun _ r =>
    let a := r.num 0 8
    let n := r.num 8 2
    let bad := !r.clean [(0, 10)] || a % 8 != 0 || n == 0 || decide (54 < n)
      || (List.range n).any (fun i => !inControl (a + 8 * i) && (accWindow (a + 8 * i)).isNone)
    checked [badArg bad, s.pkgCheck r, (s.sec.debug != some sess.val, .stateConflict, 0x5B)]
      (let ws := (List.range (2 * n)).map (fun i => (s.reg32 (a + 4 * i)).getD (Config.freeBits 32 (s.draw + i)))
       .done (s.use (2 * n)) .ok (pack 3456 (ws.zipIdx.map (fun w => (32 * w.2 + 31, 32 * w.2, w.1.toNat)))) (8 * n)))

/-! ### Writes (00 R13 to R17) -/

/-- A field of a register after a write of `v` under a mask. -/
def masked {w : Nat} (old : BitVec w) (v m : W32) : BitVec w := (old &&& ~~~(m.setWidth w)) ||| (v.setWidth w &&& m.setWidth w)

/-- A write-1-to-clear field after a write: the bits written as 1 are cleared. -/
def cleared {w : Nat} (old : BitVec w) (v m : W32) : BitVec w := old &&& ~~~((v &&& m).setWidth w)

/-- Write a word of a physical tile's block. -/
def State.writeTileReg (s : State) (p off : Nat) (v m : W32) : State :=
  match off with
  | 0x00 => s.modTileP p (fun t => { t with accFlags := cleared t.accFlags v m })
  | 0x04 => s.modTileP p (fun t => { t with accAlert := masked t.accAlert v m })
  | 0x40 => s.modTileP p (fun t => { t with vecFlags := cleared t.vecFlags v m })
  | 0x44 => s.modTileP p (fun t => { t with vecAlert := masked t.vecAlert v m })
  | 0x148 => s.modTileP p (fun t =>
      let w := masked (pack 32 [(31, 30, t.selBias), (23, 0, t.offDelay)]) v m
      { t with selBias := fieldN w 31 30, offDelay := fieldN w 23 0 })
  | 0x1C0 => (match s.logicalOf p with
    | some l => if m = 0 then s else s.ucSignal l (bitN (v &&& m) 16) (fieldN (v &&& m) 15 0)
    | none => s)
  | 0x1C8 => (match s.logicalOf p with
    | some l =>
      let w := masked (BitVec.ofNat 32 (s.tileP p).uc.takeReg) v m
      if m = 0 then s else s.ucTake l (bitN w 16) (fieldN w 15 0)
    | none => s)
  | _ =>
    if 0x180 ≤ off ∧ off < 0x1C0 ∧ off % 8 = 0 then
      s.modTileP p (fun t => { t with qcfg := modAt t.qcfg ((off - 0x180) / 8) (fun x => fieldN (masked (BitVec.ofNat 32 x) v m) 23 0) })
    else s

/-- Write a word of a port's block. -/
def State.writePortReg (s : State) (j off : Nat) (v m : W32) : State :=
  match off with
  | 0x08 => s.modPort j (fun p => { p with evt := cleared p.evt v m })
  | 0x0C => s.modPort j (fun p => { p with evtEn := masked p.evtEn v m })
  | _ => s

/-- Write a word of an open session's mailbox area, as its host would (12 R361, R362); an empty mask writes nothing. -/
def State.writeMailboxWord (s : State) (off : Nat) (v m : W32) : State :=
  match s.sess? (off / 0x8000) with
  | none => s
  | some x =>
    let o := off % 0x8000
    if x.closed ∨ m = 0 ∨ !areaLines o 4 then s
    else s.modSess (off / 0x8000) (fun x => x.writeArea o (toBytes 4 (masked (x.areaWord o) v m).toNat))

/-- Write a word of the package block. -/
def State.writePkgReg (s : State) (off : Nat) (v m : W32) : State :=
  match off with
  | 0x600018 => { s with part := { s.part with evt := cleared s.part.evt v m } }
  | 0x60001C => { s with part := { s.part with evtEn := masked s.part.evtEn v m } }
  | _ =>
    if 0x300000 ≤ off ∧ off < 0x301000 ∧ off % 0x40 = 0x10 ∧ bitN (v &&& m) 1 then
      s.modCtx ((off - 0x300000) / 0x40) (fun x => { x with healthLate := false })
    else if 0x800000 ≤ off ∧ off < 0xA00000 then s.writeMailboxWord (off - 0x800000) v m
    else s

/-- Base of the register block of a physical tile (04 R113). -/
def tileBase (p : Nat) : Nat := ctlBase + p / 8 * 2 ^ 24 + 0x100000 + p % 8 * 0x10000

/-- Write-1-to-clear registers that are not 0, with their addresses (16 R465). -/
def State.w1cRegs (s : State) : List (Nat × W32) :=
  let tile := fun (e : Nat × Tile) =>
    let base := tileBase e.1
    [(base, e.2.accFlags.setWidth 32), (base + 0x40, e.2.vecFlags.setWidth 32)]
  let port := fun (j : Nat) => (ctlBase + (84 + portP j) * 2 ^ 24 + 0x20000 + j / 4 * 0x1000 + 8, (s.port j).evt.setWidth 32)
  let pkg := ctlBase + pkgBlock * 2 ^ 24
  (s.tiles.flatMap tile ++ (List.range 12).map port ++ [(pkg + 0x600018, s.part.evt.setWidth 32)]
    ++ s.ctxs.map (fun (e : Nat × Ctx) => (pkg + 0x300010 + e.1 * 0x40, e.2.stepStat &&& 2))).filter (fun e => e.2 != 0)

/-- An instant of a pending series has come and has not been taken (16 R465). -/
def State.instantDue (s : State) : Bool := s.telem.series.any (fun x => decide (x.t ≤ s.now))

/-- Keep the flags that a write clears while an instant is due: its snapshot captures them as they were (00 R18). -/
def State.noteCleared (s : State) (a : Nat) (v m : W32) : State :=
  let bits := ((s.w1cRegs.find? (fun e => e.1 == a)).map (·.2)).getD 0 &&& v &&& m
  if bits ≠ 0 ∧ s.instantDue then { s with telem := { s.telem with cleared := s.telem.cleared ++ [(a, bits)] } } else s

/-- Write the 4-byte word at an address of control and status space: each field acts under its access code, and what is
read only, reserved or no register is left as it is (00 R13, R14). -/
def State.writeReg (s : State) (a : Nat) (v m : W32) : State :=
  let d := (a - ctlBase) / 2 ^ 24
  let off := (a - ctlBase) % 2 ^ 24
  let s1 := s.noteCleared a v m
  if a < ctlBase then s
  else if d < 64 then
    if 0x100000 ≤ off ∧ off < 0x180000 then s1.writeTileReg (8 * d + (off - 0x100000) / 0x10000) (off % 0x10000) v m else s
  else if 84 ≤ d ∧ d < 88 then
    if 0x20000 ≤ off ∧ off < 0x23000 then s1.writePortReg (portOfP (d - 84) ((off - 0x20000) / 0x1000)) (off % 0x1000) v m else s
  else if d = pkgBlock then s1.writePkgReg off v m
  else s

/-- `REG_WRITE`: a word of 8 bytes is written under a mask, inside the session's debug session; no register reaches the
key store, the fuses or a weir limit (12 R373, 14 R421). -/
def execRegWrite (sess : Fin 64) (seq : W32) (s : State) : Ans :=
  aidar sess seq 0x0F03 s (fun _ r =>
    let a := r.num 0 8
    let w := fun (k : Nat) => BitVec.ofNat 32 (r.num k 4)
    checked [badArg (a % 8 != 0 || !inControl a), s.pkgCheck r, (s.sec.debug != some sess.val, .stateConflict, 0x5B)]
      (.ok ((s.writeReg a (w 8) (w 16)).writeReg (a + 4) (w 12) (w 20))))

/-- Base of the register block of the tile that carries a logical tile. -/
def State.tileBlock (s : State) (l : Nat) : Nat := tileBase (s.phys l)

/-- A word that the utility core of a logical tile may write: `UC_SIGNAL`, `UC_TAKE`, and the flags and alert enables of
its own tile (06 R192, 04 R113, 05 R149). -/
def State.ucMayWrite (s : State) (l a : Nat) : Bool :=
  decide (s.tileBlock l ≤ a) && [0x00, 0x04, 0x40, 0x44, 0x1C0, 0x1C8].contains (a / 4 * 4 - s.tileBlock l)

/-- The agent that writes may reach the word: the package manager while it runs, and a running utility core in the words
it may write (06 R192). -/
def State.mayWrite (s : State) (agent : Option (Fin 480)) (a : Nat) : Bool :=
  match agent with
  | none => s.pkg.mgr.st == .running
  | some l =>
    (s.tileL l.val).uc.st == .running && decide (a % 4 = 0) && s.ucMayWrite l.val a

/-- `REGISTER_WRITE`: the package manager, or a utility core, writes a register: each field acts under its access code
(00 R13, R14). -/
def execRegisterWrite (agent : Option (Fin 480)) (addr : BitVec 48) (value : W32) (s : State) : Ans :=
  if s.mayWrite agent addr.toNat then .next (s.writeReg addr.toNat value 0xFFFFFFFF) else .next s

/-- Hardware sets bit `i` of the write-1-to-clear register at an address: one event of one source (00 R15, R16). -/
def State.hwSet (s : State) (a i : Nat) : State :=
  let d := (a - ctlBase) / 2 ^ 24
  let off := (a - ctlBase) % 2 ^ 24
  if a < ctlBase then s
  else if d < 64 ∧ 0x100000 ≤ off ∧ off < 0x180000 then
    let p := 8 * d + (off - 0x100000) / 0x10000
    (match off % 0x10000 with
      | 0x00 => if i < 3 then s.accFlag p i 1 else s
      | 0x40 => if i < 2 then s.vecFlag p i 1 else s
      | _ => s)
  else if 84 ≤ d ∧ d < 88 ∧ 0x20000 ≤ off ∧ off < 0x23000 then
    if off % 0x1000 = 0x08 ∧ i < 10 then s.linkEvt (portOfP (d - 84) ((off - 0x20000) / 0x1000)) i 0 else s
  else if d = pkgBlock ∧ off = 0x600018 then (if i < 4 then s.partEvt i 0 0 none 0 else s)
  else if d = pkgBlock ∧ 0x300000 ≤ off ∧ off < 0x301000 ∧ off % 0x40 = 0x10 ∧ i = 1 then
    s.modCtx ((off - 0x300000) / 0x40) (fun x => { x with healthLate := true, healthLateCount := x.healthLateCount + 1 })
  else s

/-- `W1C_CLEAR`: a write of 1 clears flags of a write-1-to-clear register.  `sets` names the bits that hardware sets in the
same cycle, one entry for each source: the set wins, every source is counted, and an enabled alert is raised again
(00 R15 to R17). -/
def execW1cClear (agent : Option (Fin 480)) (addr : BitVec 48) (value : W32) (sets : List (Fin 32)) (s : State) : Ans :=
  if s.mayWrite agent addr.toNat then .next (sets.foldl (fun s i => s.hwSet addr.toNat i.val) (s.writeReg addr.toNat value 0xFFFFFFFF))
  else .next s

end Sys2Proof.Machine
end

