-- ==== Sys2Proof/Machine/Repair.lean ====
section
/-! DEFINITION. Built-in test and repair: fencing, BIST, sparing and changes of binding, memory repair, lasers, and the
IEEE 1149.1 port (01 R28, R40, R41; 17). -/

namespace Sys2Proof.Machine

/-! ### Fencing and releasing (17 R474 to R476) -/

/-- The die is fenced. -/
def State.isFenced (s : State) (d : Nat) : Bool := if d < 64 then (s.die d).cstate == .fenced else (s.die d).fenced

/-- Check 7 of `DIE_FENCE` (17 R475). -/
def State.fenceArgs (s : State) (r : Req) : Check :=
  let d := r.num 0 1
  badArg (decide (88 ≤ d) || d == s.primaryDie || (decide (d < 64) && (s.die d).cstate == .retired) || decide (1 < r.num 1 1))

/-- Run a request of opcode 0x0511 whose action is (or is not) 1. -/
def fenceCmd (sess : Fin 64) (seq : W32) (release : Bool) (s : State) (core : Sess → Req → CmdOut) : Ans :=
  .next (s.runReq sess.val seq 0x0511 (fun r => (r.num 1 1 == 1) == release) core)

/-- `DIE_FENCE`: a die is fenced (17 R474, R475). -/
def execDieFence (sess : Fin 64) (seq : W32) (s : State) : Ans :=
  fenceCmd sess seq false s (fun _ r =>
    let d := r.num 0 1
    checked [s.fenceArgs r, s.pkgCheck r]
      (if s.isFenced d then .ok s
      else .ok ((((s.fenceDie d).event 0x0581 2 d none 0).fenceScope d).settle)))

/-- A line that windows hold on a device of an M-die reads as poisoned zeros after the die's release (17 R476). -/
def State.poisonDie (s : State) (d : Nat) : State :=
  s.handles.live.foldl (fun s e => match e.2 with
    | .window w =>
      let lines := (List.range (w.length / 64)).filter (fun i => devDie (w.device (w.base + 64 * i)) == d)
      lines.foldl (fun s i => { s with
        tier := memClear s.tier (w.base + 64 * i) 64
        tierPoison := smPut s.tierPoison (w.base / 64 + i) true }) s
    | _ => s) s

/-- What a released die does on its return to service: a C-die's SRAM repairs take effect; an M-die retrains its devices
and poisons what windows hold there; a P-die's ports train again (17 R476, R482). -/
def State.backInService (s : State) (d : Nat) : State :=
  if d < 64 then
    (s.modDie d (fun x => { x with cstate := if s.carries d then .enabled else .spare, sramPending := 0 })).saveBinding
  else
    let s1 := s.modDie d (fun x => { x with fenced := false, sramPending := 0 })
    if d < 84 then ((List.range 60).filter (fun v => devDie v == d)).foldl (fun s v => s.addScore (devObj v) 50) (s1.poisonDie d)
    else
      let p := d - 84
      let s2 := ((List.range 12).filter (fun j => portP j == p && !s.pkg.record.fenced.getLsbD j)).foldl (fun s j =>
        s.modPort j (fun q => { q with st := if q.st = .fenced then .dark else q.st, retrainAt := [] })) s1
      let lit := s.power.lasers.getD (4 * p + 2) 0 != 0 || s.power.lasers.getD (4 * p + 3) 0 != 0
      [p, p + 4].foldl (fun s j => s.modEth j (fun e => { e with up := lit })) s2

/-- `DIE_RELEASE`: a fenced die's manager restarts and the die returns to service; a die whose health is `FAILED`, or
both of whose images fail, is not released (17 R476, 13 R384). -/
def execDieRelease (sess : Fin 64) (seq : W32) (s : State) : Ans :=
  fenceCmd sess seq true s (fun _ r =>
    let d := r.num 0 1
    checked [s.fenceArgs r, s.pkgCheck r, ((s.health (dieObj d)).st == .failed, .hwFault, 0)]
      (if s.isFenced d then
        match s.startMgr d with
        | none => .refuse .hwFault 0
        | some s1 => .ok ((s1.backInService d).event 0x0582 2 d none 0).settle
      else .ok s))

/-! ### BIST (17 R477 to R482) -/

/-- The kind of BIST applies to the die (17 R477). -/
def bistApplies (d k : Nat) : Bool := decide (k < 3) || (k == 3 && decide (d < 64)) || (k == 4 && decide (64 ≤ d) && decide (d < 84))

/-- `BIST_RUN`: a self-test starts on a fenced die (17 R478). -/
def execBistRun (sess : Fin 64) (seq : W32) (s : State) : Ans :=
  aidar sess seq 0x0510 s (fun _ r =>
    let d := r.num 0 1
    let k := r.num 1 1
    checked [badArg (decide (88 ≤ d) || !bistApplies d k || decide (1 < r.num 2 1)), s.pkgCheck r, (!s.isFenced d, .stateConflict, 0x57),
        (decide (16 ≤ (s.dies.filter (fun x => x.bist.isSome)).length), .busy, 0)]
      (.wait (s.modDie d (fun x => { x with bist := some k, bistRepair := r.num 2 1 == 1 }))))

/-- The kinds whose passes, since the last fence and with the repairs applied, count as a repair of a die (17 R480). -/
def repairKinds (d : Nat) : List Nat := if d < 64 then [1, 2, 3] else if d < 84 then [1, 2, 4] else [1, 2]

/-- The repairs that a run applies: those it found, when the command asked for them. -/
def State.applySram (s : State) (d n : Nat) : State :=
  if n = 0 then s
  else (s.modDie d (fun x => { x with sramPending := x.sramPending + n })).modRepair (fun r => { r with sram := smPut r.sram d (smGet 0 r.sram d + n) })

/-- `BIST_DONE`: a run ends: its signature is compared, and the die's health follows (17 R479, R480).  The row gives the
signature, whether every fault found is repairable, how many repairs there are, and the duration in µs. -/
def execBistDone (die : Fin 88) (signature : BitVec 64) (repairable : Bool) (repairs us : W32) (s : State) : Ans :=
  let d := die.val
  let x := s.die d
  match x.bist with
  | none => .next s
  | some k =>
    let want := s.expectedSig d k
    let pass := signature == want && (repairable || !(k == 0 || k == 2))
    let n := if x.bistRepair ∧ (k = 0 ∨ k = 2) then repairs.toNat else 0
    let body := bistBody d k pass n signature.toNat want.toNat us.toNat
    let s1 := (s.modDie d (fun x => { x with bist := none, bistRepair := false })).applySram d n
    let counts := pass && (k != 2 || x.bistRepair || repairs == 0)
    let s2 := if counts then s1.modDie d (fun x => { x with bistPassed := if x.bistPassed.contains k then x.bistPassed else x.bistPassed ++ [k] }) else s1
    let healed := counts && (repairKinds d).all ((s2.die d).bistPassed.contains) && (s2.health (dieObj d)).cause != .router
    let s3 := if !pass then s2.directHealth (dieObj d) .failed .bist else if healed then s2.repairedHealth (dieObj d) else s2
    let s4 := s3.event 0x0580 2 d none (BitVec.ofNat 3328 body)
    .next ((s4.resolve (fun q => q.opcode == 0x0510 && q.num 0 1 == d) .ok 0 (BitVec.ofNat 3456 body) 28).settle)

/-! ### Sparing (17 R484 to R487; 01 R40) -/

/-- `DIE_SPARE`: a die, or one tile of it, is moved to a target, warm from an `ENABLED` source and cold from a `FENCED`
one (17 R484). -/
def execDieSpare (sess : Fin 64) (seq : W32) (s : State) : Ans :=
  aidar sess seq 0x0512 s (fun _ r =>
    let d := r.num 0 1
    let tile := if r.num 1 1 = 1 then some (r.num 2 1) else none
    let target := if r.num 3 1 = 0xFF then none else some (r.num 3 1)
    let moving := s.boundTo d tile
    let cold := (s.die d).cstate == .fenced
    let held := s.ctxs.find? (fun e => e.2.st != .quiesced && e.2.tiles.any moving.contains)
    let started := s.startSparing d tile target (!cold) false
    checked [badArg (decide (64 ≤ d) || decide (1 < r.num 1 1) || decide (8 ≤ r.num 2 1) || moving.isEmpty || (target.any (fun t => decide (64 ≤ t)))),
        s.pkgCheck r, (cold && held.isSome, .stateConflict, 0x20 + ((held.map (fun e => e.2.st.num)).getD 0)), (started.isNone, .noResource, 0)]
      (match started with
        | some s1 => .wait s1
        | none => .refuse .noResource 0))

/-- The sparing of a source that a row is about. -/
def State.sparing? (s : State) (src : Fin 64) (tile : Option (Fin 8)) : Option Sparing :=
  s.pkg.sparings.find? (fun x => x.src == src.val && x.tile == tile.map (·.val))

/-- Change a sparing. -/
def State.modSparing (s : State) (x : Sparing) (f : Sparing → Sparing) : State :=
  s.modPkg (fun p => { p with sparings := p.sparings.map (fun y => if y = x then f y else y) })

/-- `SPARE_PREPARE`: the target of a sparing has been released and tested with `QUICK`, or fails and the next one is
chosen; a target that already carries tiles needs no preparation (17 R485). -/
def execSparePrepare (src : Fin 64) (tile : Option (Fin 8)) (passes : Bool) (repairs : W32) (s : State) : Ans :=
  match s.sparing? src tile with
  | none => .next s
  | some x =>
    if x.phase ≠ .preparing ∨ s.pkg.mgr.st ≠ .running ∨ (s.mgr x.target).st = .restarting ∨ (s.pkg.st = .boot ∧ s.pkg.bootStep < 8) then .next s
    else
      let ready := fun (s : State) => s.modSparing x (fun y => { y with phase := .ready })
      match (s.die x.target).cstate with
      | .enabled => .next (ready s)
      | .spare =>
        match s.startMgr x.target with
        | none => .next (s.targetFails x .bist).settle
        | some s1 =>
          if passes then .next (ready (s1.applySram x.target repairs.toNat)) else .next (s1.targetFails x .bist).settle
      | _ => .next (s.targetFails x .bist).settle

/-- Where each moving logical tile goes, as (logical tile, physical tile): a whole die keeps the tile numbers, a single
tile takes the lowest one that was free at the start of the move (DESIGN CHOICE, log 24). -/
def State.movesOf (s : State) (x : Sparing) : List (Nat × Nat) :=
  (s.boundTo x.src x.tile).map (fun l => (l, 8 * x.target + (if x.tile.isSome then x.place else s.phys l % 8)))

/-- `WARM_MOVE`: the moving tiles stop issuing, at a close or when preparation is complete; once their operations in
flight have completed and the target is prepared, their memories are copied, and the change of binding is due
(17 R486).  A write to a copied range reaches both tiles, so that the copy is the source's state at the flip. -/
def execWarmMove (src : Fin 64) (tile : Option (Fin 8)) (s : State) : Ans :=
  match s.sparing? src tile with
  | none => .next s
  | some x =>
    let ls := s.boundTo x.src x.tile
    if !x.warm ∨ ls.isEmpty then .next s
    else if ls.all (fun l => (s.tileL l).moving) then
      if x.phase = .ready ∧ ls.all s.tileQuiet then .next (s.modSparing x (fun y => { y with phase := .copied })) else .next s
    else if (if x.atClose then x.closeSeen else x.phase == .ready) then .next (ls.foldl (fun s l => s.modTileL l (fun t => { t with moving := true })) s)
    else .next s

/-- A target tile of a cold move: cleared, with the local sync registers, link entries and `EXP` copies of its logical
tile's compiled tables (17 R487). -/
def Tile.coldLoad (t : Tile) (x : Ctx) (l : Nat) : Tile :=
  let t1 := t.clear
  let exps := x.priv.foldl (fun m e => smPutD 0 m e.1 (BitVec.ofInt 8 (privExpOf e.2))) []
  match x.tables.find? (fun b => b.tile == l) with
  | some b => { t1 with lsync := b.lsync, mrOut := b.mrOut, mrIn := b.mrIn, privExp := exps }
  | none => t1

/-- `COLD_MOVE`: the contexts of the moving tiles are `QUIESCED`; the target tiles are cleared and loaded, and the change
of binding is due (11 R345; 17 R487). -/
def execColdMove (src : Fin 64) (tile : Option (Fin 8)) (s : State) : Ans :=
  match s.sparing? src tile with
  | none => .next s
  | some x =>
    let mv := s.movesOf x
    let quiet := s.ctxs.all (fun e => e.2.st == .quiesced || !mv.any (fun m => e.2.tiles.contains m.1))
    if x.warm ∨ x.phase ≠ .ready ∨ !quiet then .next s
    else
      let s1 := mv.foldl (fun s m => s.modTileP m.2 (fun t => match (s.ctxOfTile m.1).bind s.ctx? with
        | some c => t.coldLoad c m.1
        | none => t.clear)) s
      .next (s1.modSparing x (fun y => { y with phase := .copied }))

/-! ### Changing the binding (01 R41) -/

/-- `REMAP_CHANGE`: the new table is written into the inactive banks, and new traffic to the moving tiles is held; a
change waits for the one before it (01 R41). -/
def execRemapChange (src : Fin 64) (tile : Option (Fin 8)) (s : State) : Ans :=
  match s.sparing? src tile with
  | none => .next s
  | some x =>
    if x.phase ≠ .copied ∨ s.pkg.sparings.any (fun y => y.phase == .binding) ∨ s.pkg.mgr.st ≠ .running then .next s
    else
      let mv := s.movesOf x
      let table := mv.foldl (fun b m => b.set m.1 m.2) s.bank
      let s1 := s.modPkg (fun p => { p with
        bank0 := if p.activeBank then table else p.bank0
        bank1 := if p.activeBank then p.bank1 else table
        remapHold := mv.map (·.1) })
      .next (s1.modSparing x (fun y => { y with phase := .binding }))

/-- A tile takes over the state of the tile it replaces; flags and counters stay with their physical tile (17 R486). -/
def Tile.takeOver (t o : Tile) : Tile :=
  { t with
    sp := o.sp, spPoison := o.spPoison, acc := o.acc, mrOut := o.mrOut, mrIn := o.mrIn, qcfg := o.qcfg, selBias := o.selBias
    offDelay := o.offDelay, lsync := o.lsync, lwaits := o.lwaits, cells := o.cells, xlate := o.xlate, privAmax := o.privAmax
    privExp := o.privExp, qSince := o.qSince, parked := 0, park := .running, wakeAt := none, fetchAt := o.fetchAt, moving := false
    uc := { o.uc with faults := t.uc.faults, syncErr := t.uc.syncErr } }

/-- The source tile of a move that has ended: it issues nothing more. -/
def State.leaveTile (s : State) (p : Nat) : State :=
  let s1 := s.modTileP p (fun t => { t with park := .running, wakeAt := none, parkedNs := t.parkedTotal s.now, moving := false, lwaits := [], cells := [] })
  let s2 := s1.modDie (p / 8) (fun d => { d with tokens := d.tokens.filter (· != p), tokenWait := d.tokenWait.filter (· != p) })
  { s2 with power := { s2.power with panel := s2.power.panel.filter (· != p), panelWait := s2.power.panelWait.filter (· != p) } }

/-- `REMAP_FLIP`: no packet to the moving tiles is left in the panel network: `ACTIVE_BANK` flips, `GENERATION` advances
in every die, and the held traffic is released under the new binding; a warm move copies the tiles' state within the
hold, and the sparing ends (01 R41; 17 R486, R487). -/
def execRemapFlip (s : State) : Ans :=
  match s.pkg.sparings.find? (fun y => y.phase == .binding) with
  | none => .next s
  | some x =>
    let mv := s.movesOf x
    let s1 := mv.foldl (fun s m =>
      let a := if x.warm then s.modTileP m.2 (fun t => t.takeOver (s.tileL m.1)) else s
      a.leaveTile (s.phys m.1)) s
    let s2 := s1.modPkg (fun p => { p with
      activeBank := !p.activeBank
      generation := p.generation + 1
      remapHold := []
      sparings := p.sparings.filter (· != x) })
    let s3 := s2.modDie x.target (fun d => { d with cstate := .enabled })
    let s4 := match x.tile with
      | none => s3.modDie x.src (fun d => { d with cstate := .retired })
      | some t => s3.modTileP (8 * x.src + t) (fun t => { t with unusable := true })
    let s5 := s4.resumeTakes.saveBinding.event 0x0583 2 x.src none (pack 3328 [(7, 0, x.src), (15, 8, x.target), (23, 16, b2n x.tile.isSome)])
    .next (s5.resolve (fun q => q.opcode == 0x0512 && q.num 0 1 == x.src) .ok 0 0 0)

/-- `ROUTER_FAILURE`: the router of a C-die fails: the module is out of service, its ports lose their links, and the die
is `FAILED` for good (01 R28; 11 R343; 16 R471). -/
def execRouterFailure (die : Fin 64) (s : State) : Ans :=
  let d := die.val
  let s1 := (s.modDie d (fun x => { x with routerFailed := true })).modPkg (fun p => { p with outOfService := true })
  let s2 : State := { s1 with ports := s1.ports.map (fun p => { p with st := if p.st = .fenced then .fenced else .dark, light := false }) }
  .next (s2.directHealth (dieObj d) .failed .router).settle

/-! ### Memory repair (17 R489) -/

/-- `HBM_REPAIR`: a soft or hard repair of a row, a repair of an interface lane, or the retirement of a frame; the row
says whether the device has a repair resource left (17 R489).  The work waits for a manager that is restarting
(13 R391). -/
def execHbmRepair (sess : Fin 64) (seq : W32) (resource : Bool) (s : State) : Ans :=
  match s.waiting? sess.val seq 0x0513 (fun _ => true) with
  | none => .next s
  | some (_, r) =>
    let cls := r.num 0 1
    let d := if cls = 0 then r.num 1 1 else 20 + r.num 1 1
    let die := devDie d
    let act := r.num 2 1
    let row := (r.num 4 1, r.num 5 1, r.num 8 4)
    let frame := r.num 12 4
    if (s.die die).mgr.st = .restarting ∨ (s.die die).mgr.st = .activating then .next s
    else
      aidar sess seq 0x0513 s (fun _ r =>
        let bad := !r.clean [(0, 3), (4, 2), (8, 8)] || decide (1 < cls) || decide ((if cls = 0 then 20 else 40) ≤ r.num 1 1) || decide (3 < act)
          || (act == 2 && cls != 0) || (act == 3 && decide (devFrames d ≤ frame))
        let repaired := fun (s : State) => ((s.recordRepairs d).repairedHealth (devObj d)).event 0x0585 2 die none 0
        checked [badArg bad, s.pkgCheck r, (act == 2 && !(s.die die).fenced, .stateConflict, 0x57)]
          (if act ≠ 3 ∧ !resource then .done (s.event 0x0586 2 die none 0) .noResource 0 0
          else match act with
            | 0 => .ok (repaired (s.modDev d (fun x => { x with softRepairs := x.softRepairs ++ [row] }))).settle
            | 1 => .ok (repaired (s.modDev d (fun x => { x with hardRepairs := x.hardRepairs ++ [row] }))).settle
            | 2 => .ok ((repaired (s.modDev d (fun x => { x with laneRepairs := x.laneRepairs ++ [r.num 4 1] }))).addScore (devObj d) 50).settle
            | _ =>
              let x := s.dev d
              if x.retired.contains frame ∨ x.retireLater.contains frame then .ok s
              else if x.frames.any (fun e => e.1 == frame) then
                .ok ((s.modDev d (fun x => { x with retireLater := x.retireLater ++ [frame] })).event 0x0585 2 die none 0)
              else
                .ok (((s.modDev d (fun x => { x with retired := x.retired ++ [frame], framesRetired := bump x.framesRetired 1 })).recordRepairs d).event
                  0x0585 2 die none 0)))

/-! ### Lasers (17 R493; 18 R506) -/

/-- The other source of a laser's pair. -/
def laserPartner (b : Nat) : Nat := if b % 2 = 0 then b + 1 else b - 1

/-- The power of a laser source: 0 absent, 1 half, 2 full. -/
def State.laser (s : State) (b : Nat) : Nat := s.power.lasers.getD b 0

/-- Set the power of a laser source. -/
def State.setLaser (s : State) (b v : Nat) : State := { s with power := { s.power with lasers := s.power.lasers.set b v } }

/-- The ports fed by a pair lose light: torus ports retrain, and Ethernet ports go down with their sessions (17 R493). -/
def State.loseLight (s : State) (b : Nat) : State :=
  let p := b / 4
  if b % 4 < 2 then
    ((List.range 12).filter (fun j => portP j == p)).foldl (fun s j =>
      if (s.port j).linked then (s.modPort j (fun q => { q with light := false })).enterRetrain j else s.modPort j (fun q => { q with light := false })) s
  else
    let s1 := [p, p + 4].foldl (fun s j => s.modEth j (fun e => { e with up := false })) s
    ((s1.sess.filter (fun e => e.2.port % 4 == p)).map (·.1)).foldl State.endSession s1

/-- `LASER_FAILED`: a source is removed or fails: its partner reaches full power; without a partner the ports it feeds
lose light, and the event is raised (17 R493). -/
def execLaserFailed (bay : Fin 16) (s : State) : Ans :=
  let b := bay.val
  let q := laserPartner b
  if s.laser b = 0 then .next s
  else
    let s1 := s.setLaser b 0
    if s.laser q = 0 then .next ((s1.loseLight b).event 0x0588 2 (84 + b / 4) none (pack 3328 [(31, 0, objId 11 b)])).settle
    else .next (s1.setLaser q 2)

/-- `LASER_SWAPPED`: the P-die manager brings a newly inserted source, and its partner, to half power (17 R493). -/
def execLaserSwapped (bay : Fin 16) (s : State) : Ans :=
  let b := bay.val
  let p := b / 4
  let q := laserPartner b
  if s.laser b ≠ 0 ∨ (s.die (84 + p)).mgr.st ≠ .running then .next s
  else
    let s1 := s.setLaser b 1
    let s2 := if s.laser q = 0 then
        (if b % 4 < 2 then s1 else [p, p + 4].foldl (fun s j => s.modEth j (fun e => { e with up := !(s.die (84 + p)).fenced })) s1)
      else s1.setLaser q 1
    .next ((s2.repairedHealth (objId 11 b)).event 0x0587 2 (84 + p) none (pack 3328 [(31, 0, objId 11 b)])).settle

/-! ### IEEE 1149.1 (17 R494; 18 R500) -/

/-- `BYPASS`: the one-bit register stands between `TDI` and `TDO`, so that the bits shifted in come out one later. -/
def execBypass (tdi : W32) (s : State) : Ans := if s.power.stbyOn then .next (s.emit (.tdo (tdi <<< 1))) else .next s

/-- `IDCODE`: the identification register is shifted out. -/
def execIdcode (s : State) : Ans := if s.power.stbyOn then .next (s.emit (.tdo 0x1B020A5F)) else .next s

end Sys2Proof.Machine
end

