-- ==== Sys2Proof/Machine/Export.lean ====
section
/-! DEFINITION. Telemetry: subscriptions, samples, export, snapshots, margins in service, and distances to limits
(16 R453 to R473; 09 R282). -/

namespace Sys2Proof.Machine

/-! ### Subscriptions and snapshot series (16 R458, R464) -/

/-- The filters of a subscription's body (16 R458). -/
def Req.filters (r : Req) : List (BitVec 32 × BitVec 32) :=
  (List.range 48).map (fun i => (BitVec.ofNat 32 (r.num (32 + 8 * i) 4), BitVec.ofNat 32 (r.num (36 + 8 * i) 4)))

/-- `GAUGE_SUBSCRIBE`: a subscription, and its handle of kind 6 (16 R458, R459). -/
def execGaugeSubscribe (sess : Fin 64) (seq : W32) (s : State) : Ans :=
  aidar sess seq 0x0401 s (fun x r =>
    let k := r.num 2 2
    let sub : Sub := {
      owner := match x.role with | .tenant i => some i | _ => none
      kinds := BitVec.ofNat 5 (r.num 0 1)
      port := r.num 1 1
      k := k
      udp := r.num 4 2
      addr := BitVec.ofNat 128 (r.num 16 16)
      filters := r.filters }
    let new := s.newHandle (.sub sub)
    checked [badArg (!r.clean [(0, 6), (16, 400)] || decide (31 < r.num 0 1) || decide (3 < r.num 1 1) || k == 0 || decide (6000 < k)),
        s.pkgCheck r, (decide (64 ≤ s.subs.length) || new.isNone, .noResource, 0)]
      (match new with
        | some (h, s1) => .done s1 .ok (h.setWidth 3456) 4
        | none => .refuse .noResource 0))

/-- `SNAPSHOT_SCHEDULE`: one instant, or a series of them (16 R464). -/
def execSnapshotSchedule (sess : Fin 64) (seq : W32) (s : State) : Ans :=
  aidar sess seq 0x0402 s (fun x r =>
    let t := r.num 0 8
    let n := r.num 8 2
    let p := r.num 16 8
    let day := 86400 * 10 ^ 9
    let bad := !r.clean [(0, 10), (16, 8)] || (x.minor == 0 && (n != 1 || p != 0)) || decide (t < s.now + 10 ^ 6) || decide (s.now + day < t)
      || n == 0 || (decide (1 < n) && (decide (p < 10 ^ 7) || decide (day < p)))
    checked [badArg bad, s.pkgCheck r, (decide (16 ≤ s.telem.series.length), .noResource, 0)]
      (.ok { s with telem := { s.telem with series := s.telem.series ++ [{ t := t, n := n, p := p }] } }))

/-! ### Samples (16 R453, R457) -/

/-- The gauges that sample at a fixed rate and have no row of their own, with the value of those that other state gives:
`SB_USED`, `RILL_OCC` and `TJ`; the tiles of a die that does not run are not busy (16 R457). -/
def State.sampleValue (s : State) (id obj : Nat) (v : W64) : Option W64 :=
  let i := objIdx obj
  match id with
  | 0x01000001 => some (if s.dieRuns i then v else 0)
  | 0x07000002 => some (BitVec.ofNat 64 (s.sbUsed i))
  | 0x0A000001 | 0x0B000001 | 0x0C000001 | 0x13000005 => some v
  | 0x0D000001 => some (BitVec.ofNat 64 (s.dev i).rillQ.length)
  | 0x13000003 => some (BitVec.ofInt 64 (s.die i).tj)
  | _ => none

/-- The object belongs to the class of a gauge in the catalogue. -/
def State.hasGauge (s : State) (id obj : Nat) : Bool :=
  gaugeIds.any (fun g => g.1 == id && g.2.contains (objClass obj) && (s.objects (objClass obj)).contains obj)

/-- A scratchpad word has an error: a single-bit one is corrected and counted, a double-bit one poisons the word
(01 R35, R36; 16 R470). -/
def State.spError (s : State) (p word : Nat) (double : Bool) : State :=
  if double then
    (s.modTileP p (fun t => { t with spPoison := smPut t.spPoison word true })).addScore (dieObj (p / 8)) 500
  else (s.modTileP p (fun t => { t with spCorrected := t.spCorrected + 1 })).addScore (dieObj (p / 8)) 1

/-- `GAUGE_SAMPLE`: a gauge takes a sample, or a correction or a retry is counted where it occurs (16 R453, R470). -/
def execGaugeSample (sample : Sample) (s : State) : Ans :=
  match sample with
  | .gauge id obj v =>
    (match s.hasGauge id.toNat obj.toNat, s.sampleValue id.toNat obj.toNat v with
      | true, some v =>
        let s1 := s.gaugeSample id.toNat obj.toNat v
        .next (if id = 0x13000005 then { s1 with power := { s1.power with peakRun := max s1.power.peakRun v.toNat } } else s1)
      | _, _ => .next s)
  | .spError tile word double => .next (s.spError tile.val word.val double).settle
  | .fordRetry die edge =>
    .next ((s.modDie die.val (fun d => { d with fordRetry := modAt d.fordRetry edge.val (· + 1) })).addScore (dieObj die.val) (mkRat 1 100)).settle
  | .sramCorrection die => .next (s.addScore (dieObj die.val) 1).settle

/-- `GAUGE_PERIOD`: at each whole 10 ms of tide every gauge resets `MIN` and `MAX` (16 R454). -/
def execGaugePeriod (s : State) : Ans :=
  .next { s with telem := { s.telem with gauges := s.telem.gauges.map (fun e => (e.1, { e.2 with min := Gauge.min {}, max := Gauge.max {} })) } }

/-! ### Live export (16 R460 to R463) -/

/-- A counter of an object as its record shows it: the value collected last while its manager restarts (16 R463). -/
def State.counterSeen (s : State) (obj id : Nat) : W64 :=
  match (objDie obj).bind (fun d => if (s.die d).mgr.stale then smGet? s.telem.held d else none) with
  | some h => smGet 0 h.counters (telKey id obj)
  | none => s.counter id obj

/-- A gauge of an object as its record shows it. -/
def State.gaugeSeen (s : State) (obj id : Nat) : Gauge :=
  match (objDie obj).bind (fun d => if (s.die d).mgr.stale then smGet? s.telem.held d else none) with
  | some h => smGet {} h.gauges (telKey id obj)
  | none => smGet {} s.telem.gauges (telKey id obj)

/-- The records of gauges and counters that a subscription takes: (gauge or first counter ID, object). -/
def State.matching (s : State) (u : Sub) : List (Nat × Nat) :=
  let gauges := gaugeIds.flatMap (fun g => if u.wants g.1 then (g.2.flatMap s.objects).map (fun o => (g.1, o)) else [])
  let counters := (List.range 16).flatMap (fun c =>
    let runs := (idRuns ((counterIds c).filter u.wants)).filterMap (·.head?)
    if runs.isEmpty then [] else (s.objects c).flatMap (fun o => runs.map (fun i => (i, o))))
  (gauges ++ counters).filter (fun e => s.mayReceive u e.2)

/-- The ID names a gauge. -/
def isGauge (id : Nat) : Bool := gaugeIds.any (fun g => g.1 == id)

/-- The live record of a gauge or of a run of counters. -/
def State.liveRecord (s : State) (e : Nat × Nat) : TelemRec :=
  if isGauge e.1 then s.recordOf 1 e.1 e.2 (s.gaugeSeen e.2 e.1).body
  else s.recordOf 2 e.1 e.2 (countersBody (s.counterSeen e.2) e.1)

/-- The parts with a health (16 R470), and every other object that has entered a state (16 R469). -/
def State.healthParts (s : State) : List Nat :=
  let parts := [1, 2, 3, 7, 8, 10].flatMap s.objects
  parts ++ ((s.telem.health.map (·.1)).filter (fun i => !parts.contains i))

/-- The keys of the measures, with their objects (16 R472). -/
def State.limitKeys (s : State) : List Nat :=
  [telKey 0 (objId 0 0)] ++ (s.objects 7).map (telKey 1) ++ (s.objects 9).flatMap (fun o => [telKey 2 o, telKey 18 o])
    ++ (s.objects 13).map (telKey 3) ++ [telKey 4 (objId 0 0)]

/-- The `LIMIT` body of a measure for a subscription (16 R473). -/
def limitBody (m : Nat) (l : Limit) (worst : W32) : BitVec 1792 :=
  pack 1792 [(223, 192, l.below.toNat), (191, 160, l.counted.toNat), (159, 128, l.total.toNat), (127, 96, worst.toNat), (95, 64, l.factor.toNat),
    (63, 32, l.fraction.toNat), (7, 0, m % 16)]

/-- Form records for the subscription in a slot. -/
def State.formList (s : State) (slot : Nat) (rs : List TelemRec) : State := rs.foldl (fun s r => s.formTo slot r) s

/-- The records of a live export of a subscription (16 R460). -/
def State.liveRecords (s : State) (u : Sub) : List TelemRec :=
  let hid := (Config.recordId 4).toNat
  let lid := (Config.recordId 5).toNat
  (if u.kinds.getLsbD 0 then (s.matching u).map s.liveRecord else [])
    ++ (if u.kinds.getLsbD 2 && u.wants hid then
        (s.healthParts.filter (s.mayReceive u)).map (fun i => s.recordOf 4 hid i (s.health i).body) else [])
    ++ (if u.kinds.getLsbD 3 && u.wants lid then
        (s.limitKeys.filter (fun k => s.mayReceive u (k % 2 ^ 32))).map (fun k =>
          s.recordOf 5 lid (k % 2 ^ 32) (limitBody (k / 2 ^ 32) (smGet {} s.telem.limits k) (smGet 0x7F800000 u.worst k))) else [])

/-- A subscription after a gauge period that ends no export interval, or that ends one. -/
def Sub.period (u : Sub) (due : Bool) : Sub := if due then { u with periods := 0, worst := [] } else { u with periods := u.periods + 1 }

/-- `LIVE_EXPORT`: a gauge period closes: each subscription of which it is the k-th since its last export gets its live,
health and limit records (16 R460). -/
def execLiveExport (s : State) : Ans :=
  .next (s.subs.foldl (fun t e =>
    let due := decide (e.2.k ≤ e.2.periods + 1)
    let t1 := if due then t.formList e.1 (s.liveRecords e.2) else t
    { t1 with handles := { t1.handles with live := smMod t1.handles.live e.1 (fun o => match o with
        | .sub u => .sub (u.period due)
        | o => o) } }) s)

/-! ### Flow gauges (09 R282) -/

/-- The 64-byte flow-gauge record of a port and virtual channel (09 R282). -/
def State.flowRecord (s : State) (j v : Nat) : BitVec 512 :=
  let f := (s.port j).flow.getD v {}
  pack 512 [(511, 448, s.telem.flowStart), (447, 416, s.telem.flowWindow), (415, 412, j), (411, 409, v), (383, 352, f.tx), (351, 320, f.rx),
    (319, 288, f.creditWait), (287, 256, f.busy), (255, 224, f.headWait), (223, 208, f.occMax), (207, 192, f.retry), (191, 160, f.transit),
    (159, 128, f.dropped), (127, 96, f.mc)]

/-- The `FLOW` records of a port: three flow-gauge records in each (16 R456). -/
def State.flowRecords (s : State) (j : Nat) : List TelemRec :=
  [0, 3, 6].map (fun v0 =>
    let parts := (List.range 3).map (fun i => (512 * i + 511, 512 * i, if v0 + i < 8 then (s.flowRecord j (v0 + i)).toNat else 0))
    s.recordOf 3 (Config.recordId 3).toNat (objId 9 j) (pack 1792 parts))

/-- 09 R282: set the flow-gauge window in ns, from 10 µs to 10 ms; another length changes nothing. -/
def State.setFlowWindow (s : State) (ns : Nat) : State :=
  if 10000 ≤ ns ∧ ns ≤ 10000000 then { s with telem := { s.telem with flowWindow := ns } } else s

/-- `FLOW_GAUGE_WINDOW`: a window ends, with the times measured in it: `FLOW` records of every port and channel are formed,
and the next window begins, under the length that is set, where one is; no rule names who sets it (09 R282, 16 R460; log 57). -/
def execFlowGaugeWindow (window : FlowWindow) (s : State) : Ans :=
  let s1 := window.times.foldl (fun s x => s.modFlow x.port.val x.vc.val (fun f => { f with
    creditWait := x.creditWait.toNat, busy := x.busy.toNat, headWait := x.headWait.toNat })) s
  let s2 := ((List.range 12).flatMap s1.flowRecords).foldl (fun s r => s.formAll 4 r) s1
  let s3 := match window.set with
    | some ns => s2.setFlowWindow ns.toNat
    | none => s2
  let w := max 1 s3.telem.flowWindow
  .next { s3 with ports := s3.ports.map (fun p => { p with flow := List.replicate 8 {} }), telem := { s3.telem with flowStart := s.now / w * w } }

/-! ### Datagrams (16 R462) -/

/-- The 256 bytes of a record, with `LOST` (16 R456). -/
def TelemRec.image (r : TelemRec) (lost : Nat) : BitVec 2048 :=
  pack 2048 [(255, 192, r.t), (191, 160, r.gen), (159, 128, r.id), (127, 96, r.obj), (95, 92, r.kind), (91, 91, b2n r.stale), (90, 90, b2n r.snap),
    (89, 89, b2n r.unlocked), (88, 88, b2n r.ctx.isSome), (87, 82, r.ctx.getD 0), (63, 32, r.seq.toNat), (31, 0, lost), (2047, 256, r.body.toNat)]

/-- The images of the records of a datagram: the first carries the records lost before it (16 R456, R461). -/
def images (rs : List TelemRec) (lost : Nat) : List (BitVec 2048) := rs.zipIdx.map (fun e => e.1.image (if e.2 = 0 then lost else 0))

/-- The next subscription in the rotation whose queue holds a record (16 R462). -/
def State.nextSub (s : State) : Option (Nat × Sub) :=
  let q := s.subs.filter (fun e => !e.2.queue.isEmpty)
  (q.find? (fun e => decide (s.telem.rotation < e.1))).or q.head?

/-- `DATAGRAM_SEND`: the next subscription in rotation sends one datagram of at most 32 records on its network B port
(16 R462). -/
def execDatagramSend (s : State) : Ans :=
  match s.nextSub with
  | none => .next s
  | some (slot, u) =>
    if !(s.ethPort (4 + u.port)).up then .next { s with telem := { s.telem with rotation := slot } }
    else
      let rs := u.queue.take 32
      let h := s.handleAt slot (.sub u)
      let pre : BitVec 128 := pack 128 [(31, 0, h.toNat), (63, 32, (u.sent + 1).toNat), (95, 64, rs.length)]
      let s1 := s.emit (.datagram u.port u.udp u.addr pre (images rs u.lost))
      .next { s1 with
        handles := { s1.handles with live := smPut s1.handles.live slot (.sub { u with queue := u.queue.drop 32, lost := 0, sent := u.sent + 1 }) }
        telem := { s1.telem with rotation := slot } }

/-! ### Snapshots (16 R464 to R467) -/

/-- A snapshot bank: `GEN` mod 2. -/
def State.snapBank (s : State) (b : Bool) : Shadow := if b then s.telem.bank1 else s.telem.bank0

/-- Write a snapshot bank. -/
def State.setSnapBank (s : State) (b : Bool) (x : Shadow) : State :=
  { s with telem := if b then { s.telem with bank1 := x } else { s.telem with bank0 := x } }

/-- A record that its subscription can no longer get is counted (16 R461, R467). -/
def State.dropRecord (s : State) (slot : Nat) : State :=
  match smGet? s.handles.live slot with
  | some (.sub u) =>
    { s with
      handles := { s.handles with live := smPut s.handles.live slot (.sub { u with
        seq := u.seq + 1, lost := min (u.lost + 1) 0xFFFFFFFF, dropped := u.dropped + 1 }) }
      telem := { s.telem with lost := s.telem.lost + 1 } }
  | _ => s

/-- The records of a snapshot that are to be formed: (slot of the subscription, gauge or first counter ID, object). -/
def State.snapDue (s : State) : List (Nat × Nat × Nat) :=
  (s.subs.filter (fun e => e.2.kinds.getLsbD 1)).flatMap (fun e => (s.matching e.2).map (fun m => (e.1, m.1, m.2)))

/-- Take a snapshot for an instant (16 R465, R467).  A flag that software has cleared since the instant is captured as it was
(00 R18). -/
def State.takeSnapshot (s : State) (t : Nat) : State :=
  let b := s.telem.gen % 2 == 1
  let s1 := (s.snapBank b).due.foldl (fun s d => s.dropRecord d.1) s
  let x : Shadow := { s.capture (fun _ => true) with
    t := t
    flags := (s.w1cRegs ++ s.telem.cleared).foldl (fun m e => smPut m e.1 (smGet 0 m e.1 ||| e.2)) []
    steps := s.ctxs.foldl (fun m e => smPut m e.1 e.2.stepStat) []
    due := s.snapDue }
  let s2 := s1.setSnapBank b x
  { s2 with telem := { s2.telem with gen := (s2.telem.gen + 1) % 2 ^ 32, lastSnap := some t } }

/-- The pending series after the instant `t`. -/
def nextSeries (xs : List Series) (t : Nat) : List Series :=
  xs.filterMap (fun x => if x.t = t then (if x.n ≤ 1 then none else some { x with t := x.t + x.p, n := x.n - 1 }) else some x)

/-- `SNAPSHOT_INSTANT`: tide has reached the earliest pending instant: every counter, gauge, write-1-to-clear register and
step state is copied, or the instant is skipped for lying less than 10 ms after the one taken last (16 R465, R466). -/
def execSnapshotInstant (s : State) : Ans :=
  match (s.telem.series.map (·.t)).min? with
  | none => .next s
  | some t =>
    if s.now < t then .next s
    else
      let s1 : State := { s with telem := { s.telem with series := nextSeries s.telem.series t } }
      let s2 := if s.telem.lastSnap.any (fun l => decide (t < l + 10 ^ 7)) then
          { s1 with telem := { s1.telem with skipped := s1.telem.skipped + 1 } }
        else s1.takeSnapshot t
      .next (if s2.instantDue then s2 else { s2 with telem := { s2.telem with cleared := [] } })

/-- The record of a snapshot (16 R456, R467). -/
def State.snapRecord (s : State) (x : Shadow) (id obj : Nat) : TelemRec :=
  let body := if isGauge id then (smGet {} x.gauges (telKey id obj)).body else countersBody (fun i => smGet 0 x.counters (telKey i obj)) id
  { s.recordOf (if isGauge id then 1 else 2) id obj body with t := x.t, gen := x.gen, stale := false, snap := true, unlocked := x.unlocked }

/-- `SNAPSHOT_EXPORT`: up to `count` of the records due from a bank are formed; those of a die whose manager restarts wait
for it (16 R467). -/
def execSnapshotExport (bank : Bool) (count : BitVec 16) (s : State) : Ans :=
  let x := s.snapBank bank
  let ready := (x.due.filter (fun d => !s.objStale d.2.2)).take count.toNat
  let s1 := ready.foldl (fun s d => s.formTo d.1 (s.snapRecord x d.2.1 d.2.2)) s
  .next (s1.setSnapBank bank { x with due := x.due.filter (fun d => !ready.contains d) })

/-! ### Margins in service (16 R468, R469) -/

/-- Entry `k` of nine 16-bit readings, and of nine 32-bit ones. -/
def nine16 (x : BitVec 144) (k : Nat) : BitVec 16 := BitVec.ofNat 16 (fieldN x (16 * k + 15) (16 * k))

/-- Entry `k` of nine 32-bit readings. -/
def nine32 (x : BitVec 288) (k : Nat) : Nat := fieldN x (32 * k + 31) (32 * k)

/-- The margins of a port are measured: its P-die has power and is not fenced. -/
def State.measures (s : State) (j : Nat) : Bool := s.power.convOn && !(s.die (84 + portP j)).fenced

/-- A lane crosses its action threshold: it is spared; a lane that is not in use fails where it stands (16 R469). -/
def State.laneAction (s : State) (j k : Nat) : State :=
  if (s.port j).laneMap.getLsbD k then s.spareLane j k
  else if (s.port j).laneFailed.getLsbD k then s
  else (s.modPort j (fun p => { p with laneFailed := p.laneFailed ||| (1#9 <<< k) })).directHealth (laneObj j k) .failed .margin

/-- One margin of a lane: its `WATCH` threshold, and its action. -/
def State.laneMargin (s : State) (j k : Nat) (watch action : Bool) : State :=
  let s1 := if watch then s.marginWatch (laneObj j k) else s
  if action then s1.laneAction j k else s1

/-- `EYE_SCAN`: a port scans the eye of its nine lanes: vertical margins in mV, horizontal ones in 1/1,000 UI (16 R468,
R469). -/
def execEyeScan (port : Fin 12) (v h : BitVec 144) (s : State) : Ans :=
  let j := port.val
  if !s.measures j then .next s
  else .next (((List.range 9).foldl (fun s k =>
    let a := nine16 v k
    let b := nine16 h k
    let s1 := (s.gaugeSample 0x0E000001 (laneObj j k) (a.setWidth 64)).gaugeSample 0x0E000002 (laneObj j k) (b.setWidth 64)
    let s2 := s1.modPort j (fun p => { p with
      eyeBad := modAt p.eyeBad k (fun n => if a.toNat < 6 then min 2 (n + 1) else 0)
      eyeBadH := modAt p.eyeBadH k (fun n => if b.toNat < 60 then min 2 (n + 1) else 0) })
    s2.laneMargin j k (decide (a.toNat < 12) || decide (b.toNat < 120))
      (decide (2 ≤ (s2.port j).eyeBad.getD k 0) || decide (2 ≤ (s2.port j).eyeBadH.getD k 0))) s).settle)

/-- `SER_WINDOW`: a port ends a window of 1 ms of pre-FEC symbol errors per 10⁹ symbols on its nine lanes (16 R468,
R469). -/
def execSerWindow (port : Fin 12) (errors : BitVec 288) (s : State) : Ans :=
  let j := port.val
  if !s.measures j then .next s
  else .next (((List.range 9).foldl (fun s k =>
    let e := nine32 errors k
    let s1 := s.gaugeSample 0x0E000003 (laneObj j k) (BitVec.ofNat 64 e)
    let s2 := s1.modPort j (fun p => { p with serBad := modAt p.serBad k (fun n => if 200000 < e then min 100 (n + 1) else 0) })
    s2.laneMargin j k (decide (20000 < e)) (decide (100 ≤ (s2.port j).serBad.getD k 0))) s).settle)

/-- The header of the `CAL` image in use. -/
def State.calHeader (s : State) : BitVec 512 := (((s.fwClass 4).image (s.fwClass 4).bootSlot).map (·.header)).getD 0

/-- The laser sources that feed a port and are in their bays (17 R493). -/
def State.lasersOf (s : State) (j : Nat) : List Nat := [4 * portP j, 4 * portP j + 1].filter (fun b => s.laser b != 0)

/-- The lanes of an optical reading (16 R469). -/
def State.readLanes (s : State) (j : Nat) (rx tx : BitVec 144) : State :=
  (List.range 9).foldl (fun s k =>
    let r := (nine16 rx k).toInt
    let t := (nine16 tx k).toInt
    let bol := Config.calTxPower s.calHeader j k
    let s1 := (s.gaugeSample 0x0E000004 (laneObj j k) (BitVec.ofInt 64 r)).gaugeSample 0x0E000005 (laneObj j k) (BitVec.ofInt 64 t)
    let s2 := s1.modPort j (fun p => { p with rxBad := modAt p.rxBad k (fun n => if r < -900 then min 10 (n + 1) else 0) })
    let s3 := s2.laneMargin j k (decide (r < -700) || decide (t < bol - 150)) (decide (10 ≤ (s2.port j).rxBad.getD k 0))
    if t < bol - 300 then (s3.lasersOf j).foldl (fun s b => s.directHealth (objId 11 b) .suspect .margin) s3 else s3) s

/-- `OPTICAL_READ`: optical powers of a port's lanes, or the bias of a laser source (16 R468, R469). -/
def execOpticalRead (reading : Optical) (s : State) : Ans :=
  match reading with
  | .lanes port rx tx => if s.measures port.val then .next (s.readLanes port.val rx tx).settle else .next s
  | .bias source bias =>
    let b := source.val
    let bol := Config.calBias s.calHeader b
    if s.laser b = 0 ∨ !s.power.convOn then .next s
    else
      let s1 := s.gaugeSample 0x0E000006 (objId 11 b) (bias.setWidth 64)
      let s2 := if 13 * bol < 10 * bias.toNat then s1.marginWatch (objId 11 b) else s1
      .next (if 15 * bol < 10 * bias.toNat then s2.directHealth (objId 11 b) .suspect .margin else s2).settle

/-- `SLACK_REPORT`: the least critical-path slack of a voltage domain over 10 µs, in ps; its margin is watched when it has
stood below 1.5 × S_cal for 1 s, and the weir acts below S_cal (16 R468, R469). -/
def execSlackReport (die : Fin 88) (domain : Fin 4) (slack : W32) (s : State) : Ans :=
  let d := die.val
  let i := domain.val
  let x := slack.toInt
  let cal := Config.calSlack s.calHeader d i
  let s1 := s.gaugeSample 0x13000004 (objId 15 (4 * d + i)) (BitVec.ofInt 64 x)
  let s2 := s1.modDie d (fun y => { y with slackBad := modAt y.slackBad i (fun n => if 2 * x < 3 * cal then min 100000 (n + 1) else 0) })
  .next (if 100000 ≤ (s2.die d).slackBad.getD i 0 then (s2.marginWatch (objId 15 (4 * d + i))).settle else s2)

/-! ### Distance to limit (16 R472, R473; 00 R8) -/

/-- Number of a measure. -/
def measureNum : Measure → Nat
  | .gemm => 0 | .stream _ => 1 | .torus _ _ => 2 | .scatter _ => 3 | .conversion => 4

/-- Object of a measure. -/
def measureObj : Measure → Nat
  | .gemm | .conversion => objId 0 0
  | .stream k => objId 7 k.val
  | .torus j _ => objId 9 j.val
  | .scatter c => objId 13 c.val

/-- Place of a measure in the table: a port's receive direction stands apart from its send direction. -/
def measureKey (m : Measure) : Nat :=
  let n := match m with | .torus _ true => 18 | m => measureNum m
  telKey n (measureObj m)

/-- The floor of a measure (00 R8). -/
def measureFloor : Measure → Rat
  | .gemm => mkRat 92 100 | .stream _ => mkRat 90 100 | .torus _ _ => mkRat 93 100 | .scatter _ => mkRat 85 100 | .conversion => mkRat 90 100

/-- The observed conditions of a measure that the state shows at the end of its interval (16 R472): E = 14,000 W for dense
GEMM; no rill traffic, no line-sparing copy and a stack at or below 85 °C for streaming (08 R245); eight lanes `UP` within their
loop for a port (09 R283); the conditions that the collective met for a reduce-scatter (10 R321). -/
def State.countsFor (s : State) (m : Measure) : Bool :=
  match m with
  | .gemm => s.power.envelope == 14000
  | .stream k => let d := s.dev k.val; !d.refresh2x && d.rillQ.isEmpty && d.movingLines.isEmpty
  | .torus j _ => let p := s.port j.val; p.st == .up && p.width == 2 && decide (p.loopNs ≤ 1660)
  | .scatter c => (s.ctx? c.val).any (·.scatterMet)
  | .conversion => true

/-- What a `LIMIT_BREACH` names: the die that hosts the object, a context, or the module. -/
def measurePlace (m : Measure) : Nat × Nat :=
  match m with
  | .gemm | .conversion => (0, 0)
  | .scatter c => (5, c.val)
  | m => (2, (objDie (measureObj m)).getD 0)

/-- The smaller of two FP32 numbers. -/
def minF32 (a b : W32) : W32 := if ltV (ofF32 b) (ofF32 a) then b else a

/-- A measure after an interval: its fraction as FP32, and whether every condition held (16 R473). -/
def Limit.interval (l : Limit) (fraction : W32) (counted below : Bool) : Limit :=
  if counted then
    { total := l.total + 1, counted := l.counted + 1, below := if below then l.below + 1 else l.below, fraction := fraction
      factor := toF32 .rne (divV (.ofRat 1) (ofF32 fraction)).v }
  else { l with total := l.total + 1 }

/-- `LIMIT_INTERVAL`: an interval of a measure ends, with its fraction as FP32 and whether every observed condition held
throughout; one that counts below the floor raises `LIMIT_BREACH` (16 R472, R473).  DESIGN CHOICE (log 94): the fraction comes
rounded to FP32, and that number is compared with the floor of 00 R8 as an exact rational. -/
def execLimitInterval (measure : Measure) (fraction : W32) (held : Bool) (s : State) : Ans :=
  let key := measureKey measure
  let gone := match measure with | .scatter c => (s.ctx? c.val).isNone | _ => false
  if gone then .next s
  else
    let counted := held && s.countsFor measure
    let below := counted && ltV (ofF32 fraction) (.ofRat (measureFloor measure))
    let s1 : State := { s with telem := { s.telem with
      limits := smPut s.telem.limits key ((smGet {} s.telem.limits key).interval fraction counted below) } }
    let s2 : State := if counted then { s1 with handles := { s1.handles with live := s1.handles.live.map (fun e => match e.2 with
        | .sub u => (e.1, .sub { u with worst := smPut u.worst key (minF32 (smGet 0x7F800000 u.worst key) fraction) })
        | o => (e.1, o)) } } else s1
    let place := measurePlace measure
    let ctx := match measure with | .scatter c => some c.val | _ => none
    .next (if below then s2.event 0x0610 place.1 place.2 ctx (pack 3328 [(7, 0, measureNum measure), (63, 32, fraction.toNat)]) else s2)

end Sys2Proof.Machine
end

