-- ==== Sys2Proof/Machine/Panel.lean ====
section
/-! DEFINITION. The panel network: where each die stands, through which fords a perimeter die reaches the grid, and the way,
the order and the virtual channel of a packet (01 R22, R23, R29 to R31).  A command acts in one step (log 1), so no packet of
the panel is in the state; these functions say which fords it crosses. -/

namespace Sys2Proof.Machine

/-- An edge of a C-die, numbered as ford gauges number it (16 R456). -/
inductive Edge where
  | north
  | east
  | south
  | west
  deriving DecidableEq, Repr

/-- A place of the grid: row and column; row 0 is the north edge and column 0 the west edge (01 R22). -/
abbrev GridPlace := Nat × Nat

/-- Where C-die `d` stands. -/
def gridPlace (d : Nat) : GridPlace := (d / 8, d % 8)

/-- A ford of the perimeter: a C-die and its outward edge. -/
structure PanelFord where
  /-- The C-die. -/
  at_ : GridPlace
  /-- The edge. -/
  edge : Edge
  deriving DecidableEq, Repr

/-- The traffic of a P-die (01 R30). -/
inductive PTraffic where
  /-- Torus ports and confluence engine, to and from tiles and M-dies. -/
  | torus
  /-- Passage between the two P-dies of a row (R280). -/
  | passage
  /-- Ethernet ports and the P-die's own manager. -/
  | ether
  /-- Package manager, while the P-die is primary. -/
  | package
  deriving DecidableEq, Repr

/-- The ford of M-die `m` (01 R23). -/
def mFord (m : Nat) : PanelFord :=
  if m < 5 then ⟨(0, m + 2), .north⟩
  else if m < 10 then ⟨(m - 3, 7), .east⟩
  else if m < 15 then ⟨(7, 15 - m), .south⟩
  else ⟨(20 - m, 0), .west⟩

/-- The three fords of P-die `p` (01 R23). -/
def pFords (p : Nat) : List PanelFord :=
  match p with
  | 0 => [⟨(0, 0), .north⟩, ⟨(0, 0), .west⟩, ⟨(0, 1), .north⟩]
  | 1 => [⟨(0, 7), .north⟩, ⟨(0, 7), .east⟩, ⟨(1, 7), .east⟩]
  | 2 => [⟨(7, 7), .east⟩, ⟨(7, 7), .south⟩, ⟨(7, 6), .south⟩]
  | _ => [⟨(7, 0), .south⟩, ⟨(7, 0), .west⟩, ⟨(6, 0), .west⟩]

/-- The ford that a P-die's traffic uses; P1 and P3 are never primary (01 R30). -/
def pFord (p : Nat) (k : PTraffic) : Option PanelFord :=
  match p, k with
  | 0, .torus | 0, .passage => some ⟨(0, 1), .north⟩
  | 0, .ether => some ⟨(0, 0), .west⟩
  | 0, .package => some ⟨(0, 0), .north⟩
  | 1, .torus => some ⟨(1, 7), .east⟩
  | 1, .passage => some ⟨(0, 7), .north⟩
  | 1, .ether => some ⟨(0, 7), .east⟩
  | 2, .torus | 2, .passage => some ⟨(7, 6), .south⟩
  | 2, .ether => some ⟨(7, 7), .east⟩
  | 2, .package => some ⟨(7, 7), .south⟩
  | 3, .torus => some ⟨(6, 0), .west⟩
  | 3, .passage => some ⟨(7, 0), .south⟩
  | 3, .ether => some ⟨(7, 0), .west⟩
  | _, _ => none

/-- An end of a packet's way: a C-die, or a perimeter die by the ford it uses. -/
inductive PanelEnd where
  | grid (at_ : GridPlace)
  | rim (f : PanelFord)
  deriving DecidableEq, Repr

/-- The C-die at an end. -/
def PanelEnd.place : PanelEnd → GridPlace
  | .grid p => p
  | .rim f => f.at_

/-- The edge of a perimeter end. -/
def PanelEnd.edge? : PanelEnd → Option Edge
  | .grid _ => none
  | .rim f => some f.edge

/-- The edge lies north or south. -/
def Edge.vertical : Edge → Bool
  | .north | .south => true
  | .east | .west => false

/-- The order of a packet is XY: along its row first; otherwise it is YX (01 R29, the first line that applies). -/
def orderXY (src dst : PanelEnd) : Bool :=
  match dst.edge?, src.edge? with
  | some e, _ => e.vertical
  | none, some e => !e.vertical
  | none, none => true

/-- The numbers from `a` to `b`, both included, in either direction. -/
def between (a b : Nat) : List Nat :=
  if a ≤ b then (List.range (b + 1 - a)).map (fun i => a + i) else (List.range (a + 1 - b)).map (fun i => a - i)

/-- The C-dies that a packet crosses, from the one it enters the grid at to the one it leaves at (01 R29). -/
def panelWay (src dst : PanelEnd) : List GridPlace :=
  let a := src.place
  let b := dst.place
  if orderXY src dst then (between a.2 b.2).map (fun c => (a.1, c)) ++ ((between a.1 b.1).drop 1).map (fun r => (r, b.2))
  else (between a.1 b.1).map (fun r => (r, a.2)) ++ ((between a.2 b.2).drop 1).map (fun c => (b.1, c))

/-- Crossings of a packet: one for each ford it passes, the perimeter fords included. -/
def panelCrossings (src dst : PanelEnd) : Nat :=
  (panelWay src dst).length - 1 + b2n src.edge?.isSome + b2n dst.edge?.isSome

/-- The virtual channel of a packet: PV0 to PV3, by its class and its order (01 R31). -/
def panelVc (response : Bool) (src dst : PanelEnd) : Nat := 2 * b2n response + b2n (!orderXY src dst)

end Sys2Proof.Machine
end

