-- ==== Sys2Proof/Machine/Fetch.lean ====
section
/-! DEFINITION. Rings: control blocks and write-watches (06 R167 to R170, R515), fetch and validation (06 R172, R176;
08 R236; 10 R293). -/

namespace Sys2Proof.Machine

/-- A read of a ring or control block is poisoned: the channel faults with the poison cause of its kind (06 R515). -/
def State.ringPoison (s : State) (h : W32) (index : W32) : State :=
  match s.chan? h with
  | none => s
  | some c =>
    let s1 := s.faultCh h (poisonCause c.kind) index false
    if c.kind = 1 then s1 else { s1 with scopeDue := s1.scopeDue ++ [⟨1, some c.ctx, none⟩] }

/-- 06 R168: a `RUNNING` channel whose `PRODUCER` lies more than a ring ahead of `CONSUMER`, or behind it, faults. -/
def State.checkOverrun (s : State) (h : W32) (c : Chan) : State :=
  if c.st = .running ∧ c.ringN < (c.producer - c.consumer).toNat then
    s.faultCh h .ringOverrun (c.consumer + BitVec.ofNat 32 c.ringN) false
  else s

/-- Read the first line of a control block, its watch being armed again (06 R169): `CPL_CONSUMER` releases held
operations in every state, and `PRODUCER` counts for a `RUNNING` channel (06 R168, R174). -/
def State.readControl (s : State) (h : W32) : State :=
  match s.chan? h with
  | none => s
  | some c =>
    let s1 := (s.modChan h (fun c => { c with fired := false })).lcRead c.ctx c.ctrl 64
    if s.tierBad c.ctx c.ctrl 64 then (s1.noteRead c.ctx c.ctrl 64).ringPoison h c.consumer
    else
      let p : W32 := BitVec.ofNat 32 (s.tierRead c.ctx c.ctrl 4)
      let q : W32 := BitVec.ofNat 32 (s.tierRead c.ctx (c.ctrl + 4) 4)
      let s2 := State.releaseHeld h s.ops.length (s1.modChan h (fun c => { c with producer := p, cplConsumer := q }))
      match s2.chan? h with
      | none => s2
      | some c2 => s2.checkOverrun h c2

/-- Bytes of a ring entry (06 R167, 08 R235, 10 R287). -/
def entryBytes (kind : Nat) : Nat := if kind = 3 then 128 else 64

/-- The next descriptor of a channel has been written and not fetched (06 R168). -/
def Chan.hasNext (c : Chan) : Bool :=
  decide ((c.nextFetch - c.consumer).toNat < (c.producer - c.consumer).toNat) && decide ((c.producer - c.consumer).toNat ≤ c.ringN)

/-- 06 R176: queue `q` of a tile may take one more operation: it holds fewer than 32, and one of the 64 entries, of which two
are reserved for each queue, is free.  An entry stays in use until its record has been written. -/
def State.queueRoom (s : State) (l q : Nat) : Bool :=
  let mine := fun (k : Nat) (o : Op) => o.kind == 1 && o.tile == l && o.queue == k
  let n := fun (k : Nat) => (s.ops.filter (mine k)).length
  let shared := ((List.range 8).map (fun k => n k - 2)).sum
  decide ((s.ops.filter (fun o => mine q o && o.isQueued)).length < 32) && (decide (n q < 2) || decide (shared < 48))

/-- A channel may take one more descriptor: 08 R233 and 10 R287 for copies and collectives. -/
def State.fetchRoom (s : State) (h : W32) (c : Chan) (raw : BitVec 1024) : Bool :=
  let n := (s.ops.filter (fun o => o.ch == h)).length
  if c.kind = 1 then s.queueRoom c.tile (OpD.of raw).queue else decide (n < (if c.kind = 2 then 16 else 4))

/-- The waits and the signal of a descriptor name valid syncs (06 R186). -/
def State.syncsOk (s : State) (c : Nat) (f : SyncF) : Bool :=
  f.loc || (f.waits ++ f.signal.toList).all (s.idOk c)

/-- 04 R120, 11 R327: the millrace sides that a matrix operation uses. -/
def State.mrOk (s : State) (c l : Nat) (d : OpD) : Bool :=
  let ok := fun (half : W64) =>
    mrValid half && mrCtx half == c && mrFmt half == b2n d.accInt
      && (!mrRemote half || s.inBox (xyzOn (mrXyz half) 0) (xyzOn (mrXyz half) 1) (xyzOn (mrXyz half) 2))
  let t := s.tileL l
  decide (2 < d.opcode) || ((d.accInit != 2 || ok (smGet 0 t.mrIn d.link)) && (d.accOut != 2 || ok (smGet 0 t.mrOut d.link)))

/-- The validation of an operation descriptor for a tile (06 R172). -/
def State.tileOk (s : State) (c l : Nat) (raw : BitVec 1024) : Bool :=
  let d := OpD.of raw
  let priv := privValid (smGet 0 (((s.ctx? c).map (·.priv)).getD []) d.privIdx)
  d.commonOk raw priv && s.mrOk c l d &&
    (match d.opcode with
      | 0x01 | 0x02 => d.matrixOk
      | 0x10 | 0x11 | 0x12 | 0x13 | 0x14 | 0x15 | 0x16 | 0x17 | 0x18 | 0x19 | 0x1A | 0x1B
      | 0x20 | 0x21 | 0x22 | 0x23 | 0x24 | 0x25 | 0x26 | 0x27 | 0x28 | 0x30 | 0x31 | 0x32 | 0x33 => d.vectorOk
      | 0x40 | 0x41 => d.topkOk
      | 0x42 | 0x43 | 0x44 | 0x45 | 0x46 => d.eddyOk
      | 0x50 | 0x51 | 0x52 => d.sluiceOk
      | _ => false)

/-- The fault with which a fetched descriptor is refused, if any. -/
def State.fetchCause (s : State) (c : Chan) (raw : BitVec 1024) : Cause :=
  let ok := if c.kind = 1 then s.tileOk c.ctx c.tile raw else if c.kind = 2 then s.copyOk c.ctx raw else s.collOk c.ctx raw
  if !ok ∨ !s.syncsOk c.ctx (syncF c.kind raw) then .validation
  else if c.kind = 2 ∧ !s.copyWindowOk c.ctx raw then .window
  else .none

/-- The M-die nearest to a C-die over the panel: the fewest crossings (01 R24, R29), the lowest number of several (log 64). -/
def nearestM (die : Nat) : Nat :=
  let far := fun (m : Nat) => panelCrossings (.rim (mFord m)) (.grid (gridPlace die))
  (List.range 20).foldl (fun b m => if far m < far b then m else b) 0

/-- 08 R233: a copy channel that left the choice of its engine to the module takes the M-die nearest its first destination
tile. -/
def State.chooseEngine (s : State) (h : W32) (c : Chan) (raw : BitVec 1024) : State :=
  let d := CopyD.of raw
  match placeOf (gLocal d.dst) with
  | .spad l _ =>
    if c.kind = 2 ∧ c.engine = 0xFF ∧ s.isOwn d.dst then s.modChan h (fun y => { y with engine := nearestM (s.phys l / 8) }) else s
  | _ => s

/-- Descriptor count of the stream of a collective channel at its next descriptor (10 R288). -/
def State.nextSeq (s : State) (h : W32) (c : Chan) : Nat :=
  (s.ops.filter (fun o => o.ch == h && o.isQueued)).foldl (fun m o => max m (o.seq + 1))
    (((s.ctx? c.ctx).map (fun x => smGet 0 x.streams c.stream)).getD 0)

/-- Fetch one descriptor: it joins its queue, or is refused (06 R172, R176). -/
def State.take (s : State) (h : W32) (c : Chan) (raw : BitVec 1024) : State :=
  let o : Op := { id := s.nextOp, ch := h, idx := c.nextFetch, desc := raw, ctx := c.ctx, tile := c.tile
                  queue := (if c.kind = 1 then (OpD.of raw).queue else 0), seq := if c.kind = 3 then s.nextSeq h c else 0 }
  let empty := (s.headLike o).isNone
  let s1 : State := { s with nextOp := s.nextOp + 1, ops := s.ops ++ [o] }
  let s2 := (s1.modChan h (fun c => { c with nextFetch := c.nextFetch + 1 })).refreshHeads
  let s3 := if empty then s2.touchQueue o else s2
  match s.fetchCause c raw with
  | .none => s3.chooseEngine h c raw
  | .validation => if c.kind = 3 then s3.failColl o .validation Status.badArg.code else s3.failOp o.id .validation
  | k => s3.failOp o.id k

/-- Fetch up to `n` descriptors of a channel, in ring order. A fetch that would fault the channel and discard what was
fetched before it (06 R171, R515) waits for the next `DESCRIPTOR_FETCH`, so that what this one fetched may issue first. -/
def State.fetchLoop (h : W32) : Nat → Bool → State → State
  | 0, _, s => s
  | n + 1, first, s =>
    match s.chan? h with
    | none => s
    | some c =>
      if c.st ≠ .running ∨ !c.hasNext then s
      else
        let k := entryBytes c.kind
        let a := c.ring + k * (c.nextFetch.toNat % c.ringN)
        let s1 := s.lcRead c.ctx a k
        if s.tierBad c.ctx a k then (if first then (s1.noteRead c.ctx a k).ringPoison h c.nextFetch else s)
        else
          let raw : BitVec 1024 := BitVec.ofNat 1024 (s.tierRead c.ctx a k)
          let cause := s.fetchCause c raw
          if !s.fetchRoom h c raw ∨ (!first ∧ cause ≠ .none ∧ cause ≠ .validation) then s
          else State.fetchLoop h n false (s1.take h c raw)

/-- The scheduler of a channel runs: its tile's die has its clocks and does not move, and the package is not in `SAFE`
(13 R380, 17 R486). -/
def State.fetches (s : State) (c : Chan) : Bool :=
  s.pkg.st != .safe && (c.kind != 1 || (s.dieRuns (s.phys c.tile) && !(s.tileL c.tile).moving && !s.pkg.remapHold.contains c.tile))

/-- The fetch engine of a channel can read its control block and its ring now. -/
def State.fetchOpen (s : State) (c : Chan) : Bool :=
  s.fetches c && !s.accessHeld c.ctx c.ctrl 64 && !s.accessHeld c.ctx c.ring (c.ringN * entryBytes c.kind)

/-- A fetch of the channel is due: its write-watch has fired, or its next descriptor has been written and finds room. -/
def State.fetchDue (s : State) (h : W32) (c : Chan) : Bool :=
  s.fetchOpen c && (c.fired || (c.st == .running && c.hasNext && s.fetchRoom h c
    (BitVec.ofNat 1024 (s.tierRead c.ctx (c.ring + entryBytes c.kind * (c.nextFetch.toNat % c.ringN)) (entryBytes c.kind)))))

/-- Slots from the one after the compute channel that a tile fetched last to a channel's own. -/
def State.turnsTo (s : State) (h : W32) (l : Nat) : Nat := (hSlot h + 16383 - (s.tileL l).fetchAt) % 16384

/-- 06 R176: a tile fetches from its compute channels in turn: no other channel whose fetch is due comes first. -/
def State.itsTurn (s : State) (h : W32) (c : Chan) : Bool :=
  c.kind != 1 || (s.chansWhere (fun y => y.kind == 1 && y.tile == c.tile)).all (fun y =>
    !s.fetchDue y.1 y.2 || decide (s.turnsTo h c.tile ≤ s.turnsTo y.1 c.tile))

/-- `DESCRIPTOR_FETCH`: the fetch engine of a channel, in its turn, reads its control block when the write-watch has fired,
and fetches up to eight descriptors in ring order (06 R168, R169, R176). -/
def execDescriptorFetch (chan : W32) (s : State) : Ans :=
  match s.chan? chan with
  | none => .next s
  | some c =>
    if !s.fetchOpen c ∨ !s.itsTurn chan c then .next s
    else
      let s0 := if c.kind = 1 ∧ s.fetchDue chan c then s.modTileL c.tile (fun t => { t with fetchAt := hSlot chan }) else s
      let s1 := if c.fired then s0.readControl chan else s0.checkOverrun chan c
      .next (State.fetchLoop chan 8 true s1).settle

/-- `PRODUCER_WRITE`: software writes `PRODUCER` into the control block of a channel, which fires its write-watch
(06 R169). -/
def execProducerWrite (chan : W32) (value : W32) (s : State) : Ans :=
  match s.chan? chan with
  | none => .next s
  | some c => if s.accessHeld c.ctx c.ctrl 4 then .next s else .next (s.store c.ctx c.ctrl (toBytes 4 value.toNat))

/-- `CPL_CONSUMER_WRITE`: software advances `CPL_CONSUMER` in the control block of a channel; the scheduler reads it
and releases completed operations held for a full completion ring (06 R174). -/
def execCplConsumerWrite (chan : W32) (value : W32) (s : State) : Ans :=
  match s.chan? chan with
  | none => .next s
  | some c =>
    if s.accessHeld c.ctx c.ctrl 8 then .next s
    else
      let s1 := s.store c.ctx (c.ctrl + 4) (toBytes 4 value.toNat)
      match s1.chan? chan with
      | some c1 => if c1.fired ∧ s.ops.any (fun o => o.ch == chan && o.phase == .held) then .next (s1.readControl chan).settle else .next s1
      | none => .next s1

end Sys2Proof.Machine
end

