-- ==== Sys2Proof/Machine/Rdma.lean ====
section
/-! DEFINITION. Ethernet ports and data queue pairs (12 R351 to R359, R372, R373; 14 R411, R418). -/

namespace Sys2Proof.Machine

/-- Bytes `off` to `off + k − 1` of a body in network byte order (12 R373). -/
def Req.be (r : Req) (off k : Nat) : Nat := (List.range k).foldl (fun a i => a * 256 + r.num (off + i) 1) 0

/-- A data queue pair. -/
def State.qp? (s : State) (q : Nat) : Option Qp := smGet? s.qps q

/-- Change a data queue pair that exists. -/
def State.modQp (s : State) (q : Nat) (f : Qp → Qp) : State := { s with qps := smMod s.qps q f }

/-- The service ID of a new data queue pair: the first value, from a free one on, that no other queue pair has and that is
not the Aidar service ID (12 R356, log 34). -/
def State.newService (s : State) (n : Nat) : BitVec 64 :=
  (((List.range 4098).map (fun i => Config.serviceId n + BitVec.ofNat 64 i)).find?
    (fun v => v != 0x010000000000A1DA && s.qps.all (fun e => e.2.service != v))).getD 0

/-- `QP_CREATE` (12 R355, R356). -/
def execQpCreate (sess : Fin 64) (seq : W32) (s : State) : Ans :=
  aidar sess seq 0x0206 s (fun x r =>
    let c := r.num 0 1
    let n := s.newQp
    let q : Qp := { ctx := c, port := r.num 1 1, mtu := r.num 2 1, partner := BitVec.ofNat 128 (r.be 16 16), service := s.newService n }
    let full := decide (4096 ≤ s.qpCount) || decide (1024 ≤ (s.qps.filter (fun e => e.2.ctx == c)).length)
    checked (ctxCheck s x c ++ [badArg (!r.clean [(0, 3), (16, 16)] || decide (7 < r.num 1 1) || decide (2 < r.num 2 1)), s.pkgCheck r,
        ctxStCheck s c [.created, .bound, .running, .quiesced], (full, .noResource, 0)])
      (.done { s with qps := smPut s.qps n q } .ok (pack 3456 [(23, 0, n), (127, 64, q.service.toNat)]) 16))

/-- Check 7 of 12 R368 for a queue-pair number (12 R356). -/
def State.qpCheck (s : State) (x : Sess) (n : Nat) : Check :=
  match s.qp? n with
  | none => badArg true
  | some q => (match x.role, s.ctx? q.ctx with
    | .tenant i, some y => (y.owner != i, .denied, 0)
    | _, _ => (true, .denied, 0))

/-- `QP_MODIFY`: a queue pair with a request outstanding is refused; else the old connection ends, and the new partner may
connect under the same service ID (12 R358).  A queue pair in its error state stays there (R359).  The module sends no
request of its own on a data queue pair, so none is outstanding in that direction (log 35). -/
def execQpModify (sess : Fin 64) (seq : W32) (s : State) : Ans :=
  aidar sess seq 0x0207 s (fun x r =>
    let n := r.num 0 4
    checked [s.qpCheck x n, badArg (!r.clean [(0, 4), (16, 16)]), s.pkgCheck r,
        ((s.qp? n).any (fun q => !q.work.isEmpty), .stateConflict, 0x5C)]
      (match s.qp? n with
        | none => .refuse .badArg 0
        | some q => .done (s.modQp n (fun q => { q with
            partner := BitVec.ofNat 128 (r.be 16 16)
            st := if q.st = .error then .error else .idle
            psn := 0 })) .ok (pack 3456 [(127, 64, q.service.toNat)]) 16))

/-- `QP_DESTROY` (12 R356). -/
def execQpDestroy (sess : Fin 64) (seq : W32) (s : State) : Ans :=
  aidar sess seq 0x0208 s (fun x r =>
    checked [s.qpCheck x (r.num 0 4), s.pkgCheck r] (.ok { s with qps := smErase s.qps (r.num 0 4) }))

/-- The package is up, so that ports and queue pairs serve (13 R380). -/
def State.serves (s : State) : Bool := s.pkg.st != .standby

/-- `QP_CONNECT`: the one connection of a data queue pair is accepted, from its named partner only (12 R356). -/
def execQpConnect (qp : BitVec 24) (partner : BitVec 128) (s : State) : Ans :=
  let n := qp.toNat
  match s.qp? n with
  | none => .next s
  | some q =>
    if !s.serves ∨ !(s.ethPort q.port).up then .next s
    else if q.st = .idle ∧ q.partner = partner then .next ((s.modQp n (fun q => { q with st := .connected, psn := 0 })).emit (.qpAccept n))
    else .next (s.emit (.cmReject q.port))

/-! ### RDMA (12 R357, 14 R411) -/

/-- A queue pair enters its error state, and what is outstanding on it is dropped (12 R357, log 36). -/
def Qp.fail (q : Qp) : Qp := { q with st := .error, work := [] }

/-- A refused or failed RDMA request: a NAK, a count in `RDMA_REFUSED`, and the error state of the queue pair
(12 R357, 14 R411). -/
def State.nakQp (s : State) (n code : Nat) (c : Nat) : State :=
  ((s.modQp n Qp.fail).modCtx c (fun x => { x with rdmaRefused := x.rdmaRefused + 1 })).emit (.nak n code)

/-- 12 R357, 14 R411: the request names a window of the queue pair's context and a whole range in it, on 64-byte
boundaries. -/
def State.rdmaOk (s : State) (q : Qp) (rkey : W32) (va : BitVec 64) (len : Nat) : Bool :=
  match checkHandle s rkey [4] (fun o => o.ctx? == some q.ctx) with
  | .ok (.window w) => w.ready && (va.toNat % 64 == 0) && (len % 64 == 0) && decide (w.base ≤ va.toNat) && decide (va.toNat + len ≤ w.base + w.length)
  | _ => false

/-- Bytes of a path MTU (12 R373). -/
def mtuBytes (m : Nat) : Nat := 1024 * 2 ^ m

/-- Packets of a message. -/
def Qp.packets (q : Qp) (len : Nat) : Nat := max 1 (cdiv len (mtuBytes q.mtu))

/-- A connected queue pair that a request reaches. -/
def State.qpLive (s : State) (n : Nat) : Option Qp :=
  match s.qp? n with
  | none => none
  | some q => if s.serves ∧ q.st = .connected ∧ (s.ethPort q.port).up then some q else none

/-- Memory key of a context; while it exists a window has one (08 R227). -/
def State.memKeyOf (s : State) (c : Nat) : BitVec 512 := ((s.ctx? c).bind (·.memKey)).getD 0

/-- 08 R230: tweak of the line at a context's address: bits [47:6] of the address after bank translation. -/
def State.tweak (s : State) (c a : Nat) : Nat := s.xaddr c a / 64

/-- Store ciphertext lines from an address on: memory holds what they decrypt to. -/
def State.storeCipher (s : State) (c a : Nat) : List (List Byte) → State
  | [] => s
  | l :: ls =>
    let plain := Config.xtsDec (s.memKeyOf c) (s.tweak c a) (BitVec.ofNat 512 (ofBytes l))
    State.storeCipher (s.store c a (toBytes 64 plain.toNat)) c (a + 64) ls

/-- Bytes in runs of 64. -/
def linesOf : Nat → List Byte → List (List Byte)
  | 0, _ => []
  | n + 1, bs => if bs.isEmpty then [] else bs.take 64 :: linesOf n (bs.drop 64)

/-- The request waits: it is in order, and the memory it reaches is held (01 R41, 07 R216). -/
def State.rdmaHeld (s : State) (q : Qp) (w : RdmaReq) : Bool :=
  match w with
  | .write rkey va data => s.rdmaOk q rkey (BitVec.ofNat 64 va) data.length && s.accessHeld q.ctx va data.length
  | .read rkey va len => s.rdmaOk q rkey (BitVec.ofNat 64 va) len && s.accessHeld q.ctx va len
  | .other => false

/-- The stored ciphertext of a range, line by line (14 R411). -/
def State.cipherLines (s : State) (c va len : Nat) : List (BitVec 512) :=
  (List.range (len / 64)).map (fun i =>
    let a := va + 64 * i
    Config.xtsEnc (s.memKeyOf c) (s.tweak c a) (BitVec.ofNat 512 (s.tierRead c a 64)))

/-- A request that has been served: the sequence number passes its packets. -/
def Qp.pass (q : Qp) (len : Nat) : Qp := { q with psn := q.psn + BitVec.ofNat 24 (q.packets len) }

/-- Serve a request of a data queue pair: a WRITE stores the bytes received as the ciphertext of the window's lines, a READ
returns the stored ciphertext, and a SEND or an atomic request is invalid, after which the queue pair is in its error
state, as the RoCE annex requires.  A refused request and a poisoned line are answered with a NAK (12 R356, R357;
14 R411; log 36). -/
def State.serveRdma (s : State) (n : Nat) (q : Qp) (w : RdmaReq) : State :=
  match w with
  | .write rkey va data =>
    if s.rdmaOk q rkey (BitVec.ofNat 64 va) data.length then
      ((s.storeCipher q.ctx va (Machine.linesOf data.length data)).modQp n (fun q => q.pass data.length)).emit (.rdmaAck n)
    else s.nakQp n 2 q.ctx
  | .read rkey va len =>
    if !s.rdmaOk q rkey (BitVec.ofNat 64 va) len then s.nakQp n 2 q.ctx
    else if s.tierBad q.ctx va len then (s.noteRead q.ctx va len).nakQp n 3 q.ctx
    else (s.modQp n (fun q => q.pass len)).emit (.rdmaData n (s.cipherLines q.ctx va len))
  | .other => (s.modQp n Qp.fail).emit (.nak n 1)

/-- Serve what is outstanding on a queue pair, oldest first, up to a request that is held (at most `fuel` of them). -/
def State.serveQp : Nat → Nat → State → State
  | 0, _, s => s
  | fuel + 1, n, s =>
    match s.qpLive n with
    | none => s
    | some q => match q.work with
      | [] => s
      | w :: ws =>
        if s.rdmaHeld q w then s
        else State.serveQp fuel n ((s.modQp n (fun q => { q with work := ws })).serveRdma n q w)

/-- The READs outstanding on a queue pair. -/
def Qp.reads (q : Qp) : Nat := (q.work.filter (fun w => match w with | .read _ _ _ => true | _ => false)).length

/-- A request arrives at a data queue pair: it is served in its turn.  A READ beyond 16 outstanding ones is invalid
(12 R356, log 36). -/
def State.takeRdma (s : State) (n : Nat) (w : RdmaReq) : State :=
  match s.qpLive n with
  | none => s
  | some q =>
    let q1 : Qp := { q with work := q.work ++ [w] }
    if 16 < q1.reads then (s.modQp n Qp.fail).emit (.nak n 1)
    else State.serveQp (q.work.length + 1) n (s.modQp n (fun _ => q1))

/-- Serve every queue pair whose requests are no longer held. -/
def State.serveQps (s : State) : State := (s.qps.filter (fun e => !e.2.work.isEmpty)).foldl (fun s e => State.serveQp e.2.work.length e.1 s) s

/-- `RDMA_WRITE`: on a data queue pair, or on the queue pair of a session, which may write its mailbox area (12 R357, R361;
14 R411). -/
def execRdmaWrite (qp : BitVec 24) (rkey : W32) (va : BitVec 64) (data : List (BitVec 8)) (s : State) : Ans :=
  match s.sessOfQp qp.toNat with
  | some (k, x) => .next (s.writeMailbox k x rkey va.toNat data)
  | none => .next (s.takeRdma qp.toNat (.write rkey va.toNat data))

/-- `RDMA_READ`: on a data queue pair; a session's queue pair may read nothing, and the session ends with its error state
(12 R357, R361; 14 R411). -/
def execRdmaRead (qp : BitVec 24) (rkey : W32) (va : BitVec 64) (len : W32) (s : State) : Ans :=
  match s.sessOfQp qp.toNat with
  | some (k, x) => .next ((s.emit (.nak x.qpn 2)).endSession k)
  | none => .next (s.takeRdma qp.toNat (.read rkey va.toNat len.toNat))

/-- `SEND_OR_ATOMIC_REQUEST`: answered with an invalid-request NAK in its turn (12 R356). -/
def execSendOrAtomicRequest (qp : BitVec 24) (s : State) : Ans := .next (s.takeRdma qp.toNat .other)

/-- `QP_RETRY_EXHAUSTED`: a queue pair whose RoCE retries are exhausted enters its error state (12 R359); a session ends
with its queue pair. -/
def execQpRetryExhausted (qp : BitVec 24) (s : State) : Ans :=
  match s.sessOfQp qp.toNat with
  | some (k, _) => .next (s.endSession k)
  | none =>
    match s.qp? qp.toNat with
    | none => .next s
    | some q => if q.st = .connected then .next (s.modQp qp.toNat Qp.fail) else .next s

/-! ### Ports (12 R353, R354, R372) -/

/-- MAC address of a port: the eight follow the base address (18 R511, log 96). -/
def portMac (j : Nat) : BitVec 48 := Config.baseMac + BitVec.ofNat 48 j

/-- The link-local address of a port: EUI-64 from its MAC (12 R353). -/
def linkLocal (j : Nat) : BitVec 128 :=
  let m := (portMac j).toNat
  BitVec.ofNat 128 (0xFE80 * 2 ^ 112 + ((m / 2 ^ 24) ^^^ (2 ^ 17)) * 2 ^ 40 + 0xFFFE * 2 ^ 24 + m % 2 ^ 24)

/-- An IPv6 address of the port: its link-local one, or its global one once it has been set. -/
def EthPort.holds6 (p : EthPort) (j : Nat) (a : BitVec 128) : Bool := a == linkLocal j || (p.ipv6 != 0 && a == p.ipv6)

/-- The IPv4 address of the port, where it has one. -/
def EthPort.holds4 (p : EthPort) (a : BitVec 32) : Bool := p.ipv4 != 0 && a == p.ipv4

/-- The tags of a frame are those of the port: its one VLAN tag, or none (12 R353; a tag of another VLAN is log 96). -/
def EthPort.tagsOk (p : EthPort) (f : EthFrame) : Bool :=
  match f.tags with
  | [] => p.vlan == 0xFFFF
  | [t] => p.vlan != 0xFFFF && (t &&& 0xFFF) == (p.vlan &&& 0xFFF)
  | _ => false

/-- A packet body that the module implements; Neighbor Discovery belongs to IPv6. -/
def bodyListed (b : IpBody) (v6 : Bool) : Bool :=
  match b with
  | .solicit _ => v6
  | .roceOther | .other => false
  | .echo _ | .notice | .roce _ | .ptp => true

/-- A frame uses only the parts of the standards that a port implements (12 R353). -/
def frameListed (f : EthFrame) (p : EthPort) : Bool :=
  decide (f.len.toNat ≤ 9216) && p.tagsOk f &&
    match f.body with
    | .mka | .arp _ => true
    | .pause | .other => false
    | .ipv4 _ _ options fragment _ b => !options && !fragment && bodyListed b false
    | .ipv6 _ _ extensions fragment _ b => !extensions && !fragment && bodyListed b true

/-- An IPv4 address as an IPv4-mapped one (12 R373). -/
def mapped4 (a : BitVec 32) : BitVec 128 := BitVec.ofNat 128 (0xFFFF * 2 ^ 32 + a.toNat)

/-- What the port sends for a packet body that is for it: an echo reply, and a CNP for an ECN-marked RoCE packet
(12 R353, R354). -/
def bodyReply (j : Nat) (src : BitVec 128) (marked : Bool) (b : IpBody) : List Out :=
  match b with
  | .echo data => [.echoReply j src data]
  | .roce qp => if marked then [.cnp j qp.toNat] else []
  | _ => []

/-- What the port sends for a frame that it takes (12 R353, R354). -/
def EthPort.replies (p : EthPort) (j : Nat) (f : EthFrame) : List Out :=
  match f.body with
  | .arp a => if p.holds4 a then [.arpReply j (portMac j) a] else []
  | .ipv6 _ _ _ _ _ (.solicit a) => if p.holds6 j a then [.neighbour j (portMac j) a] else []
  | .ipv4 src dst _ _ marked b => if p.holds4 dst then bodyReply j (mapped4 src) marked b else []
  | .ipv6 src dst _ _ marked b => if p.holds6 j dst then bodyReply j src marked b else []
  | _ => []

/-- A PFC pause goes out when the receive buffer of a lossless priority crosses its threshold (12 R354). -/
def EthPort.pauses (p : EthPort) (j : Nat) (f : EthFrame) : List Out :=
  if f.crosses && (p.prioData.toNat == f.prio.val || p.prioCtrl.toNat == f.prio.val) then [.pfcPause j f.prio.val] else []

/-- `ETH_FRAME_RX`: a frame that fails MACsec goes no further; one that is unprotected and no EAPOL-MKA frame, or that uses
a part of the standards that the module does not implement, is dropped and counted in `ETH_DROPPED`; and the port answers
the others as Neighbor Discovery, ARP, the echo protocols and congestion control have it (12 R353, R354).  What a RoCE or
PTP packet asks of the module arrives under rows of its own (log 96). -/
def execEthFrameRx (port : Fin 8) (frame : EthFrame) (s : State) : Ans :=
  let j := port.val
  let p := s.ethPort j
  if !s.serves ∨ !p.up then .next s
  else
    let s1 : State := { s with out := s.out ++ p.pauses j frame }
    if frame.protected_ ∧ !frame.verifies then .next s1
    else if (!frame.protected_ ∧ frame.body ≠ .mka) ∨ !frameListed frame p then .next (s1.modEth j (fun p => { p with dropped := p.dropped + 1 }))
    else .next { s1 with out := s1.out ++ p.replies j frame }

/-- `PFC_PAUSE_RX`: sending stops on a lossless priority, or resumes; a pause of another priority is a part that the
module does not implement (12 R353, R354). -/
def execPfcPauseRx (port : Fin 8) (prio : Fin 8) (on : Bool) (s : State) : Ans :=
  let j := port.val
  let i := prio.val
  let p := s.ethPort j
  let bit : BitVec 8 := 1#8 <<< i
  if !s.serves ∨ !p.up then .next s
  else if p.prioData.toNat ≠ i ∧ p.prioCtrl.toNat ≠ i then .next (s.modEth j (fun p => { p with dropped := p.dropped + 1 }))
  else if on then
    if p.paused.getLsbD i then .next s
    else .next ((s.modEth j (fun p => { p with paused := p.paused ||| bit, pausedAt := modAt p.pausedAt i (fun _ => s.now) })).emit (.paused j i true))
  else if p.paused.getLsbD i then
    .next ((s.modEth j (fun p => { p with
      paused := p.paused &&& ~~~bit
      pausedNs := bump p.pausedNs (s.now - p.pausedAt.getD i 0) })).emit (.paused j i false))
  else .next s

/-- `NET_CONFIG`: the addresses, VLAN, priorities, DSCP values or MACsec key of one port; a field whose mask bit is 0 is
left unchanged (12 R372, R373; 14 R418). -/
def execNetConfig (sess : Fin 64) (seq : W32) (s : State) : Ans :=
  aidar sess seq 0x0307 s (fun _ r =>
    let j := r.num 0 1
    let m := r.num 1 1
    let prioBad := m.testBit 3 && (decide (7 < r.num 38 1) || decide (7 < r.num 39 1) || decide (63 < r.num 40 1) || decide (63 < r.num 41 1))
    checked [badArg (!r.clean [(0, 2), (16, 26), (48, 64)] || decide (7 < j) || decide (31 < m) || prioBad), s.pkgCheck r]
      (.ok (s.modEth j (fun p =>
        let p1 := if m.testBit 0 then { p with ipv6 := BitVec.ofNat 128 (r.be 16 16) } else p
        let p2 := if m.testBit 1 then { p1 with ipv4 := BitVec.ofNat 32 (r.be 32 4) } else p1
        let p3 := if m.testBit 2 then { p2 with vlan := BitVec.ofNat 16 (r.num 36 2) } else p2
        let p4 := if m.testBit 3 then { p3 with
          prioData := BitVec.ofNat 8 (r.num 38 1)
          prioCtrl := BitVec.ofNat 8 (r.num 39 1)
          dscpData := BitVec.ofNat 8 (r.num 40 1)
          dscpCtrl := BitVec.ofNat 8 (r.num 41 1) } else p3
        if m.testBit 4 then { p4 with macsec := some (BitVec.ofNat 256 (r.num 48 32), BitVec.ofNat 256 (r.num 80 32)) } else p4))))

end Sys2Proof.Machine
end

