-- ==== Sys2Proof/Machine/Dispatch.lean ====
section
/-! DEFINITION. The effect of a command on everything but the queue: one arm for each row of the table. -/

namespace Sys2Proof.Machine

/-- The effect of command `i` on state `s`. -/
def exec (i : Instr) (s : State) : Host.Outcome State Fault Refusal :=
  match i with
  | .hello sess seq => Sys2Proof.Machine.execHello sess seq s
  | .bye sess seq => Sys2Proof.Machine.execBye sess seq s
  | .ping sess seq => Sys2Proof.Machine.execPing sess seq s
  | .ctxCreate sess seq => Sys2Proof.Machine.execCtxCreate sess seq s
  | .ctxBind sess seq => Sys2Proof.Machine.execCtxBind sess seq s
  | .ctxQuiesce sess seq => Sys2Proof.Machine.execCtxQuiesce sess seq s
  | .ctxQuiesceDone ctx => Sys2Proof.Machine.execCtxQuiesceDone ctx s
  | .ctxDestroy sess seq => Sys2Proof.Machine.execCtxDestroy sess seq s
  | .ctxClearComplete ctx => Sys2Proof.Machine.execCtxClearComplete ctx s
  | .chanCreate sess seq => Sys2Proof.Machine.execChanCreate sess seq s
  | .windowZeroFillDone window => Sys2Proof.Machine.execWindowZeroFillDone window s
  | .chanStart sess seq => Sys2Proof.Machine.execChanStart sess seq s
  | .chanStop sess seq => Sys2Proof.Machine.execChanStop sess seq s
  | .chanStopDone chan => Sys2Proof.Machine.execChanStopDone chan s
  | .chanDestroy sess seq => Sys2Proof.Machine.execChanDestroy sess seq s
  | .chanQuery sess seq => Sys2Proof.Machine.execChanQuery sess seq s
  | .qpCreate sess seq => Sys2Proof.Machine.execQpCreate sess seq s
  | .qpModify sess seq => Sys2Proof.Machine.execQpModify sess seq s
  | .qpDestroy sess seq => Sys2Proof.Machine.execQpDestroy sess seq s
  | .partSetCoord sess seq => Sys2Proof.Machine.execPartSetCoord sess seq s
  | .partJoin sess seq => Sys2Proof.Machine.execPartJoin sess seq s
  | .linkExpect sess seq => Sys2Proof.Machine.execLinkExpect sess seq s
  | .transitGrant sess seq => Sys2Proof.Machine.execTransitGrant sess seq s
  | .faultModeSet sess seq => Sys2Proof.Machine.execFaultModeSet sess seq s
  | .leveeRaise sess seq => Sys2Proof.Machine.execLeveeRaise sess seq s
  | .netConfig sess seq => Sys2Proof.Machine.execNetConfig sess seq s
  | .gaugeSubscribe sess seq => Sys2Proof.Machine.execGaugeSubscribe sess seq s
  | .snapshotSchedule sess seq => Sys2Proof.Machine.execSnapshotSchedule sess seq s
  | .timeRoleSet sess seq => Sys2Proof.Machine.execTimeRoleSet sess seq s
  | .fwStage sess seq data equal cut => Sys2Proof.Machine.execFwStage sess seq data equal cut s
  | .fwActivate sess seq => Sys2Proof.Machine.execFwActivate sess seq s
  | .bistRun sess seq => Sys2Proof.Machine.execBistRun sess seq s
  | .dieFence sess seq => Sys2Proof.Machine.execDieFence sess seq s
  | .dieRelease sess seq => Sys2Proof.Machine.execDieRelease sess seq s
  | .dieSpare sess seq => Sys2Proof.Machine.execDieSpare sess seq s
  | .hbmRepair sess seq resource => Sys2Proof.Machine.execHbmRepair sess seq resource s
  | .attest sess seq => Sys2Proof.Machine.execAttest sess seq s
  | .sessionKey sess seq => Sys2Proof.Machine.execSessionKey sess seq s
  | .ctxKeyInstall sess seq => Sys2Proof.Machine.execCtxKeyInstall sess seq s
  | .powerEnvelopeSet sess seq => Sys2Proof.Machine.execPowerEnvelopeSet sess seq s
  | .debugOpen sess seq => Sys2Proof.Machine.execDebugOpen sess seq s
  | .regRead sess seq => Sys2Proof.Machine.execRegRead sess seq s
  | .regWrite sess seq => Sys2Proof.Machine.execRegWrite sess seq s
  | .debugSessionEnd => Sys2Proof.Machine.execDebugSessionEnd s
  | .aidarConnect port ringVa rkey log2 => Sys2Proof.Machine.execAidarConnect port ringVa rkey log2 s
  | .sessionEnd sess => Sys2Proof.Machine.execSessionEnd sess s
  | .slotPost sess slot image => Sys2Proof.Machine.execSlotPost sess slot image s
  | .requestTake sess slot => Sys2Proof.Machine.execRequestTake sess slot s
  | .commandComplete sess seq => Sys2Proof.Machine.execCommandComplete sess seq s
  | .ringConsumerWrite sess value => Sys2Proof.Machine.execRingConsumerWrite sess value s
  | .qpConnect qp partner => Sys2Proof.Machine.execQpConnect qp partner s
  | .rdmaWrite qp rkey va data => Sys2Proof.Machine.execRdmaWrite qp rkey va data s
  | .rdmaRead qp rkey va len => Sys2Proof.Machine.execRdmaRead qp rkey va len s
  | .qpRetryExhausted qp => Sys2Proof.Machine.execQpRetryExhausted qp s
  | .ethFrameRx port frame => Sys2Proof.Machine.execEthFrameRx port frame s
  | .pfcPauseRx port prio on => Sys2Proof.Machine.execPfcPauseRx port prio on s
  | .producerWrite chan value => Sys2Proof.Machine.execProducerWrite chan value s
  | .descriptorFetch chan => Sys2Proof.Machine.execDescriptorFetch chan s
  | .cplConsumerWrite chan value => Sys2Proof.Machine.execCplConsumerWrite chan value s
  | .matmul tile queue => Sys2Proof.Machine.execMatmul tile queue s
  | .ewMul tile queue => Sys2Proof.Machine.execEwMul tile queue s
  | .drainRow op => Sys2Proof.Machine.execDrainRow op s
  | .operationComplete op => Sys2Proof.Machine.execOperationComplete op s
  | .vconvert tile queue => Sys2Proof.Machine.execVconvert tile queue s
  | .vadd tile queue => Sys2Proof.Machine.execVadd tile queue s
  | .vsub tile queue => Sys2Proof.Machine.execVsub tile queue s
  | .vmul tile queue => Sys2Proof.Machine.execVmul tile queue s
  | .vfma tile queue => Sys2Proof.Machine.execVfma tile queue s
  | .vaxpby tile queue => Sys2Proof.Machine.execVaxpby tile queue s
  | .vmax tile queue => Sys2Proof.Machine.execVmax tile queue s
  | .vmin tile queue => Sys2Proof.Machine.execVmin tile queue s
  | .vdiv tile queue => Sys2Proof.Machine.execVdiv tile queue s
  | .vclamp tile queue => Sys2Proof.Machine.execVclamp tile queue s
  | .vscale tile queue => Sys2Proof.Machine.execVscale tile queue s
  | .vcmp tile queue => Sys2Proof.Machine.execVcmp tile queue s
  | .vexp tile queue => Sys2Proof.Machine.execVexp tile queue s
  | .vlog tile queue => Sys2Proof.Machine.execVlog tile queue s
  | .vrsqrt tile queue => Sys2Proof.Machine.execVrsqrt tile queue s
  | .vrecip tile queue => Sys2Proof.Machine.execVrecip tile queue s
  | .vsqrt tile queue => Sys2Proof.Machine.execVsqrt tile queue s
  | .vtanh tile queue => Sys2Proof.Machine.execVtanh tile queue s
  | .vsigmoid tile queue => Sys2Proof.Machine.execVsigmoid tile queue s
  | .vgelu tile queue => Sys2Proof.Machine.execVgelu tile queue s
  | .vsilu tile queue => Sys2Proof.Machine.execVsilu tile queue s
  | .normApply tile queue => Sys2Proof.Machine.execNormApply tile queue s
  | .softmaxApply tile queue => Sys2Proof.Machine.execSoftmaxApply tile queue s
  | .softmaxBwd tile queue => Sys2Proof.Machine.execSoftmaxBwd tile queue s
  | .normBwd tile queue => Sys2Proof.Machine.execNormBwd tile queue s
  | .topk tile queue => Sys2Proof.Machine.execTopk tile queue s
  | .topkMerge tile queue => Sys2Proof.Machine.execTopkMerge tile queue s
  | .rowStats tile queue => Sys2Proof.Machine.execRowStats tile queue s
  | .rowStatsMerge tile queue => Sys2Proof.Machine.execRowStatsMerge tile queue s
  | .rowDot tile queue => Sys2Proof.Machine.execRowDot tile queue s
  | .colSum tile queue => Sys2Proof.Machine.execColSum tile queue s
  | .amax tile queue => Sys2Proof.Machine.execAmax tile queue s
  | .compress tile queue => Sys2Proof.Machine.execCompress tile queue s
  | .expand tile queue => Sys2Proof.Machine.execExpand tile queue s
  | .routeBuild tile queue => Sys2Proof.Machine.execRouteBuild tile queue s
  | .mrGrant k => Sys2Proof.Machine.execMrGrant k s
  | .millraceSend op => Sys2Proof.Machine.execMillraceSend op s
  | .mrRow k => Sys2Proof.Machine.execMrRow k s
  | .mrAck k => Sys2Proof.Machine.execMrAck k s
  | .syncSignal k => Sys2Proof.Machine.execSyncSignal k s
  | .syncWait head => Sys2Proof.Machine.execSyncWait head s
  | .waitRetry head => Sys2Proof.Machine.execWaitRetry head s
  | .xlateReadDone k => Sys2Proof.Machine.execXlateReadDone k s
  | .ucSignal tile loc id => Sys2Proof.Machine.execUcSignal tile loc id s
  | .ucTake tile loc id => Sys2Proof.Machine.execUcTake tile loc id s
  | .ucFault tile pc mcause => Sys2Proof.Machine.execUcFault tile pc mcause s
  | .ucWfiWake tile => Sys2Proof.Machine.execUcWfiWake tile s
  | .queuePark tile queue => Sys2Proof.Machine.execQueuePark tile queue s
  | .tilePowerOff tile => Sys2Proof.Machine.execTilePowerOff tile s
  | .tileWake tile => Sys2Proof.Machine.execTileWake tile s
  | .wakeTokenRequest tile => Sys2Proof.Machine.execWakeTokenRequest tile s
  | .wakeTokenGrant pool => Sys2Proof.Machine.execWakeTokenGrant pool s
  | .tilePowerUp tile => Sys2Proof.Machine.execTilePowerUp tile s
  | .stepVerdict ch => Sys2Proof.Machine.execStepVerdict ch s
  | .verdictSet op => Sys2Proof.Machine.execVerdictSet op s
  | .privAgreement ch => Sys2Proof.Machine.execPrivAgreement ch s
  | .tableAgreement ch => Sys2Proof.Machine.execTableAgreement ch s
  | .stepClose op => Sys2Proof.Machine.execStepClose op s
  | .closeFlip ctx => Sys2Proof.Machine.execCloseFlip ctx s
  | .allGather ch => Sys2Proof.Machine.execAllGather ch s
  | .reduceScatter ch => Sys2Proof.Machine.execReduceScatter ch s
  | .allReduce ch => Sys2Proof.Machine.execAllReduce ch s
  | .permute ch => Sys2Proof.Machine.execPermute ch s
  | .broadcast ch => Sys2Proof.Machine.execBroadcast ch s
  | .barrier ch => Sys2Proof.Machine.execBarrier ch s
  | .flagOr ch => Sys2Proof.Machine.execFlagOr ch s
  | .scaleMax ch => Sys2Proof.Machine.execScaleMax ch s
  | .collSignature k => Sys2Proof.Machine.execCollSignature k s
  | .collData k => Sys2Proof.Machine.execCollData k s
  | .collHopAdd op slot => Sys2Proof.Machine.execCollHopAdd op slot s
  | .collCredit k => Sys2Proof.Machine.execCollCredit k s
  | .collDrained ch => Sys2Proof.Machine.execCollDrained ch s
  | .epochAdvance ch => Sys2Proof.Machine.execEpochAdvance ch s
  | .collAborted k => Sys2Proof.Machine.execCollAborted k s
  | .collectiveComplete op => Sys2Proof.Machine.execCollectiveComplete op s
  | .copy ch => Sys2Proof.Machine.execCopy ch s
  | .transpose ch => Sys2Proof.Machine.execTranspose ch s
  | .retile ch => Sys2Proof.Machine.execRetile ch s
  | .lower ch => Sys2Proof.Machine.execLower ch s
  | .rillGather ch => Sys2Proof.Machine.execRillGather ch s
  | .rillScatter ch => Sys2Proof.Machine.execRillScatter ch s
  | .rillQueueFree stack => Sys2Proof.Machine.execRillQueueFree stack s
  | .copyWr k => Sys2Proof.Machine.execCopyWr k s
  | .copyWrAck k => Sys2Proof.Machine.execCopyWrAck k s
  | .copyRdReq k => Sys2Proof.Machine.execCopyRdReq k s
  | .copyRdRsp k => Sys2Proof.Machine.execCopyRdRsp k s
  | .lineRead line outcome => Sys2Proof.Machine.execLineRead line outcome s
  | .scrub dev outcome => Sys2Proof.Machine.execScrub dev outcome s
  | .lcInterval => Sys2Proof.Machine.execLcInterval s
  | .lineSpare dev line => Sys2Proof.Machine.execLineSpare dev line s
  | .autoLineSpare dev act => Sys2Proof.Machine.execAutoLineSpare dev act s
  | .devTempRead dev temp => Sys2Proof.Machine.execDevTempRead dev temp s
  | .remapChange src tile => Sys2Proof.Machine.execRemapChange src tile s
  | .remapFlip => Sys2Proof.Machine.execRemapFlip s
  | .sparePrepare src tile passes repairs => Sys2Proof.Machine.execSparePrepare src tile passes repairs s
  | .warmMove src tile => Sys2Proof.Machine.execWarmMove src tile s
  | .coldMove src tile => Sys2Proof.Machine.execColdMove src tile s
  | .bistDone die signature repairable repairs us => Sys2Proof.Machine.execBistDone die signature repairable repairs us s
  | .frameRx port slots trailer => Sys2Proof.Machine.execFrameRx port slots trailer s
  | .linkSilence port => Sys2Proof.Machine.execLinkSilence port s
  | .laneSpare port lane => Sys2Proof.Machine.execLaneSpare port lane s
  | .laneFailNoSpare port lane best => Sys2Proof.Machine.execLaneFailNoSpare port lane best s
  | .lightDetect port => Sys2Proof.Machine.execLightDetect port s
  | .trainingAttemptEnd port loop lanes => Sys2Proof.Machine.execTrainingAttemptEnd port loop lanes s
  | .trainingRetry port => Sys2Proof.Machine.execTrainingRetry port s
  | .ident port => Sys2Proof.Machine.execIdent port s
  | .identRefresh port => Sys2Proof.Machine.execIdentRefresh port s
  | .retrainRealigned port => Sys2Proof.Machine.execRetrainRealigned port s
  | .retrainTimeout port => Sys2Proof.Machine.execRetrainTimeout port s
  | .linkFenced port => Sys2Proof.Machine.execLinkFenced port s
  | .partnerTakeover port => Sys2Proof.Machine.execPartnerTakeover port s
  | .linkCtrl port => Sys2Proof.Machine.execLinkCtrl port s
  | .failback port => Sys2Proof.Machine.execFailback port s
  | .packetRoute port vc => Sys2Proof.Machine.execPacketRoute port vc s
  | .multicast port vc => Sys2Proof.Machine.execMulticast port vc s
  | .passage port vc => Sys2Proof.Machine.execPassage port vc s
  | .packetOpen k => Sys2Proof.Machine.execPacketOpen k s
  | .flowGaugeWindow window => Sys2Proof.Machine.execFlowGaugeWindow window s
  | .neighbourLost dir => Sys2Proof.Machine.execNeighbourLost dir s
  | .tileFenced die => Sys2Proof.Machine.execTileFenced die s
  | .modResetAssert mainLost => Sys2Proof.Machine.execModResetAssert mainLost s
  | .coldRestart how => Sys2Proof.Machine.execColdRestart how s
  | .bootStepEnd facts => Sys2Proof.Machine.execBootStepEnd facts s
  | .safeEntry => Sys2Proof.Machine.execSafeEntry s
  | .safeExit => Sys2Proof.Machine.execSafeExit s
  | .standbyLow => Sys2Proof.Machine.execStandbyLow s
  | .watchdogExpiry mgr => Sys2Proof.Machine.execWatchdogExpiry mgr s
  | .mgrRestarted die => Sys2Proof.Machine.execMgrRestarted die s
  | .pkgManagerRestart => Sys2Proof.Machine.execPkgManagerRestart s
  | .activationWave cls => Sys2Proof.Machine.execActivationWave cls s
  | .activationResume cls => Sys2Proof.Machine.execActivationResume cls s
  | .fwActivationExpired cls => Sys2Proof.Machine.execFwActivationExpired cls s
  | .fwRolledBack die => Sys2Proof.Machine.execFwRolledBack die s
  | .budgetReport die use demand => Sys2Proof.Machine.execBudgetReport die use demand s
  | .allocation die alloc shares => Sys2Proof.Machine.execAllocation die alloc shares s
  | .staleAlloc die => Sys2Proof.Machine.execStaleAlloc die s
  | .weirUpdate die reading => Sys2Proof.Machine.execWeirUpdate die reading s
  | .weirClear => Sys2Proof.Machine.execWeirClear s
  | .thermTrip die tj => Sys2Proof.Machine.execThermTrip die tj s
  | .tripRecover die tj => Sys2Proof.Machine.execTripRecover die tj s
  | .tripShutdown die tj => Sys2Proof.Machine.execTripShutdown die tj s
  | .inputRange volts held => Sys2Proof.Machine.execInputRange volts held s
  | .laserFailed bay => Sys2Proof.Machine.execLaserFailed bay s
  | .laserSwapped bay => Sys2Proof.Machine.execLaserSwapped bay s
  | .ppsEdge => Sys2Proof.Machine.execPpsEdge s
  | .ppsOut => Sys2Proof.Machine.execPpsOut s
  | .ptpEventMessage port sent oneStep correction theta => Sys2Proof.Machine.execPtpEventMessage port sent oneStep correction theta s
  | .tideExchange => Sys2Proof.Machine.execTideExchange s
  | .tide port => Sys2Proof.Machine.execTide port s
  | .timeHoldover => Sys2Proof.Machine.execTimeHoldover s
  | .sealGeneration => Sys2Proof.Machine.execSealGeneration s
  | .gaugeSample sample => Sys2Proof.Machine.execGaugeSample sample s
  | .gaugePeriod => Sys2Proof.Machine.execGaugePeriod s
  | .liveExport => Sys2Proof.Machine.execLiveExport s
  | .datagramSend => Sys2Proof.Machine.execDatagramSend s
  | .snapshotInstant => Sys2Proof.Machine.execSnapshotInstant s
  | .snapshotExport bank count => Sys2Proof.Machine.execSnapshotExport bank count s
  | .healthDecay => Sys2Proof.Machine.execHealthDecay s
  | .healthPersist => Sys2Proof.Machine.execHealthPersist s
  | .eyeScan port v h => Sys2Proof.Machine.execEyeScan port v h s
  | .serWindow port errors => Sys2Proof.Machine.execSerWindow port errors s
  | .opticalRead reading => Sys2Proof.Machine.execOpticalRead reading s
  | .slackReport die domain slack => Sys2Proof.Machine.execSlackReport die domain slack s
  | .limitInterval measure fraction held => Sys2Proof.Machine.execLimitInterval measure fraction held s
  | .w1cClear agent addr value sets => Sys2Proof.Machine.execW1cClear agent addr value sets s
  | .registerWrite agent addr value => Sys2Proof.Machine.execRegisterWrite agent addr value s
  | .i3cPrivateWrite addr bytes => Sys2Proof.Machine.execI3cPrivateWrite addr bytes s
  | .i3cPrivateRead addr count => Sys2Proof.Machine.execI3cPrivateRead addr count s
  | .entdaa addr => Sys2Proof.Machine.execEntdaa addr s
  | .setdasa static addr => Sys2Proof.Machine.execSetdasa static addr s
  | .rstdaa => Sys2Proof.Machine.execRstdaa s
  | .enec addr events => Sys2Proof.Machine.execEnec addr events s
  | .disec addr events => Sys2Proof.Machine.execDisec addr events s
  | .getpid addr => Sys2Proof.Machine.execGetpid addr s
  | .getbcr addr => Sys2Proof.Machine.execGetbcr addr s
  | .getdcr addr => Sys2Proof.Machine.execGetdcr addr s
  | .getstatus addr => Sys2Proof.Machine.execGetstatus addr s
  | .bbReadingUpdate mainV mainI stbyV inputW coolIn coolOut => Sys2Proof.Machine.execBbReadingUpdate mainV mainI stbyV inputW coolIn coolOut s
  | .bypass tdi => Sys2Proof.Machine.execBypass tdi s
  | .idcode => Sys2Proof.Machine.execIdcode s
  | .standbyInputPresent => Sys2Proof.Machine.execStandbyInputPresent s
  | .mainInputReturn => Sys2Proof.Machine.execMainInputReturn s
  | .ref10mInValid valid => Sys2Proof.Machine.execRef10mInValid valid s
  | .unrecoverableTrap mgr => Sys2Proof.Machine.execUnrecoverableTrap mgr s
  | .routerFailure die => Sys2Proof.Machine.execRouterFailure die s
  | .sendOrAtomicRequest qp => Sys2Proof.Machine.execSendOrAtomicRequest qp s

end Sys2Proof.Machine
end

