-- ==== Sys2Proof/Machine/RvFloat.lean ====
section
/-! DEFINITION. The F and D arithmetic of the utility core, as the RISC-V specification that 06 R192 names defines it
(PRESUMED, log 91): every result is formed exactly and rounded once. -/

namespace Sys2Proof.Machine

/-- A binary floating format of the utility core. -/
structure RvFmt where
  /-- Exponent bits. -/
  eb : Nat
  /-- Fraction bits. -/
  fb : Nat
  deriving DecidableEq, Repr

/-- Single precision. -/
def rvS : RvFmt := ⟨8, 23⟩
/-- Double precision. -/
def rvD : RvFmt := ⟨11, 52⟩

/-- A result and the flags it raises: 1 `NX`, 2 `UF`, 4 `OF`, 8 `DZ`, 16 `NV`. -/
structure RvR where
  /-- The code, or the value of an integer result. -/
  code : Nat
  /-- Flags of `fflags`. -/
  fl : Nat := 0
  deriving DecidableEq, Repr

/-- Bits of a code. -/
def RvFmt.width (f : RvFmt) : Nat := 1 + f.eb + f.fb
/-- Exponent bias. -/
def RvFmt.bias (f : RvFmt) : Nat := 2 ^ (f.eb - 1) - 1
/-- The code of an infinity. -/
def RvFmt.infCode (f : RvFmt) (neg : Bool) : Nat := b2n neg <<< (f.eb + f.fb) ||| (2 ^ f.eb - 1) <<< f.fb
/-- The canonical NaN. -/
def RvFmt.nanCode (f : RvFmt) : Nat := (2 ^ (f.eb + 1) - 1) <<< (f.fb - 1)
/-- The sign of a code. -/
def RvFmt.signOf (f : RvFmt) (c : Nat) : Bool := c.testBit (f.eb + f.fb)
/-- A code with its sign reversed. -/
def RvFmt.flip (f : RvFmt) (c : Nat) : Nat := c ^^^ 1 <<< (f.eb + f.fb)

/-- The exact value of a code. -/
def RvFmt.val (f : RvFmt) (c : Nat) : Val :=
  let e := (c >>> f.fb) % 2 ^ f.eb
  let m := c % 2 ^ f.fb
  let neg := f.signOf c
  if e = 2 ^ f.eb - 1 then (if m = 0 then .inf neg else .nan)
  else
    let q : Rat := ((if e = 0 then m else 2 ^ f.fb + m : Nat) : Rat) * pow2 ((max e 1 : Nat) - (f.bias : Int) - (f.fb : Int))
    .fin (if neg then -q else q) neg

/-- A signalling NaN. -/
def RvFmt.snan (f : RvFmt) (c : Nat) : Bool := f.val c == .nan && !c.testBit (f.fb - 1)

/-- Round a non-negative number to an integer: 0 nearest even, 1 toward zero, 2 down, 3 up, 4 nearest with ties away. -/
def rvRoundQ (rm : Nat) (neg : Bool) (x : Rat) : Nat :=
  match rm with
  | 0 => roundQ .rne neg x
  | 1 => roundQ .rtz neg x
  | 2 => roundQ .rdn neg x
  | 3 => roundQ .rup neg x
  | _ => (x + mkRat 1 2).floor.toNat

/-- Round a finite value to a format; `zneg` is the sign of a zero.  Tininess is detected after rounding. -/
def RvFmt.round (f : RvFmt) (rm : Nat) (q : Rat) (zneg : Bool) : RvR :=
  if q = 0 then ⟨b2n zneg <<< (f.eb + f.fb), 0⟩
  else
    let neg := decide (q < 0)
    let a := absQ q
    let emin : Int := 1 - (f.bias : Int)
    let e := log2Floor a
    let u := pow2 (max e emin - f.fb)
    let m := rvRoundQ rm neg (a / u)
    let r := (m : Rat) * u
    let free := pow2 (e - f.fb)
    let tiny := decide ((rvRoundQ rm neg (a / free) : Rat) * free < pow2 emin)
    let sign := b2n neg <<< (f.eb + f.fb)
    if pow2 (f.bias + 1) ≤ r then
      let up := rm = 0 ∨ rm = 4 ∨ (rm = 2 ∧ neg) ∨ (rm = 3 ∧ !neg)
      ⟨if up then f.infCode neg else f.infCode neg - 1, 5⟩
    else ⟨sign ||| ((max e emin + f.bias) * 2 ^ f.fb + m - 2 ^ f.fb : Int).toNat, if r = a then 0 else if tiny then 3 else 1⟩

/-- The code of a value under a format, rounded once. -/
def RvFmt.enc (f : RvFmt) (rm : Nat) : Val → RvR
  | .nan => ⟨f.nanCode, 0⟩
  | .inf n => ⟨f.infCode n, 0⟩
  | .fin q nz => f.round rm q (nz || decide (q < 0))

/-- An invalid operation: the canonical NaN. -/
def RvFmt.invalid (f : RvFmt) : RvR := ⟨f.nanCode, 16⟩

/-- A NaN among the operands of these codes. -/
def RvFmt.nanOf (f : RvFmt) (cs : List Nat) : RvR := ⟨f.nanCode, if cs.any f.snan then 16 else 0⟩

/-- An infinite product of sign `sp` plus `c`. -/
def RvFmt.infSum (f : RvFmt) (sp : Bool) (vc : Val) (cs : List Nat) : RvR :=
  match vc with
  | .nan => f.nanOf cs
  | .inf n => if n = sp then ⟨f.infCode sp, 0⟩ else f.invalid
  | .fin _ _ => ⟨f.infCode sp, 0⟩

/-- a × b + c, rounded once: the base of every sum and product. -/
def RvFmt.fma (f : RvFmt) (rm a b c : Nat) : RvR :=
  let sp := f.signOf a != f.signOf b
  match f.val a, f.val b, f.val c with
  | .inf _, .fin q _, vc => if q = 0 then f.invalid else f.infSum sp vc [a, b, c]
  | .fin q _, .inf _, vc => if q = 0 then f.invalid else f.infSum sp vc [a, b, c]
  | .inf _, .inf _, vc => f.infSum sp vc [a, b, c]
  | .fin _ _, .fin _ _, .inf n => ⟨f.infCode n, 0⟩
  | .fin x _, .fin y _, .fin z _ => f.round rm (x * y + z) (if sp = f.signOf c then sp else decide (rm = 2))
  | _, _, _ => f.nanOf [a, b, c]

/-- The code of 1. -/
def RvFmt.one (f : RvFmt) : Nat := f.bias <<< f.fb

/-- a + b. -/
def RvFmt.add (f : RvFmt) (rm a b : Nat) : RvR := f.fma rm a f.one b

/-- a × b. -/
def RvFmt.mul (f : RvFmt) (rm a b : Nat) : RvR := f.fma rm a b (b2n (f.signOf a != f.signOf b) <<< (f.eb + f.fb))

/-- a / b. -/
def RvFmt.div (f : RvFmt) (rm a b : Nat) : RvR :=
  let sp := f.signOf a != f.signOf b
  match f.val a, f.val b with
  | .inf _, .inf _ => f.invalid
  | .inf _, .fin _ _ => ⟨f.infCode sp, 0⟩
  | .fin _ _, .inf _ => f.round rm 0 sp
  | .fin x _, .fin y _ => if y = 0 then (if x = 0 then f.invalid else ⟨f.infCode sp, 8⟩) else f.round rm (x / y) sp
  | _, _ => f.nanOf [a, b]

/-- √a: enough bits of the root, and a half of the last one where it is not exact, which rounds as the root does. -/
def RvFmt.sqrt (f : RvFmt) (rm a : Nat) : RvR :=
  match f.val a with
  | .nan => f.nanOf [a]
  | .inf n => if n then f.invalid else ⟨f.infCode false, 0⟩
  | .fin q nz =>
    if q = 0 then f.round rm 0 nz
    else if q < 0 then f.invalid
    else
      let t : Int := f.fb + 3 - log2Floor q / 2
      let n := q * pow2 (2 * t)
      let r := n.floor.toNat.sqrt
      f.round rm ((if (r * r : Rat) = n then (r : Rat) else r + mkRat 1 2) * pow2 (-t)) false

/-- The smaller or the larger of two numbers; −0 is below +0, and a NaN gives way to a number. -/
def RvFmt.minMax (f : RvFmt) (big : Bool) (a b : Nat) : RvR :=
  let fl := if f.snan a || f.snan b then 16 else 0
  match f.val a, f.val b with
  | .nan, .nan => ⟨f.nanCode, fl⟩
  | .nan, _ => ⟨b, fl⟩
  | _, .nan => ⟨a, fl⟩
  | va, vb =>
    ⟨if ltV va vb != big then a else b, fl⟩

/-- A comparison: 0 `FLE`, 1 `FLT`, 2 `FEQ`. -/
def RvFmt.cmp (f : RvFmt) (op a b : Nat) : RvR :=
  let va := f.val a
  let vb := f.val b
  if va = .nan ∨ vb = .nan then ⟨0, if op = 2 then (f.nanOf [a, b]).fl else 16⟩
  else ⟨b2n (if op = 2 then eqV va vb else (ltV va vb && !eqV va vb) || (op == 0 && eqV va vb)), 0⟩

/-- `FCLASS`. -/
def RvFmt.classOf (f : RvFmt) (a : Nat) : Nat :=
  let n := f.signOf a
  match f.val a with
  | .nan => if f.snan a then 0x100 else 0x200
  | .inf _ => if n then 0x01 else 0x80
  | .fin q _ =>
    if q = 0 then (if n then 0x08 else 0x10)
    else if absQ q < pow2 (1 - (f.bias : Int)) then (if n then 0x04 else 0x20)
    else if n then 0x02 else 0x40

/-- To an integer of `w` bits: what does not fit saturates and is invalid. -/
def RvFmt.toInt (f : RvFmt) (rm w : Nat) (signed : Bool) (a : Nat) : RvR :=
  let lo : Int := if signed then -(2 ^ (w - 1)) else 0
  let hi : Int := if signed then 2 ^ (w - 1) - 1 else 2 ^ w - 1
  let out := fun (i : Int) => unsignedN w i
  match f.val a with
  | .nan => ⟨out hi, 16⟩
  | .inf n => ⟨out (if n then lo else hi), 16⟩
  | .fin q _ =>
    let m : Int := rvRoundQ rm (decide (q < 0)) (absQ q)
    let i := if q < 0 then -m else m
    if i < lo then ⟨out lo, 16⟩ else if hi < i then ⟨out hi, 16⟩ else ⟨out i, if (i : Rat) = q then 0 else 1⟩

/-- From one format to another. -/
def RvFmt.conv (src dst : RvFmt) (rm a : Nat) : RvR :=
  if src.val a = .nan then ⟨dst.nanCode, (src.nanOf [a]).fl⟩ else dst.enc rm (src.val a)

end Sys2Proof.Machine
end

