-- ==== Sys2Proof/Machine/Rv64.lean ====
section
/-! DEFINITION. The instructions of the utility core that touch only its own registers: RV64IMAFDC with Zicsr and Zifencei, as
the RISC-V specification that 06 R192 names defines them (PRESUMED, log 91). -/

namespace Sys2Proof.Machine

/-! ### Registers -/

/-- Integer register `i`; `x0` reads 0. -/
def UtilCore.getX (u : UtilCore) (i : Nat) : W64 := smGet 0 u.x i

/-- Write an integer register; `x0` discards. -/
def UtilCore.setX (u : UtilCore) (i : Nat) (v : W64) : UtilCore := if i = 0 then u else { u with x := smPutD 0 u.x i v }

/-- The code in a floating register under a format: a single that is not NaN-boxed reads as the canonical NaN. -/
def UtilCore.getF (u : UtilCore) (f : RvFmt) (i : Nat) : Nat :=
  let v := (smGet 0 u.f i).toNat
  if f = rvD then v else if v / 2 ^ 32 = 0xFFFFFFFF then v % 2 ^ 32 else rvS.nanCode

/-- Write a floating register, NaN-boxing a single; the floating state becomes dirty. -/
def UtilCore.setF (u : UtilCore) (f : RvFmt) (i c : Nat) : UtilCore :=
  let v := if f = rvD then c else 0xFFFFFFFF00000000 + c
  { u with f := smPutD 0 u.f i (BitVec.ofNat 64 v), mstatus := u.mstatus ||| 0x6000 }

/-- Raise floating flags. -/
def UtilCore.raise (u : UtilCore) (fl : Nat) : UtilCore :=
  if fl = 0 then u else { u with fcsr := u.fcsr ||| BitVec.ofNat 8 (fl % 32), mstatus := u.mstatus ||| 0x6000 }

/-- The floating unit is on. -/
def UtilCore.fpOn (u : UtilCore) : Bool := fieldN u.mstatus 14 13 != 0

/-! ### Fields of an instruction word -/

/-- Destination register. -/
def rvRd (w : W32) : Nat := fieldN w 11 7
/-- `funct3`, or the rounding mode. -/
def rvF3 (w : W32) : Nat := fieldN w 14 12
/-- First source. -/
def rvRs1 (w : W32) : Nat := fieldN w 19 15
/-- Second source. -/
def rvRs2 (w : W32) : Nat := fieldN w 24 20
/-- `funct7`. -/
def rvF7 (w : W32) : Nat := fieldN w 31 25
/-- A number of `n` bits, sign-extended. -/
def rvSx (n v : Nat) : W64 := BitVec.ofInt 64 (signedN n v)
/-- I immediate. -/
def rvImmI (w : W32) : W64 := rvSx 12 (fieldN w 31 20)
/-- S immediate. -/
def rvImmS (w : W32) : W64 := rvSx 12 (fieldN w 31 25 * 32 + fieldN w 11 7)
/-- B immediate. -/
def rvImmB (w : W32) : W64 :=
  rvSx 13 (fieldN w 31 31 * 4096 + fieldN w 7 7 * 2048 + fieldN w 30 25 * 32 + fieldN w 11 8 * 2)
/-- U immediate. -/
def rvImmU (w : W32) : W64 := rvSx 32 (fieldN w 31 12 * 4096)
/-- J immediate. -/
def rvImmJ (w : W32) : W64 :=
  rvSx 21 (fieldN w 31 31 * 2 ^ 20 + fieldN w 19 12 * 4096 + fieldN w 20 20 * 2048 + fieldN w 30 21 * 2)

/-- A low word, sign-extended to 64 bits. -/
def rvW (v : W64) : W64 := (v.setWidth 32).signExtend 64

/-! ### Compressed instructions -/

/-- An I-type word. -/
def rvI (op f3 rd rs1 imm : Nat) : W32 := pack 32 [(6, 0, op), (11, 7, rd), (14, 12, f3), (19, 15, rs1), (31, 20, imm)]
/-- An S-type word. -/
def rvS2 (op f3 rs1 rs2 imm : Nat) : W32 :=
  pack 32 [(6, 0, op), (11, 7, imm), (14, 12, f3), (19, 15, rs1), (24, 20, rs2), (31, 25, imm / 32)]
/-- An R-type word. -/
def rvR (op f3 f7 rd rs1 rs2 : Nat) : W32 :=
  pack 32 [(6, 0, op), (11, 7, rd), (14, 12, f3), (19, 15, rs1), (24, 20, rs2), (31, 25, f7)]
/-- A branch that compares with `x0`. -/
def rvB (f3 rs1 imm : Nat) : W32 :=
  pack 32 [(6, 0, 0x63), (7, 7, imm / 2 ^ 11), (11, 8, imm / 2), (14, 12, f3), (19, 15, rs1), (30, 25, imm / 32), (31, 31, imm / 2 ^ 12)]
/-- A jump. -/
def rvJ (rd imm : Nat) : W32 :=
  pack 32 [(6, 0, 0x6F), (11, 7, rd), (19, 12, imm / 2 ^ 12), (20, 20, imm / 2 ^ 11), (30, 21, imm / 2), (31, 31, imm / 2 ^ 20)]

/-- The number whose bits are fields of a parcel: (hi, lo, place of the lowest bit). -/
def rvBits (c : BitVec 16) (fs : List (Nat × Nat × Nat)) : Nat := (fs.map (fun f => fieldN c f.1 f.2.1 <<< f.2.2)).sum

/-- The sign bit 12 of a parcel spread from place `k` up. -/
def rvNeg (c : BitVec 16) (k : Nat) : Nat := if bitN c 12 then 2 ^ 21 - 2 ^ k else 0

/-- The word that a compressed instruction of quadrant 0 stands for. -/
def rvQ0 (c : BitVec 16) : Option W32 :=
  let rd := 8 + fieldN c 4 2
  let rs := 8 + fieldN c 9 7
  let immW := rvBits c [(12, 10, 3), (6, 6, 2), (5, 5, 6)]
  let immD := rvBits c [(12, 10, 3), (6, 5, 6)]
  match fieldN c 15 13 with
  | 0 =>
    let imm := rvBits c [(12, 11, 4), (10, 7, 6), (6, 6, 2), (5, 5, 3)]
    if imm = 0 then none else some (rvI 0x13 0 rd 2 imm)
  | 1 => some (rvI 0x07 3 rd rs immD)
  | 2 => some (rvI 0x03 2 rd rs immW)
  | 3 => some (rvI 0x03 3 rd rs immD)
  | 5 => some (rvS2 0x27 3 rs rd immD)
  | 6 => some (rvS2 0x23 2 rs rd immW)
  | 7 => some (rvS2 0x23 3 rs rd immD)
  | _ => none

/-- Quadrant 1. -/
def rvQ1 (c : BitVec 16) : Option W32 :=
  let rd := fieldN c 11 7
  let rs := 8 + fieldN c 9 7
  let r2 := 8 + fieldN c 4 2
  let sh := rvBits c [(12, 12, 5), (6, 2, 0)]
  let imm := fieldN c 6 2 + rvNeg c 5
  let branch := rvBits c [(11, 10, 3), (6, 5, 6), (4, 3, 1), (2, 2, 5)] + rvNeg c 8
  match fieldN c 15 13 with
  | 0 => some (rvI 0x13 0 rd rd imm)
  | 1 => if rd = 0 then none else some (rvI 0x1B 0 rd rd imm)
  | 2 => some (rvI 0x13 0 rd 0 imm)
  | 3 =>
    if sh = 0 then none
    else if rd = 2 then some (rvI 0x13 0 2 2 (rvBits c [(6, 6, 4), (5, 5, 6), (4, 3, 7), (2, 2, 5)] + rvNeg c 9))
    else some (pack 32 [(6, 0, 0x37), (11, 7, rd), (31, 12, imm)])
  | 4 => (match fieldN c 11 10, fieldN c 12 12, fieldN c 6 5 with
    | 0, _, _ => some (rvI 0x13 5 rs rs sh)
    | 1, _, _ => some (rvI 0x13 5 rs rs (0x400 + sh))
    | 2, _, _ => some (rvI 0x13 7 rs rs imm)
    | 3, 0, 0 => some (rvR 0x33 0 0x20 rs rs r2)
    | 3, 0, 1 => some (rvR 0x33 4 0 rs rs r2)
    | 3, 0, 2 => some (rvR 0x33 6 0 rs rs r2)
    | 3, 0, 3 => some (rvR 0x33 7 0 rs rs r2)
    | 3, 1, 0 => some (rvR 0x3B 0 0x20 rs rs r2)
    | 3, 1, 1 => some (rvR 0x3B 0 0 rs rs r2)
    | _, _, _ => none)
  | 5 => some (rvJ 0 (rvBits c [(11, 11, 4), (10, 9, 8), (8, 8, 10), (7, 7, 6), (6, 6, 7), (5, 3, 1), (2, 2, 5)] + rvNeg c 11))
  | 6 => some (rvB 0 rs branch)
  | _ => some (rvB 1 rs branch)

/-- Quadrant 2. -/
def rvQ2 (c : BitVec 16) : Option W32 :=
  let rd := fieldN c 11 7
  let r2 := fieldN c 6 2
  let ldD := rvBits c [(12, 12, 5), (6, 5, 3), (4, 2, 6)]
  let stD := rvBits c [(12, 10, 3), (9, 7, 6)]
  match fieldN c 15 13 with
  | 0 => some (rvI 0x13 1 rd rd (rvBits c [(12, 12, 5), (6, 2, 0)]))
  | 1 => some (rvI 0x07 3 rd 2 ldD)
  | 2 => if rd = 0 then none else some (rvI 0x03 2 rd 2 (rvBits c [(12, 12, 5), (6, 4, 2), (3, 2, 6)]))
  | 3 => if rd = 0 then none else some (rvI 0x03 3 rd 2 ldD)
  | 4 =>
    if r2 = 0 then
      (if rd = 0 then (if bitN c 12 then some 0x00100073 else none) else some (rvI 0x67 0 (b2n (bitN c 12)) rd 0))
    else some (rvR 0x33 0 0 rd (if bitN c 12 then rd else 0) r2)
  | 5 => some (rvS2 0x27 3 2 r2 stD)
  | 6 => some (rvS2 0x23 2 2 r2 (rvBits c [(12, 9, 2), (8, 7, 6)]))
  | _ => some (rvS2 0x23 3 2 r2 stD)

/-- The word that a compressed instruction stands for; none where it is reserved or illegal. -/
def rvExpand (c : BitVec 16) : Option W32 :=
  match fieldN c 1 0 with
  | 0 => rvQ0 c
  | 1 => rvQ1 c
  | 2 => rvQ2 c
  | _ => none

/-! ### Integer arithmetic -/

/-- Signed quotient: all ones for a divisor of 0. -/
def rvDiv {w : Nat} (a b : BitVec w) : BitVec w := if b = 0 then BitVec.allOnes w else a.sdiv b
/-- Signed remainder: the dividend for a divisor of 0. -/
def rvRem {w : Nat} (a b : BitVec w) : BitVec w := if b = 0 then a else a.srem b
/-- Unsigned quotient. -/
def rvDivu {w : Nat} (a b : BitVec w) : BitVec w := if b = 0 then BitVec.allOnes w else a / b
/-- Unsigned remainder. -/
def rvRemu {w : Nat} (a b : BitVec w) : BitVec w := if b = 0 then a else a % b

/-- The upper half of a product. -/
def rvMulh (a b : Int) : W64 := BitVec.ofInt 64 (a * b / 2 ^ 64)

/-- `OP` with `funct3` and `funct7`. -/
def rvOp (f3 f7 : Nat) (a b : W64) : Option W64 :=
  let sh := b.toNat % 64
  match f7, f3 with
  | 0x00, 0 => some (a + b) | 0x20, 0 => some (a - b)
  | 0x00, 1 => some (a <<< sh)
  | 0x00, 2 => some (if a.slt b then 1 else 0)
  | 0x00, 3 => some (if a.ult b then 1 else 0)
  | 0x00, 4 => some (a ^^^ b)
  | 0x00, 5 => some (a >>> sh) | 0x20, 5 => some (a.sshiftRight sh)
  | 0x00, 6 => some (a ||| b)
  | 0x00, 7 => some (a &&& b)
  | 0x01, 0 => some (a * b)
  | 0x01, 1 => some (rvMulh a.toInt b.toInt)
  | 0x01, 2 => some (rvMulh a.toInt b.toNat)
  | 0x01, 3 => some (rvMulh a.toNat b.toNat)
  | 0x01, 4 => some (rvDiv a b) | 0x01, 5 => some (rvDivu a b)
  | 0x01, 6 => some (rvRem a b) | 0x01, 7 => some (rvRemu a b)
  | _, _ => none

/-- `OP-32`: on the low words, the result sign-extended. -/
def rvOpW (f3 f7 : Nat) (a b : W64) : Option W64 :=
  let x := a.setWidth 32
  let y := b.setWidth 32
  let sh := y.toNat % 32
  (match f7, f3 with
    | 0x00, 0 => some (x + y) | 0x20, 0 => some (x - y)
    | 0x00, 1 => some (x <<< sh)
    | 0x00, 5 => some (x >>> sh) | 0x20, 5 => some (x.sshiftRight sh)
    | 0x01, 0 => some (x * y)
    | 0x01, 4 => some (rvDiv x y) | 0x01, 5 => some (rvDivu x y)
    | 0x01, 6 => some (rvRem x y) | 0x01, 7 => some (rvRemu x y)
    | _, _ => none).map (fun (r : W32) => r.signExtend 64)

/-- `OP-IMM`: shifts take six bits of shift amount. -/
def rvOpImm (w : W32) (a : W64) : Option W64 :=
  let f6 := fieldN w 31 26
  match rvF3 w with
  | 1 => if f6 = 0 then rvOp 1 0 a (rvImmI w) else none
  | 5 => if f6 = 0 ∨ f6 = 0x10 then rvOp 5 (2 * f6) a (BitVec.ofNat 64 (fieldN w 25 20)) else none
  | f3 => rvOp f3 0 a (rvImmI w)

/-- `OP-IMM-32`. -/
def rvOpImmW (w : W32) (a : W64) : Option W64 :=
  match rvF3 w with
  | 0 => rvOpW 0 0 a (rvImmI w)
  | 1 => if rvF7 w = 0 then rvOpW 1 0 a (BitVec.ofNat 64 (rvRs2 w)) else none
  | 5 => if rvF7 w = 0 ∨ rvF7 w = 0x20 then rvOpW 5 (rvF7 w) a (BitVec.ofNat 64 (rvRs2 w)) else none
  | _ => none

/-- The condition of a branch. -/
def rvBranch (f3 : Nat) (a b : W64) : Option Bool :=
  match f3 with
  | 0 => some (a == b) | 1 => some (a != b)
  | 4 => some (a.slt b) | 5 => some (!a.slt b)
  | 6 => some (a.ult b) | 7 => some (!a.ult b)
  | _ => none

/-- What an atomic operation stores: `old` is what memory holds, `v` the source. -/
def rvAmo (f5 : Nat) (old v : W64) : Option W64 :=
  match f5 with
  | 0x01 => some v
  | 0x00 => some (old + v)
  | 0x04 => some (old ^^^ v)
  | 0x0C => some (old &&& v)
  | 0x08 => some (old ||| v)
  | 0x10 => some (if old.slt v then old else v)
  | 0x14 => some (if old.slt v then v else old)
  | 0x18 => some (if old.ult v then old else v)
  | 0x1C => some (if old.ult v then v else old)
  | _ => none

/-! ### Floating arithmetic -/

/-- The format of bits 26:25 of a word. -/
def rvFmtOf (w : W32) : Option RvFmt :=
  match fieldN w 26 25 with
  | 0 => some rvS
  | 1 => some rvD
  | _ => none

/-- The rounding mode of a word: 7 takes that of `fcsr`. -/
def UtilCore.roundMode (u : UtilCore) (w : W32) : Option Nat :=
  let m := if rvF3 w = 7 then fieldN u.fcsr 7 5 else rvF3 w
  if m < 5 then some m else none

/-- Write a floating result with its flags. -/
def UtilCore.putF (u : UtilCore) (f : RvFmt) (i : Nat) (r : RvR) : UtilCore := (u.setF f i r.code).raise r.fl

/-- Write an integer result with its flags. -/
def UtilCore.putX (u : UtilCore) (i : Nat) (v : W64) (fl : Nat) : UtilCore := (u.setX i v).raise fl

/-- `FMADD`, `FMSUB`, `FNMSUB` and `FNMADD`, numbered 0 to 3. -/
def UtilCore.fused (u : UtilCore) (w : W32) (k : Nat) : Option UtilCore :=
  match rvFmtOf w, u.roundMode w with
  | some f, some rm =>
    let a := u.getF f (rvRs1 w)
    let c := u.getF f (fieldN w 31 27)
    some (u.putF f (rvRd w) (f.fma rm (if k < 2 then a else f.flip a) (u.getF f (rvRs2 w)) (if k = 0 ∨ k = 2 then c else f.flip c)))
  | _, _ => none

/-- Width and sign of the integer that a conversion names. -/
def rvIntOf (i : Nat) : Nat × Bool := (if i < 2 then 32 else 64, i % 2 == 0)

/-- The integer that a conversion takes from a register. -/
def rvIntIn (i : Nat) (v : W64) : Int :=
  match i with
  | 0 => (v.setWidth 32).toInt
  | 1 => (v.setWidth 32).toNat
  | 2 => v.toInt
  | _ => v.toNat

/-- `OP-FP`. -/
def UtilCore.opFp (u : UtilCore) (w : W32) : Option UtilCore :=
  match rvFmtOf w with
  | none => none
  | some f =>
    let rd := rvRd w
    let f3 := rvF3 w
    let i2 := rvRs2 w
    let a := u.getF f (rvRs1 w)
    let b := u.getF f i2
    let x := u.getX (rvRs1 w)
    let rm := u.roundMode w
    let sign := f.eb + f.fb
    match fieldN w 31 27 with
    | 0x00 => rm.map (fun m => u.putF f rd (f.add m a b))
    | 0x01 => rm.map (fun m => u.putF f rd (f.add m a (f.flip b)))
    | 0x02 => rm.map (fun m => u.putF f rd (f.mul m a b))
    | 0x03 => rm.map (fun m => u.putF f rd (f.div m a b))
    | 0x0B => if i2 = 0 then rm.map (fun m => u.putF f rd (f.sqrt m a)) else none
    | 0x04 =>
      let sb := b2n (f.signOf b)
      let sa := b2n (f.signOf a)
      (match f3 with
        | 0 => some sb
        | 1 => some (1 - sb)
        | 2 => some ((sa + sb) % 2)
        | _ => none).map (fun s => u.setF f rd (a % 2 ^ sign + s <<< sign))
    | 0x05 => if f3 < 2 then some (u.putF f rd (f.minMax (f3 == 1) a b)) else none
    | 0x08 =>
      let src := if f = rvS then rvD else rvS
      if i2 = (if f = rvS then 1 else 0) then rm.map (fun m => u.putF f rd (src.conv f m (u.getF src (rvRs1 w)))) else none
    | 0x14 => if f3 < 3 then (let r := f.cmp f3 a b; some (u.putX rd (BitVec.ofNat 64 r.code) r.fl)) else none
    | 0x18 =>
      if i2 < 4 then
        rm.map (fun m => let r := f.toInt m (rvIntOf i2).1 (rvIntOf i2).2 a; u.putX rd (rvSx (rvIntOf i2).1 r.code) r.fl)
      else none
    | 0x1A => if i2 < 4 then rm.map (fun m => u.putF f rd (f.round m ((rvIntIn i2 x : Int) : Rat) false)) else none
    | 0x1C =>
      if i2 ≠ 0 then none
      else (match f3 with
        | 0 => some (u.setX rd (rvSx f.width (smGet 0 u.f (rvRs1 w)).toNat))
        | 1 => some (u.setX rd (BitVec.ofNat 64 (f.classOf a)))
        | _ => none)
    | 0x1E => if i2 = 0 ∧ f3 = 0 then some (u.setF f rd (x.toNat % 2 ^ f.width)) else none
    | _ => none

/-! ### Control and status registers -/

/-- `misa`: RV64 with A, C, D, F, I and M. -/
def rvMisa : W64 := 0x800000000000112D

/-- `mstatus` as it reads: `MPP` is machine mode, and `SD` says that the floating state is dirty. -/
def UtilCore.mstatusReg (u : UtilCore) : W64 :=
  u.mstatus ||| 0x1800 ||| (if fieldN u.mstatus 14 13 = 3 then 0x8000000000000000 else 0)

/-- Read a control and status register of the core of a logical tile; none where there is none.  `time` reads tide in whole
nanoseconds (06 R192). -/
def UtilCore.csr (u : UtilCore) (l now n : Nat) : Option W64 :=
  match n with
  | 0x001 => if u.fpOn then some (BitVec.ofNat 64 (fieldN u.fcsr 4 0)) else none
  | 0x002 => if u.fpOn then some (BitVec.ofNat 64 (fieldN u.fcsr 7 5)) else none
  | 0x003 => if u.fpOn then some (u.fcsr.setWidth 64) else none
  | 0xC00 | 0xB00 => some u.mcycle
  | 0xC01 => some (BitVec.ofNat 64 now)
  | 0xC02 | 0xB02 => some u.minstret
  | 0xF11 | 0xF12 | 0xF13 | 0xF15 => some 0
  | 0xF14 => some (BitVec.ofNat 64 l)
  | 0x300 => some u.mstatusReg
  | 0x301 => some rvMisa
  | 0x304 | 0x344 => some 0
  | 0x305 => some u.mtvec
  | 0x320 => some (BitVec.ofNat 64 (fieldN u.inhibit 0 0 + 4 * fieldN u.inhibit 1 1))
  | 0x340 => some u.mscratch
  | 0x341 => some u.mepc
  | 0x342 => some u.mcauseCsr
  | 0x343 => some u.mtval
  | _ =>
    if (0xB03 ≤ n ∧ n ≤ 0xB1F) ∨ (0xC03 ≤ n ∧ n ≤ 0xC1F) ∨ (0x323 ≤ n ∧ n ≤ 0x33F) then some 0 else none

/-- Write a control and status register that can be written. -/
def UtilCore.setCsr (u : UtilCore) (n : Nat) (v : W64) : UtilCore :=
  let dirty := u.mstatus ||| 0x6000
  match n with
  | 0x001 => { u with fcsr := (u.fcsr &&& 0xE0) ||| (v.setWidth 8 &&& 0x1F), mstatus := dirty }
  | 0x002 => { u with fcsr := (u.fcsr &&& 0x1F) ||| (v.setWidth 8 <<< 5), mstatus := dirty }
  | 0x003 => { u with fcsr := v.setWidth 8, mstatus := dirty }
  | 0xB00 => { u with mcycle := if bitN u.inhibit 0 then v else v - 1 }
  | 0xB02 => { u with minstret := if bitN u.inhibit 1 then v else v - 1 }
  | 0x300 => { u with mstatus := v &&& 0x6088 }
  | 0x305 => { u with mtvec := v &&& ~~~2#64 }
  | 0x320 => { u with inhibit := BitVec.ofNat 2 (fieldN v 0 0 + 2 * fieldN v 2 2) }
  | 0x340 => { u with mscratch := v }
  | 0x341 => { u with mepc := v &&& ~~~1#64 }
  | 0x342 => { u with mcauseCsr := v }
  | 0x343 => { u with mtval := v }
  | _ => u

/-- The Zicsr instructions; none where the register does not exist or cannot be written. -/
def UtilCore.zicsr (u : UtilCore) (l now : Nat) (w : W32) : Option UtilCore :=
  let n := fieldN w 31 20
  let f3 := rvF3 w
  let src : W64 := if f3 < 4 then u.getX (rvRs1 w) else BitVec.ofNat 64 (rvRs1 w)
  let writes := f3 % 4 = 1 ∨ rvRs1 w ≠ 0
  match u.csr l now n with
  | none => none
  | some old =>
    if writes ∧ 0xC00 ≤ n then none
    else
      let new := match f3 % 4 with
        | 1 => src
        | 2 => old ||| src
        | _ => old &&& ~~~src
      some ((if writes then u.setCsr n new else u).setX (rvRd w) old)

end Sys2Proof.Machine
end

