-- ==== Sys2Proof/Machine/Utility.lean ====
section
/-! DEFINITION. The utility core of a tile: what it reaches, its loads and stores, its traps, and one instruction of it
(06 R192; 01 R45, R49, R50). -/

namespace Sys2Proof.Machine

/-! ### What it reaches -/

/-- Base of a core's local memory, a range that no other agent decodes (06 R192). -/
def ucBase : Nat := 0xFE0000000000

/-- Bytes of a core's local memory. -/
def ucSize : Nat := 0x40000

/-- What an access of a utility core meets. -/
inductive UcPlace where
  /-- offset `o` of its local memory -/
  | own (o : Nat)
  /-- control and status space -/
  | reg
  /-- a tier or a scratchpad, for its context -/
  | mem (c : Nat)
  /-- nothing that it reaches: an access fault -/
  | refused
  deriving DecidableEq, Repr

/-- The registers that the core of a logical tile reaches: its tile's register block, its context's step registers and
its context's `COLL_EPOCH` (06 R192). -/
def State.ucReg (s : State) (l c a k : Nat) : Bool :=
  let within := fun (b n : Nat) => decide (b ≤ a) && decide (a + k ≤ b + n)
  let pkg := ctlBase + pkgBlock * 2 ^ 24
  within (s.tileBlock l) 0x10000 || within (pkg + 0x300000 + 0x40 * c) 0x40 || within (pkg + 0x500000 + 0x10 * c) 0x10

/-- Where the `k` bytes from `a` lie for the core of a logical tile: a tier inside its context's windows, a scratchpad of
its context's tiles (01 R45, R50; 06 R192; 08 R229). -/
def State.ucPlace (s : State) (l a k : Nat) : UcPlace :=
  if ucBase ≤ a ∧ a + k ≤ ucBase + ucSize then .own (a - ucBase)
  else match s.ctxOfTile l with
    | none => .refused
    | some c => if s.ucReg l c a k then .reg else if s.reaches c a k then .mem c else .refused

/-- What an access answers. -/
inductive UcAns (α : Type) where
  /-- it is served -/
  | done (v : α) (s : State)
  /-- it waits: its range is held by a close, a moving line or a change of binding -/
  | held
  /-- an access fault -/
  | fault

/-- The word of a register as a core reads it.  What a place without a register reads as, no rule states: a free value. -/
def State.ucWord (s : State) (a i : Nat) : Nat := ((s.reg32 (a / 4 * 4 + 4 * i)).getD (Config.freeBits 32 (s.draw + i))).toNat

/-- Read `k` bytes, aligned.  A read of a tier is latency-critical (08 R231); what a core takes from poisoned data, no rule
states: a free value. -/
def State.ucRead (s : State) (l a k : Nat) : UcAns Nat :=
  match s.ucPlace l a k with
  | .own o => .done (memReadN (s.tileL l).uc.mem o k) s
  | .reg => .done ((s.ucWord a 0 + s.ucWord a 1 * 2 ^ 32) >>> (8 * (a % 4)) % 256 ^ k) (s.use 2)
  | .mem c =>
    if s.accessHeld c a k then .held
    else if s.badRead c a k then .done ((Config.freeBits 64 s.draw).toNat % 256 ^ k) (((s.noteRead c a k).lcRead c a k).use 1)
    else .done (s.readAt c a k) (s.lcRead c a k)
  | .refused => .fault

/-- Write `k` bytes, aligned. -/
def State.ucWrite (s : State) (l a k v : Nat) : UcAns Unit :=
  match s.ucPlace l a k with
  | .own o => .done () (s.modUc l (fun u => { u with mem := memWriteN u.mem o k v }))
  | .reg =>
    if s.ucMayWrite l a ∧ (k < 8 ∨ s.ucMayWrite l (a + 4)) then
      let put := fun (s : State) (i : Nat) =>
        s.writeReg (a / 4 * 4 + 4 * i) (BitVec.ofNat 32 (v <<< (8 * (a % 4)) >>> (32 * i)))
          (BitVec.ofNat 32 ((256 ^ k - 1) <<< (8 * (a % 4)) >>> (32 * i)))
      .done () (if k = 8 then put (put s 0) 1 else put s 0)
    else .fault
  | .mem c => if s.accessHeld c a k then .held else .done () (s.writeAt c a (toBytes k v))
  | .refused => .fault

/-! ### One instruction -/

/-- The core of a logical tile goes on at `pc`, its instruction retired. -/
def State.ucNext (s : State) (l : Nat) (u : UtilCore) (pc : W64) : State :=
  s.modUc l (fun v => { u with
    mem := v.mem, st := v.st, takeResult := v.takeResult, takeHeld := v.takeHeld, takeLocal := v.takeLocal, takeId := v.takeId
    faults := v.faults, syncErr := v.syncErr, pc := pc
    minstret := if bitN u.inhibit 1 then u.minstret else u.minstret + 1 })

/-- Continue after an access: a held one is tried again, a refused one is an access fault of cause `c`. -/
def State.ucThen {α : Type} (s : State) (l : Nat) (u : UtilCore) (a c : Nat) (r : UcAns α) (f : α → State → State) : State :=
  match r with
  | .done v t => f v t
  | .held => s
  | .fault => s.ucException l u.pc c (BitVec.ofNat 64 a)

/-- A load: `get` forms the register write from the bytes read. -/
def State.ucLoad (s : State) (l : Nat) (u : UtilCore) (a k : Nat) (next : W64) (get : Nat → UtilCore) : State :=
  if a % k ≠ 0 then s.ucException l u.pc 4 (BitVec.ofNat 64 a)
  else s.ucThen l u a 5 (s.ucRead l a k) (fun v t => t.ucNext l (get v) next)

/-- A store. -/
def State.ucStore (s : State) (l : Nat) (u : UtilCore) (a k v : Nat) (next : W64) : State :=
  if a % k ≠ 0 then s.ucException l u.pc 6 (BitVec.ofNat 64 a)
  else s.ucThen l u a 7 (s.ucWrite l a k v) (fun _ t => t.ucNext l u next)

/-- `LR`, `SC` and the atomic operations, each in one step.  A reservation holds while what it read stands (log 91). -/
def State.ucAtomic (s : State) (l : Nat) (u : UtilCore) (w : W32) (next : W64) : Option State :=
  let k := if rvF3 w = 2 then 4 else 8
  let a := (u.getX (rvRs1 w)).toNat
  let v := u.getX (rvRs2 w)
  let sx := fun (n : Nat) => rvSx (8 * k) n
  let src := sx (v.toNat % 256 ^ k)
  let bad := fun (c : Nat) => some (s.ucException l u.pc c (u.getX (rvRs1 w)))
  if rvF3 w ≠ 2 ∧ rvF3 w ≠ 3 then none
  else match fieldN w 31 27 with
  | 0x02 =>
    if rvRs2 w ≠ 0 then none
    else some (s.ucLoad l u a k next (fun n => { u.setX (rvRd w) (sx n) with resv := some (a, n) }))
  | 0x03 =>
    if a % k ≠ 0 then bad 6
    else some (s.ucThen l u a 7 (s.ucRead l a k) (fun n t =>
      let u1 : UtilCore := { u with resv := none }
      if u.resv = some (a, n) then t.ucThen l u a 7 (t.ucWrite l a k v.toNat) (fun _ t2 => t2.ucNext l (u1.setX (rvRd w) 0) next)
      else t.ucNext l (u1.setX (rvRd w) 1) next))
  | f5 =>
    if (rvAmo f5 0 0).isNone then none
    else if a % k ≠ 0 then bad 6
    else some (s.ucThen l u a 7 (s.ucRead l a k) (fun n t =>
      t.ucThen l u a 7 (t.ucWrite l a k (((rvAmo f5 (sx n) src).getD 0).toNat % 256 ^ k))
        (fun _ t2 => t2.ucNext l (u.setX (rvRd w) (sx n)) next)))

/-- `ECALL`, `EBREAK`, `MRET`, `WFI` and the Zicsr instructions. -/
def State.ucSystem (s : State) (l : Nat) (u : UtilCore) (w : W32) (next : W64) : Option State :=
  if rvF3 w = 0 then
    match w.toNat with
    | 0x00000073 => some (s.ucException l u.pc 11 0)
    | 0x00100073 => some (s.ucException l u.pc 3 u.pc)
    | 0x30200073 =>
      some (s.ucNext l { u with
        inHandler := false
        mstatus := (u.mstatus &&& 0x6000) ||| 0x80 ||| (if bitN u.mstatus 7 then 0x8 else 0) } u.mepc)
    | 0x10500073 =>
      some (s.ucNext l { u with wfi := true, wfiAt := s.now, wfiReasons := (List.range 8).map (s.headReason l) } next)
    | _ => none
  else if rvF3 w = 4 then none
  else (u.zicsr l s.now w).map (fun u1 => s.ucNext l u1 next)

/-- A load of an integer register, by `funct3`. -/
def rvLoad (f3 n : Nat) : Option W64 :=
  match f3 with
  | 0 => some (rvSx 8 n) | 1 => some (rvSx 16 n) | 2 => some (rvSx 32 n)
  | 3 | 4 | 5 | 6 => some (BitVec.ofNat 64 n)
  | _ => none

/-- Carry out one instruction of `len` bytes; none where it is illegal. -/
def State.ucExec (s : State) (l : Nat) (u : UtilCore) (w : W32) (len : Nat) : Option State :=
  let next := u.pc + BitVec.ofNat 64 len
  let rd := rvRd w
  let f3 := rvF3 w
  let a := u.getX (rvRs1 w)
  let b := u.getX (rvRs2 w)
  let put := fun (v : W64) => s.ucNext l (u.setX rd v) next
  let at_ := fun (i : W64) => (a + i).toNat
  match fieldN w 6 0 with
  | 0x03 =>
    if (rvLoad f3 0).isNone then none
    else some (s.ucLoad l u (at_ (rvImmI w)) (2 ^ (f3 % 4)) next (fun n => u.setX rd ((rvLoad f3 n).getD 0)))
  | 0x07 =>
    if !u.fpOn then none
    else if f3 = 2 then some (s.ucLoad l u (at_ (rvImmI w)) 4 next (fun n => u.setF rvS rd n))
    else if f3 = 3 then some (s.ucLoad l u (at_ (rvImmI w)) 8 next (fun n => u.setF rvD rd n))
    else none
  | 0x0F => if f3 < 2 then some (s.ucNext l u next) else none
  | 0x13 => (rvOpImm w a).map put
  | 0x17 => some (put (u.pc + rvImmU w))
  | 0x1B => (rvOpImmW w a).map put
  | 0x23 => if f3 < 4 then some (s.ucStore l u (at_ (rvImmS w)) (2 ^ f3) (b.toNat % 256 ^ 2 ^ f3) next) else none
  | 0x27 =>
    if !u.fpOn then none
    else if f3 = 2 ∨ f3 = 3 then
      some (s.ucStore l u (at_ (rvImmS w)) (2 ^ f3) ((smGet 0 u.f (rvRs2 w)).toNat % 256 ^ 2 ^ f3) next)
    else none
  | 0x2F => s.ucAtomic l u w next
  | 0x33 => (rvOp f3 (rvF7 w) a b).map put
  | 0x37 => some (put (rvImmU w))
  | 0x3B => (rvOpW f3 (rvF7 w) a b).map put
  | 0x43 | 0x47 | 0x4B | 0x4F =>
    if !u.fpOn then none else (u.fused w ((fieldN w 6 0 - 0x43) / 4)).map (fun u1 => s.ucNext l u1 next)
  | 0x53 => if !u.fpOn then none else (u.opFp w).map (fun u1 => s.ucNext l u1 next)
  | 0x63 => (rvBranch f3 a b).map (fun t => s.ucNext l u (if t then u.pc + rvImmB w else next))
  | 0x67 => if f3 = 0 then some (s.ucNext l (u.setX rd next) ((a + rvImmI w) &&& ~~~1#64)) else none
  | 0x6F => some (s.ucNext l (u.setX rd next) (u.pc + rvImmJ w))
  | 0x73 => s.ucSystem l u w next
  | _ => none

/-- One instruction of the core of a logical tile: fetched in parcels of 2 bytes, and an illegal-instruction exception where
none is defined. -/
def State.ucInstr (s : State) (l : Nat) : State :=
  let u := (s.tileL l).uc
  let pc := u.pc.toNat
  let illegal := fun (s : State) (n : Nat) => s.ucException l u.pc 2 (BitVec.ofNat 64 n)
  s.ucThen l u pc 1 (s.ucRead l pc 2) (fun lo t =>
    if lo % 4 = 3 then
      t.ucThen l u (pc + 2) 1 (t.ucRead l (pc + 2) 2) (fun hi t2 =>
        let w : W32 := BitVec.ofNat 32 (lo + hi * 65536)
        (t2.ucExec l u w 4).getD (illegal t2 w.toNat))
    else ((rvExpand (BitVec.ofNat 16 lo)).bind (fun w => t.ucExec l u w 2)).getD (illegal t lo))

/-- The wait of a core in `WFI` is over: a queue of its tile has changed `HEAD_REASON`, or 1 µs has passed; the completion of
a `UC_TAKE` ends it where that happens (06 R192). -/
def State.wfiOver (s : State) (l : Nat) : Bool :=
  let u := (s.tileL l).uc
  decide (u.wfiAt + 1000 ≤ s.now) || (List.range 8).any (fun q => u.wfiReasons.getD q 0 != s.headReason l q)

/-- The core of a logical tile acts: it waits in `WFI`, or carries out one instruction; its cycle counts. -/
def State.ucStep (s : State) (l : Nat) : State :=
  let s1 := s.modUc l (fun u => if bitN u.inhibit 0 then u else { u with mcycle := u.mcycle + 1 })
  if (s.tileL l).uc.wfi then (if s.wfiOver l then s1.modUc l (fun u => { u with wfi := false }) else s1) else s1.ucInstr l

/-- The logical tiles whose utility cores run: not during a move of their tile, which halts them at an instruction boundary
(17 R486), and while their die runs. -/
def State.runningCores (s : State) : List Nat :=
  s.tiles.filterMap (fun e => if e.2.uc.st == .running && !e.2.moving && s.dieRuns e.1 then s.logicalOf e.1 else none)

/-- Every running core acts once (DESIGN CHOICE, log 91: one instruction in a period of the tide clock). -/
def State.coresAct (s : State) : State := s.runningCores.foldl State.ucStep s

end Sys2Proof.Machine
end

