-- ==== Sys2Proof/Machine/Tick.lean ====
section
/-! DEFINITION. What happens when no command waits: half a nanosecond of tide passes (15 R442 to R444), tiles that began to
wake run (06 R196), utility cores act (06 R192),
read requests that wait for a credit of a peer go out (09 R276), RDMA requests that are no longer held are served, and requests that have run for 50 µs are acknowledged
(12 R365). -/

namespace Sys2Proof.Machine

/-- The request has run for 50 µs without an acknowledgement or an outcome (12 R365). -/
def Req.overdue (r : Req) (now : Nat) : Bool := !r.acked && r.issuer.isNone && r.result.isNone && decide (r.takenAt + 50000 ≤ now)

/-- A session writes the acknowledgement records that are due, oldest request first (12 R365). -/
def State.ackSess (s : State) (n : Nat) : State :=
  match s.sess? n with
  | none => s
  | some x =>
    let due := x.reqs.filter (fun r => r.overdue s.now)
    if x.closed ∨ due.isEmpty then s
    else
      (s.modSess n (fun x => { x with
        reqs := x.reqs.map (fun r => if r.overdue s.now then { r with acked := true } else r)
        results := x.results ++ due.map (fun r => r.ack s.now) })).flush n

/-- DESIGN CHOICE (log 2): one period of the 2 GHz tide clock.  Tide runs in the headwater domains, which the standby
input powers (15 R442, 18 R496). -/
def State.tick (s : State) : State :=
  if s.power.stbyOn then
    let s1 := ((s.noteAble).advanceTide (2 ^ 15 + s.time.rate).toNat).wakeGated.coresAct.askAll.serveQps.followBoot
    (s1.sess.map (·.1)).foldl State.ackSess s1
  else s

end Sys2Proof.Machine
end

