-- ==== Sys2Proof/Safety.lean ====
section
/-! DEFINITION. What the statements speak of: the form that every step keeps, a request that is at its turn, and the opcodes
of the tile operations and of the collectives with the commands that run them. -/

namespace Sys2Proof.Machine

/-! ### The form of the state -/

/-- A tile's byte memories have their canonical form: scratchpad and local memory of the utility core. -/
def Tile.memOk (t : Tile) : Bool := memWf t.sp && memWf t.uc.mem

/-- Tier memory and the memories of every tile have their canonical form. -/
def State.memOk (s : State) : Prop := memWf s.tier = true ∧ ∀ e ∈ s.tiles, e.2.memOk = true

/-- The module has 12 torus ports (09 R248), 60 memory devices (08 R224) and 8 Ethernet ports (12 R351). -/
def State.sizesOk (s : State) : Prop := s.ports.length = 12 ∧ s.devices.length = 60 ∧ s.eth.length = 8

/-- The invariant of every step. -/
def State.Inv (s : State) : Prop := s.memOk ∧ s.sizesOk

/-! ### Requests (12 R364 to R368) -/

/-- Request `r` of the open session `x` is at its turn: the package manager runs, no earlier command on one of its objects
is under way, and checks 2 to 5 and 8 of 12 R368 (package state) do not refuse it. -/
def State.atTurn (s : State) (n : Fin 64) (seq : W32) (op : Nat) (x : Sess) (r : Req) : Prop :=
  s.waiting? n.val seq op (fun _ => true) = some (x, r) ∧ s.pkg.mgr.st = .running ∧ s.objBusy r = false
    ∧ (earlyChecks x r).find? (·.1) = none ∧ (s.pkgCheck r).1 = false

/-- The object that a request's handle names: of one of the kinds, and the session may use it (06 R164). -/
def State.ownHandle (s : State) (x : Sess) (h : W32) (kinds : List Nat) (o : HObj) : Prop :=
  h ≠ 0 ∧ kinds.contains (hKind h) = true ∧ s.hobj? h = some o ∧ roleOwns s x.role o = true

/-! ### Tile operations -/

/-- A tile opcode: the command that starts it, its number, and what it runs on its tile. -/
abbrev TileRow := (Fin 480 → Fin 8 → Instr) × Nat × (OpD → IssueCtx → Nat → Tile → RunRes)

/-- Matrix opcodes. -/
def matrixRows : List TileRow :=
  [(.matmul, 0x01, fun d ic _ t => d.matRun ic t), (.ewMul, 0x02, fun d ic _ t => d.matRun ic t)]

/-- Element arithmetic opcodes. -/
def arithmeticRows : List TileRow :=
  [(.vconvert, 0x10, fun d ic n t => d.vecRun ic n t), (.vadd, 0x11, fun d ic n t => d.vecRun ic n t),
    (.vsub, 0x12, fun d ic n t => d.vecRun ic n t), (.vmul, 0x13, fun d ic n t => d.vecRun ic n t),
    (.vfma, 0x14, fun d ic n t => d.vecRun ic n t), (.vaxpby, 0x15, fun d ic n t => d.vecRun ic n t),
    (.vmax, 0x16, fun d ic n t => d.vecRun ic n t), (.vmin, 0x17, fun d ic n t => d.vecRun ic n t),
    (.vdiv, 0x18, fun d ic n t => d.vecRun ic n t), (.vclamp, 0x19, fun d ic n t => d.vecRun ic n t),
    (.vscale, 0x1A, fun d ic n t => d.vecRun ic n t), (.vcmp, 0x1B, fun d ic n t => d.vecRun ic n t)]

/-- Element function opcodes. -/
def functionRows : List TileRow :=
  [(.vexp, 0x20, fun d ic n t => d.vecRun ic n t), (.vlog, 0x21, fun d ic n t => d.vecRun ic n t),
    (.vrsqrt, 0x22, fun d ic n t => d.vecRun ic n t), (.vrecip, 0x23, fun d ic n t => d.vecRun ic n t),
    (.vsqrt, 0x24, fun d ic n t => d.vecRun ic n t), (.vtanh, 0x25, fun d ic n t => d.vecRun ic n t),
    (.vsigmoid, 0x26, fun d ic n t => d.vecRun ic n t), (.vgelu, 0x27, fun d ic n t => d.vecRun ic n t),
    (.vsilu, 0x28, fun d ic n t => d.vecRun ic n t)]

/-- Normalisation opcodes. -/
def normRows : List TileRow :=
  [(.normApply, 0x30, fun d ic n t => d.vecRun ic n t), (.softmaxApply, 0x31, fun d ic n t => d.vecRun ic n t),
    (.softmaxBwd, 0x32, fun d ic n t => d.vecRun ic n t), (.normBwd, 0x33, fun d ic n t => d.vecRun ic n t)]

/-- Reduction opcodes. -/
def reductionRows : List TileRow :=
  [(.topk, 0x40, fun d _ _ t => d.topkRun t), (.topkMerge, 0x41, fun d _ _ t => d.topkRun t),
    (.rowStats, 0x42, fun d _ n t => d.rowStatsRun n t), (.rowStatsMerge, 0x43, fun d _ n t => d.rowStatsMergeRun n t),
    (.rowDot, 0x44, fun d _ n t => d.rowDotRun n t), (.colSum, 0x45, fun d ic _ t => d.colSumRun ic t),
    (.amax, 0x46, fun d _ _ t => d.amaxRun t)]

/-- Sparse and routing opcodes. -/
def sparseRows : List TileRow :=
  [(.compress, 0x50, fun d ic _ t => d.compressRun ic t), (.expand, 0x51, fun d ic _ t => d.expandRun ic t),
    (.routeBuild, 0x52, fun d _ _ t => d.routeRun t)]

/-- The tile opcodes with what each runs on its tile. -/
def tileOpcodes : List TileRow :=
  matrixRows ++ arithmeticRows ++ functionRows ++ normRows ++ reductionRows ++ sparseRows

/-- A collective: the command that starts it, its opcode, and the options that its descriptor takes. -/
abbrev CollRow := (W32 → Instr) × Nat × (CollD → Bool)

/-- Collectives that move or reduce tensors. -/
def transferRows : List CollRow :=
  [(.allGather, 0xC0, fun _ => true), (.reduceScatter, 0xC1, fun _ => true), (.allReduce, 0xC2, fun _ => true), (.permute, 0xC3, fun _ => true)]

/-- Collectives over one value for each rank. -/
def agreementRows : List CollRow :=
  [(.broadcast, 0xC4, fun _ => true), (.barrier, 0xC5, fun _ => true), (.flagOr, 0xC6, fun d => !d.step), (.stepVerdict, 0xC6, fun d => d.step)]

/-- The three collectives of opcode 0xC7. -/
def reservedRows : List CollRow :=
  [(.scaleMax, 0xC7, fun d => !d.priv && !d.table), (.privAgreement, 0xC7, fun d => d.priv), (.tableAgreement, 0xC7, fun d => d.table)]

/-- The commands that start a collective, with the opcode and the options that each takes (10 R286, R304, R306; 07 R198). -/
def collStarts : List CollRow :=
  transferRows ++ agreementRows ++ reservedRows

end Sys2Proof.Machine
end

