-- ==== Sys2Proof/Certificates/Slice0/Obligations.lean ====
section
/-! DEFINITION. The statements for the provers. Each says in its docstring which rule of the spec it formalises. -/

open Sys2Proof Sys2Proof.Machine

/-! ### The block -/

/-- A step takes the command at the front of the queue and runs it with the queue's rest. -/
def Obligations.StepRunsFront : Prop :=
  ∀ (c : Instr) (s : State), step { s with pending := c :: s.pending } = exec c s

/-- With no command waiting, tide runs on while the standby input is present, at the rate of the servo, and nothing else changes
of a module that holds no session, operation, tile in use or queue pair and whose firmware classes boot the slots that run;
without the standby input nothing changes (the model's choice, log 2; 15 R442, R444). -/
def Obligations.IdleTick : Prop :=
  (∀ s : State, s.pending = [] → s.power.stbyOn = false → step s = .next s) ∧
  (∀ s : State, s.pending = [] → s.power.stbyOn = true → 0 ≤ 2 ^ 15 + s.time.rate → s.tide16 + (2 ^ 15 + s.time.rate).toNat < 2 ^ 80 →
    ∃ t : State, step s = .next t ∧ (t.tide16 : Int) = s.tide16 + 2 ^ 15 + s.time.rate ∧ t.time.rate = s.time.rate) ∧
  (∀ s : State, s.pending = [] → s.power.stbyOn = true → s.sess = [] → s.ops = [] → s.tiles = [] → s.qps = [] →
    (∀ k, k < 6 → s.mixed k = false) → 0 ≤ 2 ^ 15 + s.time.rate → s.tide16 + (2 ^ 15 + s.time.rate).toNat < 2 ^ 80 →
    ∃ t : State, step s = .next t ∧ (t.tide16 : Int) = s.tide16 + 2 ^ 15 + s.time.rate ∧ t = { s with time := t.time } ∧
      t.time.rate = s.time.rate ∧ t.time.sync = s.time.sync)

/-- No command ends in a fault or a refusal: each answers a next state, in every state (the model's choice, log 1). -/
def Obligations.EveryCommandAnswers : Prop := ∀ (c : Instr) (s : State), ∃ t : State, exec c s = .next t

/-- The effect of a command leaves the queue of waiting commands as it is. -/
def Obligations.QueueKept : Prop := ∀ (c : Instr) (s t : State), exec c s = .next t → t.pending = s.pending

/-- Every step keeps the canonical form of all memories and the number of ports and devices. -/
def Obligations.InvariantKept : Prop := ∀ s t : State, s.Inv → step s = .next t → t.Inv

/-- The state after reset has that form. -/
def Obligations.InvariantAtReset : Prop := State.reset.Inv

/-- What the spec gives the module at reset: `STANDBY`, the pins `ALERT_N` and `THERM_TRIP_N` not asserted, tide `UNLOCKED`,
every torus link `DARK`, no context, no handle, no session, and E at 14,000 W. -/
def Obligations.ResetValues : Prop :=
  State.reset.pkg.st = .standby ∧ State.reset.pkg.alert = false ∧ State.reset.pkg.thermTrip = false ∧
    State.reset.time.sync = .unlocked ∧ (State.reset.ports.all (fun p => p.st == .dark)) = true ∧ State.reset.ctxs = [] ∧
    State.reset.handles.live = [] ∧ State.reset.sess = [] ∧ State.reset.power.envelope = 14000 ∧ State.reset.pending = []

/-! ### Aidar commands (12) -/

/-- 12 R365: the result record of a request that completes stands behind the records that wait in its session, and the
request is no longer under way; what an ended session has left to run writes no record (R376). -/
def Obligations.ResultRecord : Prop :=
  (∀ (s : State) (n : Nat) (x : Sess) (r : Req) (st : BitVec 16) (code : BitVec 8) (body : BitVec 3456) (len : Nat) (fin : Bool),
    s.sess? n = some x → r.issuer = none → x.closed = false → x.ringFree = false → (r.acked = true ∨ s.now ≤ r.takenAt + 50000) →
    ∃ y : Sess, (s.finishReq n r st code body len fin).sess? n = some y ∧
      y.results = x.results ++ [r.record 2 st code body len s.now fin] ∧ y.reqs = x.reqs.filter (fun q => q.order != r.order) ∧
      (s.finishReq n r st code body len fin).out = s.out) ∧
  (∀ (s : State) (n : Nat) (x : Sess) (r : Req) (st : BitVec 16) (code : BitVec 8) (body : BitVec 3456) (len : Nat) (fin : Bool),
    s.sess? n = some x → r.issuer = none → x.closed = false → x.results = [] → x.events = [] → x.overflow = 0 → x.keys = none → x.ringFree = true →
    (r.acked = true ∨ s.now ≤ r.takenAt + 50000) →
    (s.finishReq n r st code body len fin).out = s.out ++
      [.record n (x.written.toNat % x.ringSize) ((r.record 2 st code body len s.now fin).image ((x.written.toNat / x.ringSize) % 2 == 0))]) ∧
  (∀ (s : State) (n : Nat) (x : Sess) (r : Req) (st : BitVec 16) (code : BitVec 8) (body : BitVec 3456) (len : Nat) (fin : Bool),
    s.sess? n = some x → r.issuer.isSome = true → x.closed = false →
    (s.finishReq n r st code body len fin).sess? n = some { x with reqs := x.reqs.filter (fun q => q.order != r.order) } ∧
      (s.finishReq n r st code body len fin).out = s.out)

/-- 12 R368: the checks run in order, and the first that fails gives the status; a refused request has no effect but its
record. -/
def Obligations.ChecksInOrder : Prop :=
  ∀ (s : State) (n : Fin 64) (seq : W32) (op : Nat) (x : Sess) (r : Req) (core : Sess → Req → CmdOut) (c : Check),
    s.waiting? n.val seq op (fun _ => true) = some (x, r) → s.pkg.mgr.st = .running → s.objBusy r = false →
    (earlyChecks x r).find? (·.1) = some c →
    aidar n seq op s core = .next (s.finishReq n.val r c.2.1.code (BitVec.ofNat 8 c.2.2) 0 0 false)

/-- The session commands take effect: HELLO opens the interface with revision 2 and the lower of the two minors (12 R370),
PING answers the next sequence number, tide and the package state, and BYE ends the session once its last record is written. -/
def Obligations.SessionCommandsComplete : Prop :=
  (∀ (s : State) (n : Fin 64) (seq : W32) (x : Sess) (r : Req), s.atTurn n seq 0x0001 x r → (x.helloDone = false ∨ x.restarted = true) →
    r.num 0 2 = 2 → r.len = 4 →
    exec (.hello n seq) s = .next (s.answer n.val r (.done (s.modSess n.val (fun y => { y with
      helloDone := true, restarted := false, minor := min (r.num 2 2) 3, mask := 0 })) .ok (s.helloBody n.val x (min (r.num 2 2) 3)) 22))) ∧
  (∀ (s : State) (n : Fin 64) (seq : W32) (x : Sess) (r : Req), s.atTurn n seq 0x0002 x r → x.reqs.length = 1 →
    exec (.bye n seq) s = .next ((s.answer n.val r (.ok (s.modSess n.val (fun y => { y with bye := true })))).closeBye n.val)) ∧
  (∀ (s : State) (n : Fin 64) (seq : W32) (x : Sess) (r : Req), s.atTurn n seq 0x0003 x r →
    exec (.ping n seq) s = .next (s.answer n.val r (.done s .ok (pack 3456
      [(31, 0, (x.nextSeq.getD 0).toNat), (95, 32, s.now), (103, 96, 0x10 + s.pkg.st.num), (111, 104, b2n (s.degWhy != 0))]) 14)))

/-- The mailbox commands take effect: a connection takes the lowest free session (the model's choice, log 25), a slot write
of an owned slot posts it, the module takes a posted request in sequence order, a software write of RING_CONSUMER lets waiting
records go, and a session ends with its connection (12 R360 to R364). -/
def Obligations.MailboxCommandsComplete : Prop :=
  (∀ (s : State) (port : Fin 8) (va : BitVec 64) (rkey : W32) (log2 : BitVec 8) (n : Nat), s.takesSessions = true →
    (s.ethPort port.val).up = true → (List.range 64).find? s.sessFree = some n → 6 ≤ log2.toNat → log2.toNat ≤ 12 →
    s.qpCount < 4096 →
    exec (.aidarConnect port va rkey log2) s = .next { s with
      sess := smPut s.sess n { port := port.val, ringVa := va, rkey := rkey, log2 := log2.toNat, qpn := s.newQp
                               areaKey := Config.freeBits 32 s.draw, reqs := ((s.sess? n).map (·.reqs)).getD [] }
      out := s.out ++ [.cmAccept port.val s.newQp (BitVec.ofNat 64 (0xFF00FF800000 + n * 0x8000)) (Config.freeBits 32 s.draw) n]
      draw := s.draw + 1 }) ∧
  (∀ (s : State) (n : Fin 64) (x : Sess), s.sess? n.val = some x → x.reqs = [] → s.sec.debug ≠ some n.val →
    exec (.sessionEnd n) s = .next { s with sess := smErase s.sess n.val }) ∧
  (∀ (s : State) (n : Fin 64) (slot : Fin 32) (img : BitVec 4096) (x : Sess), s.sess? n.val = some x → x.closed = false →
    slotOwner img = 1 →
    exec (.slotPost n slot img) s = .next (s.modSess n.val (fun y => { y with
      slots := smPutD 0 y.slots slot.val img, posted := y.posted ||| (1#32 <<< slot.val) }))) ∧
  (∀ (s : State) (n : Fin 64) (slot : Fin 32) (x : Sess), s.sess? n.val = some x → x.closed = false → x.bye = false →
    x.reqs = [] → x.posted.getLsbD slot.val = true → x.keys = none → x.nextSeq.getD (slotSeq (smGet 0 x.slots slot.val)) = slotSeq (smGet 0 x.slots slot.val) →
    s.pkg.mgr.st = .running → (opInfo (takenReq slot.val (smGet 0 x.slots slot.val) 0 s.takeOrder s.now).opcode.toNat).isSome = true →
    ∃ t y b, exec (.requestTake n slot) s = .next t ∧ t.sess? n.val = some y ∧ y.nextSeq = some (slotSeq (smGet 0 x.slots slot.val) + 1) ∧
      y.reqs = [takenReq slot.val (smGet 0 x.slots slot.val) b s.takeOrder s.now] ∧ y.posted.getLsbD slot.val = false ∧
      t = { s with sess := t.sess, takeOrder := s.takeOrder + 1 }) ∧
  (∀ (s : State) (n : Fin 64) (seq : W32) (x : Sess) (r : Req) (v : BitVec 16 × BitVec 8 × BitVec 3456 × Nat), s.sess? n.val = some x →
    x.reqs.find? (fun r => r.seq == seq && r.result.isSome) = some r → r.result = some v →
    exec (.commandComplete n seq) s = .next (s.finishReq n.val r v.1 v.2.1 v.2.2.1 v.2.2.2 false)) ∧
  (∀ (s : State) (n : Fin 64) (v : W32) (x : Sess), s.sess? n.val = some x → x.closed = false → x.bye = false → x.results = [] →
    x.events = [] → x.overflow = 0 →
    ∃ t, exec (.ringConsumerWrite n v) s = .next t ∧ t.sess? n.val = some { x with consumer := v } ∧ t.out = s.out)

/-- The context commands take effect (06 R158 to R161; 14 R409). -/
def Obligations.ContextCommandsComplete : Prop :=
  (∀ (s : State) (n : Fin 64) (seq : W32) (x : Sess) (r : Req) (i : BitVec 384) (c : Nat), s.atTurn n seq 0x0101 x r → x.role = .tenant i →
    (List.range 64).find? (fun c => (s.ctx? c).isNone) = some c →
    exec (.ctxCreate n seq) s = .next (s.answer n.val r (.done
      { s with ctxs := smPut s.ctxs c { owner := i, seed := BitVec.ofNat 64 (r.num 0 8), stepCount := BitVec.ofNat 64 (r.num 8 8), inDebug := Option.isSome s.sec.debug } }
      .ok (BitVec.ofNat 3456 c) 1))) ∧
  (∀ (s : State) (n : Fin 64) (seq : W32) (x : Sess) (r : Req) (y : Ctx), s.atTurn n seq 0x0603 x r → s.ctx? (r.num 0 1) = some y →
    x.role = .tenant y.owner → y.st = .created → y.memKey = none → r.clean [(0, 1), (8, 98)] = true → r.num 8 32 ≠ r.num 40 32 →
    r.num 104 2 ≠ 0 →
    exec (.ctxKeyInstall n seq) s = .next (s.answer n.val r (.done (s.modCtx (r.num 0 1) (fun y => { y with
      memKey := some (BitVec.ofNat 512 (r.num 8 64)), partKey := some (BitVec.ofNat 16 (r.num 104 2), BitVec.ofNat 256 (r.num 72 32)) }))
      .ok ((Config.sha384 256 (r.num 72 32)).setWidth 32 |>.setWidth 3456) 4))) ∧
  (∀ (s : State) (n : Fin 64) (seq : W32) (x : Sess) (r : Req) (y : Ctx) (z : SyncSpace) (b : BindTable), s.atTurn n seq 0x0102 x r →
    s.ctx? (r.num 0 1) = some y → x.role = .tenant y.owner → y.st = .created → y.memKey.isSome = true →
    BitVec.ofNat 32 (r.num 4 4) ≠ 0 → hKind (BitVec.ofNat 32 (r.num 4 4)) = 5 → s.hobj? (BitVec.ofNat 32 (r.num 4 4)) = some (.sync z) →
    z.ctx = r.num 0 1 → r.clean [(0, 1), (4, 18), (32, 60)] = true → r.num 20 2 = s.ptag → s.tierBad (r.num 0 1) (r.num 8 8) (r.num 16 4) = false →
    s.bindTable (r.num 0 1) r = some b → s.keyClash (r.num 0 1) = false → (∀ e ∈ s.ctxs, e.2.bank = [] ∧ (e.1 ≠ r.num 0 1 → e.2.tiles = [])) →
    b.bank.length ≤ 4096 →
    exec (.ctxBind n seq) s = .next (s.answer n.val r (.ok (s.bindCtx (r.num 0 1) r b)))) ∧
  (∀ (s : State) (n : Fin 64) (seq : W32) (x : Sess) (r : Req) (y : Ctx), s.atTurn n seq 0x0103 x r → s.ctx? (r.num 0 1) = some y →
    x.role = .tenant y.owner → y.st = .running →
    exec (.ctxQuiesce n seq) s = .next (s.answer n.val r (.wait ((s.stopChans (r.num 0 1)).modCtx (r.num 0 1) (fun y => { y with
      quiescing := true, rewindDue := true }))))) ∧
  (∀ (s : State) (c : Fin 64) (y : Ctx), s.ctx? c.val = some y → y.st = .running → y.quiescing = true → s.inFlight c.val = false →
    y.closing = .idle → y.closeQ = [] →
    ∃ t y1, exec (.ctxQuiesceDone c) s = .next t ∧ t.ctx? c.val = some y1 ∧ y1.st = .quiesced ∧ y1.quiescing = false ∧
      y1.stepCount = y.stepCount ∧ y1.skipCount = y.skipCount ∧ y1.bankSel = y.bankSel) ∧
  (∀ (s : State) (n : Fin 64) (seq : W32) (x : Sess) (r : Req) (y : Ctx), s.atTurn n seq 0x0104 x r → s.ctx? (r.num 0 1) = some y →
    x.role = .tenant y.owner → y.st ≠ .destroying →
    exec (.ctxDestroy n seq) s = .next (s.answer n.val r (.ok (s.destroyCtx (r.num 0 1))))) ∧
  (∀ (s : State) (c : Fin 64) (y : Ctx), s.ctx? c.val = some y → y.st = .destroying →
    ∃ t, exec (.ctxClearComplete c) s = .next t ∧ t.ctxs = smErase s.ctxs c.val ∧
      t = { s with ctxs := t.ctxs, sess := t.sess, out := t.out, pkg := { s.pkg with bootEvents := t.pkg.bootEvents } })

/-- 06 R161: destroying a context stops all that it does: none of its operations, signals, reads, packets, queue pairs and
handles is left, its tiles are cleared, its keys are gone and its state is `DESTROYING`. -/
def Obligations.DestroyLeavesNothing : Prop :=
  ∀ (s : State) (c : Nat) (y : Ctx), s.ctx? c = some y → y.st ≠ .destroying →
    (∃ y1, (s.destroyCtx c).ctx? c = some y1 ∧ y1.st = .destroying ∧ y1.memKey = none ∧ y1.partKey = none ∧ y1.owner = y.owner) ∧
    (s.destroyCtx c).ops.all (fun o => o.ctx != c) ∧ (s.destroyCtx c).signals.all (fun g => g.ctx != c) ∧
    (s.destroyCtx c).xlates.all (fun g => g.ctx != c) ∧ (s.destroyCtx c).rxOpen.all (fun e => e.1 != c) ∧
    (s.destroyCtx c).qps.all (fun e => e.2.ctx != c)

/-- The channel commands take effect: a channel starts `IDLE` under a new handle, a window waits for its zero fill, a start
makes the channel `RUNNING` and its context too, a stop waits for the issued operations unless the channel is `FAULTED` (06 R163, R166, R171; 08 R227, R228). -/
def Obligations.ChannelCommandsComplete : Prop :=
  (∀ (s : State) (n : Fin 64) (seq : W32) (x : Sess) (r : Req) (y : Ctx) (c : Chan) (h : W32) (s1 : State), s.atTurn n seq 0x0201 x r →
    c = r.chan (if r.num 0 1 = 2 then r.num 4 1 else 0) →
    (r.num 0 1 = 1 ∨ r.num 0 1 = 2 ∨ r.num 0 1 = 3) → s.ctx? c.ctx = some y → x.role = .tenant y.owner →
    (y.st = .bound ∨ y.st = .running ∨ y.st = .quiesced) → r.clean [(0, 2), (4, if r.num 0 1 = 2 then 1 else 2), (8, 12), (24, 12), (40, 8)] = true →
    s.ringOk c = true → (r.num 0 1 = 1 → y.tiles.contains c.tile = true ∧ (s.chansWhere (fun z => z.kind == 1 && z.tile == c.tile)).length < 4) →
    (r.num 0 1 = 2 → r.num 4 1 = 0xFF ∨ c.engine < 20) →
    (r.num 0 1 = 3 → s.chansWhere (fun z => z.kind == 3 && z.ctx == c.ctx && z.stream == c.stream) = []) →
    s.watchesOn ((s.deviceAt c.ctrl).getD 0) < 1024 → s.newHandle (.chan c) = some (h, s1) →
    exec (.chanCreate n seq) s = .next (s.answer n.val r (.done (s1.writeCtl h) .ok (h.setWidth 3456) 4))) ∧
  (∀ (s : State) (n : Fin 64) (seq : W32) (x : Sess) (r : Req) (y : Ctx) (h : W32) (s1 : State), s.atTurn n seq 0x0201 x r →
    r.num 0 1 = 4 → s.ctx? r.window.ctx = some y → x.role = .tenant y.owner → y.st ≠ .destroying → y.memKey.isSome = true →
    r.clean [(0, 2), (4, 2), (8, 21)] = true → s.windowOk r = true →
    (r.window.devices.all (fun d => decide (r.window.framesEach ≤ (s.freeFramesOf d).length))) = true → (s.windowsOf r.window.ctx).length < 1024 →
    s.newHandle (.window r.window) = some (h, s1) →
    exec (.chanCreate n seq) s = .next (s.answer n.val r (.wait (s1.takeFrames h r.window)))) ∧
  (∀ (s : State) (n : Fin 64) (seq : W32) (x : Sess) (r : Req) (y : Ctx) (h : W32) (s1 : State), s.atTurn n seq 0x0201 x r →
    r.num 0 1 = 5 → s.ctx? (r.num 1 1) = some y → x.role = .tenant y.owner → y.st = .created → r.clean [(0, 2), (8, 12)] = true →
    0 < r.num 16 4 → r.num 16 4 ≤ 65536 → s.inWindow (r.num 1 1) (r.num 8 8) (8 * r.num 16 4) true = true → s.holdsSync (r.num 1 1) = false →
    s.newHandle (.sync { ctx := r.num 1 1, table := r.num 8 8, entries := r.num 16 4 }) = some (h, s1) →
    exec (.chanCreate n seq) s = .next (s.answer n.val r (.done s1 .ok (h.setWidth 3456) 4))) ∧
  (∀ (s : State) (h : W32) (w : Window), s.hobj? h = some (.window w) → w.ready = false →
    ∃ t, exec (.windowZeroFillDone h) s = .next t ∧ t.hobj? h = some (.window { w with ready := true }) ∧
      (∀ a, w.base ≤ a → a < w.base + w.length → memWf s.tier = true → memGet t.tier a = 0) ∧
      (∀ a, memWf s.tier = true → (a < w.base ∨ w.base + w.length ≤ a) → memGet t.tier a = memGet s.tier a)) ∧
  (∀ (s : State) (n : Fin 64) (seq : W32) (x : Sess) (r : Req) (h : W32) (c : Chan), s.atTurn n seq 0x0202 x r →
    h = BitVec.ofNat 32 (r.num 0 4) → s.quiescingOf h = false → h ≠ 0 → (hKind h = 1 ∨ hKind h = 2 ∨ hKind h = 3) →
    s.hobj? h = some (.chan c) → roleOwns s x.role (.chan c) = true → (c.st = .idle ∨ c.st = .stopped) → r.clean [(0, 5), (8, 4)] = true →
    r.num 4 1 ≤ 1 → s.sparingOf c.ctx = false →
    exec (.chanStart n seq) s = .next (s.answer n.val r (.ok (s.startChan h c
      (if r.num 4 1 = 1 then some (BitVec.ofNat 32 (r.num 8 4)) else none))))) ∧
  (∀ (s : State) (n : Fin 64) (seq : W32) (x : Sess) (r : Req) (h : W32) (c : Chan), s.atTurn n seq 0x0203 x r →
    h = BitVec.ofNat 32 (r.num 0 4) → h ≠ 0 → (hKind h = 1 ∨ hKind h = 2 ∨ hKind h = 3) → s.hobj? h = some (.chan c) →
    roleOwns s x.role (.chan c) = true → c.st = .running →
    exec (.chanStop n seq) s = .next (s.answer n.val r (.wait ((s.discard (fun o => o.ch == h && o.isQueued)).setChan h (fun y => { y with
      st := .stopped, stopping := true }))))) ∧
  (∀ (s : State) (n : Fin 64) (seq : W32) (x : Sess) (r : Req) (h : W32) (c : Chan), s.atTurn n seq 0x0203 x r →
    h = BitVec.ofNat 32 (r.num 0 4) → h ≠ 0 → (hKind h = 1 ∨ hKind h = 2 ∨ hKind h = 3) → s.hobj? h = some (.chan c) →
    roleOwns s x.role (.chan c) = true → c.st = .faulted →
    exec (.chanStop n seq) s = .next (s.answer n.val r (.ok (s.setChan h (fun y => { y with st := .stopped }))))) ∧
  (∀ (s : State) (h : W32) (c : Chan), s.chan? h = some c → c.stopping = true → (s.ops.all (fun o => o.ch != h)) = true →
    ∃ t, exec (.chanStopDone h) s = .next t ∧ t.chan? h = some { c with stopping := false } ∧ t = { s with handles := t.handles, sess := t.sess } ∧
      t.sess = (s.resolve (fun q => q.opcode == 0x0203 && q.num 0 4 == h.toNat) .ok 0 0 0).sess) ∧
  (∀ (s : State) (n : Fin 64) (seq : W32) (x : Sess) (r : Req) (h : W32) (o : HObj), s.atTurn n seq 0x0204 x r →
    h = BitVec.ofNat 32 (r.num 0 4) → s.ownHandle x h [1, 2, 3, 4, 5, 6, 7] o → (destroyRole x h).1 = false →
    (s.destroyCheck h).1 = false →
    exec (.chanDestroy n seq) s = .next (s.answer n.val r (.ok ((s.discard (fun o => o.ch == h && o.isQueued)).retireObj h)))) ∧
  (∀ (s : State) (n : Fin 64) (seq : W32) (x : Sess) (r : Req) (h : W32) (o : HObj), s.atTurn n seq 0x0205 x r →
    h = BitVec.ofNat 32 (r.num 0 4) → s.ownHandle x h [1, 2, 3, 4, 5, 6, 7] o →
    exec (.chanQuery n seq) s = .next (s.answer n.val r (.done s .ok (queryBody h o) 64)))

/-- 06 R163: a handle that is retired no longer names anything, and the slot's generation has advanced. -/
def Obligations.RetiredHandleIsStale : Prop :=
  ∀ (s : State) (h : W32), smSorted s.handles.gen = true → hGen h = s.handles.genOf (hSlot h) → s.handles.genOf (hSlot h) ≤ 16383 →
    (s.retire h).hobj? h = none ∧
    (s.retire h).handles.genOf (hSlot h) = (if s.handles.genOf (hSlot h) = 16383 then 1 else s.handles.genOf (hSlot h) + 1)

/-- Queue pairs and the Ethernet ports: the commands take effect (12 R352, R353, R356, R372). -/
def Obligations.QueuePairCommandsComplete : Prop :=
  (∀ (s : State) (n : Fin 64) (seq : W32) (x : Sess) (r : Req) (y : Ctx), s.atTurn n seq 0x0206 x r → s.ctx? (r.num 0 1) = some y →
    x.role = .tenant y.owner → y.st ≠ .destroying → r.clean [(0, 3), (16, 16)] = true → r.num 1 1 ≤ 7 → r.num 2 1 ≤ 2 →
    s.qpCount < 4096 → (s.qps.filter (fun e => e.2.ctx == r.num 0 1)).length < 1024 →
    exec (.qpCreate n seq) s = .next (s.answer n.val r (.done
      { s with qps := smPut s.qps s.newQp { ctx := r.num 0 1, port := r.num 1 1, mtu := r.num 2 1, partner := BitVec.ofNat 128 (r.be 16 16), service := s.newService s.newQp } }
      .ok (pack 3456 [(23, 0, s.newQp), (127, 64, (s.newService s.newQp).toNat)]) 16))) ∧
  (∀ (s : State) (n : Fin 64) (seq : W32) (x : Sess) (r : Req) (q : Qp) (y : Ctx), s.atTurn n seq 0x0207 x r → s.qp? (r.num 0 4) = some q →
    s.ctx? q.ctx = some y → x.role = .tenant y.owner → r.clean [(0, 4), (16, 16)] = true → q.work = [] →
    exec (.qpModify n seq) s = .next (s.answer n.val r (.done (s.modQp (r.num 0 4) (fun q => { q with
      partner := BitVec.ofNat 128 (r.be 16 16), st := if q.st = .error then .error else .idle, psn := 0 })) .ok
      (pack 3456 [(127, 64, q.service.toNat)]) 16))) ∧
  (∀ (s : State) (n : Fin 64) (seq : W32) (x : Sess) (r : Req) (q : Qp) (y : Ctx), s.atTurn n seq 0x0207 x r → s.qp? (r.num 0 4) = some q →
    s.ctx? q.ctx = some y → x.role = .tenant y.owner → r.clean [(0, 4), (16, 16)] = true → q.work ≠ [] →
    exec (.qpModify n seq) s = .next (s.answer n.val r (.refuse .stateConflict 0x5C))) ∧
  (∀ (s : State) (n : Fin 64) (seq : W32) (x : Sess) (r : Req) (q : Qp) (y : Ctx), s.atTurn n seq 0x0208 x r → s.qp? (r.num 0 4) = some q →
    s.ctx? q.ctx = some y → x.role = .tenant y.owner →
    exec (.qpDestroy n seq) s = .next (s.answer n.val r (.ok { s with qps := smErase s.qps (r.num 0 4) }))) ∧
  (∀ (s : State) (qp : BitVec 24) (p : BitVec 128) (q : Qp), s.qp? qp.toNat = some q → s.serves = true → (s.ethPort q.port).up = true →
    q.st = .idle → q.partner = p →
    exec (.qpConnect qp p) s = .next { s with qps := smPut s.qps qp.toNat { q with st := .connected, psn := 0 }, out := s.out ++ [.qpAccept qp.toNat] }) ∧
  (∀ (s : State) (qp : BitVec 24) (q : Qp), s.sessOfQp qp.toNat = none → s.qp? qp.toNat = some q → q.st = .connected →
    exec (.qpRetryExhausted qp) s = .next { s with qps := smPut s.qps qp.toNat { q with st := .error, work := [] } }) ∧
  (∀ (s : State) (qp : BitVec 24) (k : Nat) (x : Sess), s.sessOfQp qp.toNat = some (k, x) →
    exec (.qpRetryExhausted qp) s = .next (s.endSession k)) ∧
  (∀ (s : State) (qp : BitVec 24) (q : Qp), s.qpLive qp.toNat = some q → q.work = [] →
    exec (.sendOrAtomicRequest qp) s = .next { s with qps := smPut s.qps qp.toNat { q with st := .error, work := [] }, out := s.out ++ [.nak qp.toNat 1] }) ∧
  (∀ (s : State) (n : Fin 64) (seq : W32) (x : Sess) (r : Req), s.atTurn n seq 0x0307 x r → r.clean [(0, 2), (16, 26), (48, 64)] = true →
    r.num 0 1 ≤ 7 → r.num 1 1 = 31 → r.num 38 1 ≤ 7 → r.num 39 1 ≤ 7 → r.num 40 1 ≤ 63 → r.num 41 1 ≤ 63 →
    exec (.netConfig n seq) s = .next (s.answer n.val r (.ok (s.modEth (r.num 0 1) (fun p => { p with
      ipv6 := BitVec.ofNat 128 (r.be 16 16), ipv4 := BitVec.ofNat 32 (r.be 32 4), vlan := BitVec.ofNat 16 (r.num 36 2)
      prioData := BitVec.ofNat 8 (r.num 38 1), prioCtrl := BitVec.ofNat 8 (r.num 39 1), dscpData := BitVec.ofNat 8 (r.num 40 1)
      dscpCtrl := BitVec.ofNat 8 (r.num 41 1), macsec := some (BitVec.ofNat 256 (r.num 48 32), BitVec.ofNat 256 (r.num 80 32)) }))))) ∧
  (∀ (s : State) (port : Fin 8) (f : EthFrame), s.serves = true → (s.ethPort port.val).up = true → f.body ≠ .mka → f.protected_ = false →
    f.crosses = false → exec (.ethFrameRx port f) s = .next (s.modEth port.val (fun p => { p with dropped := p.dropped + 1 }))) ∧
  (∀ (s : State) (port : Fin 8) (f : EthFrame), s.serves = true → (s.ethPort port.val).up = true → f.protected_ = true → f.verifies = true →
    f.crosses = false → frameListed f (s.ethPort port.val) = true →
    exec (.ethFrameRx port f) s = .next { s with out := s.out ++ (s.ethPort port.val).replies port.val f }) ∧
  (∀ (s : State) (port prio : Fin 8), s.serves = true → (s.ethPort port.val).up = true →
    ((s.ethPort port.val).prioData.toNat = prio.val ∨ (s.ethPort port.val).prioCtrl.toNat = prio.val) →
    (s.ethPort port.val).paused.getLsbD prio.val = false →
    exec (.pfcPauseRx port prio true) s = .next { s.modEth port.val (fun p => { p with
      paused := p.paused ||| (1#8 <<< prio.val), pausedAt := modAt p.pausedAt prio.val (fun _ => s.now) }) with out := s.out ++ [.paused port.val prio.val true] })

/-- RDMA on a data queue pair: a write within a ready window stores the plaintext of the lines, and waits where that memory is
held; a read returns the ciphertext of what stands there (12 R356, R357; 14 R409); a request outside the window is refused with a
remote access NAK, and counted.  On a session's queue pair a write outside its mailbox area ends the session (12 R361). -/
def Obligations.RdmaCompletes : Prop :=
  (∀ (s : State) (qp : BitVec 24) (rkey : W32) (va : BitVec 64) (data : List (BitVec 8)) (q : Qp), s.sessOfQp qp.toNat = none →
    s.qpLive qp.toNat = some q → q.work = [] → s.rdmaOk q rkey va data.length = true → s.accessHeld q.ctx va.toNat data.length = false →
    ∃ t : State, exec (.rdmaWrite qp rkey va data) s = .next t ∧ t.tier = (s.storeCipher q.ctx va.toNat (linesOf data.length data)).tier ∧
      t.qps = smPut s.qps qp.toNat { q with psn := q.psn + BitVec.ofNat 24 (q.packets data.length) } ∧ t.ops = s.ops ∧ t.tiles = s.tiles ∧
      t.ctxs = s.ctxs ∧ t.out.getLast? = some (.rdmaAck qp.toNat)) ∧
  (∀ (s : State) (qp : BitVec 24) (rkey : W32) (va : BitVec 64) (data : List (BitVec 8)) (q : Qp), s.sessOfQp qp.toNat = none →
    s.qpLive qp.toNat = some q → q.work = [] → s.rdmaOk q rkey va data.length = true → s.accessHeld q.ctx va.toNat data.length = true →
    exec (.rdmaWrite qp rkey va data) s = .next { s with
      qps := smPut s.qps qp.toNat { q with work := [.write rkey va.toNat data] } }) ∧
  (∀ (s : State) (n : Nat) (x : Sess) (qp : BitVec 24) (va : BitVec 64) (data : List (BitVec 8)), s.sessOfQp qp.toNat = some (n, x) →
    va.toNat < mailboxAt n → exec (.rdmaWrite qp x.areaKey va data) s = .next ((s.emit (.nak x.qpn 2)).endSession n)) ∧
  (∀ (s : State) (qp : BitVec 24) (rkey : W32) (va : BitVec 64) (len : W32) (q : Qp), s.sessOfQp qp.toNat = none →
    s.qpLive qp.toNat = some q → q.work = [] →
    s.rdmaOk q rkey va len.toNat = true → s.accessHeld q.ctx va.toNat len.toNat = false → s.tierBad q.ctx va.toNat len.toNat = false →
    exec (.rdmaRead qp rkey va len) s = .next { s with
      qps := smPut s.qps qp.toNat { q with psn := q.psn + BitVec.ofNat 24 (q.packets len.toNat) }
      out := s.out ++ [.rdmaData qp.toNat ((List.range (len.toNat / 64)).map (fun i => Config.xtsEnc (s.memKeyOf q.ctx) (s.tweak q.ctx (va.toNat + 64 * i))
        (BitVec.ofNat 512 (s.tierRead q.ctx (va.toNat + 64 * i) 64))))] }) ∧
  (∀ (s : State) (qp : BitVec 24) (rkey : W32) (va : BitVec 64) (data : List (BitVec 8)) (q : Qp), s.sessOfQp qp.toNat = none →
    s.qpLive qp.toNat = some q → q.work = [] → s.rdmaOk q rkey va data.length = false → exec (.rdmaWrite qp rkey va data) s = .next (s.nakQp qp.toNat 2 q.ctx))

/-- The partition commands take effect (11 R322 to R325, R333, R338 to R341; 09 R264, R266). -/
def Obligations.PartitionCommandsComplete : Prop :=
  (∀ (s : State) (n : Fin 64) (seq : W32) (x : Sess) (r : Req), s.atTurn n seq 0x0301 x r → s.ptag = 0 →
    (∀ a : Fin 3, coordOf (BitVec.ofNat 32 (r.num 0 4) &&& ~~~(0xF8#32)) 31 a.val < coordOf (BitVec.ofNat 32 (r.num 0 4) &&& ~~~(0xF8#32)) 19 a.val + 1) →
    exec (.partSetCoord n seq) s = .next (s.answer n.val r (.ok { s with part := { s.part with fabCfg := BitVec.ofNat 32 (r.num 0 4) &&& ~~~(0xF8#32) } }))) ∧
  (∀ (s : State) (n : Fin 64) (seq : W32) (x : Sess) (r : Req) (v : W64), s.atTurn n seq 0x0302 x r →
    v = BitVec.ofNat 64 (r.num 0 8) &&& ~~~(0x7FF#64) → cfgPtag v ≠ 0 → s.joinBad v = false → s.onPartition = false →
    exec (.partJoin n seq) s = .next (s.answer n.val r (.ok { s with part := { s.part with partCfg := v } }))) ∧
  (∀ (s : State) (n : Fin 64) (seq : W32) (x : Sess) (r : Req), s.atTurn n seq 0x0305 x r → r.num 0 1 = 1 →
    exec (.faultModeSet n seq) s = .next (s.answer n.val r (.ok { s with part := { s.part with partCfg := (s.part.partCfg &&& ~~~(0x800#64)) ||| 0x800#64 } }))) ∧
  (∀ (s : State) (n : Fin 64) (seq : W32) (x : Sess) (r : Req), s.atTurn n seq 0x0305 x r → r.num 0 1 = 0 → s.holdsGrant = false →
    (∀ a : Fin 3, cfgMode s.part.partCfg a.val ≠ 2) →
    exec (.faultModeSet n seq) s = .next (s.answer n.val r (.ok { s with part := { s.part with partCfg := s.part.partCfg &&& ~~~(0x800#64) } }))) ∧
  (∀ (s : State) (n : Fin 64) (seq : W32) (x : Sess) (r : Req), s.atTurn n seq 0x0306 x r → r.clean [(0, 3)] = true → r.num 0 2 < 4096 →
    r.num 2 1 = 1 → s.holdsGrant = false →
    exec (.leveeRaise n seq) s = .next (s.answer n.val r (.done { s with part := { s.part with levee := s.part.levee ||| BitVec.ofNat 12 (r.num 0 2) } } .ok
      ((s.part.levee ||| BitVec.ofNat 12 (r.num 0 2)).setWidth 3456) 2))) ∧
  (∀ (s : State) (n : Fin 64) (seq : W32) (x : Sess) (r : Req), s.atTurn n seq 0x0306 x r → r.clean [(0, 3)] = true → r.num 0 2 < 4096 →
    r.num 2 1 = 0 →
    exec (.leveeRaise n seq) s = .next (s.answer n.val r (.done { s with part := { s.part with levee := s.part.levee &&& ~~~(BitVec.ofNat 12 (r.num 0 2)) } } .ok
      ((s.part.levee &&& ~~~(BitVec.ofNat 12 (r.num 0 2))).setWidth 3456) 2))) ∧
  (∀ (s : State) (n : Fin 64) (seq : W32) (x : Sess) (r : Req) (b : BitVec 128) (h : W32) (s1 : State), s.atTurn n seq 0x0304 x r →
    b = BitVec.ofNat 128 (r.num 0 16) → fieldN b 127 64 = s.sec.serial.toNat → fieldN b 47 46 ≠ 3 → fieldN b 45 40 ≤ 50 → fieldN b 39 32 = 0 →
    (∀ i, smGet? s.part.issues (fieldN b 63 48) = some i → i.toNat < fieldN b 31 0) → (s.ptag = 0 ∨ cfgReplay s.part.partCfg = true) →
    fieldN b 63 48 ≠ s.ptag → s.grants < 8 → s.newShare b ≤ 50 → s.newHandle (.grant { body := b }) = some (h, s1) →
    exec (.transitGrant n seq) s = .next (s.answer n.val r (if s.operatorSigned 128 b.toNat (r.num 16 96) then
      .done { s1 with part := { s1.part with issues := smPut s1.part.issues (fieldN b 63 48) (BitVec.ofNat 32 (fieldN b 31 0)) } } .ok (h.setWidth 3456) 4
      else .refuse .authFailed 0))) ∧
  (∀ (s : State) (n : Fin 64) (seq : W32) (x : Sess) (r : Req), s.atTurn n seq 0x0303 x r →
    r.clean ([(0, 2), (400, 32)] ++ (List.range 12).map (fun j => (16 + 24 * j, 13))) = true → r.num 0 2 = 1 → r.num 400 32 ≠ 0 →
    r.linkAct 0 = 2 → s.scopeDue = [] →
    exec (.linkExpect n seq) s = .next (s.answer n.val r (.ok { s with
      sec := { s.sec with fabricKey := some (BitVec.ofNat 256 (r.num 400 32)) }, ports := modAt s.ports 0 (fun p => { p with expect := none }) })))

/-- The commands of telemetry, time and power take effect (15 R431, R445; 16 R458, R464). -/
def Obligations.ServiceCommandsComplete : Prop :=
  (∀ (s : State) (n : Fin 64) (seq : W32) (x : Sess) (r : Req) (u : Sub) (h : W32) (s1 : State), s.atTurn n seq 0x0401 x r →
    u = { owner := (match x.role with | .tenant i => some i | _ => none), kinds := BitVec.ofNat 5 (r.num 0 1), port := r.num 1 1, k := r.num 2 2,
          udp := r.num 4 2, addr := BitVec.ofNat 128 (r.num 16 16), filters := r.filters } →
    r.clean [(0, 6), (16, 400)] = true → r.num 0 1 ≤ 31 → r.num 1 1 ≤ 3 → 1 ≤ r.num 2 2 → r.num 2 2 ≤ 6000 → s.subs.length < 64 →
    s.newHandle (.sub u) = some (h, s1) →
    exec (.gaugeSubscribe n seq) s = .next (s.answer n.val r (.done s1 .ok (h.setWidth 3456) 4))) ∧
  (∀ (s : State) (n : Fin 64) (seq : W32) (x : Sess) (r : Req), s.atTurn n seq 0x0402 x r → r.clean [(0, 10), (16, 8)] = true →
    r.num 8 2 = 1 → r.num 16 8 = 0 → s.now + 1000000 ≤ r.num 0 8 → r.num 0 8 ≤ s.now + 86400 * 10 ^ 9 → s.telem.series.length < 16 →
    exec (.snapshotSchedule n seq) s = .next (s.answer n.val r (.ok { s with telem := { s.telem with
      series := s.telem.series ++ [{ t := r.num 0 8, n := 1, p := 0 }] } }))) ∧
  (∀ (s : State) (n : Fin 64) (seq : W32) (x : Sess) (r : Req), s.atTurn n seq 0x0410 x r → r.clean [(0, 7), (8, 3)] = true →
    r.num 0 1 ≤ 4 → r.num 1 1 ≤ 2 → r.num 3 1 ≤ 15 → r.num 4 1 ≤ 2 → r.num 5 2 ≤ 4095 → (r.num 0 1 = 1 ∨ r.num 0 1 = 2 → r.num 3 1 ≠ 0) →
    ∃ t, exec (.timeRoleSet n seq) s = .next (s.answer n.val r (.ok t)) ∧ t.time.ptpRole = r.num 0 1 ∧ t.time.profile = r.num 1 1 ∧
      t.time.domain = BitVec.ofNat 8 (r.num 2 1) ∧ t.time.portMask = BitVec.ofNat 4 (r.num 3 1) ∧ t.time.torusRole = r.num 4 1 ∧
      t.time.root = BitVec.ofNat 12 (r.num 5 2) ∧ t.time.prio = BitVec.ofNat 16 (r.num 8 2) ∧ t.time.clockClass = BitVec.ofNat 8 (r.num 10 1) ∧
      t.time.ns = s.time.ns ∧ t.time.frac = s.time.frac) ∧
  (∀ (s : State) (n : Fin 64) (seq : W32) (x : Sess) (r : Req), s.atTurn n seq 0x0701 x r → r.clean [(0, 4)] = true → 6000 ≤ r.num 0 4 →
    r.num 0 4 ≤ 14000 → s.power.envelope ≠ r.num 0 4 →
    exec (.powerEnvelopeSet n seq) s = .next (s.answer n.val r (.ok ({ s with power := { s.power with envelope := r.num 0 4 } }.event 0x0704 0 0 none 0)))) ∧
  (∀ (s : State) (n : Fin 64) (seq : W32) (x : Sess) (r : Req), s.atTurn n seq 0x0701 x r → (r.num 0 4 < 6000 ∨ 14000 < r.num 0 4) →
    exec (.powerEnvelopeSet n seq) s = .next (s.answer n.val r (.refuse .badArg 0)))

/-- Firmware staging and activation take effect, wave by wave (13 R387 to R392). -/
def Obligations.FirmwareCommandsComplete : Prop :=
  (∀ (s s1 : State) (n : Fin 64) (seq : W32) (x : Sess) (r : Req) (data : List Byte) (img : Image) (k : Nat), s.atTurn n seq 0x0501 x r → k = r.num 0 1 →
    k < 6 → r.clean [(0, 1), (4, 16)] = true → r.num 4 4 ≤ classLimit k → r.num 4 4 ≤ data.length → img = readImage (data.take (r.num 4 4)) →
    (s.fwClass k).act = 0 → s.diesOn k (s.fwClass k).inactive = 0 → s1 = s.emit (.rdmaRead x.qpn (r.num 8 8) (r.num 16 4) (r.num 4 4)) →
    exec (.fwStage n seq data true false) s = .next (if s.verifies k img = true then
      (s1.answer n.val r (.ok (s1.modFw k (fun c => c.setImage c.inactive (some img))))).staged r .equal
      else s1.answer n.val r (.refuse .authFailed 0))) ∧
  (∀ (s : State) (n : Fin 64) (seq : W32) (x : Sess) (r : Req) (k : Nat) (todo : List Nat), s.atTurn n seq 0x0502 x r → k = r.num 0 1 → k < 6 →
    r.clean [(0, 1), (4, 11), (16, 4)] = true → r.num 16 4 ≤ 86400 → ((s.fwClass k).staged || s.mixed k) = true → (s.fwClass k).act = 0 → s.power.emerg = false →
    todo = (s.liveMgrs k).filter (fun n => (n == 88 || (r.num 4 11).testBit n) && (s.mgr n).slot != !(s.fwClass k).bootSlot) → todo ≠ [] →
    exec (.fwActivate n seq) s = .next (s.answer n.val r (.wait ((s.modFw k (fun c => { c with
      todo := todo, wave := [], cut := false, windowEnd := r.takenAt + (if r.num 16 4 = 0 then 600 else r.num 16 4) * 10 ^ 9 })).startWave k)))) ∧
  (∀ (s : State) (cls : Fin 6), (s.fwClass cls.val).act = 1 → s.pkg.mgr.st = .running → (s.fwClass cls.val).wave.any s.waveStuck = false →
    (s.fwClass cls.val).todo ≠ [] → s.emergency = false →
    exec (.activationWave cls) s = .next ((((s.fwClass cls.val).wave.foldl State.reports s).modFw cls.val (fun c => { c with wave := [] })).startWave cls.val)) ∧
  (∀ (s : State) (cls : Fin 6), (s.fwClass cls.val).act = 2 → s.pkg.mgr.st = .running → s.emergency = false →
    exec (.activationResume cls) s = .next (s.startWave cls.val)) ∧
  (∀ (s : State) (cls : Fin 6), (s.fwClass cls.val).act = 2 → (s.fwClass cls.val).wave = [] →
    ∃ t u, exec (.fwActivationExpired cls) s = .next (u.endActivation cls.val) ∧ u = t.event 0x0502 0 0 none (pack 3328 [(7, 0, cls.val)]) ∧
      t = s.modFw cls.val (fun c => { c with todo := [], cut := true })) ∧
  (∀ (s : State) (die : Fin 88) (old : Bool), (s.mgr die.val).trial = some old → (s.mgr die.val).st = .restarting →
    (s.fwClass (mgrClass die.val)).act = 0 →
    exec (.fwRolledBack die) s = .next ((match s.startOn die.val old with
      | none => s.bothFail die.val
      | some s1 => (s1.recordSlot die.val old).event 0x0508 2 die.val none 0).event 0x0503 2 die.val none 0))

/-- 13 R390: a manager that starts in a slot runs the image of that slot, from the present tide, with no trial under way. -/
def Obligations.ManagerRunsSlot : Prop :=
  ∀ (s : State) (d : Nat) (slot : Bool), d < 88 → s.dies.length = 88 →
    ((s.runSlot d slot).mgr d).st = .running ∧ ((s.runSlot d slot).mgr d).slot = slot ∧ ((s.runSlot d slot).mgr d).startAt = s.now ∧
      ((s.runSlot d slot).mgr d).trial = none ∧ ((s.runSlot d slot).mgr d).crashes = (s.mgr d).crashes ∧
      (∀ e, e < 88 → e ≠ d → (s.runSlot d slot).mgr e = s.mgr e)

/-- Test and repair commands take effect (17 R474 to R480, R484, R489). -/
def Obligations.RepairCommandsComplete : Prop :=
  (∀ (s : State) (n : Fin 64) (seq : W32) (x : Sess) (r : Req), s.atTurn n seq 0x0510 x r → r.num 0 1 < 88 → bistApplies (r.num 0 1) (r.num 1 1) = true →
    r.num 2 1 ≤ 1 → s.isFenced (r.num 0 1) = true → (s.dies.filter (fun x => x.bist.isSome)).length < 16 →
    exec (.bistRun n seq) s = .next (s.answer n.val r (.wait (s.modDie (r.num 0 1) (fun x => { x with
      bist := some (r.num 1 1), bistRepair := r.num 2 1 == 1 }))))) ∧
  (∀ (s : State) (die : Fin 88) (sig : BitVec 64) (rep us : W32), (s.die die.val).bist = some 1 → sig ≠ s.expectedSig die.val 1 →
    s.scopeDue = [] →
    ∃ t, exec (.bistDone die sig true rep us) s = .next (t.resolve (fun q => q.opcode == 0x0510 && q.num 0 1 == die.val) .ok 0
        (BitVec.ofNat 3456 (bistBody die.val 1 false 0 sig.toNat (s.expectedSig die.val 1).toNat us.toNat)) 28).settle ∧
      t = ((s.modDie die.val (fun x => { x with bist := none, bistRepair := false })).directHealth (dieObj die.val) .failed .bist).event
        0x0580 2 die.val none (BitVec.ofNat 3328 (bistBody die.val 1 false 0 sig.toNat (s.expectedSig die.val 1).toNat us.toNat))) ∧
  (∀ (s : State) (n : Fin 64) (seq : W32) (x : Sess) (r : Req), s.atTurn n seq 0x0511 x r → r.num 1 1 = 0 → (s.fenceArgs r).1 = false →
    s.isFenced (r.num 0 1) = false →
    exec (.dieFence n seq) s = .next (s.answer n.val r (.ok
      ((((s.fenceDie (r.num 0 1)).event 0x0581 2 (r.num 0 1) none 0).fenceScope (r.num 0 1)).settle)))) ∧
  (∀ (s : State) (n : Fin 64) (seq : W32) (x : Sess) (r : Req), s.atTurn n seq 0x0511 x r → r.num 1 1 = 1 → (s.fenceArgs r).1 = false →
    (s.health (dieObj (r.num 0 1))).st ≠ .failed → s.isFenced (r.num 0 1) = true →
    exec (.dieRelease n seq) s = .next (s.answer n.val r (match s.startMgr (r.num 0 1) with
      | none => .refuse .hwFault 0
      | some s1 => .ok ((s1.backInService (r.num 0 1)).event 0x0582 2 (r.num 0 1) none 0).settle))) ∧
  (∀ (s : State) (n : Fin 64) (seq : W32) (x : Sess) (r : Req) (s1 : State), s.atTurn n seq 0x0512 x r → r.num 0 1 < 64 → r.num 1 1 = 0 →
    r.num 2 1 = 0 → r.num 3 1 = 0xFF → s.boundTo (r.num 0 1) none ≠ [] → (s.die (r.num 0 1)).cstate = .enabled →
    s.startSparing (r.num 0 1) none none true false = some s1 →
    exec (.dieSpare n seq) s = .next (s.answer n.val r (.wait s1))) ∧
  (∀ (s : State) (n : Fin 64) (seq : W32) (x : Sess) (r : Req) (d : Nat), s.atTurn n seq 0x0513 x r → r.num 0 1 = 0 → d = r.num 1 1 → d < 20 →
    r.num 2 1 = 0 → r.clean [(0, 3), (4, 2), (8, 8)] = true → (s.die (devDie d)).mgr.st = .running →
    exec (.hbmRepair n seq true) s = .next (s.answer n.val r (.ok (((((s.modDev d (fun x => { x with
      softRepairs := x.softRepairs ++ [(r.num 4 1, r.num 5 1, r.num 8 4)] })).recordRepairs d).repairedHealth (devObj d)).event 0x0585 2 (devDie d) none 0).settle))))

/-- A sparing goes on step by step: the target is prepared, the tiles move, the inactive bank is written, and the flip makes it
the active one, with the source retired and the target enabled (01 R38 to R41; 17 R485 to R487). -/
def Obligations.SparingCompletes : Prop :=
  (∀ (s : State) (src : Fin 64) (tile : Option (Fin 8)) (rep : W32) (x : Sparing), s.sparing? src tile = some x → x.phase = .preparing →
    s.pkg.mgr.st = .running → (s.mgr x.target).st ≠ .restarting → s.pkg.st ≠ .boot → (s.die x.target).cstate = .enabled →
    exec (.sparePrepare src tile true rep) s = .next (s.modSparing x (fun y => { y with phase := .ready }))) ∧
  (∀ (s : State) (src : Fin 64) (tile : Option (Fin 8)) (x : Sparing), s.sparing? src tile = some x → x.warm = true → x.phase = .ready → x.atClose = false →
    s.boundTo x.src x.tile ≠ [] → (s.boundTo x.src x.tile).all (fun l => (s.tileL l).moving) = true → (s.boundTo x.src x.tile).all s.tileQuiet = true →
    exec (.warmMove src tile) s = .next (s.modSparing x (fun y => { y with phase := .copied }))) ∧
  (∀ (s : State) (src : Fin 64) (tile : Option (Fin 8)) (x : Sparing), s.sparing? src tile = some x → x.warm = false → x.phase = .ready → s.ctxs = [] →
    exec (.coldMove src tile) s = .next (((s.movesOf x).foldl (fun s m => s.modTileP m.2 Tile.clear) s).modSparing x (fun y => { y with phase := .copied }))) ∧
  (∀ (s : State) (src : Fin 64) (tile : Option (Fin 8)) (x : Sparing), s.sparing? src tile = some x → x.phase = .copied →
    (s.pkg.sparings.any (fun y => y.phase == .binding)) = false → s.pkg.mgr.st = .running →
    ∃ t, exec (.remapChange src tile) s = .next t ∧ t.pkg.activeBank = s.pkg.activeBank ∧ t.pkg.remapHold = (s.movesOf x).map (·.1) ∧
      (∀ l, t.phys l = s.phys l) ∧ t = { s with pkg := t.pkg } ∧
      (if s.pkg.activeBank then t.pkg.bank0 else t.pkg.bank1) = (s.movesOf x).foldl (fun b m => b.set m.1 m.2) s.bank) ∧
  (∀ (s : State) (x : Sparing), s.pkg.sparings.find? (fun y => y.phase == .binding) = some x → x.tile = none → x.src < 64 → x.target < 64 →
    x.src ≠ x.target → s.dies.length = 88 →
    ∃ t, exec .remapFlip s = .next t ∧ t.pkg.activeBank = !s.pkg.activeBank ∧ t.pkg.generation = s.pkg.generation + 1 ∧ t.pkg.remapHold = [] ∧
      t.pkg.bank0 = s.pkg.bank0 ∧ t.pkg.bank1 = s.pkg.bank1 ∧ (t.die x.src).cstate = .retired ∧ (t.die x.target).cstate = .enabled)

/-- Attestation, keying and debug commands take effect; what a signature or a message of the standards says is whatever those
functions give (14 R405 to R408, R419 to R421). -/
def Obligations.SecurityCommandsComplete : Prop :=
  (∀ (s : State) (n : Fin 64) (seq : W32) (x : Sess) (r : Req), s.atTurn n seq 0x0601 x r →
    exec (.attest n seq) s = .next (s.answer n.val r (.done ((s.modSess n.val (·.withChunks (s.spdm n.val x r.message).1)).use 1) .ok
      (bodyOf (s.spdm n.val x r.message).2) (s.spdm n.val x r.message).2.length))) ∧
  (∀ (s : State) (n : Fin 64) (seq : W32) (x : Sess) (r : Req) (q : List Byte), s.atTurn n seq 0x0602 x r → r.issuer = none → x.keys = none →
    x.handshake = 2 → (x.spdmTake r.message).req = some q →
    ∃ t st, exec (.sessionKey n seq) s = .next (s.answer n.val r (.done t st (bodyOf (s.spdm n.val x r.message).2) (s.spdm n.val x r.message).2.length)) ∧
      (s.flowMeaning n.val x q = 4 → st = .ok ∧ ∃ y, t.sess? n.val = some y ∧
        y.role = s.roleOf x.chainEnd x.chainLeaf ∧ y.keys = some (newKeys s.draw)) ∧
      (s.flowMeaning n.val x q ≠ 4 → ∃ y, t.sess? n.val = some y ∧ y.role = x.role ∧ y.keys = none ∧ y.handshake = 0)) ∧
  (∀ (s : State) (n : Fin 64) (seq : W32) (x : Sess) (r : Req), s.atTurn n seq 0x0F01 x r → r.num 0 8 = s.sec.serial.toNat → s.now ≤ r.num 8 8 →
    s.sec.debug = none →
    exec (.debugOpen n seq) s = .next (s.answer n.val r (if s.operatorSigned 128 (r.num 0 16) (r.num 16 96) then
      .ok { ((s.ctxs.map (·.1)).foldl State.destroyCtx s) with sec := { ((s.ctxs.map (·.1)).foldl State.destroyCtx s).sec with debug := some n.val, debugSeen := true } }
      else .refuse .authFailed 0))) ∧
  (∀ (s : State) (n : Nat), s.sec.debug = some n → exec .debugSessionEnd s = .next (s.endSession n))

/-- Registers are read and written: REG_READ and REG_WRITE in a debug session, the utility cores and managers by their own
writes, and a write of 1 clears a flag (00 R15 to R18; 14 R420, R421). -/
def Obligations.RegisterCommandsComplete : Prop :=
  (∀ (s : State) (n : Fin 64) (seq : W32) (x : Sess) (r : Req), s.atTurn n seq 0x0F02 x r → r.clean [(0, 10)] = true → r.num 0 8 % 8 = 0 →
    r.num 8 2 = 1 → inControl (r.num 0 8) = true → s.sec.debug = some n.val →
    exec (.regRead n seq) s = .next (s.answer n.val r (.done (s.use 2) .ok (pack 3456
      [(31, 0, ((s.reg32 (r.num 0 8)).getD (Config.freeBits 32 s.draw)).toNat), (63, 32, ((s.reg32 (r.num 0 8 + 4)).getD (Config.freeBits 32 (s.draw + 1))).toNat)]) 8))) ∧
  (∀ (s : State) (n : Fin 64) (seq : W32) (x : Sess) (r : Req), s.atTurn n seq 0x0F03 x r → r.num 0 8 % 8 = 0 → inControl (r.num 0 8) = true →
    s.sec.debug = some n.val →
    exec (.regWrite n seq) s = .next (s.answer n.val r (.ok
      ((s.writeReg (r.num 0 8) (BitVec.ofNat 32 (r.num 8 4)) (BitVec.ofNat 32 (r.num 16 4))).writeReg (r.num 0 8 + 4)
        (BitVec.ofNat 32 (r.num 12 4)) (BitVec.ofNat 32 (r.num 20 4)))))) ∧
  (∀ (s : State) (agent : Option (Fin 480)) (a : BitVec 48) (v : W32), s.mayWrite agent a.toNat = true →
    exec (.registerWrite agent a v) s = .next (s.writeReg a.toNat v 0xFFFFFFFF)) ∧
  (∀ (s : State) (v : W32), s.mayWrite none 0xFF00FF600018 = true → s.instantDue = false →
    exec (.w1cClear none 0xFF00FF600018#48 v []) s = .next { s with part := { s.part with evt := s.part.evt &&& ~~~(v.setWidth 4) } }) ∧
  (∀ (s : State) (v : W32), s.mayWrite none 0xFF00FF60001C = true →
    exec (.registerWrite none 0xFF00FF60001C#48 v) s = .next { s with part := { s.part with evtEn := v.setWidth 4 } }) ∧
  (∀ (s : State) (v : W32), s.mayWrite none 0xFF00FF600018 = true → s.instantDue = true → s.noteCleared 0xFF00FF600018 v 0xFFFFFFFF ≠ s →
    ∃ (t : State) (bits : W32), exec (.w1cClear none 0xFF00FF600018#48 v []) s = .next t ∧ t.telem.cleared = s.telem.cleared ++ [(0xFF00FF600018, bits)] ∧
      bits = s.part.evt.setWidth 32 &&& v ∧ t.part.evt = s.part.evt &&& ~~~(v.setWidth 4))

/-! ### Rings, waits and operations (06) -/

/-- The ring commands take effect: software writes `PRODUCER` and `CPL_CONSUMER` into the control block, the channel's fetch
engine takes the next descriptor in ring order, and a finished operation completes (06 R167 to R176). -/
def Obligations.RingCommandsComplete : Prop :=
  (∀ (s : State) (h v : W32) (c : Chan), s.chan? h = some c → s.accessHeld c.ctx c.ctrl 4 = false →
    exec (.producerWrite h v) s = .next (s.store c.ctx c.ctrl (toBytes 4 v.toNat))) ∧
  (∀ (s : State) (h v : W32) (c : Chan), s.chan? h = some c → s.accessHeld c.ctx c.ctrl 8 = false →
    s.ops.any (fun o => o.ch == h && o.phase == .held) = false →
    exec (.cplConsumerWrite h v) s = .next (s.store c.ctx (c.ctrl + 4) (toBytes 4 v.toNat))) ∧
  (∀ (s : State) (h : W32) (c : Chan) (raw : BitVec 1024), s.chan? h = some c → c.st = .running → c.fired = false → s.scopeDue = [] →
    s.accessHeld c.ctx c.ctrl 64 = false → s.accessHeld c.ctx c.ring (c.ringN * entryBytes c.kind) = false → s.fetches c = true →
    s.itsTurn h c = true → (c.producer - c.consumer).toNat = (c.nextFetch - c.consumer).toNat + 1 → (c.producer - c.consumer).toNat ≤ c.ringN →
    s.tierBad c.ctx (c.ring + entryBytes c.kind * (c.nextFetch.toNat % c.ringN)) (entryBytes c.kind) = false →
    raw = BitVec.ofNat 1024 (s.tierRead c.ctx (c.ring + entryBytes c.kind * (c.nextFetch.toNat % c.ringN)) (entryBytes c.kind)) →
    s.fetchRoom h c raw = true → s.fetchCause c raw = .none →
    ∃ (t : State) (c1 : Chan) (o : Op), exec (.descriptorFetch h) s = .next t ∧ t.chan? h = some c1 ∧ c1.nextFetch = c.nextFetch + 1 ∧
      t.ops.length = s.ops.length + 1 ∧ t.ops.getLast? = some o ∧ o.id = s.nextOp ∧ o.ch = h ∧ o.desc = raw ∧ o.idx = c.nextFetch ∧
      o.phase = .queued ∧ t.nextOp = s.nextOp + 1 ∧ t.tier = s.tier) ∧
  (∀ (s : State) (o : Op), s.op? o.id = some o → o.phase = .finished →
    exec (.operationComplete o.id) s = .next (s.completeHere o).settle)

/-- 06 R169: a write of `PRODUCER` fires the write-watch of a `RUNNING` channel, and leaves every byte of tier memory but its
four as it was. -/
def Obligations.ProducerFires : Prop :=
  ∀ (s t : State) (h v : W32) (c : Chan), memWf s.tier = true → s.chan? h = some c → c.st = .running → s.accessHeld c.ctx c.ctrl 4 = false →
    (∀ x, s.ctx? c.ctx = some x → x.bank = []) → exec (.producerWrite h v) s = .next t →
    memReadN t.tier c.ctrl 4 = v.toNat ∧ (∀ a, a < c.ctrl ∨ c.ctrl + 4 ≤ a → memGet t.tier a = memGet s.tier a) ∧
    t.chan? h = some { c with fired := true } ∧ t.ops = s.ops ∧ t.tiles = s.tiles

/-- The commands of the sync fabric take effect: a granted wait takes `TAKE` from its cell, a signal adds `ADD`, a refused wait
is repeated, a read of an entry returns; utility cores signal, take, fault and wake.  A core fetches an instruction of four bytes from
its local memory and carries it out, an `ADDI` among them (its encoding as in the RISC-V specification, log 91), and a load or store
that its bounds refuse raises the access fault of its kind (06 R186 to R192; 01 R45, R50). -/
def Obligations.SyncCommandsComplete : Prop :=
  (∀ (s : State) (l : Fin 480) (q : Fin 8) (o : Op) (id : Nat) (x : Xlate) (c : Cell), s.headOf l.val q.val = some o → s.op? o.id = some o →
    o.tile = l.val → o.kind = 1 → o.sync.loc = false → o.sync.waits[o.waits]? = some id → o.waitPend = false → o.retry = false →
    s.isHeld l.val = false → s.cached l.val id = some x → s.isHeld x.home = false → (s.tileL x.home).cell? o.ctx id = some c → c.waits = [] → c.take ≤ c.count →
    ∃ (t : State) (p : Op) (d : Cell), exec (.syncWait (.queue l q)) s = .next t ∧ t.op? o.id = some p ∧ p.waits = o.waits + 1 ∧ p.waitPend = false ∧
      (t.tileL x.home).cell? o.ctx id = some d ∧ d.count = c.count - c.take ∧ d.take = c.take ∧ d.waits = []) ∧
  (∀ (s : State) (l : Fin 480) (q : Fin 8) (o : Op), s.headOf l.val q.val = some o → o.kind = 1 → o.tile = l.val → o.retry = true → s.isHeld l.val = false →
    exec (.waitRetry (.queue l q)) s = .next (s.requestWait o)) ∧
  (∀ (s : State) (k : Nat) (g : Signal) (home add : Nat) (c : Cell), s.signals[k]? = some g → g.loc = false → g.dest = some (home, add) →
    s.isHeld g.tile = false → s.isHeld home = false → (s.tileL home).cell? g.ctx g.id = some c → c.waits = [] → c.count + add ≤ 16777215 →
    ∃ (t : State) (d : Cell), exec (.syncSignal k) s = .next t ∧ t.signals = s.signals.eraseIdx k ∧ (t.tileL home).cell? g.ctx g.id = some d ∧
      d.count = c.count + add ∧ d.take = c.take ∧ t.ops = s.ops ∧ t.handles = s.handles) ∧
  (∀ (s : State) (k : Nat) (x : XlateRead) (a : Nat), s.xlates[k]? = some x → s.entryAddr x.ctx x.id = some a → s.bankHeld x.ctx a 8 = false →
    s.pkg.remapHold = [] → (s.xlates.take k).any x.sameCell = false →
    exec (.xlateReadDone k) s = .next (((({ s with xlates := s.xlates.eraseIdx k } : State).lcRead x.ctx a 8).xlateDone x).settle)) ∧
  (∀ (s : State) (l : Fin 480) (id : BitVec 16) (c : Nat), (s.tileL l.val).uc.st = .running → s.ctxOfTile l.val = some c → id.toNat < 48 →
    exec (.ucSignal l true id) s = .next { s with
      signals := s.signals ++ [{ ctx := c, id := id.toNat, loc := true, tile := l.val, ch := 0, idx := 0 }] }) ∧
  (∀ (s : State) (l : Fin 480) (id : BitVec 16) (c : Nat), (s.tileL l.val).uc.st = .running → s.ctxOfTile l.val = some c → id.toNat < 48 →
    1 ≤ (s.tileL l.val).lsync.getD id.toNat 0 → (s.tileL l.val).lsync.length = 48 →
    ∃ t : State, exec (.ucTake l true id) s = .next t ∧ (t.tileL l.val).uc.takeResult = 2 ∧
      (t.tileL l.val).lsync.getD id.toNat 0 = (s.tileL l.val).lsync.getD id.toNat 0 - 1 ∧ t = { s with tiles := t.tiles }) ∧
  (∀ (s : State) (l : Fin 480) (pc : BitVec 48) (m : BitVec 8), (s.tileL l.val).uc.st = .running → (s.tileL l.val).uc.mtvec ≠ 0 →
    (s.tileL l.val).uc.inHandler = false →
    exec (.ucFault l pc m) s = .next (s.modUc l.val (fun u => { u with
      mepc := pc.setWidth 64 &&& ~~~1#64, mcauseCsr := BitVec.ofNat 64 m.toNat, mtval := 0
      mstatus := (u.mstatus &&& 0x6000) ||| (if bitN u.mstatus 3 then 0x80 else 0), pc := u.mtvec &&& ~~~3#64, inHandler := true, wfi := false }))) ∧
  (∀ (s : State) (l : Fin 480), (s.tileL l.val).uc.st = .running →
    exec (.ucWfiWake l) s = .next (s.modUc l.val (fun u => if u.st = .running then { u with wfi := false } else u))) ∧
  (∀ (s : State) (l o : Nat) (w : W32), (s.tileL l).uc.pc.toNat = ucBase + o → o + 4 ≤ ucSize → w.toNat % 4 = 3 →
    memReadN (s.tileL l).uc.mem o 2 = w.toNat % 65536 → memReadN (s.tileL l).uc.mem (o + 2) 2 = w.toNat / 65536 →
    s.ucInstr l = (s.ucExec l (s.tileL l).uc w 4).getD (s.ucException l (s.tileL l).uc.pc 2 (w.setWidth 64))) ∧
  (∀ (s : State) (l : Nat) (u : UtilCore) (w : W32), fieldN w 6 0 = 0x13 → rvF3 w = 0 →
    s.ucExec l u w 4 = some (s.ucNext l (u.setX (rvRd w) (u.getX (rvRs1 w) + rvImmI w)) (u.pc + 4))) ∧
  (∀ (s : State) (l : Nat) (u : UtilCore) (a k : Nat) (next : W64) (get : Nat → UtilCore), a % k = 0 → s.ucPlace l a k = .refused →
    s.ucLoad l u a k next get = s.ucException l u.pc 5 (BitVec.ofNat 64 a) ∧
      (∀ v, s.ucStore l u a k v next = s.ucException l u.pc 7 (BitVec.ofNat 64 a)))

/-- 06 R186: a signal that would take a count past 16,777,215 leaves the cell as it is and faults the signalling channel. -/
def Obligations.SignalOverflowFaults : Prop :=
  ∀ (s : State) (k : Nat) (g : Signal) (home add : Nat) (c : Cell) (ch : Chan), s.signals[k]? = some g → g.loc = false → g.dest = some (home, add) →
    s.isHeld g.tile = false → s.isHeld home = false → (s.tileL home).cell? g.ctx g.id = some c → 16777215 < c.count + add →
    s.chan? g.ch = some ch → ch.st = .running → s.sess = [] →
    ∃ (t : State) (c1 : Chan), exec (.syncSignal k) s = .next t ∧ t.chan? g.ch = some c1 ∧ c1.st = .faulted ∧ c1.cause = .syncOverflow ∧
      c1.faultIndex = g.idx ∧ t.signals = s.signals.eraseIdx k ∧ ∃ d, (t.tileL home).cell? g.ctx g.id = some d ∧ d.count = c.count

/-- Parking and waking take effect (06 R193 to R196; 15 R429, R430). -/
def Obligations.ParkCommandsComplete : Prop :=
  (∀ (s : State) (l : Fin 480) (q : Fin 8), s.headAble l.val q.val = false → s.queueRuns l.val q.val = false → (s.tileL l.val).qcfg.getD q.val 250 ≠ 0xFFFFFF → s.dieRuns (s.phys l.val) = true →
    s.tileQuiet l.val = true → (s.tileL l.val).park = .running → (s.tileL l.val).parked ||| (1#8 <<< q.val) = 0xFF →
    exec (.queuePark l q) s = .next (s.modTileL l.val (fun t => { t with parked := 0xFF, park := .gated, parkedAt := s.now }))) ∧
  (∀ (s : State) (l : Fin 480), (s.tileL l.val).park = .gated → (s.tileL l.val).offDelay ≠ 0xFFFFFF →
    exec (.tilePowerOff l) s = .next (s.modTileL l.val (fun t => { t with park := .off }))) ∧
  (∀ (s : State) (l : Fin 480) (q : Fin 8), (s.tileL l.val).park = .gated → s.headAble l.val q.val = true →
    exec (.tileWake l) s = .next (s.modTileL l.val (fun t => { t with park := .waking, wakeAt := some s.now }))) ∧
  (∀ (s : State) (l : Fin 480) (q : Fin 8), (s.tileL l.val).park = .off → s.headAble l.val q.val = true →
    exec (.tileWake l) s = .next (s.modTileL l.val (fun t => { t with park := .waking }))) ∧
  (∀ (s : State) (l : Fin 480), (s.tileL l.val).park = .waking → (s.tileL l.val).wakeAt = none → (s.die (s.phys l.val / 8)).tokens.contains (s.phys l.val) = false →
    (s.die (s.phys l.val / 8)).tokenWait.contains (s.phys l.val) = false →
    exec (.wakeTokenRequest l) s = .next (s.modDie (s.phys l.val / 8) (fun d => { d with tokenWait := d.tokenWait ++ [s.phys l.val] }))) ∧
  (∀ (s : State) (d : Fin 64) (p : Nat) (ps : List Nat), (s.die d.val).tokenWait = p :: ps → (s.die d.val).tokens.length < 2 →
    exec (.wakeTokenGrant (some d)) s = .next (s.modDie d.val (fun x => { x with tokens := x.tokens ++ [p], tokenWait := ps }))) ∧
  (∀ (s : State) (p : Nat) (ps : List Nat), s.power.panelWait = p :: ps → s.power.panel.length < 16 →
    exec (.wakeTokenGrant none) s = .next { s with power := { s.power with panel := s.power.panel ++ [p], panelWait := ps } }) ∧
  (∀ (s : State) (l : Fin 480), smSorted s.tiles = true → (s.tileL l.val).park = .waking → s.dieRuns (s.phys l.val) = true →
    (s.die (s.phys l.val / 8)).tokens.contains (s.phys l.val) = true → s.power.panel.contains (s.phys l.val) = true →
    ∃ t : State, exec (.tilePowerUp l) s = .next t ∧ (t.tileL l.val).park = .running ∧
      (t.die (s.phys l.val / 8)).tokens.contains (s.phys l.val) = false ∧ t.power.panel.contains (s.phys l.val) = false)

/-! ### Tile operations (03 to 07) -/

/-- 06 R180, R182, R183; 07 R200; 10 R301: the head of a queue with a tile opcode issues when its waits are taken, it is neither
frozen nor held by a guard, no earlier incomplete operation of its tile conflicts with it, its engine is free and takes no
addition of a collective, its tile runs, and the choice among the heads that can issue to its engine falls on it. -/
def Obligations.TileOperationsIssue : Prop :=
  ∀ e ∈ tileOpcodes, ∀ (s : State) (l : Fin 480) (q : Fin 8) (o : Op) (c : Nat), s.headOf l.val q.val = some o → s.ctxOfTile l.val = some c →
    (s.ops.any (fun x => x.kind == 1 && x.tile == l.val && x.queue == q.val && x.opcode == e.2.1 && x.phase == .issued && x.goesOn)) = false →
    o.tile = l.val → (OpD.of o.desc).opcode = e.2.1 → o.waitsTaken = true → (OpD.of o.desc).frozen = false →
    ((OpD.of o.desc).guard = true → s.verdictOn l.val = .commit) → s.hazard o = false → s.engineBusy o = false →
    (engineOf e.2.1 = 1 → s.hopPending l.val = false) → (s.tileL l.val).park = .running → (s.tileL l.val).moving = false →
    s.dieRuns (s.phys l.val) = true → s.chosen o = true →
    exec (e.1 l q) s = .next ((s.countLosses o).issueHead o e.2.2)

/-- What the issue of a tile operation that receives nothing from the millrace does: the operation leaves its queue with its
issue instant, the tile holds what the engine computed, and no other tile, no tier memory and no handle changes. -/
def Obligations.IssueEffect : Prop :=
  ∀ (s t : State) (o : Op) (run : OpD → IssueCtx → Nat → Tile → RunRes), smSorted s.tiles = true → s.op? o.id = some o → o.kind = 1 → s.issueHead o run = t →
    ((OpD.of o.desc).opcode ≤ 2 → (OpD.of o.desc).accInit ≠ 2) →
    (∃ (p : Op) (x : Tile) (r : RunRes), t.op? o.id = some p ∧ p.desc = o.desc ∧ p.issueAt = s.now ∧ p.idx = o.idx ∧
      x.sp = (s.tileL o.tile).sp ∧ x.acc = (s.tileL o.tile).acc ∧ x.uc = (s.tileL o.tile).uc ∧
      r = run (OpD.of o.desc) ⟨((s.ctx? o.ctx).map (·.seed)).getD 0, ((s.ctx? o.ctx).map (·.stepCount)).getD 0, o.ctx,
        (smGet 0 (s.tileL o.tile).privExp (OpD.of o.desc).privIdx).toInt, o.rowIssues, o.landed, o.granted⟩ s.draw x ∧
      p.cause = r.cause ∧ p.rowIssues = r.issued ∧
      p.rowsDue = (if r.cause ≠ .none ∧ (OpD.of o.desc).accOut = 2 ∧ o.granted = false then [] else o.rowsDue) ++ r.rows ∧
      p.phase = (if r.waits then .issued else if p.rowsDue.isEmpty ∧ o.rowsSent.isEmpty then .finished else .running) ∧
      (t.tileL o.tile).sp = r.tile.sp ∧ (t.tileL o.tile).acc = r.tile.acc) ∧
    (∀ k, k ≠ s.phys o.tile → t.tileP k = s.tileP k) ∧ t.tier = s.tier ∧ t.handles = s.handles ∧ t.dies = s.dies ∧ t.ops.length = s.ops.length

/-- 06 R183: an operation with `FROZEN` completes without running, and so does one with `GUARD` under a `SKIP` verdict: nothing
of its tile's memory changes. -/
def Obligations.FrozenAndSkipped : Prop :=
  ∀ e ∈ tileOpcodes, ∀ (s : State) (l : Fin 480) (q : Fin 8) (o : Op) (c : Nat) (y : Ctx), smSorted s.tiles = true →
    s.headOf l.val q.val = some o → s.op? o.id = some o → o.tile = l.val → s.ctxOfTile l.val = some c → s.ctx? c = some y →
    (s.ops.any (fun x => x.kind == 1 && x.tile == l.val && x.queue == q.val && x.opcode == e.2.1 && x.phase == .issued && x.goesOn)) = false →
    (OpD.of o.desc).opcode = e.2.1 → o.waitsTaken = true →
    ((OpD.of o.desc).frozen = true ∨ (OpD.of o.desc).guard = true ∧ y.verdict = .skip) →
    ∃ (t : State) (p : Op), exec (e.1 l q) s = .next t ∧ t.op? o.id = some p ∧ p.phase = .finished ∧
      p.frozen = (OpD.of o.desc).frozen ∧ p.skipped = !(OpD.of o.desc).frozen ∧ (t.tileL l.val).sp = (s.tileL l.val).sp ∧
      (t.tileL l.val).acc = (s.tileL l.val).acc ∧ t.tier = s.tier

/-- Drains and the millrace take effect, message by message, and a part that receives goes on as its rows land (04 R115 to R124). -/
def Obligations.DrainAndMillraceComplete : Prop :=
  (∀ (s : State) (o : Op) (row : Nat) (rest : List Nat), s.op? o.id = some o → o.rowsDue = row :: rest → o.kind = 1 → o.drains = true →
    (OpD.of o.desc).accOut = 1 → s.dieRuns (s.phys o.tile) = true → (OpD.of o.desc).privScale = false →
    exec (.drainRow o.id) s = .next ((((s.modTileP (s.phys o.tile) (fun t => t.writeBits ((OpD.of o.desc).drainRow (s.issueCtx o) (s.tileL o.tile) row).segs))
      ).opEvents o (s.phys o.tile) { sat := b2n ((OpD.of o.desc).drainRow (s.issueCtx o) (s.tileL o.tile) row).sat, nf := b2n ((OpD.of o.desc).drainRow (s.issueCtx o) (s.tileL o.tile) row).nf }).modOp o.id
      (fun x => { x with rowsDue := rest, phase := if rest.isEmpty ∧ x.phase = .running then .finished else x.phase }))) ∧
  (∀ (s : State) (k : Nat) (m : MrMsg) (o : Op), s.mrMsgs[k]? = some m → m.kind = .grant → s.pkg.remapHold.contains m.tile = false →
    mrMismatch (smGet 0 (s.tileL m.tile).mrOut m.entry) m = false → s.mrHolder m.tile m.entry true = some o →
    exec (.mrGrant k) s = .next (({ s with mrMsgs := s.mrMsgs.eraseIdx k } : State).modOp o.id (fun x => { x with granted := true }))) ∧
  (∀ (s : State) (o : Op) (row : Nat) (rest : List Nat), s.op? o.id = some o → o.rowsDue = row :: rest → o.kind = 1 → o.drains = true →
    (OpD.of o.desc).accOut = 2 → o.granted = true → s.dieRuns (s.phys o.tile) = true →
    mrRemote (smGet 0 (s.tileL o.tile).mrOut (OpD.of o.desc).link) = false →
    ∃ (t : State) (p : Op) (m : MrMsg) (data : BitVec 4096), exec (.millraceSend o.id) s = .next t ∧ t.op? o.id = some p ∧ p.rowsDue = rest ∧
      p.rowsSent = o.rowsSent ++ [row - (OpD.of o.desc).accRow] ∧ t.mrMsgs = s.mrMsgs ++ [m] ∧
      m.kind = .row (row - (OpD.of o.desc).accRow) data ∧ m.tile = mrTile (smGet 0 (s.tileL o.tile).mrOut (OpD.of o.desc).link) ∧
      data = BitVec.ofNat 4096 (ofBytes ((List.range 128).flatMap (fun j => toBytes 4 (smGet 0 (s.tileL o.tile).acc (row * 128 + j)).toNat))) ∧
      t.tiles = s.tiles) ∧
  (∀ (s : State) (k r : Nat) (m : MrMsg) (data : BitVec 4096) (o : Op), s.mrMsgs[k]? = some m → m.kind = .row r data →
    s.pkg.remapHold.contains m.tile = false → mrMismatch (smGet 0 (s.tileL m.tile).mrIn m.entry) m = false → s.mrHolder m.tile m.entry false = some o →
    r < (OpD.of o.desc).regionRows → o.landed.contains r = false →
    (∃ i, i < (OpD.of o.desc).regionRows ∧ i ≠ r ∧ o.landed.contains i = false) →
    exec (.mrRow k) s = .next (((({ s with mrMsgs := s.mrMsgs.eraseIdx k } : State).modTileL m.tile (fun t => { t with
      acc := (List.range 128).foldl (fun a j => smPutD 0 a (((OpD.of o.desc).accRow + r) * 128 + j)
        (BitVec.ofNat 32 (fieldN data (32 * j + 31) (32 * j)))) t.acc })).modOp o.id (fun x => { x with
      landed := if x.landed.contains r then x.landed else x.landed ++ [r] })).mrReply m (some o) (.ack r))) ∧
  (∀ (s : State) (k r : Nat) (m : MrMsg) (o : Op), s.mrMsgs[k]? = some m → m.kind = .ack r → s.pkg.remapHold.contains m.tile = false →
    s.mrHolder m.tile m.entry true = some o → o.rowsDue ≠ [] →
    exec (.mrAck k) s = .next (({ s with mrMsgs := s.mrMsgs.eraseIdx k } : State).modOp o.id (fun x => { x with rowsSent := o.rowsSent.erase r }))) ∧
  (∀ e ∈ matrixRows, ∀ (s : State) (l : Fin 480) (q : Fin 8) (o : Op),
    s.ops.find? (fun x => x.kind == 1 && x.tile == l.val && x.queue == q.val && x.opcode == e.2.1 && x.phase == .issued) = some o →
    (∀ i, (OpD.of o.desc).issues[o.rowIssues]? = some i → (OpD.of o.desc).fed o.landed i = true) → s.dieRuns (s.phys l.val) = true →
    exec (e.1 l q) s = .next (s.runOp o e.2.2)) ∧
  (∀ (s : State) (k r : Nat) (out : Bool) (m : MrMsg) (o : Op), s.mrMsgs[k]? = some m → m.kind = .reject r out →
    s.pkg.remapHold.contains m.tile = false → s.mrHolder m.tile m.entry out = some o →
    exec (.mrAck k) s = .next ((({ s with mrMsgs := s.mrMsgs.eraseIdx k } : State).accFlag (s.phys m.tile) 2 1).failOp o.id .millraceReject))

/-- 07 R200: what the tile scheduler does with a `GUARD` operation at the head of its queue, once its waits are taken. -/
def Obligations.GuardFollowsVerdict : Prop :=
  ∀ e ∈ tileOpcodes, ∀ (s : State) (l : Fin 480) (q : Fin 8) (o : Op) (c : Nat) (y : Ctx), s.headOf l.val q.val = some o → s.op? o.id = some o →
    o.tile = l.val → s.ctxOfTile l.val = some c → s.ctx? c = some y →
    (s.ops.any (fun x => x.kind == 1 && x.tile == l.val && x.queue == q.val && x.opcode == e.2.1 && x.phase == .issued && x.goesOn)) = false →
    (OpD.of o.desc).opcode = e.2.1 → o.waitsTaken = true → (OpD.of o.desc).frozen = false → (OpD.of o.desc).guard = true → o.cause = .none →
    o.frozen = false → o.skipped = false → o.phase = .queued → o.noCell = false → s.xlates = [] →
    (y.verdict = .pending → exec (e.1 l q) s = .next s ∧ s.headReason l.val q.val = 1) ∧
    (y.verdict = .commit → s.hazard o = false → s.engineBusy o = false → s.hopPending l.val = false → (s.tileL l.val).park = .running →
      (s.tileL l.val).moving = false → s.dieRuns (s.phys l.val) = true → s.chosen o = true →
      exec (e.1 l q) s = .next ((s.countLosses o).issueHead o e.2.2)) ∧
    (y.verdict = .skip → ∃ (t : State) (p : Op), exec (e.1 l q) s = .next t ∧ t.op? o.id = some p ∧ p.phase = .finished ∧ p.skipped = true ∧
      p.status = 0 ∧ ∀ n ph, (p.record n ph).getLsbD 6 = true)

/-- 06 R178: a head that conflicts with an incomplete operation fetched earlier on its tile does not issue. -/
def Obligations.HazardHolds : Prop :=
  ∀ e ∈ tileOpcodes, ∀ (s : State) (l : Fin 480) (q : Fin 8) (o x : Op), s.headOf l.val q.val = some o → o.tile = l.val →
    (s.ops.any (fun x => x.kind == 1 && x.tile == l.val && x.queue == q.val && x.opcode == e.2.1 && x.phase == .issued && x.goesOn)) = false →
    (OpD.of o.desc).frozen = false →
    ((OpD.of o.desc).guard = true → ∀ y, (s.ctxOfTile l.val).bind s.ctx? = some y → y.verdict ≠ .skip) → x ∈ s.ops → x.kind = 1 → x.tile = l.val → x.id < o.id → x.phase ≠ .held →
    (OpD.of x.desc).conflicts (OpD.of o.desc) = true →
    exec (e.1 l q) s = .next s

/-! ### The training step (07) and collectives (10) -/

/-- The collectives with their opcodes and options. -/
def Obligations.CollectivesStart : Prop :=
  ∀ e ∈ collStarts, ∀ (s : State) (h : W32) (o : Op), s.headOfChan h = some o → o.kind = 3 → (CollD.of o.desc).opcode = e.2.1 →
    e.2.2 (CollD.of o.desc) = true → o.waitsTaken = true → s.collStarted h < 4 → (s.ctx? o.ctx).isSome = true → s.collHeld o = false → (∀ d ∈ s.epochDiff o, d.2 = 0) →
    exec (e.1 h) s = .next (s.launchColl o).settle

/-- 10 R315, R316: a collective whose epoch tag lies 128 or more behind the current epoch of its axis completes with `EPOCH_RETIRED`
and does not start. -/
def Obligations.EpochRetired : Prop :=
  ∀ e ∈ collStarts, ∀ (s : State) (h : W32) (o : Op) (d : Axis × Nat), s.headOfChan h = some o → o.kind = 3 → (CollD.of o.desc).opcode = e.2.1 →
    e.2.2 (CollD.of o.desc) = true → o.waitsTaken = true → s.collStarted h < 4 → d ∈ s.epochDiff o → 128 ≤ d.2 →
    exec (e.1 h) s = .next (s.failColl o .epochRetired 0x0200).settle

/-- The messages of a collective take effect: signatures, data, sums at a hop, credits, drained messages, an epoch's advance and
an abort; and a collective whose parts are all done completes (10 R288, R289, R301, R312, R317, R319; 07 R199). -/
def Obligations.CollectiveCommandsComplete : Prop :=
  (∀ (s : State) (k c : Nat) (p : Packet) (o : Op), s.rxOpen[k]? = some (c, p) → p.kind = 0x12 → p.collMsg = 2 → s.staleEpoch c p = false →
    (s.ctx? c).isSome = true → s.collOfPacket c p = some o → s.collHeld o = false →
    exec (.collSignature k) s = .next (((({ s with rxOpen := s.rxOpen.eraseIdx k } : State).modRun o.id (fun x => { x with
      sigs := x.sigs ++ [(s.srcAxis p, s.srcRank p, BitVec.ofNat 32 (fieldN p.body 31 0))] })).checkSigs o.id).settle)) ∧
  (∀ (s : State) (k c : Nat) (p : Packet) (o : Op), s.rxOpen[k]? = some (c, p) → p.kind = 0x10 → p.collMsg = 0 → s.staleEpoch c p = false →
    s.collOfPacket c p = some o → s.collReady o p = true →
    exec (.collData k) s = .next ((({ s with rxOpen := s.rxOpen.eraseIdx k } : State).recvData o p).settle)) ∧
  (∀ (s : State) (o : Op) (slot : Nat), s.op? o.id = some o → o.kind = 3 → exec (.collHopAdd o.id slot) s = .next (s.hopAdd o slot).settle) ∧
  (∀ (s : State) (k c : Nat) (p : Packet) (o : Op), s.rxOpen[k]? = some (c, p) → p.kind = 0x11 → p.collMsg = 1 → s.staleEpoch c p = false →
    s.collOfPacket c p = some o →
    exec (.collCredit k) s = .next (({ s with rxOpen := s.rxOpen.eraseIdx k } : State).recvCredit o p)) ∧
  (∀ (s : State) (h : W32) (o : Op) (a : Axis) (e : BitVec 8) (x : Ctx), s.fenceAt h = some (o, a, e) → s.olderColl o.ctx a e = false →
    s.ctx? o.ctx = some x → x.drained.contains (a, e, s.rank a) = false →
    exec (.collDrained h) s = .next ((s.otherRanks a).foldl (fun s r => s.tellRank o a r 3 e.toNat)
      (s.dropStale.modCtx o.ctx (fun x => { x with drained := x.drained ++ [(a, e, s.rank a)] })))) ∧
  (∀ (s : State) (h : W32) (o : Op) (a : Axis) (e : BitVec 8) (x : Ctx), s.fenceAt h = some (o, a, e) → s.rxOpen = [] → s.ctx? o.ctx = some x →
    (∀ r, r < s.boxExt a → x.drained.contains (a, e, r) = true) →
    exec (.epochAdvance h) s = .next ((s.modCtx o.ctx (fun x => { x.setEpoch a e with
      drained := x.drained.filter (fun y => !(y.1 == a && y.2.1 == e)) })).startColl h 0xC3 (fun _ => true)).settle) ∧
  (∀ (s : State) (k c : Nat) (p : Packet) (o : Op), s.rxOpen[k]? = some (c, p) → p.kind = 0x12 → p.collMsg = 4 → s.staleEpoch c p = false →
    s.collOfPacket c p = some o → fieldN p.body 15 0 = 0x0200 →
    exec (.collAborted k) s = .next (((((({ s with rxOpen := s.rxOpen.eraseIdx k } : State).sendAbort o
      ((collAxes o.desc).filter (· != s.srcAxis p)) (abortCause p) 0x0200).emptySlots o).modOp o.id (fun x => { x with
        abortStatus := 0x0200 })).failOp o.id (abortCause p)).settle)) ∧
  (∀ (s : State) (o : Op) (run : CollRun), s.op? o.id = some o → o.kind = 3 → o.coll = some run → run.done (CollD.of o.desc) = true →
    (CollD.of o.desc).step = false → (CollD.of o.desc).close = false →
    exec (.collectiveComplete o.id) s = .next (((if (CollD.of o.desc).priv then s.holdAgreed o.ctx run.cur else s).noteScatter o (CollD.of o.desc)
      run).completeHere o)) ∧
  (∀ (s : State) (o : Op) (run : CollRun), s.op? o.id = some o → o.kind = 3 → o.coll = some run → run.done (CollD.of o.desc) = true →
    (CollD.of o.desc).step = true → run.firstVerdict = true →
    exec (.verdictSet o.id) s = .next ((s.modCtx o.ctx (fun x => { x with
      verdict := if run.cur.headD 0 = 0 then .commit else .skip })).completeHere o)) ∧
  (∀ (s : State) (o : Op) (run : CollRun), s.op? o.id = some o → o.kind = 3 → o.coll = some run → run.done (CollD.of o.desc) = true →
    (CollD.of o.desc).close = true → o.sync.signal = none →
    exec (.stepClose o.id) s = .next ((s.completeOp o.id false).modCtx o.ctx (fun x =>
      if x.closing = .idle then x.beginClose none else { x with closeQ := x.closeQ ++ [none] })))

/-- 07 R216: the close of a step takes effect: under `COMMIT` it flips `BANK_SEL` and advances `STEP_COUNT`, under `SKIP` it
leaves the bank and advances `SKIP_COUNT`; it sets `VERDICT` to `PENDING` and signals the barrier's completion sync. -/
def Obligations.CloseFlips : Prop :=
  ∀ (s : State) (c : Fin 64) (x : Ctx) (sig : Option Signal) (commit : Bool), s.ctx? c.val = some x → x.closing = .holding sig commit →
    s.pkg.remapHold = [] → x.agreed = none → x.closeQ = [] →
    ∃ t : State, exec (.closeFlip c) s = .next t ∧ t.signals = s.signals ++ sig.toList ∧
      t.ctx? c.val = some { x with
        bankSel := if commit then !x.bankSel else x.bankSel
        stepCount := if commit then x.stepCount + 1 else x.stepCount
        skipCount := if commit then x.skipCount else x.skipCount + 1
        verdict := .pending
        sampled := false
        closing := .idle
        closeEpochs := (x.epochX, x.epochY, x.epochZ)
        closeStreams := x.streams } ∧
      (∀ d, d ≠ c.val → t.ctx? d = s.ctx? d) ∧ t.tier = s.tier ∧ t.tiles = s.tiles ∧ t.ops = s.ops

/-- 07 R216, step 1: a close that finds the verdict `PENDING` counts as `SKIP` and advances `SEQ_ERR_COUNT`. -/
def Obligations.PendingCloseSkips : Prop :=
  ∀ (x : Ctx) (sig : Option Signal),
    (x.verdict = .pending → (x.beginClose sig).closing = .holding sig false ∧ (x.beginClose sig).seqErr = x.seqErr + 1) ∧
    (x.verdict = .skip → (x.beginClose sig).closing = .holding sig false ∧ (x.beginClose sig).seqErr = x.seqErr) ∧
    (x.verdict = .commit → (x.beginClose sig).closing = .holding sig true ∧ (x.beginClose sig).seqErr = x.seqErr)

/-! ### Copies and memory (08) -/

/-- The copy commands take effect: `COPY`, `TRANSPOSE` and `RETILE` leave the head of a copy channel and move their rows, `LOWER`
reads its layout first, `RILL_GATHER` and `RILL_SCATTER` begin to issue accesses, a rill queue serves its oldest access, and the
packets of copies between modules are served (08 R233, R235, R237, R240 to R243, R517). -/
def Obligations.CopyCommandsComplete : Prop :=
  (∀ (s : State) (h : W32) (o : Op), s.headOfChan h = some o → o.kind = 2 → (CopyD.of o.desc).opcode = 0x80 → o.waitsTaken = true →
    s.copyHeld o.ctx (CopyD.of o.desc) = false → exec (.copy h) s = .next ((s.copyLeave o 0).copyRun o (CopyD.of o.desc)).settle) ∧
  (∀ (s : State) (h : W32) (o : Op), s.headOfChan h = some o → o.kind = 2 → (CopyD.of o.desc).opcode = 0x81 → o.waitsTaken = true →
    s.copyHeld o.ctx (CopyD.of o.desc) = false → exec (.transpose h) s = .next ((s.copyLeave o 0).copyRun o (CopyD.of o.desc)).settle) ∧
  (∀ (s : State) (h : W32) (o : Op), s.headOfChan h = some o → o.kind = 2 → (CopyD.of o.desc).opcode = 0x82 → o.waitsTaken = true →
    s.copyHeld o.ctx (CopyD.of o.desc) = false → exec (.retile h) s = .next ((s.copyLeave o 0).copyRun o (CopyD.of o.desc)).settle) ∧
  (∀ (s : State) (h : W32) (o : Op) (d : CopyD) (low : BitVec 512), s.headOfChan h = some o → d = CopyD.of o.desc →
    low = BitVec.ofNat 512 (s.readAt o.ctx d.aux 64) → o.kind = 2 → d.opcode = 0x83 → o.waitsTaken = true → s.copyHeld o.ctx d = false →
    s.badRead o.ctx d.aux 64 = false → (LowerD.of low).ok low d = true → (LowerD.of low).apart d = true → s.sideOk o.ctx d.src ((LowerD.of low).srcSpan d) true = true →
    s.sideOk o.ctx d.dst ((LowerD.of low).dstSpan d) false = true →
    (s.isOwn d.src = true → s.inWindows o.ctx (gLocal d.src) ((LowerD.of low).srcSpan d) = true) →
    (s.isOwn d.dst = true → s.inWindows o.ctx (gLocal d.dst) ((LowerD.of low).dstSpan d) = true) →
    exec (.lower h) s = .next (((((if d.cls = 1 then s.lcRead o.ctx d.aux 64 else s).noteRead o.ctx d.aux 64).copyLeave o low).copyRun
      { o with lower := low } d).settle)) ∧
  (∀ (s : State) (h : W32) (o : Op), s.headOfChan h = some o → o.kind = 2 → o.opcode = 0x84 → o.waitsTaken = true →
    exec (.rillGather h) s = .next ((s.copyLeave o 0).rillGo o.id)) ∧
  (∀ (s : State) (h : W32) (o : Op), s.headOfChan h = some o → o.kind = 2 → o.opcode = 0x85 → o.waitsTaken = true →
    exec (.rillScatter h) s = .next ((s.copyLeave o 0).rillGo o.id)) ∧
  (∀ (s : State) (k : Fin 20) (o : Op) (e : RillAcc) (rest : List RillAcc), (s.dev k.val).rillQ = e :: rest → s.op? e.op = some o →
    s.rillWaits o e = false →
    exec (.rillQueueFree k) s = .next (((s.modDev k.val (fun x => { x with rillQ := rest })).rillServe o e).rillAdmit k.val)) ∧
  (∀ (s : State) (k c n : Nat) (p : Packet), s.rxOpen[k]? = some (c, p) → p.kind = 0x01 → n = min (fieldN p.metaF 159 147) (64 * p.payload.length) →
    s.remoteTarget p (fieldN p.metaF 63 0) (gLocal p.gaddr) n = some c → s.accessHeld c (gLocal p.gaddr) n = false → bitN p.metaF 160 = false →
    exec (.copyWr k) s = .next ((({ s with rxOpen := s.rxOpen.eraseIdx k } : State).writeAt c (gLocal p.gaddr) (p.bytes.take n)).copyAck c p
      (fieldN p.metaF 103 64) (fieldN p.metaF 146 104) false)) ∧
  (∀ (s : State) (k c : Nat) (p : Packet) (o : Op), s.rxOpen[k]? = some (c, p) → p.kind = 0x04 →
    s.copyOf c (fieldN p.body 103 64) (fieldN p.body 146 104) = some o → bitN p.body 160 = false →
    exec (.copyWrAck k) s = .next ((({ s with rxOpen := s.rxOpen.eraseIdx k } : State).modOp o.id (fun o => { o with
      remote := o.remote.erase (fieldN p.body 146 104) })).pieceDone o)) ∧
  (∀ (s : State) (k c a n : Nat) (p : Packet), s.rxOpen[k]? = some (c, p) → p.kind = 0x02 → a = fieldN p.body 207 160 →
    n = min 4096 (max 1 (fieldN p.body 159 147)) → s.remoteTarget p (fieldN p.body 63 0) a n = some c → s.accessHeld c a n = false →
    ∃ bad : Nat, exec (.copyRdReq k) s = .next ((({ s with rxOpen := s.rxOpen.eraseIdx k } : State).noteRead c a n).sendData c 0x03 p.slot p.src
      ((p.src.setWidth 64 <<< 52) ||| BitVec.ofNat 64 (fieldN p.body 255 208)) 0
      (pack 184 [(39, 0, fieldN p.body 103 64), (82, 40, fieldN p.body 146 104), (147, 83, bad)]) (flitsOf (toBytes n (s.readAt c a n))))) ∧
  (∀ (s : State) (k c tag : Nat) (p : Packet) (o : Op) (d : CopyD) (x : Chunk), s.rxOpen[k]? = some (c, p) → p.kind = 0x03 →
    tag = fieldN p.metaF 82 40 → s.copyOf c (fieldN p.metaF 39 0) tag = some o → d = CopyD.of o.desc →
    d.rill = false → (d.chunks o.lower (s.isOwn d.src) (s.isOwn d.dst))[tag / 2]? = some x → s.chunkHeld o.ctx d x = false →
    exec (.copyRdRsp k) s = .next (((({ s with rxOpen := s.rxOpen.eraseIdx k } : State).modOp o.id (fun o => { o with
      remote := o.remote.erase tag })).chunkPut o d (tag / 2) x (d.answered x p.bytes (fieldN p.metaF 147 83))).pieceDone o)) ∧
  (∀ (s : State) (k c tag : Nat) (p : Packet) (o : Op), s.rxOpen[k]? = some (c, p) → p.kind = 0x03 → tag = fieldN p.metaF 82 40 →
    s.copyOf c (fieldN p.metaF 39 0) tag = some o → (CopyD.of o.desc).rill = true → s.accessHeld o.ctx (gLocal p.gaddr) 32 = false →
    fieldN p.metaF 147 83 = 0 →
    exec (.copyRdRsp k) s = .next ((((({ s with rxOpen := s.rxOpen.eraseIdx k } : State).modOp o.id (fun o => { o with
      remote := o.remote.erase tag })).writeAt o.ctx (gLocal p.gaddr) (p.bytes.take 32))).pieceDone o))

/-- The memory commands take effect: a line is read and checked, the scrubber goes on, an interval of the lifeline cache begins,
a line is spared, and a device's temperature is read (08 R221 to R223, R232, R246; 17 R490). -/
def Obligations.MemoryCommandsComplete : Prop :=
  (∀ (s : State) (line d at_ : Nat), s.lineAt line = some (d, at_) → (s.die (devDie d)).fenced = false → (s.dev d).spared.contains at_ = false →
    smGet false s.tierPoison line = false → s.scopeDue = [] → s.ops = [] →
    exec (.lineRead line .clean) s = .next s ∧
    ∃ t : State, exec (.lineRead line .uncorrectable) s = .next t ∧ smGet false t.tierPoison line = true ∧ t.tier = s.tier) ∧
  (∀ (s : State) (d : Fin 60), (s.die (devDie d.val)).fenced = false → s.scopeDue = [] → s.tierLine d.val (s.dev d.val).scrubAt = none →
    exec (.scrub d .clean) s = .next (s.modDev d.val (fun x => { x with scrubAt := (x.scrubAt + 1) % (devFrames d.val * frameLines) }))) ∧
  (∀ s : State, exec .lcInterval s = .next { s with devices := s.devices.map (fun x => { x with lcUsed := 0 }) }) ∧
  (∀ (s : State) (d : Fin 60) (line : Nat), (s.dev d.val).movingLines.contains line = true → s.devices.length = 60 → s.scopeDue = [] → s.ops = [] →
    ∃ t : State, exec (.lineSpare d line) s = .next t ∧ (t.dev d.val).spared = (s.dev d.val).spared ++ [line] ∧
      (t.dev d.val).movingLines = (s.dev d.val).movingLines.filter (· != line) ∧
      (t.dev d.val).linesSparedCount = (s.dev d.val).linesSparedCount + 1 ∧ t.tier = s.tier) ∧
  (∀ (s : State) (d : Fin 60) (l : Nat), (s.die (devDie d.val)).mgr.st = .running →
    3 ≤ ((recentCorr s.now (s.dev d.val).corrHist).filter (fun e => e.1 == l)).length → (s.dev d.val).spared.contains l = false →
    (s.dev d.val).movingLines.contains l = false → (s.dev d.val).spared.length + (s.dev d.val).movingLines.length < spareLines d.val →
    exec (.autoLineSpare d (.line l)) s = .next ((s.modDev d.val (fun x => { x with movingLines := x.movingLines ++ [l] })).event 0x0585 2
      (devDie d.val) none 0)) ∧
  (∀ (s : State) (d : Fin 60) (t : BitVec 16), exec (.devTempRead d t) s = .next ((s.modDev d.val (fun x => { x with
    temp := t.toInt, refresh2x := decide (85 < t.toInt) })).gaugeSample (if d.val < 20 then 0x0B000006 else 0x0C000006) (devObj d.val)
      (BitVec.ofInt 64 t.toInt)))

/-- Tier memory (01 R43) reads back what was written, and a write leaves every other byte of tier memory as it was. -/
def Obligations.TierReadAfterWrite : Prop :=
  ∀ (s : State) (c a : Nat) (bs : List Byte), memWf s.tier = true → (∀ x, s.ctx? c = some x → x.bank = []) →
    (s.tierWrite c a bs).tierRead c a bs.length = ofBytes bs ∧
    (∀ b, b < a ∨ a + bs.length ≤ b → memGet (s.tierWrite c a bs).tier b = memGet s.tier b) ∧ memWf (s.tierWrite c a bs).tier = true

/-- 07 R214: while `BANK_SEL` is 1, an access to a banked range reaches the other range of its entry. -/
def Obligations.BankSwaps : Prop :=
  ∀ (s : State) (c a : Nat) (x : Ctx) (b : BankEntry), s.ctx? c = some x → x.bank = [b] → b.banked = true → b.base0 + b.pages * 4096 ≤ b.base1 →
    (∀ i, i < b.pages * 4096 →
      s.xaddr c (b.base0 + i) = (if x.bankSel then b.base1 + i else b.base0 + i) ∧ s.xaddr c (b.base1 + i) = (if x.bankSel then b.base0 + i else b.base1 + i)) ∧
    (a < b.base0 ∨ b.base0 + b.pages * 4096 ≤ a → a < b.base1 ∨ b.base1 + b.pages * 4096 ≤ a → s.xaddr c a = a)

/-! ### Torus links and packets (09, 11) -/

/-- Training and identification of a port take effect (09 R264 to R268, R281). -/
def Obligations.LinkTrainingCompletes : Prop :=
  (∀ (s : State) (j : Fin 12), (s.port j.val).st = .dark → s.pkg.st ≠ .standby → (s.pkg.st = .boot → 9 ≤ s.pkg.bootStep) → s.portUsable j.val = true →
    exec (.lightDetect j) s = .next ((s.modPort j.val (fun p => { p with
      st := .training, light := true, retryDue := false, nonce := Config.freeBits 128 s.draw, peerSeen := false, peerTagOk := false })).use 1)) ∧
  (∀ (s : State) (j : Fin 12) (ns : BitVec 16) (lanes : BitVec 9), (s.port j.val).st = .training → (s.port j.val).retryDue = false →
    s.failoverDue j.val = false → widthOf lanes ≠ 0 → lanes &&& (s.port j.val).laneFailed = 0 → (s.port j.val).serviced = false →
    s.scopeDue = [] → s.ports.length = 12 →
    ∃ t : State, exec (.trainingAttemptEnd j (some ns) lanes) s = .next t ∧ (t.port j.val).st = .identify ∧ (t.port j.val).loopNs = ns.toNat ∧
      (t.port j.val).laneMap = lanes ∧ (t.port j.val).width = widthOf lanes ∧ (t.port j.val).laneFailed = (s.port j.val).laneFailed) ∧
  (∀ (s : State) (j : Fin 12) (lanes : BitVec 9), (s.port j.val).st = .training → (s.port j.val).retryDue = false → s.failoverDue j.val = false →
    exec (.trainingAttemptEnd j none lanes) s = .next ((s.modPort j.val (fun p => { p with retryDue := true })).linkEvt j.val 8 0)) ∧
  (∀ (s : State) (j : Fin 12), (s.port j.val).st = .training → (s.port j.val).retryDue = true →
    exec (.trainingRetry j) s = .next ((s.modPort j.val (fun p => { p with retryDue := false, nonce := Config.freeBits 128 s.draw })).use 1)) ∧
  (∀ (s s1 : State) (j : Fin 12) (p : Packet) (f : BitVec 256), s.takeIn j.val (fun _ p => p.kind == 0x30) = some (p, s1) → s.sec.fabricKey = some f →
    exec (.ident j) s = .next ((s1.modPort j.val (fun q => { q with
      peerIdent := p.body, peerSeen := true
      peerTagOk := p.tag == linkTag (identKey f (BitVec.ofNat 64 (fieldN p.body 255 192))) 256 p.body.toNat })).identify j.val)) ∧
  (∀ (s : State) (j : Fin 12), (s.port j.val).st = .up ∨ (s.port j.val).st = .quarantine → exec (.identRefresh j) s = .next (s.sendIdent j.val)) ∧
  (∀ (s : State) (j : Fin 12), (s.port j.val).st = .up → (s.port j.val).realigning = false → exec (.linkSilence j) s = .next (s.enterRetrain j.val).settle) ∧
  (∀ (s : State) (j : Fin 12), (s.port j.val).st = .retrain →
    exec (.retrainRealigned j) s = .next (if (s.port j.val).retryBuf.any TxFrame.routed then
      ((s.modPort j.val (fun p => { p with st := .identify })).modPort j.val (fun p => { p with identDue := true })).sendEmpty j.val
      else (s.modPort j.val (fun p => { p with st := .identify })).sendIdent j.val)) ∧
  (∀ (s : State) (j : Fin 12), (s.port j.val).st = .retrain →
    exec (.retrainTimeout j) s = .next ((s.modPort j.val (fun p => { p with
      st := .training, identDue := false, retryDue := false, nonce := Config.freeBits 128 s.draw })).use 1)) ∧
  (∀ (s : State) (j : Fin 12), 8 ≤ ((s.port j.val).retrainAt.filter (fun t => decide (s.now < t + 60 * 10 ^ 9))).length →
    exec (.linkFenced j) s = .next (s.fencePort j.val))

/-- 09 R264: which state an identified port enters: `QUARANTINE` while `LINK_EXPECT` has not set what it expects, on another
protocol revision, on an identity that does not match, and on a loop longer than 4,000 ns; otherwise it is `UP`. -/
def Obligations.IdentifyFollowsExpect : Prop :=
  ∀ (s : State) (j : Nat), j < 12 → s.ports.length = 12 → (s.port j).st = .identify → s.sess = [] →
    ((s.port j).expect = none ∨ fieldN (s.port j).peerIdent 159 152 ≠ 1 ∨ s.identMatches j = false ∨ 4000 < (s.port j).loopNs →
      ((s.identify j).port j).st = .quarantine) ∧
    ((s.port j).expect = none → ((s.identify j).port j).evt.getLsbD 5 = true)

/-- Frames, lanes and the takeover of a port by its partner take effect (09 R251, R254 to R258, R270 to R272). -/
def Obligations.LinkCommandsComplete : Prop :=
  (∀ (s : State) (j : Fin 12) (slots : BitVec 8192) (tr : BitVec 256), (s.port j.val).linked = true → s.ports.length = 12 →
    (s.port j.val).retryBuf = [] → (s.port j.val).txQ = [] → (s.port j.val).rxPart = [] → (s.port j.val).identDue = false → s.scopeDue = [] →
    (s.port j.val).credits.length = 8 → fieldN tr 108 107 = 0 → bitN tr 135 = false →
    bitN tr 134 = false → fieldN tr 133 118 = 0 → fieldN tr 159 148 = ((s.port j.val).rxSeq + 1) % 4096 →
    ∃ t : State, exec (.frameRx j slots tr) s = .next t ∧
      ((frameCrc slots.toNat (fieldN tr 223 0)).toNat = fieldN tr 255 224 → (t.port j.val).rxSeq = ((s.port j.val).rxSeq + 1) % 4096 ∧
        ∀ v, v < 8 → (t.port j.val).credits.getD v 0 = (s.port j.val).credits.getD v 0 + fieldN tr (167 + 8 * v) (160 + 8 * v)) ∧
      ((frameCrc slots.toNat (fieldN tr 223 0)).toNat ≠ fieldN tr 255 224 →
        t = (((s.lanesScore j.val (mkRat 1 1000)).modPort j.val (fun p => { p with nakDue := true })).sendEmpty j.val).settle)) ∧
  (∀ (s : State) (j : Fin 12) (lane : Fin 9) (k : Nat), (s.port j.val).spareLane = some k → (s.port j.val).st = .up →
    (s.port j.val).laneMap.getLsbD lane.val = true → (s.port j.val).laneAsked = none →
    exec (.laneSpare j lane) s = .next ((s.modPort j.val (fun p => { p with laneAsked := some lane.val })).sendFrame j.val [] (s.port j.val).txSeq 0
      lane.val 1).settle) ∧
  (∀ (s : State) (j : Fin 12) (lane : Fin 9) (best : BitVec 9), (s.port j.val).st = .up → (s.port j.val).spareLane = none →
    (s.port j.val).laneMap.getLsbD lane.val = true → widthOf best = 1 → best &&& ((s.port j.val).laneFailed ||| (1#9 <<< lane.val)) = 0 →
    exec (.laneFailNoSpare j lane best) s = .next ((((((s.modPort j.val (fun p => { p with
      laneFailed := (s.port j.val).laneFailed ||| (1#9 <<< lane.val), laneMap := best, width := 1 })).linkEvt j.val 2 0).directHealth (laneObj j.val lane.val)
      .failed .margin).enterRetrain j.val).settle))) ∧
  (∀ (s : State) (j : Fin 12), (s.port j.val).st = .retrain → (s.port j.val).byPartner = false → (s.port (portPartner j.val)).st = .up →
    (s.port j.val).told = false → (s.port j.val).rxPart = [] →
    ∃ t : State, exec (.partnerTakeover j) s = .next (t.sendHop (portPartner j.val) 0x31 (t.portLinkKey (portPartner j.val)) 256
        (pack 256 [(11, 0, (s.port j.val).rxSeq)]).toNat (pack 256 [(11, 0, (s.port j.val).rxSeq)])) ∧
      t = s.modPort j.val (fun p => { p with rxPart := [], byPartner := true, told := true })) ∧
  (∀ (s s1 : State) (k : Fin 12) (p : Packet), s.takeIn k.val (fun _ p => p.kind == 0x31) = some (p, s1) → s.sec.fabricKey.isSome = true →
    (s.port (portPartner k.val)).failedOver = false →
    exec (.linkCtrl k) s = .next (if p.tag = linkTag (s.portLinkKey k.val) 256 p.body.toNat then
      (s1.failOver (portPartner k.val) (fieldN p.body 11 0)).settle else s1)) ∧
  (∀ (s : State) (j : Fin 12), (s.port j.val).st = .up → (s.port j.val).byPartner = true →
    (∀ p ∈ (s.port (portPartner j.val)).txQ ++ (s.port (portPartner j.val)).retryBuf.map (·.pkt), p.vc < 6 → p.slot % 2 ≠ j.val % 2) →
    exec (.failback j) s = .next ((s.modPort j.val (fun p => { p with byPartner := false, failedOver := false })).pump j.val))

/-- Packets of the torus take effect: they are routed, copied along an axis, taken across a P-die, and opened with the key of
their partition; windows of gauges end; a lost neighbour and a fenced tile reach the fault scope (09 R272 to R276, R279, R280, R282; 11 R342,
R343; 14 R413). -/
def Obligations.PacketCommandsComplete : Prop :=
  (∀ (s s1 : State) (j : Fin 12) (vc : Fin 6) (p : Packet), (s.port j.val).st ≠ .identify → s.headIn j.val vc.val = some (p, s1) → p.mc = false →
    s.unicastOut j.val p = none → p.aborted = false → exec (.packetRoute j vc) s = .next { s1 with rxSealed := s1.rxSealed ++ [(j.val, p)] }) ∧
  (∀ (s s1 : State) (j : Fin 12) (vc : Fin 6) (p : Packet) (out : Nat), (s.port j.val).st ≠ .identify → s.headIn j.val vc.val = some (p, s1) →
    p.mc = false → s.unicastOut j.val p = some out → portP out = portP j.val → s.leveeStops out (s.onward j.val out p).vc = false →
    s.canSend out (s.onward j.val out p) = true → exec (.packetRoute j vc) s = .next (s1.transmit out (s.onward j.val out p))) ∧
  (∀ (s s1 : State) (j : Fin 12) (vc : Fin 6) (p : Packet) (out : Nat), (s.port j.val).st ≠ .identify → s.headIn j.val vc.val = some (p, s1) →
    p.mc = false → s.unicastOut j.val p = some out → portP out ≠ portP j.val → s.leveeStops out (s.onward j.val out p).vc = false →
    s.canSend out (s.onward j.val out p) = true → exec (.passage j vc) s = .next (s1.transmit out (s.onward j.val out p))) ∧
  (∀ (s s1 : State) (j : Fin 12) (vc : Fin 6) (p : Packet), (s.port j.val).st ≠ .identify → s.headIn j.val vc.val = some (p, s1) → p.mc = true →
    s.isTransit p = false → p.aborted = false → xyzOn p.dst p.mcAxis = s.coord p.mcAxis →
    exec (.multicast j vc) s = .next { s1 with rxSealed := s1.rxSealed ++ [(j.val, p)] }) ∧
  (∀ (s : State) (k j : Nat) (p : Packet), s.rxSealed[k]? = some (j, p) → s.keysOf p.ptag = [] →
    exec (.packetOpen k) s = .next { s with rxSealed := s.rxSealed.eraseIdx k, sec := { s.sec with sealFail := modAt s.sec.sealFail (portP j) (· + 1) } }) ∧
  (∀ (s : State) (k j c : Nat) (p : Packet) (key : BitVec 256), s.rxSealed[k]? = some (j, p) → s.keysOf p.ptag = [(c, key)] →
    exec (.packetOpen k) s = .next (match p.open? (genKey key (openGen s.now (fieldN p.head 39 39 == 1)) p.ptag) with
      | some q => ({ s with rxSealed := s.rxSealed.eraseIdx k } : State).opened c q
      | none => { s with rxSealed := s.rxSealed.eraseIdx k, sec := { s.sec with sealFail := modAt s.sec.sealFail (portP j) (· + 1) } })) ∧
  (∀ (s : State) (times : List FlowTimes) (set : Option (BitVec 24)),
    ∃ t : State, exec (.flowGaugeWindow ⟨times, set⟩) s = .next t ∧ t.ports = s.ports.map (fun p => { p with flow := List.replicate 8 {} }) ∧
      t.telem.flowWindow = (match set with
        | some ns => if 10000 ≤ ns.toNat ∧ ns.toNat ≤ 10000000 then ns.toNat else s.telem.flowWindow
        | none => s.telem.flowWindow) ∧
      t.telem.flowStart = s.now / max 1 t.telem.flowWindow * max 1 t.telem.flowWindow) ∧
  (∀ (s : State) (d : Fin 6), (s.port (2 * d.val)).st ≠ .up → (s.port (2 * d.val + 1)).st ≠ .up → s.part.lost.getLsbD d.val = false → s.pkg.st ≠ .standby →
    (s.port (2 * d.val)).txQ = [] → (s.port (2 * d.val + 1)).txQ = [] → (∀ o ∈ s.ops, o.kind ≠ 3) →
    ∃ t : State, exec (.neighbourLost d) s = .next (t.partEvt 2 3 (2 * d.val) none 0).settle ∧ t.part.lost = s.part.lost ||| (1#6 <<< d.val) ∧
      t.scopeDue = s.scopeDue ++ [⟨3, none, none⟩]) ∧
  (∀ (s : State) (d : Fin 64), exec (.tileFenced d) s = .next ({ s.fenceCDie d.val with
    scopeDue := (s.fenceCDie d.val).scopeDue ++ [⟨0, none, some d.val⟩] } : State).settle)

/-! ### Reset, boot and managers (13) -/

/-- 13 R380, R383, R384: reset, loss of an input and cold restart. `MOD_RESET_N` and the loss of the standby input bring the module to
`STANDBY` with no session, context, handle or operation; what persists in flash and the remap table stay. -/
def Obligations.ResetCommandsComplete : Prop :=
  (∀ (s : State) (mainLost : Bool), s.power.stbyOn = true →
    ∃ t : State, exec (.modResetAssert mainLost) s = .next t ∧ t.pkg.st = .standby ∧ t.ctxs = [] ∧ t.sess = [] ∧ t.handles = State.reset.handles ∧
      t.ops = [] ∧ t.tier = [] ∧ t.qps = [] ∧ t.ports = State.reset.ports ∧ t.pkg.alert = false ∧ t.pkg.thermTrip = s.pkg.thermTrip ∧
      t.pkg.flashA = s.pkg.flashA ∧ t.pkg.flashB = s.pkg.flashB ∧ (∀ l, t.phys l = s.phys l) ∧ t.pkg.generation = s.pkg.generation ∧
      t.time = s.time ∧ t.sec.debug = none ∧ t.sec.fabricKey = s.sec.fabricKey ∧ t.pending = s.pending) ∧
  (∀ s : State, s.power.stbyOn = true →
    ∃ t : State, exec .standbyLow s = .next t ∧ t.power.stbyOn = false ∧ t.pkg.st = .standby ∧ t.pkg.thermTrip = false ∧ t.sec.fabricKey = none ∧
      t.time.ns = 0 ∧ t.time.sync = .unlocked ∧ t.ctxs = [] ∧ t.bb = {}) ∧
  (∀ s : State, exec .standbyInputPresent s = .next { s with power := { s.power with stbyOn := true } }) ∧
  (∀ s : State, s.power.mainOn = false →
    exec .mainInputReturn s = .next (({ s with power := { s.power with mainOn := true, inputRange := false } } : State).bbNotify s)) ∧
  (∀ (s : State) (sel : Bool) (bad : BitVec 10), s.pkg.st = .standby → s.pkg.resetHigh = false → s.power.stbyOn = true → s.power.mainOn = true → s.power.inputRange = false →
    ∃ t : State, exec (.coldRestart ⟨sel, bad⟩) s = .next t ∧ t.pkg.st = .boot ∧ t.pkg.primary = sel ∧ t.power.envelope = 14000 ∧ t.time.ns = 0 ∧
      t.time.sync = .unlocked ∧ t.sec.fabricKey = none ∧ t.telem.health = s.pkg.record.health ∧ t.handles = s.handles) ∧
  (∀ (s : State) (f : BootFacts), s.pkg.st = .boot → s.pkg.bootFail = 0 → s.dies.any (fun d => d.mgr.st == .restarting) = false →
    s.pkg.mgr.st ≠ .restarting → s.pkg.bootStep = 0 → f.selfTest = false →
    ∃ t : State, exec (.bootStepEnd f) s = .next t ∧ t.pkg.bootFail = 2 ∧ t.pkg.alert = true ∧ t.pkg.st = .boot) ∧
  (∀ (s : State) (f : BootFacts) (s1 : State), s.pkg.st = .boot → s.pkg.bootFail = 0 → s.dies.any (fun d => d.mgr.st == .restarting) = false →
    s.pkg.mgr.st ≠ .restarting → s.pkg.bootStep = 11 → s.pkg.sparings = [] →
    s1 = (((s.noteAltered f).bootWork 12 f).modPkg (fun p => { p with bootStep := 12 })).settle →
    exec (.bootStepEnd f) s = .next ((s1.modPkg (fun p => { p with st := .ready })).bbNotify s)) ∧
  (∀ s : State, (s.pkg.st = .ready ∨ s.pkg.st = .active) → s.power.emerg = true →
    ∃ t : State, exec .safeEntry s = .next t ∧ t.pkg.st = .safe ∧ t.pkg.alert = true ∧ t.pkg.safeWhy = s.safeCauses true) ∧
  (∀ s : State, s.pkg.st = .safe → s.emergency = false → (s.ctxs.any (fun e => e.2.st == .running)) = false →
    ∃ t : State, exec .safeExit s = .next t ∧ t.pkg.st = .ready ∧ t.pkg.safeWhy = 0 ∧ t.pkg.alert = false)

/-- A manager that crashes or misses its watchdog restarts with its counts; a die manager comes back in its recorded slot, the
package manager closes what it was asked and greets its sessions again; a failed router takes the module out of service
(13 R379, R384, R391 to R393; 01 R28). -/
def Obligations.ManagerCommandsComplete : Prop :=
  (∀ (s : State) (n : Fin 89), (s.mgr n.val).st ≠ .held → exec (.watchdogExpiry n) s = .next (s.crash n.val) ∧
    exec (.unrecoverableTrap n) s = .next (s.crash n.val)) ∧
  (∀ (s : State) (d : Fin 88), (s.mgr d.val).st = .restarting → (s.mgr d.val).rollBack = false → (s.mgr d.val).trial = none →
    exec (.mgrRestarted d) s = .next (match s.startMgr d.val with
      | none => s.bothFail d.val
      | some s1 => s1.event 0x0508 2 d.val none 0)) ∧
  (∀ s : State, s.pkg.mgr.st = .restarting →
    exec .pkgManagerRestart s = .next (match s.startMgr 88 with
      | none => s
      | some s1 => (s1.event 0x0508 2 s.primaryDie none 0).issueAlias.abandonRequests.greetAgain)) ∧
  (∀ (s : State) (d : Fin 64), ∃ t : State, exec (.routerFailure d) s = .next (t.directHealth (dieObj d.val) .failed .router).settle ∧
    t.pkg.outOfService = true ∧ (s.dies.length = 88 → (t.die d.val).routerFailed = true) ∧ t.ports.length = s.ports.length ∧ ∀ p ∈ t.ports, (p.st = .fenced ∨ p.st = .dark) ∧ p.light = false)

/-! ### Power and clocks (15) -/

/-- The commands of the weir take effect: reports and allocations of a budget, a stale allocation, readings, trips, the input and
the light sources (15 R432 to R441; 17 R493). -/
def Obligations.PowerCommandsComplete : Prop :=
  (∀ (s : State) (d : Fin 88) (use dem : BitVec 16), (s.die d.val).mgr.st = .running →
    exec (.budgetReport d use dem) s = .next (((s.emit (.report d.val use.toNat dem.toNat (s.die d.val).stretchMax (s.die d.val).allocSerial)).modDie d.val
      (fun x => { x with use := use.toNat, demand := dem.toNat, stretchMax := x.stretch.foldl max 0 })).gaugeSample 0x13000001 (dieObj d.val)
        (use.setWidth 64))) ∧
  (∀ (s : State) (d : Fin 88) (a : BitVec 16) (sh : BitVec 128), s.pkg.mgr.st = .running → (s.die d.val).mgr.st = .running → s.dies.length = 88 →
    (if d.val < 64 then eight16 sh else List.replicate 8 0).sum ≤ a.toNat →
    ∃ t : State, exec (.allocation d a sh) s = .next t ∧ (t.die d.val).alloc = a.toNat ∧
      (t.die d.val).share = (if d.val < 64 then eight16 sh else List.replicate 8 0) ∧ (t.die d.val).allocAt = s.now ∧
      (t.die d.val).staleAlloc = false ∧ t = { s with dies := t.dies, out := t.out }) ∧
  (∀ (s : State) (d : Fin 88), (s.die d.val).staleAlloc = false → (s.die d.val).mgr.st ≠ .held →
    exec (.staleAlloc d) s = .next ((s.modDie d.val (fun x => { x with staleAlloc := true })).event 0x0705 2 d.val none 0)) ∧
  (∀ (s : State) (d : Fin 88) (r : WeirReading), s.dies.length = 88 → s.sess = [] → r.lasted = 0 →
    ∃ t : State, exec (.weirUpdate d r) s = .next t ∧ (t.die d.val).tj = r.tj.toInt ∧ (t.die d.val).stretch = (s.stretches d.val r).1 ∧
      (t.die d.val).emerg = false ∧ t.power.inputEmerg = false ∧ t.ops = s.ops ∧ t.tier = s.tier) ∧
  (∀ s : State, s.power.emerg = true → s.weirCondition = false →
    exec .weirClear s = .next (({ s with power := { s.power with emerg := false } } : State).event 0x0701 0 0 none 0)) ∧
  (∀ (s : State) (d : Fin 88) (tj : BitVec 8), 115 ≤ tj.toInt → (s.die d.val).trip = false → s.dies.length = 88 → s.pkg.st = .boot → s.sess = [] →
    ∃ t : State, exec (.thermTrip d tj) s = .next t ∧ (t.die d.val).trip = true ∧ t.pkg.thermTrip = true ∧ t.pkg.st = .boot) ∧
  (∀ (s : State) (d : Fin 88) (tj : BitVec 8), tj.toInt < 100 → (s.die d.val).trip = true → s.dies.length = 88 →
    ∃ t : State, exec (.tripRecover d tj) s = .next t ∧ (t.die d.val).trip = false ∧ t.pkg.thermTrip = t.dies.any (·.trip)) ∧
  (∀ (s : State) (d : Fin 88) (tj : BitVec 8), 120 ≤ tj.toInt → (s.die d.val).trip = true →
    ∃ t : State, exec (.tripShutdown d tj) s = .next t ∧ t.pkg.st = .standby ∧ t.ctxs = [] ∧ t.pkg.thermTrip = s.pkg.thermTrip) ∧
  (∀ (s : State) (v : BitVec 16), s.power.mainOn = true → s.power.stbyOn = true → s.power.inputRange = false → s.pkg.st = .boot → s.sess = [] →
    (v.toNat < 4600 ∨ 5600 < v.toNat) →
    ∃ t : State, exec (.inputRange v false) s = .next t ∧ t.power.inputRange = true ∧ t.power.emerg = true ∧ t.pkg.st = .boot) ∧
  (∀ (s : State) (b : Fin 16), s.laser b.val ≠ 0 → s.laser (laserPartner b.val) ≠ 0 →
    exec (.laserFailed b) s = .next ((s.setLaser b.val 0).setLaser (laserPartner b.val) 2)) ∧
  (∀ (s : State) (b : Fin 16), s.laser b.val = 0 → (s.die (84 + b.val / 4)).mgr.st = .running → s.laser (laserPartner b.val) ≠ 0 →
    exec (.laserSwapped b) s = .next (((((s.setLaser b.val 1).setLaser (laserPartner b.val) 1).repairedHealth (objId 11 b.val)).event 0x0587 2 (84 + b.val / 4)
      none (pack 3328 [(31, 0, objId 11 b.val)])).settle))

/-- 15 R439: a die at 115 °C trips, and the trip asserts `THERM_TRIP_N` and brings a running package to `SAFE`. -/
def Obligations.TripEntersSafe : Prop :=
  ∀ (s t : State) (d : Fin 88) (tj : BitVec 8), 115 ≤ tj.toInt → (s.die d.val).trip = false → s.dies.length = 88 → (s.pkg.st = .ready ∨ s.pkg.st = .active) →
    exec (.thermTrip d tj) s = .next t → t.pkg.st = .safe ∧ t.pkg.thermTrip = true ∧ t.pkg.alert = true ∧ t.pkg.safeWhy.getLsbD 1 = true ∧
      (t.die d.val).trip = true

/-! ### Tide time (15) -/

/-- The commands of time take effect; what a measurement gives comes of `State.measured`, whose filter and servo the spec leaves
open (15 R443 to R451; 14 R413). -/
def Obligations.TimeCommandsComplete : Prop :=
  (∀ s : State, s.time.ptpRole ≠ 3 → (∀ x, s.time.ppsAt = some x → s.now < x + 999999000) →
    exec .ppsEdge s = .next { s with time := { s.time with ppsGood := 0, ppsAt := some s.now } }) ∧
  (∀ s : State, s.now % 10 ^ 9 = 0 → s.power.stbyOn = true → exec .ppsOut s = .next (s.emit (.ppsOut s.now))) ∧
  (∀ (s : State) (p : Fin 4) (c : BitVec 64), (s.ethPort (4 + p.val)).up = true →
    exec (.ptpEventMessage p true false c none) s = .next (s.emit (.ptp p.val (s.stamp / 2 ^ 15) c))) ∧
  (∀ (s : State) (j : Nat), s.parentPort = some j → s.time.parent = j → (s.port j).st = .up →
    ∃ err : Nat, exec .tideExchange s = .next (({ s with
      time := { s.time with reqId := s.time.reqId + 1, inFlight := some (s.time.reqId, s.stamp) }, draw := s.draw + 1 } : State).sendTide j
        (s.tideBody 0 0 s.time.reqId 0 err))) ∧
  (∀ (s s1 : State) (j : Fin 12) (p : Packet), s.takeIn j.val (fun _ p => p.kind == 0x40) = some (p, s1) → s.sec.fabricKey.isSome = true →
    fieldN p.body 31 0 = 0 → fieldN p.body 59 58 = 1 →
    exec (.tide j) s = .next (if p.tag = linkTag (s.portLinkKey j.val) 256 p.body.toNat then s1.tideResponse j.val p.body else s1)) ∧
  (∀ s : State, s.time.ptpRole = 3 → s.time.sync = .locked →
    ∃ t : State, exec .timeHoldover s = .next (t.event 0x0781 0 0 none 0) ∧ t.time.sync = .holdover ∧ t.time.rate = s.time.rate ∧ t.time.ns = s.time.ns) ∧
  (∀ s : State, s.time.sealGen ≠ s.now / 2 ^ 33 → exec .sealGeneration s = .next { s with
    time := { s.time with sealGen := s.now / 2 ^ 33 }, sec := { s.sec with sealCount := List.replicate 4 0 } }) ∧
  (∀ s : State, s.time.ptpRole = 3 → exec (.ref10mInValid true) s = .next { s with time := { s.time with refValid := true, ref10m := true } })

/-- 15 R444: tide never decreases, and it moves only as time passes, at a rate within 200 ppm: but for a cold restart and the loss of
the standby input, and for the one step forward of a module in `UNLOCKED`, no command changes it. -/
def Obligations.TideNeverBack : Prop :=
  ∀ s t : State, -6 ≤ s.time.rate → s.time.rate ≤ 6 → (s.time.stepped = true ∨ s.time.sync ≠ .unlocked) → s.tide16 + 2 ^ 16 < 2 ^ 80 →
    s.pending.head? ≠ some .standbyLow → (∀ how, s.pending.head? ≠ some (.coldRestart how)) → step s = .next t →
    s.tide16 ≤ t.tide16 ∧ t.tide16 ≤ s.tide16 + 2 ^ 15 + 6 ∧ -6 ≤ t.time.rate ∧ t.time.rate ≤ 6

/-! ### Gauges, snapshots and health (16) -/

/-- The commands of telemetry take effect (16 R453 to R471). -/
def Obligations.TelemetryCommandsComplete : Prop :=
  (∀ (s : State) (v : BitVec 64), exec (.gaugeSample (.gauge 0x13000005 0 v)) s = .next { s.gaugeSample 0x13000005 0 v with
    power := { s.power with peakRun := max s.power.peakRun v.toNat } }) ∧
  (∀ s : State, exec .gaugePeriod s = .next { s with
    telem := { s.telem with gauges := s.telem.gauges.map (fun e => (e.1, { e.2 with min := Gauge.min {}, max := Gauge.max {} })) } }) ∧
  (∀ (s : State) (slot : Nat) (u : Sub), s.handles.live = [(slot, .sub u)] → u.periods + 1 < u.k →
    exec .liveExport s = .next { s with handles := { s.handles with live := [(slot, .sub { u with periods := u.periods + 1 })] } }) ∧
  (∀ (s t : State) (slot : Nat) (u : Sub), s.handles.live = [(slot, .sub u)] → u.k ≤ u.periods + 1 → t = s.formList slot (s.liveRecords u) →
    exec .liveExport s = .next { t with handles := { t.handles with live := smMod t.handles.live slot (fun o => match o with
      | .sub u => .sub { u with periods := 0, worst := [] }
      | o => o) } }) ∧
  (∀ (s : State) (slot : Nat) (u : Sub), s.nextSub = some (slot, u) → (s.ethPort (4 + u.port)).up = true →
    ∃ (t : State) (o : Out), exec .datagramSend s = .next t ∧ t.out = s.out ++ [o] ∧
      o = .datagram u.port u.udp u.addr (pack 128 [(31, 0, (s.handleAt slot (.sub u)).toNat), (63, 32, (u.sent + 1).toNat), (95, 64, (u.queue.take 32).length)])
        (images (u.queue.take 32) u.lost) ∧
      smGet? t.handles.live slot = some (.sub { u with queue := u.queue.drop 32, lost := 0, sent := u.sent + 1 }) ∧ t.telem.rotation = slot) ∧
  (∀ (s : State) (t : Nat), s.telem.series = [{ t := t, n := 1, p := 0 }] → t ≤ s.now → s.telem.lastSnap = none →
    ∃ u : State, exec .snapshotInstant s = .next { u with telem := { u.telem with cleared := [] } } ∧
      u = ({ s with telem := { s.telem with series := [] } } : State).takeSnapshot t) ∧
  (∀ (s : State) (t l : Nat), s.telem.series = [{ t := t, n := 1, p := 0 }] → t ≤ s.now → s.telem.lastSnap = some l → t < l + 10 ^ 7 →
    exec .snapshotInstant s = .next { s with telem := { s.telem with series := [], skipped := s.telem.skipped + 1, cleared := [] } }) ∧
  (∀ (s : State) (b : Bool) (n : BitVec 16) (d : Nat × Nat × Nat), (s.snapBank b).due = [d] → s.objStale d.2.2 = false → 1 ≤ n.toNat →
    exec (.snapshotExport b n) s = .next ((s.formTo d.1 (s.snapRecord (s.snapBank b) d.2.1 d.2.2)).setSnapBank b { s.snapBank b with due := [] })) ∧
  (∀ (s : State) (id : Nat) (h : HealthRec), s.telem.health = [(id, h)] → exec .healthDecay s = .next (s.decayOne id)) ∧
  (∀ s : State, exec .healthPersist s = .next (s.modRepair (fun r => { r with health := s.telem.health }))) ∧
  (∀ (s : State) (j : Fin 12) (v h : BitVec 144), s.measures j.val = true → s.scopeDue = [] →
    (∀ k, k < 9 → 12 ≤ (nine16 v k).toNat ∧ 120 ≤ (nine16 h k).toNat) → s.ports.length = 12 → (s.port j.val).eyeBad = List.replicate 9 0 → (s.port j.val).eyeBadH = List.replicate 9 0 →
    ∃ t : State, exec (.eyeScan j v h) s = .next t ∧ (∀ k, k < 9 → ∃ g, smGet? t.telem.gauges (telKey 0x0E000001 (laneObj j.val k)) = some g ∧
      g.count = (smGet {} s.telem.gauges (telKey 0x0E000001 (laneObj j.val k))).count + 1) ∧ t.telem.health = s.telem.health) ∧
  (∀ (s : State) (j : Fin 12) (e : BitVec 288), s.measures j.val = true → s.scopeDue = [] → (∀ k, k < 9 → nine32 e k ≤ 20000) → s.ports.length = 12 →
    (s.port j.val).serBad = List.replicate 9 0 →
    ∃ t : State, exec (.serWindow j e) s = .next t ∧ (∀ k, k < 9 → ∃ g, smGet? t.telem.gauges (telKey 0x0E000003 (laneObj j.val k)) = some g ∧
      g.count = (smGet {} s.telem.gauges (telKey 0x0E000003 (laneObj j.val k))).count + 1) ∧ t.telem.health = s.telem.health) ∧
  (∀ (s : State) (j : Fin 12) (rx tx : BitVec 144), s.measures j.val = true → exec (.opticalRead (.lanes j rx tx)) s = .next (s.readLanes j.val rx tx).settle) ∧
  (∀ (s : State) (d : Fin 88) (i : Fin 4) (x : W32), s.dies.length = 88 → (s.die d.val).slackBad.getD i.val 0 < 99999 → (s.die d.val).slackBad.length = 4 →
    ∃ t : State, exec (.slackReport d i x) s = .next t ∧ (t.die d.val).slackBad.getD i.val 0 = (if 2 * x.toInt < 3 * Config.calSlack s.calHeader d.val i.val then
      (s.die d.val).slackBad.getD i.val 0 + 1 else 0)) ∧
  (∀ (s : State) (m : Measure) (f : W32), (∀ c, m ≠ .scatter c) →
    (∃ t : State, exec (.limitInterval m f false) s = .next t ∧ t.handles = s.handles ∧ t.out = s.out ∧
      t.telem.limits = smPut s.telem.limits (measureKey m) ((smGet {} s.telem.limits (measureKey m)).interval f false false)) ∧
    (s.countsFor m = true → ltV (ofF32 f) (.ofRat (measureFloor m)) = false → ∃ t : State, exec (.limitInterval m f true) s = .next t ∧ t.out = s.out ∧
      t.telem.limits = smPut s.telem.limits (measureKey m) ((smGet {} s.telem.limits (measureKey m)).interval f true false)))

/-! ### Baseboard and test access (17, 18) -/

/-- The commands of the baseboard link and of the test port take effect (18 R499, R502, R503; 17 R494). -/
def Obligations.BaseboardCommandsComplete : Prop :=
  (∀ (s : State) (a : BitVec 7) (b : BitVec 8), s.bbAddressed a = true →
    exec (.i3cPrivateWrite a [b]) s = .next { s with bb := { s.bb with offset := b } }) ∧
  (∀ (s : State) (a : BitVec 7) (n : BitVec 8), s.bbAddressed a = true → s.bb.offset.toNat + n.toNat ≤ 0x19 →
    ∃ t : State, exec (.i3cPrivateRead a n) s = .next t ∧ t.out = s.out ++ [.i3c ((s.bbBytes.drop s.bb.offset.toNat).take n.toNat)] ∧ t.bb = s.bb) ∧
  (∀ (s : State) (a : Option (BitVec 7)), s.power.stbyOn = true → s.bb.dynAddr = none →
    exec (.entdaa a) s = .next { (s.emit (.i3c (pidBytes ++ [Config.i3cBcr, Config.i3cDcr]))) with bb := { s.bb with dynAddr := a } }) ∧
  (∀ (s : State) (a : BitVec 7), s.power.stbyOn = true → s.bb.dynAddr = none →
    exec (.setdasa bbStatic a) s = .next { s with bb := { s.bb with dynAddr := some a } }) ∧
  (∀ s : State, s.power.stbyOn = true → exec .rstdaa s = .next { s with bb := { s.bb with dynAddr := none } }) ∧
  (∀ (s : State) (e : BitVec 8), s.power.stbyOn = true → e.getLsbD 0 = true →
    exec (.enec none e) s = .next { s with bb := { s.bb with ibiOn := true } } ∧ exec (.disec none e) s = .next { s with bb := { s.bb with ibiOn := false } }) ∧
  (∀ (s : State) (a : BitVec 7), s.power.stbyOn = true → s.bb.dynAddr = some a →
    exec (.getpid a) s = .next (s.emit (.i3c pidBytes)) ∧ exec (.getbcr a) s = .next (s.emit (.i3c [Config.i3cBcr])) ∧
    exec (.getdcr a) s = .next (s.emit (.i3c [Config.i3cDcr])) ∧
    ∃ v : BitVec 16, exec (.getstatus a) s = .next ((s.emit (.i3c (toBytes 2 v.toNat))).use 1)) ∧
  (∀ (s : State) (mv mi sv iw ci co : BitVec 16), s.power.stbyOn = true →
    ∃ t : State, exec (.bbReadingUpdate mv mi sv iw ci co) s = .next t ∧ t.bb.mainV = mv ∧ t.bb.mainI = mi ∧ t.bb.stbyV = sv ∧ t.bb.inputW = iw ∧
      t.bb.coolIn = ci ∧ t.bb.coolOut = co ∧ t.power.avg100 = iw.toNat ∧ t.power.peak1 = s.power.peakRun ∧ t.power.peakRun = 0 ∧
      t = { s with bb := t.bb, power := t.power }) ∧
  (∀ (s : State) (tdi : W32), s.power.stbyOn = true → exec (.bypass tdi) s = .next (s.emit (.tdo (tdi <<< 1))) ∧
    exec .idcode s = .next (s.emit (.tdo 0x1B020A5F)))

/-! ### Rules stated word for word -/

/-- 06 R163: a new handle takes the slot that was freed longest ago, slots never used first and in ascending order, with the
slot's current generation; a retired handle's slot advances its generation by one, wrapping from 16,383 to 1. -/
def Obligations.HandleAllocation : Prop :=
  (∀ (s : State) (o : HObj), s.handles.fresh < 16384 → ∃ t : State, s.newHandle o = some (mkHandle o.kind s.handles.fresh (s.handles.genOf s.handles.fresh), t) ∧
    t.handles.fresh = s.handles.fresh + 1 ∧ t.handles.freed = s.handles.freed ∧ t.handles.gen = s.handles.gen) ∧
  (∀ (s : State) (o : HObj) (x : Nat) (xs : List Nat), 16384 ≤ s.handles.fresh → s.handles.freed = x :: xs →
    ∃ t : State, s.newHandle o = some (mkHandle o.kind x (s.handles.genOf x), t) ∧ t.handles.freed = xs ∧ t.handles.gen = s.handles.gen) ∧
  (∀ (s : State) (o : HObj), 16384 ≤ s.handles.fresh → s.handles.freed = [] → s.newHandle o = none) ∧
  (∀ (s : State) (h : W32), smSorted s.handles.gen = true → (s.retire h).handles.freed = s.handles.freed ++ [hSlot h] ∧
    (s.retire h).handles.genOf (hSlot h) = (if s.handles.genOf (hSlot h) = 16383 then 1 else s.handles.genOf (hSlot h) + 1) ∧
    (∀ k, k ≠ hSlot h → (s.retire h).handles.genOf k = s.handles.genOf k) ∧ (s.retire h).handles.fresh = s.handles.fresh) ∧
  (∀ slot, slot < 16384 → State.reset.handles.genOf slot = 1) ∧ State.reset.handles.fresh = 0 ∧ State.reset.handles.freed = []

/-- 00 R15: where hardware sets a W1C flag in the cycle of a software write of 1 that clears it, the set wins: the flag reads 1
afterwards, and its counter has counted the event. The W1C flags of the module are those of `ACC_FLAGS`, `VEC_FLAGS`,
`LINK_EVT`, `PART_EVT` and `STEP_STAT`. -/
def Obligations.SetWinsClear : Prop :=
  (∀ (s : State) (d : Fin 64) (k : Fin 8) (i : Fin 32) (v : W32), s.pkg.mgr.st = .running → smSorted s.tiles = true → i.val < 3 →
    ∃ t : State, exec (.w1cClear none (BitVec.ofNat 48 (0xFF0000000000 + d.val * 2 ^ 24 + 0x100000 + k.val * 0x10000)) v [i]) s = .next t ∧
      (t.tileP (8 * d.val + k.val)).accFlags.getLsbD i.val = true ∧
      (i.val = 0 → (t.tileP (8 * d.val + k.val)).satCount = (s.tileP (8 * d.val + k.val)).satCount + 1) ∧
      (i.val = 1 → (t.tileP (8 * d.val + k.val)).nfCount = (s.tileP (8 * d.val + k.val)).nfCount + 1) ∧
      (i.val = 2 → (t.tileP (8 * d.val + k.val)).mrCount = (s.tileP (8 * d.val + k.val)).mrCount + 1)) ∧
  (∀ (s : State) (d : Fin 64) (k : Fin 8) (i : Fin 32) (v : W32), s.pkg.mgr.st = .running → smSorted s.tiles = true → i.val < 2 →
    ∃ t : State, exec (.w1cClear none (BitVec.ofNat 48 (0xFF0000000000 + d.val * 2 ^ 24 + 0x100000 + k.val * 0x10000 + 0x40)) v [i]) s = .next t ∧
      (t.tileP (8 * d.val + k.val)).vecFlags.getLsbD i.val = true ∧
      (i.val = 0 → (t.tileP (8 * d.val + k.val)).invCount = (s.tileP (8 * d.val + k.val)).invCount + 1) ∧
      (i.val = 1 → (t.tileP (8 * d.val + k.val)).dzCount = (s.tileP (8 * d.val + k.val)).dzCount + 1)) ∧
  (∀ (s : State) (p : Fin 4) (k : Fin 3) (i : Fin 32) (v : W32), s.pkg.mgr.st = .running → s.ports.length = 12 → i.val < 10 →
    i.val < (s.port (portOfP p.val k.val)).counts.length →
    ∃ t : State, exec (.w1cClear none (BitVec.ofNat 48 (0xFF0000000000 + (84 + p.val) * 2 ^ 24 + 0x20000 + k.val * 0x1000 + 8)) v [i]) s = .next t ∧
      (t.port (portOfP p.val k.val)).evt.getLsbD i.val = true ∧
      (t.port (portOfP p.val k.val)).counts.getD i.val 0 = (s.port (portOfP p.val k.val)).counts.getD i.val 0 + 1) ∧
  (∀ (s : State) (i : Fin 32) (v : W32), s.pkg.mgr.st = .running → i.val < 4 → i.val < s.part.counts.length →
    ∃ t : State, exec (.w1cClear none 0xFF00FF600018#48 v [i]) s = .next t ∧ t.part.evt.getLsbD i.val = true ∧
      t.part.counts.getD i.val 0 = s.part.counts.getD i.val 0 + 1) ∧
  (∀ (s : State) (c : Fin 64) (v : W32) (x : Ctx), s.pkg.mgr.st = .running → s.ctx? c.val = some x →
    ∃ (t : State) (y : Ctx), exec (.w1cClear none (BitVec.ofNat 48 (0xFF00FF300010 + c.val * 0x40)) v [1]) s = .next t ∧ t.ctx? c.val = some y ∧
      y.healthLate = true ∧ y.healthLateCount = x.healthLateCount + 1)

/-! ### The panel (01) -/

/-- 01 R29, R31: a packet crosses the C-dies of one row and one column, one after the other, with no detour; a tile's request to a
perimeter die and the response cross the same C-dies in opposite directions, each on the one virtual channel that its class and
order select; and a passage along row 0 takes 8 crossings (R30). -/
def Obligations.PanelRoutes : Prop :=
  (∀ a b : PanelEnd, (panelWay a b).length = (a.place.1 - b.place.1) + (b.place.1 - a.place.1) + (a.place.2 - b.place.2) + (b.place.2 - a.place.2) + 1 ∧
    (panelWay a b).head? = some a.place ∧ (panelWay a b).getLast? = some b.place ∧
    (∀ q ∈ panelWay a b, if orderXY a b then q.1 = a.place.1 ∨ q.2 = b.place.2 else q.2 = a.place.2 ∨ q.1 = b.place.1)) ∧
  (∀ (p : GridPlace) (f : PanelFord), panelWay (.rim f) (.grid p) = (panelWay (.grid p) (.rim f)).reverse ∧
    panelVc false (.grid p) (.rim f) = (if f.edge.vertical then 0 else 1) ∧ panelVc true (.rim f) (.grid p) = (if f.edge.vertical then 3 else 2)) ∧
  (∀ f g : PanelFord, pFord 0 .passage = some f → pFord 1 .passage = some g → panelCrossings (.rim f) (.rim g) = 8)
end

