-- ==== Sys2Proof/Laws/Aidar.lean ====
section
/-! SUPPORT. Aidar commands: what the shared run of a request does, for a request at its turn and for one that a check
refuses (12 R364 to R368). -/

namespace Sys2Proof.Machine

/-- The outcome of a list of checks of which none fails is the effect. -/
theorem checked_pass {cs : List Check} (k : CmdOut) (h : cs.find? (·.1) = none) : checked cs k = k := by
  simp [checked, h]

/-- The outcome of a list of checks is that of the first that fails. -/
theorem checked_fail {cs : List Check} (k : CmdOut) {c : Check} (h : cs.find? (·.1) = some c) : checked cs k = .refuse c.2.1 c.2.2 := by
  simp [checked, h]

/-- A check that does not fail is passed over. -/
@[simp] theorem checked_cons_false (st : Status) (code : Nat) (cs : List Check) (k : CmdOut) :
    checked ((false, st, code) :: cs) k = checked cs k := by
  simp [checked]

/-- A check that fails refuses. -/
@[simp] theorem checked_cons_true (st : Status) (code : Nat) (cs : List Check) (k : CmdOut) :
    checked ((true, st, code) :: cs) k = .refuse st code := by
  simp [checked]

/-- With no check left, the effect. -/
@[simp] theorem checked_nil (k : CmdOut) : checked [] k = k := by simp [checked]

/-- A check of the body whose test does not fail is passed over. -/
@[simp] theorem checked_badArg (b : Bool) (cs : List Check) (k : CmdOut) :
    checked (badArg b :: cs) k = if b then .refuse .badArg 0 else checked cs k := by
  cases b <;> simp [checked, badArg]

/-- The check of the package state, at a request's turn, is passed over. -/
theorem State.atTurn.pkg {s : State} {n : Fin 64} {seq : W32} {op : Nat} {x : Sess} {r : Req} (h : s.atTurn n seq op x r)
    (cs : List Check) (k : CmdOut) : checked (s.pkgCheck r :: cs) k = checked cs k := by
  have h1 : (s.pkgCheck r).1 = false := h.2.2.2.2
  simp [checked, h1]

/-- A request at its turn runs its effect, and its outcome is answered. -/
theorem aidar_at_turn {s : State} {n : Fin 64} {seq : W32} {op : Nat} {x : Sess} {r : Req} (h : s.atTurn n seq op x r)
    (core : Sess → Req → CmdOut) : aidar n seq op s core = .next (s.answer n.val r (core x r)) := by
  obtain ⟨hw, hm, hb, he, -⟩ := h
  simp [aidar, State.runReq, hw, hm, hb, checked_pass _ he]

/-- A request that an early check refuses has no effect but its record. -/
theorem runReq_refused {s : State} {n : Nat} {seq : W32} {op : Nat} {x : Sess} {r : Req} {sel : Req → Bool} {c : Check}
    (core : Sess → Req → CmdOut) (hw : s.waiting? n seq op sel = some (x, r)) (hm : s.pkg.mgr.st = .running) (hb : s.objBusy r = false)
    (he : (earlyChecks x r).find? (·.1) = some c) :
    s.runReq n seq op sel core = s.finishReq n r c.2.1.code (BitVec.ofNat 8 c.2.2) 0 0 false := by
  simp [State.runReq, hw, hm, hb, checked_fail _ he, State.answer]

end Sys2Proof.Machine
end

