-- ==== Sys2Proof/Laws/State.lean ====
section
/-! SUPPORT. One lemma for each field and each named update of the state: what the field is after the update. -/

namespace Sys2Proof.Machine

variable (s : State)

/-! ### `State.modTileP` -/

@[simp] theorem State.modTileP_pending (p : Nat) (f : Tile → Tile) : (s.modTileP p f).pending = s.pending := rfl
@[simp] theorem State.modTileP_draw (p : Nat) (f : Tile → Tile) : (s.modTileP p f).draw = s.draw := rfl
@[simp] theorem State.modTileP_out (p : Nat) (f : Tile → Tile) : (s.modTileP p f).out = s.out := rfl
@[simp] theorem State.modTileP_pkg (p : Nat) (f : Tile → Tile) : (s.modTileP p f).pkg = s.pkg := rfl
@[simp] theorem State.modTileP_dies (p : Nat) (f : Tile → Tile) : (s.modTileP p f).dies = s.dies := rfl
@[simp] theorem State.modTileP_tiles (p : Nat) (f : Tile → Tile) : (s.modTileP p f).tiles = smPutD {} s.tiles p (f (s.tileP p)) := rfl
@[simp] theorem State.modTileP_ctxs (p : Nat) (f : Tile → Tile) : (s.modTileP p f).ctxs = s.ctxs := rfl
@[simp] theorem State.modTileP_handles (p : Nat) (f : Tile → Tile) : (s.modTileP p f).handles = s.handles := rfl
@[simp] theorem State.modTileP_ops (p : Nat) (f : Tile → Tile) : (s.modTileP p f).ops = s.ops := rfl
@[simp] theorem State.modTileP_nextOp (p : Nat) (f : Tile → Tile) : (s.modTileP p f).nextOp = s.nextOp := rfl
@[simp] theorem State.modTileP_signals (p : Nat) (f : Tile → Tile) : (s.modTileP p f).signals = s.signals := rfl
@[simp] theorem State.modTileP_xlates (p : Nat) (f : Tile → Tile) : (s.modTileP p f).xlates = s.xlates := rfl
@[simp] theorem State.modTileP_mrMsgs (p : Nat) (f : Tile → Tile) : (s.modTileP p f).mrMsgs = s.mrMsgs := rfl
@[simp] theorem State.modTileP_useCount (p : Nat) (f : Tile → Tile) : (s.modTileP p f).useCount = s.useCount := rfl
@[simp] theorem State.modTileP_tier (p : Nat) (f : Tile → Tile) : (s.modTileP p f).tier = s.tier := rfl
@[simp] theorem State.modTileP_tierPoison (p : Nat) (f : Tile → Tile) : (s.modTileP p f).tierPoison = s.tierPoison := rfl
@[simp] theorem State.modTileP_devices (p : Nat) (f : Tile → Tile) : (s.modTileP p f).devices = s.devices := rfl
@[simp] theorem State.modTileP_ports (p : Nat) (f : Tile → Tile) : (s.modTileP p f).ports = s.ports := rfl
@[simp] theorem State.modTileP_rxSealed (p : Nat) (f : Tile → Tile) : (s.modTileP p f).rxSealed = s.rxSealed := rfl
@[simp] theorem State.modTileP_rxOpen (p : Nat) (f : Tile → Tile) : (s.modTileP p f).rxOpen = s.rxOpen := rfl
@[simp] theorem State.modTileP_scopeDue (p : Nat) (f : Tile → Tile) : (s.modTileP p f).scopeDue = s.scopeDue := rfl
@[simp] theorem State.modTileP_part (p : Nat) (f : Tile → Tile) : (s.modTileP p f).part = s.part := rfl
@[simp] theorem State.modTileP_eth (p : Nat) (f : Tile → Tile) : (s.modTileP p f).eth = s.eth := rfl
@[simp] theorem State.modTileP_qps (p : Nat) (f : Tile → Tile) : (s.modTileP p f).qps = s.qps := rfl
@[simp] theorem State.modTileP_sess (p : Nat) (f : Tile → Tile) : (s.modTileP p f).sess = s.sess := rfl
@[simp] theorem State.modTileP_takeOrder (p : Nat) (f : Tile → Tile) : (s.modTileP p f).takeOrder = s.takeOrder := rfl
@[simp] theorem State.modTileP_sec (p : Nat) (f : Tile → Tile) : (s.modTileP p f).sec = s.sec := rfl
@[simp] theorem State.modTileP_power (p : Nat) (f : Tile → Tile) : (s.modTileP p f).power = s.power := rfl
@[simp] theorem State.modTileP_time (p : Nat) (f : Tile → Tile) : (s.modTileP p f).time = s.time := rfl
@[simp] theorem State.modTileP_telem (p : Nat) (f : Tile → Tile) : (s.modTileP p f).telem = s.telem := rfl
@[simp] theorem State.modTileP_bb (p : Nat) (f : Tile → Tile) : (s.modTileP p f).bb = s.bb := rfl

/-! ### `State.modTileL` -/

@[simp] theorem State.modTileL_pending (l : Nat) (f : Tile → Tile) : (s.modTileL l f).pending = s.pending := rfl
@[simp] theorem State.modTileL_draw (l : Nat) (f : Tile → Tile) : (s.modTileL l f).draw = s.draw := rfl
@[simp] theorem State.modTileL_out (l : Nat) (f : Tile → Tile) : (s.modTileL l f).out = s.out := rfl
@[simp] theorem State.modTileL_pkg (l : Nat) (f : Tile → Tile) : (s.modTileL l f).pkg = s.pkg := rfl
@[simp] theorem State.modTileL_dies (l : Nat) (f : Tile → Tile) : (s.modTileL l f).dies = s.dies := rfl
@[simp] theorem State.modTileL_tiles (l : Nat) (f : Tile → Tile) : (s.modTileL l f).tiles = smPutD {} s.tiles (s.phys l) (f (s.tileP (s.phys l))) := rfl
@[simp] theorem State.modTileL_ctxs (l : Nat) (f : Tile → Tile) : (s.modTileL l f).ctxs = s.ctxs := rfl
@[simp] theorem State.modTileL_handles (l : Nat) (f : Tile → Tile) : (s.modTileL l f).handles = s.handles := rfl
@[simp] theorem State.modTileL_ops (l : Nat) (f : Tile → Tile) : (s.modTileL l f).ops = s.ops := rfl
@[simp] theorem State.modTileL_nextOp (l : Nat) (f : Tile → Tile) : (s.modTileL l f).nextOp = s.nextOp := rfl
@[simp] theorem State.modTileL_signals (l : Nat) (f : Tile → Tile) : (s.modTileL l f).signals = s.signals := rfl
@[simp] theorem State.modTileL_xlates (l : Nat) (f : Tile → Tile) : (s.modTileL l f).xlates = s.xlates := rfl
@[simp] theorem State.modTileL_mrMsgs (l : Nat) (f : Tile → Tile) : (s.modTileL l f).mrMsgs = s.mrMsgs := rfl
@[simp] theorem State.modTileL_useCount (l : Nat) (f : Tile → Tile) : (s.modTileL l f).useCount = s.useCount := rfl
@[simp] theorem State.modTileL_tier (l : Nat) (f : Tile → Tile) : (s.modTileL l f).tier = s.tier := rfl
@[simp] theorem State.modTileL_tierPoison (l : Nat) (f : Tile → Tile) : (s.modTileL l f).tierPoison = s.tierPoison := rfl
@[simp] theorem State.modTileL_devices (l : Nat) (f : Tile → Tile) : (s.modTileL l f).devices = s.devices := rfl
@[simp] theorem State.modTileL_ports (l : Nat) (f : Tile → Tile) : (s.modTileL l f).ports = s.ports := rfl
@[simp] theorem State.modTileL_rxSealed (l : Nat) (f : Tile → Tile) : (s.modTileL l f).rxSealed = s.rxSealed := rfl
@[simp] theorem State.modTileL_rxOpen (l : Nat) (f : Tile → Tile) : (s.modTileL l f).rxOpen = s.rxOpen := rfl
@[simp] theorem State.modTileL_scopeDue (l : Nat) (f : Tile → Tile) : (s.modTileL l f).scopeDue = s.scopeDue := rfl
@[simp] theorem State.modTileL_part (l : Nat) (f : Tile → Tile) : (s.modTileL l f).part = s.part := rfl
@[simp] theorem State.modTileL_eth (l : Nat) (f : Tile → Tile) : (s.modTileL l f).eth = s.eth := rfl
@[simp] theorem State.modTileL_qps (l : Nat) (f : Tile → Tile) : (s.modTileL l f).qps = s.qps := rfl
@[simp] theorem State.modTileL_sess (l : Nat) (f : Tile → Tile) : (s.modTileL l f).sess = s.sess := rfl
@[simp] theorem State.modTileL_takeOrder (l : Nat) (f : Tile → Tile) : (s.modTileL l f).takeOrder = s.takeOrder := rfl
@[simp] theorem State.modTileL_sec (l : Nat) (f : Tile → Tile) : (s.modTileL l f).sec = s.sec := rfl
@[simp] theorem State.modTileL_power (l : Nat) (f : Tile → Tile) : (s.modTileL l f).power = s.power := rfl
@[simp] theorem State.modTileL_time (l : Nat) (f : Tile → Tile) : (s.modTileL l f).time = s.time := rfl
@[simp] theorem State.modTileL_telem (l : Nat) (f : Tile → Tile) : (s.modTileL l f).telem = s.telem := rfl
@[simp] theorem State.modTileL_bb (l : Nat) (f : Tile → Tile) : (s.modTileL l f).bb = s.bb := rfl

/-! ### `State.modUc` -/

@[simp] theorem State.modUc_pending (l : Nat) (f : UtilCore → UtilCore) : (s.modUc l f).pending = s.pending := rfl
@[simp] theorem State.modUc_draw (l : Nat) (f : UtilCore → UtilCore) : (s.modUc l f).draw = s.draw := rfl
@[simp] theorem State.modUc_out (l : Nat) (f : UtilCore → UtilCore) : (s.modUc l f).out = s.out := rfl
@[simp] theorem State.modUc_pkg (l : Nat) (f : UtilCore → UtilCore) : (s.modUc l f).pkg = s.pkg := rfl
@[simp] theorem State.modUc_dies (l : Nat) (f : UtilCore → UtilCore) : (s.modUc l f).dies = s.dies := rfl
@[simp] theorem State.modUc_tiles (l : Nat) (f : UtilCore → UtilCore) : (s.modUc l f).tiles = (s.modTileL l (fun t => { t with uc := f t.uc })).tiles := rfl
@[simp] theorem State.modUc_ctxs (l : Nat) (f : UtilCore → UtilCore) : (s.modUc l f).ctxs = s.ctxs := rfl
@[simp] theorem State.modUc_handles (l : Nat) (f : UtilCore → UtilCore) : (s.modUc l f).handles = s.handles := rfl
@[simp] theorem State.modUc_ops (l : Nat) (f : UtilCore → UtilCore) : (s.modUc l f).ops = s.ops := rfl
@[simp] theorem State.modUc_nextOp (l : Nat) (f : UtilCore → UtilCore) : (s.modUc l f).nextOp = s.nextOp := rfl
@[simp] theorem State.modUc_signals (l : Nat) (f : UtilCore → UtilCore) : (s.modUc l f).signals = s.signals := rfl
@[simp] theorem State.modUc_xlates (l : Nat) (f : UtilCore → UtilCore) : (s.modUc l f).xlates = s.xlates := rfl
@[simp] theorem State.modUc_mrMsgs (l : Nat) (f : UtilCore → UtilCore) : (s.modUc l f).mrMsgs = s.mrMsgs := rfl
@[simp] theorem State.modUc_useCount (l : Nat) (f : UtilCore → UtilCore) : (s.modUc l f).useCount = s.useCount := rfl
@[simp] theorem State.modUc_tier (l : Nat) (f : UtilCore → UtilCore) : (s.modUc l f).tier = s.tier := rfl
@[simp] theorem State.modUc_tierPoison (l : Nat) (f : UtilCore → UtilCore) : (s.modUc l f).tierPoison = s.tierPoison := rfl
@[simp] theorem State.modUc_devices (l : Nat) (f : UtilCore → UtilCore) : (s.modUc l f).devices = s.devices := rfl
@[simp] theorem State.modUc_ports (l : Nat) (f : UtilCore → UtilCore) : (s.modUc l f).ports = s.ports := rfl
@[simp] theorem State.modUc_rxSealed (l : Nat) (f : UtilCore → UtilCore) : (s.modUc l f).rxSealed = s.rxSealed := rfl
@[simp] theorem State.modUc_rxOpen (l : Nat) (f : UtilCore → UtilCore) : (s.modUc l f).rxOpen = s.rxOpen := rfl
@[simp] theorem State.modUc_scopeDue (l : Nat) (f : UtilCore → UtilCore) : (s.modUc l f).scopeDue = s.scopeDue := rfl
@[simp] theorem State.modUc_part (l : Nat) (f : UtilCore → UtilCore) : (s.modUc l f).part = s.part := rfl
@[simp] theorem State.modUc_eth (l : Nat) (f : UtilCore → UtilCore) : (s.modUc l f).eth = s.eth := rfl
@[simp] theorem State.modUc_qps (l : Nat) (f : UtilCore → UtilCore) : (s.modUc l f).qps = s.qps := rfl
@[simp] theorem State.modUc_sess (l : Nat) (f : UtilCore → UtilCore) : (s.modUc l f).sess = s.sess := rfl
@[simp] theorem State.modUc_takeOrder (l : Nat) (f : UtilCore → UtilCore) : (s.modUc l f).takeOrder = s.takeOrder := rfl
@[simp] theorem State.modUc_sec (l : Nat) (f : UtilCore → UtilCore) : (s.modUc l f).sec = s.sec := rfl
@[simp] theorem State.modUc_power (l : Nat) (f : UtilCore → UtilCore) : (s.modUc l f).power = s.power := rfl
@[simp] theorem State.modUc_time (l : Nat) (f : UtilCore → UtilCore) : (s.modUc l f).time = s.time := rfl
@[simp] theorem State.modUc_telem (l : Nat) (f : UtilCore → UtilCore) : (s.modUc l f).telem = s.telem := rfl
@[simp] theorem State.modUc_bb (l : Nat) (f : UtilCore → UtilCore) : (s.modUc l f).bb = s.bb := rfl

/-! ### `State.modDie` -/

@[simp] theorem State.modDie_pending (d : Nat) (f : Die → Die) : (s.modDie d f).pending = s.pending := rfl
@[simp] theorem State.modDie_draw (d : Nat) (f : Die → Die) : (s.modDie d f).draw = s.draw := rfl
@[simp] theorem State.modDie_out (d : Nat) (f : Die → Die) : (s.modDie d f).out = s.out := rfl
@[simp] theorem State.modDie_pkg (d : Nat) (f : Die → Die) : (s.modDie d f).pkg = s.pkg := rfl
@[simp] theorem State.modDie_dies (d : Nat) (f : Die → Die) : (s.modDie d f).dies = modAt s.dies d f := rfl
@[simp] theorem State.modDie_tiles (d : Nat) (f : Die → Die) : (s.modDie d f).tiles = s.tiles := rfl
@[simp] theorem State.modDie_ctxs (d : Nat) (f : Die → Die) : (s.modDie d f).ctxs = s.ctxs := rfl
@[simp] theorem State.modDie_handles (d : Nat) (f : Die → Die) : (s.modDie d f).handles = s.handles := rfl
@[simp] theorem State.modDie_ops (d : Nat) (f : Die → Die) : (s.modDie d f).ops = s.ops := rfl
@[simp] theorem State.modDie_nextOp (d : Nat) (f : Die → Die) : (s.modDie d f).nextOp = s.nextOp := rfl
@[simp] theorem State.modDie_signals (d : Nat) (f : Die → Die) : (s.modDie d f).signals = s.signals := rfl
@[simp] theorem State.modDie_xlates (d : Nat) (f : Die → Die) : (s.modDie d f).xlates = s.xlates := rfl
@[simp] theorem State.modDie_mrMsgs (d : Nat) (f : Die → Die) : (s.modDie d f).mrMsgs = s.mrMsgs := rfl
@[simp] theorem State.modDie_useCount (d : Nat) (f : Die → Die) : (s.modDie d f).useCount = s.useCount := rfl
@[simp] theorem State.modDie_tier (d : Nat) (f : Die → Die) : (s.modDie d f).tier = s.tier := rfl
@[simp] theorem State.modDie_tierPoison (d : Nat) (f : Die → Die) : (s.modDie d f).tierPoison = s.tierPoison := rfl
@[simp] theorem State.modDie_devices (d : Nat) (f : Die → Die) : (s.modDie d f).devices = s.devices := rfl
@[simp] theorem State.modDie_ports (d : Nat) (f : Die → Die) : (s.modDie d f).ports = s.ports := rfl
@[simp] theorem State.modDie_rxSealed (d : Nat) (f : Die → Die) : (s.modDie d f).rxSealed = s.rxSealed := rfl
@[simp] theorem State.modDie_rxOpen (d : Nat) (f : Die → Die) : (s.modDie d f).rxOpen = s.rxOpen := rfl
@[simp] theorem State.modDie_scopeDue (d : Nat) (f : Die → Die) : (s.modDie d f).scopeDue = s.scopeDue := rfl
@[simp] theorem State.modDie_part (d : Nat) (f : Die → Die) : (s.modDie d f).part = s.part := rfl
@[simp] theorem State.modDie_eth (d : Nat) (f : Die → Die) : (s.modDie d f).eth = s.eth := rfl
@[simp] theorem State.modDie_qps (d : Nat) (f : Die → Die) : (s.modDie d f).qps = s.qps := rfl
@[simp] theorem State.modDie_sess (d : Nat) (f : Die → Die) : (s.modDie d f).sess = s.sess := rfl
@[simp] theorem State.modDie_takeOrder (d : Nat) (f : Die → Die) : (s.modDie d f).takeOrder = s.takeOrder := rfl
@[simp] theorem State.modDie_sec (d : Nat) (f : Die → Die) : (s.modDie d f).sec = s.sec := rfl
@[simp] theorem State.modDie_power (d : Nat) (f : Die → Die) : (s.modDie d f).power = s.power := rfl
@[simp] theorem State.modDie_time (d : Nat) (f : Die → Die) : (s.modDie d f).time = s.time := rfl
@[simp] theorem State.modDie_telem (d : Nat) (f : Die → Die) : (s.modDie d f).telem = s.telem := rfl
@[simp] theorem State.modDie_bb (d : Nat) (f : Die → Die) : (s.modDie d f).bb = s.bb := rfl

/-! ### `State.modCtx` -/

@[simp] theorem State.modCtx_pending (c : Nat) (f : Ctx → Ctx) : (s.modCtx c f).pending = s.pending := rfl
@[simp] theorem State.modCtx_draw (c : Nat) (f : Ctx → Ctx) : (s.modCtx c f).draw = s.draw := rfl
@[simp] theorem State.modCtx_out (c : Nat) (f : Ctx → Ctx) : (s.modCtx c f).out = s.out := rfl
@[simp] theorem State.modCtx_pkg (c : Nat) (f : Ctx → Ctx) : (s.modCtx c f).pkg = s.pkg := rfl
@[simp] theorem State.modCtx_dies (c : Nat) (f : Ctx → Ctx) : (s.modCtx c f).dies = s.dies := rfl
@[simp] theorem State.modCtx_tiles (c : Nat) (f : Ctx → Ctx) : (s.modCtx c f).tiles = s.tiles := rfl
@[simp] theorem State.modCtx_ctxs (c : Nat) (f : Ctx → Ctx) : (s.modCtx c f).ctxs = smMod s.ctxs c f := rfl
@[simp] theorem State.modCtx_handles (c : Nat) (f : Ctx → Ctx) : (s.modCtx c f).handles = s.handles := rfl
@[simp] theorem State.modCtx_ops (c : Nat) (f : Ctx → Ctx) : (s.modCtx c f).ops = s.ops := rfl
@[simp] theorem State.modCtx_nextOp (c : Nat) (f : Ctx → Ctx) : (s.modCtx c f).nextOp = s.nextOp := rfl
@[simp] theorem State.modCtx_signals (c : Nat) (f : Ctx → Ctx) : (s.modCtx c f).signals = s.signals := rfl
@[simp] theorem State.modCtx_xlates (c : Nat) (f : Ctx → Ctx) : (s.modCtx c f).xlates = s.xlates := rfl
@[simp] theorem State.modCtx_mrMsgs (c : Nat) (f : Ctx → Ctx) : (s.modCtx c f).mrMsgs = s.mrMsgs := rfl
@[simp] theorem State.modCtx_useCount (c : Nat) (f : Ctx → Ctx) : (s.modCtx c f).useCount = s.useCount := rfl
@[simp] theorem State.modCtx_tier (c : Nat) (f : Ctx → Ctx) : (s.modCtx c f).tier = s.tier := rfl
@[simp] theorem State.modCtx_tierPoison (c : Nat) (f : Ctx → Ctx) : (s.modCtx c f).tierPoison = s.tierPoison := rfl
@[simp] theorem State.modCtx_devices (c : Nat) (f : Ctx → Ctx) : (s.modCtx c f).devices = s.devices := rfl
@[simp] theorem State.modCtx_ports (c : Nat) (f : Ctx → Ctx) : (s.modCtx c f).ports = s.ports := rfl
@[simp] theorem State.modCtx_rxSealed (c : Nat) (f : Ctx → Ctx) : (s.modCtx c f).rxSealed = s.rxSealed := rfl
@[simp] theorem State.modCtx_rxOpen (c : Nat) (f : Ctx → Ctx) : (s.modCtx c f).rxOpen = s.rxOpen := rfl
@[simp] theorem State.modCtx_scopeDue (c : Nat) (f : Ctx → Ctx) : (s.modCtx c f).scopeDue = s.scopeDue := rfl
@[simp] theorem State.modCtx_part (c : Nat) (f : Ctx → Ctx) : (s.modCtx c f).part = s.part := rfl
@[simp] theorem State.modCtx_eth (c : Nat) (f : Ctx → Ctx) : (s.modCtx c f).eth = s.eth := rfl
@[simp] theorem State.modCtx_qps (c : Nat) (f : Ctx → Ctx) : (s.modCtx c f).qps = s.qps := rfl
@[simp] theorem State.modCtx_sess (c : Nat) (f : Ctx → Ctx) : (s.modCtx c f).sess = s.sess := rfl
@[simp] theorem State.modCtx_takeOrder (c : Nat) (f : Ctx → Ctx) : (s.modCtx c f).takeOrder = s.takeOrder := rfl
@[simp] theorem State.modCtx_sec (c : Nat) (f : Ctx → Ctx) : (s.modCtx c f).sec = s.sec := rfl
@[simp] theorem State.modCtx_power (c : Nat) (f : Ctx → Ctx) : (s.modCtx c f).power = s.power := rfl
@[simp] theorem State.modCtx_time (c : Nat) (f : Ctx → Ctx) : (s.modCtx c f).time = s.time := rfl
@[simp] theorem State.modCtx_telem (c : Nat) (f : Ctx → Ctx) : (s.modCtx c f).telem = s.telem := rfl
@[simp] theorem State.modCtx_bb (c : Nat) (f : Ctx → Ctx) : (s.modCtx c f).bb = s.bb := rfl

/-! ### `State.mapCtx` -/

@[simp] theorem State.mapCtx_pending (f : Nat → Ctx → Ctx) : (s.mapCtx f).pending = s.pending := rfl
@[simp] theorem State.mapCtx_draw (f : Nat → Ctx → Ctx) : (s.mapCtx f).draw = s.draw := rfl
@[simp] theorem State.mapCtx_out (f : Nat → Ctx → Ctx) : (s.mapCtx f).out = s.out := rfl
@[simp] theorem State.mapCtx_pkg (f : Nat → Ctx → Ctx) : (s.mapCtx f).pkg = s.pkg := rfl
@[simp] theorem State.mapCtx_dies (f : Nat → Ctx → Ctx) : (s.mapCtx f).dies = s.dies := rfl
@[simp] theorem State.mapCtx_tiles (f : Nat → Ctx → Ctx) : (s.mapCtx f).tiles = s.tiles := rfl
@[simp] theorem State.mapCtx_ctxs (f : Nat → Ctx → Ctx) : (s.mapCtx f).ctxs = s.ctxs.map (fun e => (e.1, f e.1 e.2)) := rfl
@[simp] theorem State.mapCtx_handles (f : Nat → Ctx → Ctx) : (s.mapCtx f).handles = s.handles := rfl
@[simp] theorem State.mapCtx_ops (f : Nat → Ctx → Ctx) : (s.mapCtx f).ops = s.ops := rfl
@[simp] theorem State.mapCtx_nextOp (f : Nat → Ctx → Ctx) : (s.mapCtx f).nextOp = s.nextOp := rfl
@[simp] theorem State.mapCtx_signals (f : Nat → Ctx → Ctx) : (s.mapCtx f).signals = s.signals := rfl
@[simp] theorem State.mapCtx_xlates (f : Nat → Ctx → Ctx) : (s.mapCtx f).xlates = s.xlates := rfl
@[simp] theorem State.mapCtx_mrMsgs (f : Nat → Ctx → Ctx) : (s.mapCtx f).mrMsgs = s.mrMsgs := rfl
@[simp] theorem State.mapCtx_useCount (f : Nat → Ctx → Ctx) : (s.mapCtx f).useCount = s.useCount := rfl
@[simp] theorem State.mapCtx_tier (f : Nat → Ctx → Ctx) : (s.mapCtx f).tier = s.tier := rfl
@[simp] theorem State.mapCtx_tierPoison (f : Nat → Ctx → Ctx) : (s.mapCtx f).tierPoison = s.tierPoison := rfl
@[simp] theorem State.mapCtx_devices (f : Nat → Ctx → Ctx) : (s.mapCtx f).devices = s.devices := rfl
@[simp] theorem State.mapCtx_ports (f : Nat → Ctx → Ctx) : (s.mapCtx f).ports = s.ports := rfl
@[simp] theorem State.mapCtx_rxSealed (f : Nat → Ctx → Ctx) : (s.mapCtx f).rxSealed = s.rxSealed := rfl
@[simp] theorem State.mapCtx_rxOpen (f : Nat → Ctx → Ctx) : (s.mapCtx f).rxOpen = s.rxOpen := rfl
@[simp] theorem State.mapCtx_scopeDue (f : Nat → Ctx → Ctx) : (s.mapCtx f).scopeDue = s.scopeDue := rfl
@[simp] theorem State.mapCtx_part (f : Nat → Ctx → Ctx) : (s.mapCtx f).part = s.part := rfl
@[simp] theorem State.mapCtx_eth (f : Nat → Ctx → Ctx) : (s.mapCtx f).eth = s.eth := rfl
@[simp] theorem State.mapCtx_qps (f : Nat → Ctx → Ctx) : (s.mapCtx f).qps = s.qps := rfl
@[simp] theorem State.mapCtx_sess (f : Nat → Ctx → Ctx) : (s.mapCtx f).sess = s.sess := rfl
@[simp] theorem State.mapCtx_takeOrder (f : Nat → Ctx → Ctx) : (s.mapCtx f).takeOrder = s.takeOrder := rfl
@[simp] theorem State.mapCtx_sec (f : Nat → Ctx → Ctx) : (s.mapCtx f).sec = s.sec := rfl
@[simp] theorem State.mapCtx_power (f : Nat → Ctx → Ctx) : (s.mapCtx f).power = s.power := rfl
@[simp] theorem State.mapCtx_time (f : Nat → Ctx → Ctx) : (s.mapCtx f).time = s.time := rfl
@[simp] theorem State.mapCtx_telem (f : Nat → Ctx → Ctx) : (s.mapCtx f).telem = s.telem := rfl
@[simp] theorem State.mapCtx_bb (f : Nat → Ctx → Ctx) : (s.mapCtx f).bb = s.bb := rfl

/-! ### `State.modPort` -/

@[simp] theorem State.modPort_pending (j : Nat) (f : Port → Port) : (s.modPort j f).pending = s.pending := rfl
@[simp] theorem State.modPort_draw (j : Nat) (f : Port → Port) : (s.modPort j f).draw = s.draw := rfl
@[simp] theorem State.modPort_out (j : Nat) (f : Port → Port) : (s.modPort j f).out = s.out := rfl
@[simp] theorem State.modPort_pkg (j : Nat) (f : Port → Port) : (s.modPort j f).pkg = s.pkg := rfl
@[simp] theorem State.modPort_dies (j : Nat) (f : Port → Port) : (s.modPort j f).dies = s.dies := rfl
@[simp] theorem State.modPort_tiles (j : Nat) (f : Port → Port) : (s.modPort j f).tiles = s.tiles := rfl
@[simp] theorem State.modPort_ctxs (j : Nat) (f : Port → Port) : (s.modPort j f).ctxs = s.ctxs := rfl
@[simp] theorem State.modPort_handles (j : Nat) (f : Port → Port) : (s.modPort j f).handles = s.handles := rfl
@[simp] theorem State.modPort_ops (j : Nat) (f : Port → Port) : (s.modPort j f).ops = s.ops := rfl
@[simp] theorem State.modPort_nextOp (j : Nat) (f : Port → Port) : (s.modPort j f).nextOp = s.nextOp := rfl
@[simp] theorem State.modPort_signals (j : Nat) (f : Port → Port) : (s.modPort j f).signals = s.signals := rfl
@[simp] theorem State.modPort_xlates (j : Nat) (f : Port → Port) : (s.modPort j f).xlates = s.xlates := rfl
@[simp] theorem State.modPort_mrMsgs (j : Nat) (f : Port → Port) : (s.modPort j f).mrMsgs = s.mrMsgs := rfl
@[simp] theorem State.modPort_useCount (j : Nat) (f : Port → Port) : (s.modPort j f).useCount = s.useCount := rfl
@[simp] theorem State.modPort_tier (j : Nat) (f : Port → Port) : (s.modPort j f).tier = s.tier := rfl
@[simp] theorem State.modPort_tierPoison (j : Nat) (f : Port → Port) : (s.modPort j f).tierPoison = s.tierPoison := rfl
@[simp] theorem State.modPort_devices (j : Nat) (f : Port → Port) : (s.modPort j f).devices = s.devices := rfl
@[simp] theorem State.modPort_ports (j : Nat) (f : Port → Port) : (s.modPort j f).ports = modAt s.ports j f := rfl
@[simp] theorem State.modPort_rxSealed (j : Nat) (f : Port → Port) : (s.modPort j f).rxSealed = s.rxSealed := rfl
@[simp] theorem State.modPort_rxOpen (j : Nat) (f : Port → Port) : (s.modPort j f).rxOpen = s.rxOpen := rfl
@[simp] theorem State.modPort_scopeDue (j : Nat) (f : Port → Port) : (s.modPort j f).scopeDue = s.scopeDue := rfl
@[simp] theorem State.modPort_part (j : Nat) (f : Port → Port) : (s.modPort j f).part = s.part := rfl
@[simp] theorem State.modPort_eth (j : Nat) (f : Port → Port) : (s.modPort j f).eth = s.eth := rfl
@[simp] theorem State.modPort_qps (j : Nat) (f : Port → Port) : (s.modPort j f).qps = s.qps := rfl
@[simp] theorem State.modPort_sess (j : Nat) (f : Port → Port) : (s.modPort j f).sess = s.sess := rfl
@[simp] theorem State.modPort_takeOrder (j : Nat) (f : Port → Port) : (s.modPort j f).takeOrder = s.takeOrder := rfl
@[simp] theorem State.modPort_sec (j : Nat) (f : Port → Port) : (s.modPort j f).sec = s.sec := rfl
@[simp] theorem State.modPort_power (j : Nat) (f : Port → Port) : (s.modPort j f).power = s.power := rfl
@[simp] theorem State.modPort_time (j : Nat) (f : Port → Port) : (s.modPort j f).time = s.time := rfl
@[simp] theorem State.modPort_telem (j : Nat) (f : Port → Port) : (s.modPort j f).telem = s.telem := rfl
@[simp] theorem State.modPort_bb (j : Nat) (f : Port → Port) : (s.modPort j f).bb = s.bb := rfl

/-! ### `State.modFlow` -/

@[simp] theorem State.modFlow_pending (j v : Nat) (f : Flow → Flow) : (s.modFlow j v f).pending = s.pending := rfl
@[simp] theorem State.modFlow_draw (j v : Nat) (f : Flow → Flow) : (s.modFlow j v f).draw = s.draw := rfl
@[simp] theorem State.modFlow_out (j v : Nat) (f : Flow → Flow) : (s.modFlow j v f).out = s.out := rfl
@[simp] theorem State.modFlow_pkg (j v : Nat) (f : Flow → Flow) : (s.modFlow j v f).pkg = s.pkg := rfl
@[simp] theorem State.modFlow_dies (j v : Nat) (f : Flow → Flow) : (s.modFlow j v f).dies = s.dies := rfl
@[simp] theorem State.modFlow_tiles (j v : Nat) (f : Flow → Flow) : (s.modFlow j v f).tiles = s.tiles := rfl
@[simp] theorem State.modFlow_ctxs (j v : Nat) (f : Flow → Flow) : (s.modFlow j v f).ctxs = s.ctxs := rfl
@[simp] theorem State.modFlow_handles (j v : Nat) (f : Flow → Flow) : (s.modFlow j v f).handles = s.handles := rfl
@[simp] theorem State.modFlow_ops (j v : Nat) (f : Flow → Flow) : (s.modFlow j v f).ops = s.ops := rfl
@[simp] theorem State.modFlow_nextOp (j v : Nat) (f : Flow → Flow) : (s.modFlow j v f).nextOp = s.nextOp := rfl
@[simp] theorem State.modFlow_signals (j v : Nat) (f : Flow → Flow) : (s.modFlow j v f).signals = s.signals := rfl
@[simp] theorem State.modFlow_xlates (j v : Nat) (f : Flow → Flow) : (s.modFlow j v f).xlates = s.xlates := rfl
@[simp] theorem State.modFlow_mrMsgs (j v : Nat) (f : Flow → Flow) : (s.modFlow j v f).mrMsgs = s.mrMsgs := rfl
@[simp] theorem State.modFlow_useCount (j v : Nat) (f : Flow → Flow) : (s.modFlow j v f).useCount = s.useCount := rfl
@[simp] theorem State.modFlow_tier (j v : Nat) (f : Flow → Flow) : (s.modFlow j v f).tier = s.tier := rfl
@[simp] theorem State.modFlow_tierPoison (j v : Nat) (f : Flow → Flow) : (s.modFlow j v f).tierPoison = s.tierPoison := rfl
@[simp] theorem State.modFlow_devices (j v : Nat) (f : Flow → Flow) : (s.modFlow j v f).devices = s.devices := rfl
@[simp] theorem State.modFlow_ports (j v : Nat) (f : Flow → Flow) : (s.modFlow j v f).ports = modAt s.ports j (fun p => { p with flow := modAt p.flow v f }) := rfl
@[simp] theorem State.modFlow_rxSealed (j v : Nat) (f : Flow → Flow) : (s.modFlow j v f).rxSealed = s.rxSealed := rfl
@[simp] theorem State.modFlow_rxOpen (j v : Nat) (f : Flow → Flow) : (s.modFlow j v f).rxOpen = s.rxOpen := rfl
@[simp] theorem State.modFlow_scopeDue (j v : Nat) (f : Flow → Flow) : (s.modFlow j v f).scopeDue = s.scopeDue := rfl
@[simp] theorem State.modFlow_part (j v : Nat) (f : Flow → Flow) : (s.modFlow j v f).part = s.part := rfl
@[simp] theorem State.modFlow_eth (j v : Nat) (f : Flow → Flow) : (s.modFlow j v f).eth = s.eth := rfl
@[simp] theorem State.modFlow_qps (j v : Nat) (f : Flow → Flow) : (s.modFlow j v f).qps = s.qps := rfl
@[simp] theorem State.modFlow_sess (j v : Nat) (f : Flow → Flow) : (s.modFlow j v f).sess = s.sess := rfl
@[simp] theorem State.modFlow_takeOrder (j v : Nat) (f : Flow → Flow) : (s.modFlow j v f).takeOrder = s.takeOrder := rfl
@[simp] theorem State.modFlow_sec (j v : Nat) (f : Flow → Flow) : (s.modFlow j v f).sec = s.sec := rfl
@[simp] theorem State.modFlow_power (j v : Nat) (f : Flow → Flow) : (s.modFlow j v f).power = s.power := rfl
@[simp] theorem State.modFlow_time (j v : Nat) (f : Flow → Flow) : (s.modFlow j v f).time = s.time := rfl
@[simp] theorem State.modFlow_telem (j v : Nat) (f : Flow → Flow) : (s.modFlow j v f).telem = s.telem := rfl
@[simp] theorem State.modFlow_bb (j v : Nat) (f : Flow → Flow) : (s.modFlow j v f).bb = s.bb := rfl

/-! ### `State.modDev` -/

@[simp] theorem State.modDev_pending (d : Nat) (f : Device → Device) : (s.modDev d f).pending = s.pending := rfl
@[simp] theorem State.modDev_draw (d : Nat) (f : Device → Device) : (s.modDev d f).draw = s.draw := rfl
@[simp] theorem State.modDev_out (d : Nat) (f : Device → Device) : (s.modDev d f).out = s.out := rfl
@[simp] theorem State.modDev_pkg (d : Nat) (f : Device → Device) : (s.modDev d f).pkg = s.pkg := rfl
@[simp] theorem State.modDev_dies (d : Nat) (f : Device → Device) : (s.modDev d f).dies = s.dies := rfl
@[simp] theorem State.modDev_tiles (d : Nat) (f : Device → Device) : (s.modDev d f).tiles = s.tiles := rfl
@[simp] theorem State.modDev_ctxs (d : Nat) (f : Device → Device) : (s.modDev d f).ctxs = s.ctxs := rfl
@[simp] theorem State.modDev_handles (d : Nat) (f : Device → Device) : (s.modDev d f).handles = s.handles := rfl
@[simp] theorem State.modDev_ops (d : Nat) (f : Device → Device) : (s.modDev d f).ops = s.ops := rfl
@[simp] theorem State.modDev_nextOp (d : Nat) (f : Device → Device) : (s.modDev d f).nextOp = s.nextOp := rfl
@[simp] theorem State.modDev_signals (d : Nat) (f : Device → Device) : (s.modDev d f).signals = s.signals := rfl
@[simp] theorem State.modDev_xlates (d : Nat) (f : Device → Device) : (s.modDev d f).xlates = s.xlates := rfl
@[simp] theorem State.modDev_mrMsgs (d : Nat) (f : Device → Device) : (s.modDev d f).mrMsgs = s.mrMsgs := rfl
@[simp] theorem State.modDev_useCount (d : Nat) (f : Device → Device) : (s.modDev d f).useCount = s.useCount := rfl
@[simp] theorem State.modDev_tier (d : Nat) (f : Device → Device) : (s.modDev d f).tier = s.tier := rfl
@[simp] theorem State.modDev_tierPoison (d : Nat) (f : Device → Device) : (s.modDev d f).tierPoison = s.tierPoison := rfl
@[simp] theorem State.modDev_devices (d : Nat) (f : Device → Device) : (s.modDev d f).devices = modAt s.devices d f := rfl
@[simp] theorem State.modDev_ports (d : Nat) (f : Device → Device) : (s.modDev d f).ports = s.ports := rfl
@[simp] theorem State.modDev_rxSealed (d : Nat) (f : Device → Device) : (s.modDev d f).rxSealed = s.rxSealed := rfl
@[simp] theorem State.modDev_rxOpen (d : Nat) (f : Device → Device) : (s.modDev d f).rxOpen = s.rxOpen := rfl
@[simp] theorem State.modDev_scopeDue (d : Nat) (f : Device → Device) : (s.modDev d f).scopeDue = s.scopeDue := rfl
@[simp] theorem State.modDev_part (d : Nat) (f : Device → Device) : (s.modDev d f).part = s.part := rfl
@[simp] theorem State.modDev_eth (d : Nat) (f : Device → Device) : (s.modDev d f).eth = s.eth := rfl
@[simp] theorem State.modDev_qps (d : Nat) (f : Device → Device) : (s.modDev d f).qps = s.qps := rfl
@[simp] theorem State.modDev_sess (d : Nat) (f : Device → Device) : (s.modDev d f).sess = s.sess := rfl
@[simp] theorem State.modDev_takeOrder (d : Nat) (f : Device → Device) : (s.modDev d f).takeOrder = s.takeOrder := rfl
@[simp] theorem State.modDev_sec (d : Nat) (f : Device → Device) : (s.modDev d f).sec = s.sec := rfl
@[simp] theorem State.modDev_power (d : Nat) (f : Device → Device) : (s.modDev d f).power = s.power := rfl
@[simp] theorem State.modDev_time (d : Nat) (f : Device → Device) : (s.modDev d f).time = s.time := rfl
@[simp] theorem State.modDev_telem (d : Nat) (f : Device → Device) : (s.modDev d f).telem = s.telem := rfl
@[simp] theorem State.modDev_bb (d : Nat) (f : Device → Device) : (s.modDev d f).bb = s.bb := rfl

/-! ### `State.modEth` -/

@[simp] theorem State.modEth_pending (j : Nat) (f : EthPort → EthPort) : (s.modEth j f).pending = s.pending := rfl
@[simp] theorem State.modEth_draw (j : Nat) (f : EthPort → EthPort) : (s.modEth j f).draw = s.draw := rfl
@[simp] theorem State.modEth_out (j : Nat) (f : EthPort → EthPort) : (s.modEth j f).out = s.out := rfl
@[simp] theorem State.modEth_pkg (j : Nat) (f : EthPort → EthPort) : (s.modEth j f).pkg = s.pkg := rfl
@[simp] theorem State.modEth_dies (j : Nat) (f : EthPort → EthPort) : (s.modEth j f).dies = s.dies := rfl
@[simp] theorem State.modEth_tiles (j : Nat) (f : EthPort → EthPort) : (s.modEth j f).tiles = s.tiles := rfl
@[simp] theorem State.modEth_ctxs (j : Nat) (f : EthPort → EthPort) : (s.modEth j f).ctxs = s.ctxs := rfl
@[simp] theorem State.modEth_handles (j : Nat) (f : EthPort → EthPort) : (s.modEth j f).handles = s.handles := rfl
@[simp] theorem State.modEth_ops (j : Nat) (f : EthPort → EthPort) : (s.modEth j f).ops = s.ops := rfl
@[simp] theorem State.modEth_nextOp (j : Nat) (f : EthPort → EthPort) : (s.modEth j f).nextOp = s.nextOp := rfl
@[simp] theorem State.modEth_signals (j : Nat) (f : EthPort → EthPort) : (s.modEth j f).signals = s.signals := rfl
@[simp] theorem State.modEth_xlates (j : Nat) (f : EthPort → EthPort) : (s.modEth j f).xlates = s.xlates := rfl
@[simp] theorem State.modEth_mrMsgs (j : Nat) (f : EthPort → EthPort) : (s.modEth j f).mrMsgs = s.mrMsgs := rfl
@[simp] theorem State.modEth_useCount (j : Nat) (f : EthPort → EthPort) : (s.modEth j f).useCount = s.useCount := rfl
@[simp] theorem State.modEth_tier (j : Nat) (f : EthPort → EthPort) : (s.modEth j f).tier = s.tier := rfl
@[simp] theorem State.modEth_tierPoison (j : Nat) (f : EthPort → EthPort) : (s.modEth j f).tierPoison = s.tierPoison := rfl
@[simp] theorem State.modEth_devices (j : Nat) (f : EthPort → EthPort) : (s.modEth j f).devices = s.devices := rfl
@[simp] theorem State.modEth_ports (j : Nat) (f : EthPort → EthPort) : (s.modEth j f).ports = s.ports := rfl
@[simp] theorem State.modEth_rxSealed (j : Nat) (f : EthPort → EthPort) : (s.modEth j f).rxSealed = s.rxSealed := rfl
@[simp] theorem State.modEth_rxOpen (j : Nat) (f : EthPort → EthPort) : (s.modEth j f).rxOpen = s.rxOpen := rfl
@[simp] theorem State.modEth_scopeDue (j : Nat) (f : EthPort → EthPort) : (s.modEth j f).scopeDue = s.scopeDue := rfl
@[simp] theorem State.modEth_part (j : Nat) (f : EthPort → EthPort) : (s.modEth j f).part = s.part := rfl
@[simp] theorem State.modEth_eth (j : Nat) (f : EthPort → EthPort) : (s.modEth j f).eth = modAt s.eth j f := rfl
@[simp] theorem State.modEth_qps (j : Nat) (f : EthPort → EthPort) : (s.modEth j f).qps = s.qps := rfl
@[simp] theorem State.modEth_sess (j : Nat) (f : EthPort → EthPort) : (s.modEth j f).sess = s.sess := rfl
@[simp] theorem State.modEth_takeOrder (j : Nat) (f : EthPort → EthPort) : (s.modEth j f).takeOrder = s.takeOrder := rfl
@[simp] theorem State.modEth_sec (j : Nat) (f : EthPort → EthPort) : (s.modEth j f).sec = s.sec := rfl
@[simp] theorem State.modEth_power (j : Nat) (f : EthPort → EthPort) : (s.modEth j f).power = s.power := rfl
@[simp] theorem State.modEth_time (j : Nat) (f : EthPort → EthPort) : (s.modEth j f).time = s.time := rfl
@[simp] theorem State.modEth_telem (j : Nat) (f : EthPort → EthPort) : (s.modEth j f).telem = s.telem := rfl
@[simp] theorem State.modEth_bb (j : Nat) (f : EthPort → EthPort) : (s.modEth j f).bb = s.bb := rfl

/-! ### `State.modSess` -/

@[simp] theorem State.modSess_pending (n : Nat) (f : Sess → Sess) : (s.modSess n f).pending = s.pending := rfl
@[simp] theorem State.modSess_draw (n : Nat) (f : Sess → Sess) : (s.modSess n f).draw = s.draw := rfl
@[simp] theorem State.modSess_out (n : Nat) (f : Sess → Sess) : (s.modSess n f).out = s.out := rfl
@[simp] theorem State.modSess_pkg (n : Nat) (f : Sess → Sess) : (s.modSess n f).pkg = s.pkg := rfl
@[simp] theorem State.modSess_dies (n : Nat) (f : Sess → Sess) : (s.modSess n f).dies = s.dies := rfl
@[simp] theorem State.modSess_tiles (n : Nat) (f : Sess → Sess) : (s.modSess n f).tiles = s.tiles := rfl
@[simp] theorem State.modSess_ctxs (n : Nat) (f : Sess → Sess) : (s.modSess n f).ctxs = s.ctxs := rfl
@[simp] theorem State.modSess_handles (n : Nat) (f : Sess → Sess) : (s.modSess n f).handles = s.handles := rfl
@[simp] theorem State.modSess_ops (n : Nat) (f : Sess → Sess) : (s.modSess n f).ops = s.ops := rfl
@[simp] theorem State.modSess_nextOp (n : Nat) (f : Sess → Sess) : (s.modSess n f).nextOp = s.nextOp := rfl
@[simp] theorem State.modSess_signals (n : Nat) (f : Sess → Sess) : (s.modSess n f).signals = s.signals := rfl
@[simp] theorem State.modSess_xlates (n : Nat) (f : Sess → Sess) : (s.modSess n f).xlates = s.xlates := rfl
@[simp] theorem State.modSess_mrMsgs (n : Nat) (f : Sess → Sess) : (s.modSess n f).mrMsgs = s.mrMsgs := rfl
@[simp] theorem State.modSess_useCount (n : Nat) (f : Sess → Sess) : (s.modSess n f).useCount = s.useCount := rfl
@[simp] theorem State.modSess_tier (n : Nat) (f : Sess → Sess) : (s.modSess n f).tier = s.tier := rfl
@[simp] theorem State.modSess_tierPoison (n : Nat) (f : Sess → Sess) : (s.modSess n f).tierPoison = s.tierPoison := rfl
@[simp] theorem State.modSess_devices (n : Nat) (f : Sess → Sess) : (s.modSess n f).devices = s.devices := rfl
@[simp] theorem State.modSess_ports (n : Nat) (f : Sess → Sess) : (s.modSess n f).ports = s.ports := rfl
@[simp] theorem State.modSess_rxSealed (n : Nat) (f : Sess → Sess) : (s.modSess n f).rxSealed = s.rxSealed := rfl
@[simp] theorem State.modSess_rxOpen (n : Nat) (f : Sess → Sess) : (s.modSess n f).rxOpen = s.rxOpen := rfl
@[simp] theorem State.modSess_scopeDue (n : Nat) (f : Sess → Sess) : (s.modSess n f).scopeDue = s.scopeDue := rfl
@[simp] theorem State.modSess_part (n : Nat) (f : Sess → Sess) : (s.modSess n f).part = s.part := rfl
@[simp] theorem State.modSess_eth (n : Nat) (f : Sess → Sess) : (s.modSess n f).eth = s.eth := rfl
@[simp] theorem State.modSess_qps (n : Nat) (f : Sess → Sess) : (s.modSess n f).qps = s.qps := rfl
@[simp] theorem State.modSess_sess (n : Nat) (f : Sess → Sess) : (s.modSess n f).sess = smMod s.sess n f := rfl
@[simp] theorem State.modSess_takeOrder (n : Nat) (f : Sess → Sess) : (s.modSess n f).takeOrder = s.takeOrder := rfl
@[simp] theorem State.modSess_sec (n : Nat) (f : Sess → Sess) : (s.modSess n f).sec = s.sec := rfl
@[simp] theorem State.modSess_power (n : Nat) (f : Sess → Sess) : (s.modSess n f).power = s.power := rfl
@[simp] theorem State.modSess_time (n : Nat) (f : Sess → Sess) : (s.modSess n f).time = s.time := rfl
@[simp] theorem State.modSess_telem (n : Nat) (f : Sess → Sess) : (s.modSess n f).telem = s.telem := rfl
@[simp] theorem State.modSess_bb (n : Nat) (f : Sess → Sess) : (s.modSess n f).bb = s.bb := rfl

/-! ### `State.modQp` -/

@[simp] theorem State.modQp_pending (q : Nat) (f : Qp → Qp) : (s.modQp q f).pending = s.pending := rfl
@[simp] theorem State.modQp_draw (q : Nat) (f : Qp → Qp) : (s.modQp q f).draw = s.draw := rfl
@[simp] theorem State.modQp_out (q : Nat) (f : Qp → Qp) : (s.modQp q f).out = s.out := rfl
@[simp] theorem State.modQp_pkg (q : Nat) (f : Qp → Qp) : (s.modQp q f).pkg = s.pkg := rfl
@[simp] theorem State.modQp_dies (q : Nat) (f : Qp → Qp) : (s.modQp q f).dies = s.dies := rfl
@[simp] theorem State.modQp_tiles (q : Nat) (f : Qp → Qp) : (s.modQp q f).tiles = s.tiles := rfl
@[simp] theorem State.modQp_ctxs (q : Nat) (f : Qp → Qp) : (s.modQp q f).ctxs = s.ctxs := rfl
@[simp] theorem State.modQp_handles (q : Nat) (f : Qp → Qp) : (s.modQp q f).handles = s.handles := rfl
@[simp] theorem State.modQp_ops (q : Nat) (f : Qp → Qp) : (s.modQp q f).ops = s.ops := rfl
@[simp] theorem State.modQp_nextOp (q : Nat) (f : Qp → Qp) : (s.modQp q f).nextOp = s.nextOp := rfl
@[simp] theorem State.modQp_signals (q : Nat) (f : Qp → Qp) : (s.modQp q f).signals = s.signals := rfl
@[simp] theorem State.modQp_xlates (q : Nat) (f : Qp → Qp) : (s.modQp q f).xlates = s.xlates := rfl
@[simp] theorem State.modQp_mrMsgs (q : Nat) (f : Qp → Qp) : (s.modQp q f).mrMsgs = s.mrMsgs := rfl
@[simp] theorem State.modQp_useCount (q : Nat) (f : Qp → Qp) : (s.modQp q f).useCount = s.useCount := rfl
@[simp] theorem State.modQp_tier (q : Nat) (f : Qp → Qp) : (s.modQp q f).tier = s.tier := rfl
@[simp] theorem State.modQp_tierPoison (q : Nat) (f : Qp → Qp) : (s.modQp q f).tierPoison = s.tierPoison := rfl
@[simp] theorem State.modQp_devices (q : Nat) (f : Qp → Qp) : (s.modQp q f).devices = s.devices := rfl
@[simp] theorem State.modQp_ports (q : Nat) (f : Qp → Qp) : (s.modQp q f).ports = s.ports := rfl
@[simp] theorem State.modQp_rxSealed (q : Nat) (f : Qp → Qp) : (s.modQp q f).rxSealed = s.rxSealed := rfl
@[simp] theorem State.modQp_rxOpen (q : Nat) (f : Qp → Qp) : (s.modQp q f).rxOpen = s.rxOpen := rfl
@[simp] theorem State.modQp_scopeDue (q : Nat) (f : Qp → Qp) : (s.modQp q f).scopeDue = s.scopeDue := rfl
@[simp] theorem State.modQp_part (q : Nat) (f : Qp → Qp) : (s.modQp q f).part = s.part := rfl
@[simp] theorem State.modQp_eth (q : Nat) (f : Qp → Qp) : (s.modQp q f).eth = s.eth := rfl
@[simp] theorem State.modQp_qps (q : Nat) (f : Qp → Qp) : (s.modQp q f).qps = smMod s.qps q f := rfl
@[simp] theorem State.modQp_sess (q : Nat) (f : Qp → Qp) : (s.modQp q f).sess = s.sess := rfl
@[simp] theorem State.modQp_takeOrder (q : Nat) (f : Qp → Qp) : (s.modQp q f).takeOrder = s.takeOrder := rfl
@[simp] theorem State.modQp_sec (q : Nat) (f : Qp → Qp) : (s.modQp q f).sec = s.sec := rfl
@[simp] theorem State.modQp_power (q : Nat) (f : Qp → Qp) : (s.modQp q f).power = s.power := rfl
@[simp] theorem State.modQp_time (q : Nat) (f : Qp → Qp) : (s.modQp q f).time = s.time := rfl
@[simp] theorem State.modQp_telem (q : Nat) (f : Qp → Qp) : (s.modQp q f).telem = s.telem := rfl
@[simp] theorem State.modQp_bb (q : Nat) (f : Qp → Qp) : (s.modQp q f).bb = s.bb := rfl

/-! ### `State.modOp` -/

@[simp] theorem State.modOp_pending (id : Nat) (f : Op → Op) : (s.modOp id f).pending = s.pending := rfl
@[simp] theorem State.modOp_draw (id : Nat) (f : Op → Op) : (s.modOp id f).draw = s.draw := rfl
@[simp] theorem State.modOp_out (id : Nat) (f : Op → Op) : (s.modOp id f).out = s.out := rfl
@[simp] theorem State.modOp_pkg (id : Nat) (f : Op → Op) : (s.modOp id f).pkg = s.pkg := rfl
@[simp] theorem State.modOp_dies (id : Nat) (f : Op → Op) : (s.modOp id f).dies = s.dies := rfl
@[simp] theorem State.modOp_tiles (id : Nat) (f : Op → Op) : (s.modOp id f).tiles = s.tiles := rfl
@[simp] theorem State.modOp_ctxs (id : Nat) (f : Op → Op) : (s.modOp id f).ctxs = s.ctxs := rfl
@[simp] theorem State.modOp_handles (id : Nat) (f : Op → Op) : (s.modOp id f).handles = s.handles := rfl
@[simp] theorem State.modOp_ops (id : Nat) (f : Op → Op) : (s.modOp id f).ops = s.ops.map (fun o => if o.id = id then f o else o) := rfl
@[simp] theorem State.modOp_nextOp (id : Nat) (f : Op → Op) : (s.modOp id f).nextOp = s.nextOp := rfl
@[simp] theorem State.modOp_signals (id : Nat) (f : Op → Op) : (s.modOp id f).signals = s.signals := rfl
@[simp] theorem State.modOp_xlates (id : Nat) (f : Op → Op) : (s.modOp id f).xlates = s.xlates := rfl
@[simp] theorem State.modOp_mrMsgs (id : Nat) (f : Op → Op) : (s.modOp id f).mrMsgs = s.mrMsgs := rfl
@[simp] theorem State.modOp_useCount (id : Nat) (f : Op → Op) : (s.modOp id f).useCount = s.useCount := rfl
@[simp] theorem State.modOp_tier (id : Nat) (f : Op → Op) : (s.modOp id f).tier = s.tier := rfl
@[simp] theorem State.modOp_tierPoison (id : Nat) (f : Op → Op) : (s.modOp id f).tierPoison = s.tierPoison := rfl
@[simp] theorem State.modOp_devices (id : Nat) (f : Op → Op) : (s.modOp id f).devices = s.devices := rfl
@[simp] theorem State.modOp_ports (id : Nat) (f : Op → Op) : (s.modOp id f).ports = s.ports := rfl
@[simp] theorem State.modOp_rxSealed (id : Nat) (f : Op → Op) : (s.modOp id f).rxSealed = s.rxSealed := rfl
@[simp] theorem State.modOp_rxOpen (id : Nat) (f : Op → Op) : (s.modOp id f).rxOpen = s.rxOpen := rfl
@[simp] theorem State.modOp_scopeDue (id : Nat) (f : Op → Op) : (s.modOp id f).scopeDue = s.scopeDue := rfl
@[simp] theorem State.modOp_part (id : Nat) (f : Op → Op) : (s.modOp id f).part = s.part := rfl
@[simp] theorem State.modOp_eth (id : Nat) (f : Op → Op) : (s.modOp id f).eth = s.eth := rfl
@[simp] theorem State.modOp_qps (id : Nat) (f : Op → Op) : (s.modOp id f).qps = s.qps := rfl
@[simp] theorem State.modOp_sess (id : Nat) (f : Op → Op) : (s.modOp id f).sess = s.sess := rfl
@[simp] theorem State.modOp_takeOrder (id : Nat) (f : Op → Op) : (s.modOp id f).takeOrder = s.takeOrder := rfl
@[simp] theorem State.modOp_sec (id : Nat) (f : Op → Op) : (s.modOp id f).sec = s.sec := rfl
@[simp] theorem State.modOp_power (id : Nat) (f : Op → Op) : (s.modOp id f).power = s.power := rfl
@[simp] theorem State.modOp_time (id : Nat) (f : Op → Op) : (s.modOp id f).time = s.time := rfl
@[simp] theorem State.modOp_telem (id : Nat) (f : Op → Op) : (s.modOp id f).telem = s.telem := rfl
@[simp] theorem State.modOp_bb (id : Nat) (f : Op → Op) : (s.modOp id f).bb = s.bb := rfl

/-! ### `State.modRun` -/

@[simp] theorem State.modRun_pending (id : Nat) (f : CollRun → CollRun) : (s.modRun id f).pending = s.pending := rfl
@[simp] theorem State.modRun_draw (id : Nat) (f : CollRun → CollRun) : (s.modRun id f).draw = s.draw := rfl
@[simp] theorem State.modRun_out (id : Nat) (f : CollRun → CollRun) : (s.modRun id f).out = s.out := rfl
@[simp] theorem State.modRun_pkg (id : Nat) (f : CollRun → CollRun) : (s.modRun id f).pkg = s.pkg := rfl
@[simp] theorem State.modRun_dies (id : Nat) (f : CollRun → CollRun) : (s.modRun id f).dies = s.dies := rfl
@[simp] theorem State.modRun_tiles (id : Nat) (f : CollRun → CollRun) : (s.modRun id f).tiles = s.tiles := rfl
@[simp] theorem State.modRun_ctxs (id : Nat) (f : CollRun → CollRun) : (s.modRun id f).ctxs = s.ctxs := rfl
@[simp] theorem State.modRun_handles (id : Nat) (f : CollRun → CollRun) : (s.modRun id f).handles = s.handles := rfl
@[simp] theorem State.modRun_ops (id : Nat) (f : CollRun → CollRun) : (s.modRun id f).ops = s.ops.map (fun o => if o.id = id then { o with coll := o.coll.map f } else o) := rfl
@[simp] theorem State.modRun_nextOp (id : Nat) (f : CollRun → CollRun) : (s.modRun id f).nextOp = s.nextOp := rfl
@[simp] theorem State.modRun_signals (id : Nat) (f : CollRun → CollRun) : (s.modRun id f).signals = s.signals := rfl
@[simp] theorem State.modRun_xlates (id : Nat) (f : CollRun → CollRun) : (s.modRun id f).xlates = s.xlates := rfl
@[simp] theorem State.modRun_mrMsgs (id : Nat) (f : CollRun → CollRun) : (s.modRun id f).mrMsgs = s.mrMsgs := rfl
@[simp] theorem State.modRun_useCount (id : Nat) (f : CollRun → CollRun) : (s.modRun id f).useCount = s.useCount := rfl
@[simp] theorem State.modRun_tier (id : Nat) (f : CollRun → CollRun) : (s.modRun id f).tier = s.tier := rfl
@[simp] theorem State.modRun_tierPoison (id : Nat) (f : CollRun → CollRun) : (s.modRun id f).tierPoison = s.tierPoison := rfl
@[simp] theorem State.modRun_devices (id : Nat) (f : CollRun → CollRun) : (s.modRun id f).devices = s.devices := rfl
@[simp] theorem State.modRun_ports (id : Nat) (f : CollRun → CollRun) : (s.modRun id f).ports = s.ports := rfl
@[simp] theorem State.modRun_rxSealed (id : Nat) (f : CollRun → CollRun) : (s.modRun id f).rxSealed = s.rxSealed := rfl
@[simp] theorem State.modRun_rxOpen (id : Nat) (f : CollRun → CollRun) : (s.modRun id f).rxOpen = s.rxOpen := rfl
@[simp] theorem State.modRun_scopeDue (id : Nat) (f : CollRun → CollRun) : (s.modRun id f).scopeDue = s.scopeDue := rfl
@[simp] theorem State.modRun_part (id : Nat) (f : CollRun → CollRun) : (s.modRun id f).part = s.part := rfl
@[simp] theorem State.modRun_eth (id : Nat) (f : CollRun → CollRun) : (s.modRun id f).eth = s.eth := rfl
@[simp] theorem State.modRun_qps (id : Nat) (f : CollRun → CollRun) : (s.modRun id f).qps = s.qps := rfl
@[simp] theorem State.modRun_sess (id : Nat) (f : CollRun → CollRun) : (s.modRun id f).sess = s.sess := rfl
@[simp] theorem State.modRun_takeOrder (id : Nat) (f : CollRun → CollRun) : (s.modRun id f).takeOrder = s.takeOrder := rfl
@[simp] theorem State.modRun_sec (id : Nat) (f : CollRun → CollRun) : (s.modRun id f).sec = s.sec := rfl
@[simp] theorem State.modRun_power (id : Nat) (f : CollRun → CollRun) : (s.modRun id f).power = s.power := rfl
@[simp] theorem State.modRun_time (id : Nat) (f : CollRun → CollRun) : (s.modRun id f).time = s.time := rfl
@[simp] theorem State.modRun_telem (id : Nat) (f : CollRun → CollRun) : (s.modRun id f).telem = s.telem := rfl
@[simp] theorem State.modRun_bb (id : Nat) (f : CollRun → CollRun) : (s.modRun id f).bb = s.bb := rfl

/-! ### `State.emit` -/

@[simp] theorem State.emit_pending (o : Out) : (s.emit o).pending = s.pending := rfl
@[simp] theorem State.emit_draw (o : Out) : (s.emit o).draw = s.draw := rfl
@[simp] theorem State.emit_out (o : Out) : (s.emit o).out = s.out ++ [o] := rfl
@[simp] theorem State.emit_pkg (o : Out) : (s.emit o).pkg = s.pkg := rfl
@[simp] theorem State.emit_dies (o : Out) : (s.emit o).dies = s.dies := rfl
@[simp] theorem State.emit_tiles (o : Out) : (s.emit o).tiles = s.tiles := rfl
@[simp] theorem State.emit_ctxs (o : Out) : (s.emit o).ctxs = s.ctxs := rfl
@[simp] theorem State.emit_handles (o : Out) : (s.emit o).handles = s.handles := rfl
@[simp] theorem State.emit_ops (o : Out) : (s.emit o).ops = s.ops := rfl
@[simp] theorem State.emit_nextOp (o : Out) : (s.emit o).nextOp = s.nextOp := rfl
@[simp] theorem State.emit_signals (o : Out) : (s.emit o).signals = s.signals := rfl
@[simp] theorem State.emit_xlates (o : Out) : (s.emit o).xlates = s.xlates := rfl
@[simp] theorem State.emit_mrMsgs (o : Out) : (s.emit o).mrMsgs = s.mrMsgs := rfl
@[simp] theorem State.emit_useCount (o : Out) : (s.emit o).useCount = s.useCount := rfl
@[simp] theorem State.emit_tier (o : Out) : (s.emit o).tier = s.tier := rfl
@[simp] theorem State.emit_tierPoison (o : Out) : (s.emit o).tierPoison = s.tierPoison := rfl
@[simp] theorem State.emit_devices (o : Out) : (s.emit o).devices = s.devices := rfl
@[simp] theorem State.emit_ports (o : Out) : (s.emit o).ports = s.ports := rfl
@[simp] theorem State.emit_rxSealed (o : Out) : (s.emit o).rxSealed = s.rxSealed := rfl
@[simp] theorem State.emit_rxOpen (o : Out) : (s.emit o).rxOpen = s.rxOpen := rfl
@[simp] theorem State.emit_scopeDue (o : Out) : (s.emit o).scopeDue = s.scopeDue := rfl
@[simp] theorem State.emit_part (o : Out) : (s.emit o).part = s.part := rfl
@[simp] theorem State.emit_eth (o : Out) : (s.emit o).eth = s.eth := rfl
@[simp] theorem State.emit_qps (o : Out) : (s.emit o).qps = s.qps := rfl
@[simp] theorem State.emit_sess (o : Out) : (s.emit o).sess = s.sess := rfl
@[simp] theorem State.emit_takeOrder (o : Out) : (s.emit o).takeOrder = s.takeOrder := rfl
@[simp] theorem State.emit_sec (o : Out) : (s.emit o).sec = s.sec := rfl
@[simp] theorem State.emit_power (o : Out) : (s.emit o).power = s.power := rfl
@[simp] theorem State.emit_time (o : Out) : (s.emit o).time = s.time := rfl
@[simp] theorem State.emit_telem (o : Out) : (s.emit o).telem = s.telem := rfl
@[simp] theorem State.emit_bb (o : Out) : (s.emit o).bb = s.bb := rfl

/-! ### `State.modPkg` -/

@[simp] theorem State.modPkg_pending (f : Pkg → Pkg) : (s.modPkg f).pending = s.pending := rfl
@[simp] theorem State.modPkg_draw (f : Pkg → Pkg) : (s.modPkg f).draw = s.draw := rfl
@[simp] theorem State.modPkg_out (f : Pkg → Pkg) : (s.modPkg f).out = s.out := rfl
@[simp] theorem State.modPkg_pkg (f : Pkg → Pkg) : (s.modPkg f).pkg = f s.pkg := rfl
@[simp] theorem State.modPkg_dies (f : Pkg → Pkg) : (s.modPkg f).dies = s.dies := rfl
@[simp] theorem State.modPkg_tiles (f : Pkg → Pkg) : (s.modPkg f).tiles = s.tiles := rfl
@[simp] theorem State.modPkg_ctxs (f : Pkg → Pkg) : (s.modPkg f).ctxs = s.ctxs := rfl
@[simp] theorem State.modPkg_handles (f : Pkg → Pkg) : (s.modPkg f).handles = s.handles := rfl
@[simp] theorem State.modPkg_ops (f : Pkg → Pkg) : (s.modPkg f).ops = s.ops := rfl
@[simp] theorem State.modPkg_nextOp (f : Pkg → Pkg) : (s.modPkg f).nextOp = s.nextOp := rfl
@[simp] theorem State.modPkg_signals (f : Pkg → Pkg) : (s.modPkg f).signals = s.signals := rfl
@[simp] theorem State.modPkg_xlates (f : Pkg → Pkg) : (s.modPkg f).xlates = s.xlates := rfl
@[simp] theorem State.modPkg_mrMsgs (f : Pkg → Pkg) : (s.modPkg f).mrMsgs = s.mrMsgs := rfl
@[simp] theorem State.modPkg_useCount (f : Pkg → Pkg) : (s.modPkg f).useCount = s.useCount := rfl
@[simp] theorem State.modPkg_tier (f : Pkg → Pkg) : (s.modPkg f).tier = s.tier := rfl
@[simp] theorem State.modPkg_tierPoison (f : Pkg → Pkg) : (s.modPkg f).tierPoison = s.tierPoison := rfl
@[simp] theorem State.modPkg_devices (f : Pkg → Pkg) : (s.modPkg f).devices = s.devices := rfl
@[simp] theorem State.modPkg_ports (f : Pkg → Pkg) : (s.modPkg f).ports = s.ports := rfl
@[simp] theorem State.modPkg_rxSealed (f : Pkg → Pkg) : (s.modPkg f).rxSealed = s.rxSealed := rfl
@[simp] theorem State.modPkg_rxOpen (f : Pkg → Pkg) : (s.modPkg f).rxOpen = s.rxOpen := rfl
@[simp] theorem State.modPkg_scopeDue (f : Pkg → Pkg) : (s.modPkg f).scopeDue = s.scopeDue := rfl
@[simp] theorem State.modPkg_part (f : Pkg → Pkg) : (s.modPkg f).part = s.part := rfl
@[simp] theorem State.modPkg_eth (f : Pkg → Pkg) : (s.modPkg f).eth = s.eth := rfl
@[simp] theorem State.modPkg_qps (f : Pkg → Pkg) : (s.modPkg f).qps = s.qps := rfl
@[simp] theorem State.modPkg_sess (f : Pkg → Pkg) : (s.modPkg f).sess = s.sess := rfl
@[simp] theorem State.modPkg_takeOrder (f : Pkg → Pkg) : (s.modPkg f).takeOrder = s.takeOrder := rfl
@[simp] theorem State.modPkg_sec (f : Pkg → Pkg) : (s.modPkg f).sec = s.sec := rfl
@[simp] theorem State.modPkg_power (f : Pkg → Pkg) : (s.modPkg f).power = s.power := rfl
@[simp] theorem State.modPkg_time (f : Pkg → Pkg) : (s.modPkg f).time = s.time := rfl
@[simp] theorem State.modPkg_telem (f : Pkg → Pkg) : (s.modPkg f).telem = s.telem := rfl
@[simp] theorem State.modPkg_bb (f : Pkg → Pkg) : (s.modPkg f).bb = s.bb := rfl

/-! ### `State.modFw` -/

@[simp] theorem State.modFw_pending (k : Nat) (f : FwClass → FwClass) : (s.modFw k f).pending = s.pending := rfl
@[simp] theorem State.modFw_draw (k : Nat) (f : FwClass → FwClass) : (s.modFw k f).draw = s.draw := rfl
@[simp] theorem State.modFw_out (k : Nat) (f : FwClass → FwClass) : (s.modFw k f).out = s.out := rfl
@[simp] theorem State.modFw_pkg (k : Nat) (f : FwClass → FwClass) : (s.modFw k f).pkg = { s.pkg with fw := modAt s.pkg.fw k f } := rfl
@[simp] theorem State.modFw_dies (k : Nat) (f : FwClass → FwClass) : (s.modFw k f).dies = s.dies := rfl
@[simp] theorem State.modFw_tiles (k : Nat) (f : FwClass → FwClass) : (s.modFw k f).tiles = s.tiles := rfl
@[simp] theorem State.modFw_ctxs (k : Nat) (f : FwClass → FwClass) : (s.modFw k f).ctxs = s.ctxs := rfl
@[simp] theorem State.modFw_handles (k : Nat) (f : FwClass → FwClass) : (s.modFw k f).handles = s.handles := rfl
@[simp] theorem State.modFw_ops (k : Nat) (f : FwClass → FwClass) : (s.modFw k f).ops = s.ops := rfl
@[simp] theorem State.modFw_nextOp (k : Nat) (f : FwClass → FwClass) : (s.modFw k f).nextOp = s.nextOp := rfl
@[simp] theorem State.modFw_signals (k : Nat) (f : FwClass → FwClass) : (s.modFw k f).signals = s.signals := rfl
@[simp] theorem State.modFw_xlates (k : Nat) (f : FwClass → FwClass) : (s.modFw k f).xlates = s.xlates := rfl
@[simp] theorem State.modFw_mrMsgs (k : Nat) (f : FwClass → FwClass) : (s.modFw k f).mrMsgs = s.mrMsgs := rfl
@[simp] theorem State.modFw_useCount (k : Nat) (f : FwClass → FwClass) : (s.modFw k f).useCount = s.useCount := rfl
@[simp] theorem State.modFw_tier (k : Nat) (f : FwClass → FwClass) : (s.modFw k f).tier = s.tier := rfl
@[simp] theorem State.modFw_tierPoison (k : Nat) (f : FwClass → FwClass) : (s.modFw k f).tierPoison = s.tierPoison := rfl
@[simp] theorem State.modFw_devices (k : Nat) (f : FwClass → FwClass) : (s.modFw k f).devices = s.devices := rfl
@[simp] theorem State.modFw_ports (k : Nat) (f : FwClass → FwClass) : (s.modFw k f).ports = s.ports := rfl
@[simp] theorem State.modFw_rxSealed (k : Nat) (f : FwClass → FwClass) : (s.modFw k f).rxSealed = s.rxSealed := rfl
@[simp] theorem State.modFw_rxOpen (k : Nat) (f : FwClass → FwClass) : (s.modFw k f).rxOpen = s.rxOpen := rfl
@[simp] theorem State.modFw_scopeDue (k : Nat) (f : FwClass → FwClass) : (s.modFw k f).scopeDue = s.scopeDue := rfl
@[simp] theorem State.modFw_part (k : Nat) (f : FwClass → FwClass) : (s.modFw k f).part = s.part := rfl
@[simp] theorem State.modFw_eth (k : Nat) (f : FwClass → FwClass) : (s.modFw k f).eth = s.eth := rfl
@[simp] theorem State.modFw_qps (k : Nat) (f : FwClass → FwClass) : (s.modFw k f).qps = s.qps := rfl
@[simp] theorem State.modFw_sess (k : Nat) (f : FwClass → FwClass) : (s.modFw k f).sess = s.sess := rfl
@[simp] theorem State.modFw_takeOrder (k : Nat) (f : FwClass → FwClass) : (s.modFw k f).takeOrder = s.takeOrder := rfl
@[simp] theorem State.modFw_sec (k : Nat) (f : FwClass → FwClass) : (s.modFw k f).sec = s.sec := rfl
@[simp] theorem State.modFw_power (k : Nat) (f : FwClass → FwClass) : (s.modFw k f).power = s.power := rfl
@[simp] theorem State.modFw_time (k : Nat) (f : FwClass → FwClass) : (s.modFw k f).time = s.time := rfl
@[simp] theorem State.modFw_telem (k : Nat) (f : FwClass → FwClass) : (s.modFw k f).telem = s.telem := rfl
@[simp] theorem State.modFw_bb (k : Nat) (f : FwClass → FwClass) : (s.modFw k f).bb = s.bb := rfl

/-! ### `State.use` -/

@[simp] theorem State.use_pending (k : Nat) : (s.use k).pending = s.pending := rfl
@[simp] theorem State.use_draw (k : Nat) : (s.use k).draw = s.draw + k := rfl
@[simp] theorem State.use_out (k : Nat) : (s.use k).out = s.out := rfl
@[simp] theorem State.use_pkg (k : Nat) : (s.use k).pkg = s.pkg := rfl
@[simp] theorem State.use_dies (k : Nat) : (s.use k).dies = s.dies := rfl
@[simp] theorem State.use_tiles (k : Nat) : (s.use k).tiles = s.tiles := rfl
@[simp] theorem State.use_ctxs (k : Nat) : (s.use k).ctxs = s.ctxs := rfl
@[simp] theorem State.use_handles (k : Nat) : (s.use k).handles = s.handles := rfl
@[simp] theorem State.use_ops (k : Nat) : (s.use k).ops = s.ops := rfl
@[simp] theorem State.use_nextOp (k : Nat) : (s.use k).nextOp = s.nextOp := rfl
@[simp] theorem State.use_signals (k : Nat) : (s.use k).signals = s.signals := rfl
@[simp] theorem State.use_xlates (k : Nat) : (s.use k).xlates = s.xlates := rfl
@[simp] theorem State.use_mrMsgs (k : Nat) : (s.use k).mrMsgs = s.mrMsgs := rfl
@[simp] theorem State.use_useCount (k : Nat) : (s.use k).useCount = s.useCount := rfl
@[simp] theorem State.use_tier (k : Nat) : (s.use k).tier = s.tier := rfl
@[simp] theorem State.use_tierPoison (k : Nat) : (s.use k).tierPoison = s.tierPoison := rfl
@[simp] theorem State.use_devices (k : Nat) : (s.use k).devices = s.devices := rfl
@[simp] theorem State.use_ports (k : Nat) : (s.use k).ports = s.ports := rfl
@[simp] theorem State.use_rxSealed (k : Nat) : (s.use k).rxSealed = s.rxSealed := rfl
@[simp] theorem State.use_rxOpen (k : Nat) : (s.use k).rxOpen = s.rxOpen := rfl
@[simp] theorem State.use_scopeDue (k : Nat) : (s.use k).scopeDue = s.scopeDue := rfl
@[simp] theorem State.use_part (k : Nat) : (s.use k).part = s.part := rfl
@[simp] theorem State.use_eth (k : Nat) : (s.use k).eth = s.eth := rfl
@[simp] theorem State.use_qps (k : Nat) : (s.use k).qps = s.qps := rfl
@[simp] theorem State.use_sess (k : Nat) : (s.use k).sess = s.sess := rfl
@[simp] theorem State.use_takeOrder (k : Nat) : (s.use k).takeOrder = s.takeOrder := rfl
@[simp] theorem State.use_sec (k : Nat) : (s.use k).sec = s.sec := rfl
@[simp] theorem State.use_power (k : Nat) : (s.use k).power = s.power := rfl
@[simp] theorem State.use_time (k : Nat) : (s.use k).time = s.time := rfl
@[simp] theorem State.use_telem (k : Nat) : (s.use k).telem = s.telem := rfl
@[simp] theorem State.use_bb (k : Nat) : (s.use k).bb = s.bb := rfl

/-! ### `State.modObj` -/

@[simp] theorem State.modObj_pending (h : W32) (f : HObj → HObj) : (s.modObj h f).pending = s.pending := rfl
@[simp] theorem State.modObj_draw (h : W32) (f : HObj → HObj) : (s.modObj h f).draw = s.draw := rfl
@[simp] theorem State.modObj_out (h : W32) (f : HObj → HObj) : (s.modObj h f).out = s.out := rfl
@[simp] theorem State.modObj_pkg (h : W32) (f : HObj → HObj) : (s.modObj h f).pkg = s.pkg := rfl
@[simp] theorem State.modObj_dies (h : W32) (f : HObj → HObj) : (s.modObj h f).dies = s.dies := rfl
@[simp] theorem State.modObj_tiles (h : W32) (f : HObj → HObj) : (s.modObj h f).tiles = s.tiles := rfl
@[simp] theorem State.modObj_ctxs (h : W32) (f : HObj → HObj) : (s.modObj h f).ctxs = s.ctxs := rfl
@[simp] theorem State.modObj_handles (h : W32) (f : HObj → HObj) : (s.modObj h f).handles = { s.handles with live := smMod s.handles.live (hSlot h) f } := rfl
@[simp] theorem State.modObj_ops (h : W32) (f : HObj → HObj) : (s.modObj h f).ops = s.ops := rfl
@[simp] theorem State.modObj_nextOp (h : W32) (f : HObj → HObj) : (s.modObj h f).nextOp = s.nextOp := rfl
@[simp] theorem State.modObj_signals (h : W32) (f : HObj → HObj) : (s.modObj h f).signals = s.signals := rfl
@[simp] theorem State.modObj_xlates (h : W32) (f : HObj → HObj) : (s.modObj h f).xlates = s.xlates := rfl
@[simp] theorem State.modObj_mrMsgs (h : W32) (f : HObj → HObj) : (s.modObj h f).mrMsgs = s.mrMsgs := rfl
@[simp] theorem State.modObj_useCount (h : W32) (f : HObj → HObj) : (s.modObj h f).useCount = s.useCount := rfl
@[simp] theorem State.modObj_tier (h : W32) (f : HObj → HObj) : (s.modObj h f).tier = s.tier := rfl
@[simp] theorem State.modObj_tierPoison (h : W32) (f : HObj → HObj) : (s.modObj h f).tierPoison = s.tierPoison := rfl
@[simp] theorem State.modObj_devices (h : W32) (f : HObj → HObj) : (s.modObj h f).devices = s.devices := rfl
@[simp] theorem State.modObj_ports (h : W32) (f : HObj → HObj) : (s.modObj h f).ports = s.ports := rfl
@[simp] theorem State.modObj_rxSealed (h : W32) (f : HObj → HObj) : (s.modObj h f).rxSealed = s.rxSealed := rfl
@[simp] theorem State.modObj_rxOpen (h : W32) (f : HObj → HObj) : (s.modObj h f).rxOpen = s.rxOpen := rfl
@[simp] theorem State.modObj_scopeDue (h : W32) (f : HObj → HObj) : (s.modObj h f).scopeDue = s.scopeDue := rfl
@[simp] theorem State.modObj_part (h : W32) (f : HObj → HObj) : (s.modObj h f).part = s.part := rfl
@[simp] theorem State.modObj_eth (h : W32) (f : HObj → HObj) : (s.modObj h f).eth = s.eth := rfl
@[simp] theorem State.modObj_qps (h : W32) (f : HObj → HObj) : (s.modObj h f).qps = s.qps := rfl
@[simp] theorem State.modObj_sess (h : W32) (f : HObj → HObj) : (s.modObj h f).sess = s.sess := rfl
@[simp] theorem State.modObj_takeOrder (h : W32) (f : HObj → HObj) : (s.modObj h f).takeOrder = s.takeOrder := rfl
@[simp] theorem State.modObj_sec (h : W32) (f : HObj → HObj) : (s.modObj h f).sec = s.sec := rfl
@[simp] theorem State.modObj_power (h : W32) (f : HObj → HObj) : (s.modObj h f).power = s.power := rfl
@[simp] theorem State.modObj_time (h : W32) (f : HObj → HObj) : (s.modObj h f).time = s.time := rfl
@[simp] theorem State.modObj_telem (h : W32) (f : HObj → HObj) : (s.modObj h f).telem = s.telem := rfl
@[simp] theorem State.modObj_bb (h : W32) (f : HObj → HObj) : (s.modObj h f).bb = s.bb := rfl

/-! ### `State.modChan` -/

@[simp] theorem State.modChan_pending (h : W32) (f : Chan → Chan) : (s.modChan h f).pending = s.pending := rfl
@[simp] theorem State.modChan_draw (h : W32) (f : Chan → Chan) : (s.modChan h f).draw = s.draw := rfl
@[simp] theorem State.modChan_out (h : W32) (f : Chan → Chan) : (s.modChan h f).out = s.out := rfl
@[simp] theorem State.modChan_pkg (h : W32) (f : Chan → Chan) : (s.modChan h f).pkg = s.pkg := rfl
@[simp] theorem State.modChan_dies (h : W32) (f : Chan → Chan) : (s.modChan h f).dies = s.dies := rfl
@[simp] theorem State.modChan_tiles (h : W32) (f : Chan → Chan) : (s.modChan h f).tiles = s.tiles := rfl
@[simp] theorem State.modChan_ctxs (h : W32) (f : Chan → Chan) : (s.modChan h f).ctxs = s.ctxs := rfl
@[simp] theorem State.modChan_handles (h : W32) (f : Chan → Chan) : (s.modChan h f).handles = (s.modObj h (fun o => match o with | .chan c => .chan (f c) | o => o)).handles := rfl
@[simp] theorem State.modChan_ops (h : W32) (f : Chan → Chan) : (s.modChan h f).ops = s.ops := rfl
@[simp] theorem State.modChan_nextOp (h : W32) (f : Chan → Chan) : (s.modChan h f).nextOp = s.nextOp := rfl
@[simp] theorem State.modChan_signals (h : W32) (f : Chan → Chan) : (s.modChan h f).signals = s.signals := rfl
@[simp] theorem State.modChan_xlates (h : W32) (f : Chan → Chan) : (s.modChan h f).xlates = s.xlates := rfl
@[simp] theorem State.modChan_mrMsgs (h : W32) (f : Chan → Chan) : (s.modChan h f).mrMsgs = s.mrMsgs := rfl
@[simp] theorem State.modChan_useCount (h : W32) (f : Chan → Chan) : (s.modChan h f).useCount = s.useCount := rfl
@[simp] theorem State.modChan_tier (h : W32) (f : Chan → Chan) : (s.modChan h f).tier = s.tier := rfl
@[simp] theorem State.modChan_tierPoison (h : W32) (f : Chan → Chan) : (s.modChan h f).tierPoison = s.tierPoison := rfl
@[simp] theorem State.modChan_devices (h : W32) (f : Chan → Chan) : (s.modChan h f).devices = s.devices := rfl
@[simp] theorem State.modChan_ports (h : W32) (f : Chan → Chan) : (s.modChan h f).ports = s.ports := rfl
@[simp] theorem State.modChan_rxSealed (h : W32) (f : Chan → Chan) : (s.modChan h f).rxSealed = s.rxSealed := rfl
@[simp] theorem State.modChan_rxOpen (h : W32) (f : Chan → Chan) : (s.modChan h f).rxOpen = s.rxOpen := rfl
@[simp] theorem State.modChan_scopeDue (h : W32) (f : Chan → Chan) : (s.modChan h f).scopeDue = s.scopeDue := rfl
@[simp] theorem State.modChan_part (h : W32) (f : Chan → Chan) : (s.modChan h f).part = s.part := rfl
@[simp] theorem State.modChan_eth (h : W32) (f : Chan → Chan) : (s.modChan h f).eth = s.eth := rfl
@[simp] theorem State.modChan_qps (h : W32) (f : Chan → Chan) : (s.modChan h f).qps = s.qps := rfl
@[simp] theorem State.modChan_sess (h : W32) (f : Chan → Chan) : (s.modChan h f).sess = s.sess := rfl
@[simp] theorem State.modChan_takeOrder (h : W32) (f : Chan → Chan) : (s.modChan h f).takeOrder = s.takeOrder := rfl
@[simp] theorem State.modChan_sec (h : W32) (f : Chan → Chan) : (s.modChan h f).sec = s.sec := rfl
@[simp] theorem State.modChan_power (h : W32) (f : Chan → Chan) : (s.modChan h f).power = s.power := rfl
@[simp] theorem State.modChan_time (h : W32) (f : Chan → Chan) : (s.modChan h f).time = s.time := rfl
@[simp] theorem State.modChan_telem (h : W32) (f : Chan → Chan) : (s.modChan h f).telem = s.telem := rfl
@[simp] theorem State.modChan_bb (h : W32) (f : Chan → Chan) : (s.modChan h f).bb = s.bb := rfl

/-! ### `State.modBb` -/

@[simp] theorem State.modBb_pending (f : Bb → Bb) : (s.modBb f).pending = s.pending := rfl
@[simp] theorem State.modBb_draw (f : Bb → Bb) : (s.modBb f).draw = s.draw := rfl
@[simp] theorem State.modBb_out (f : Bb → Bb) : (s.modBb f).out = s.out := rfl
@[simp] theorem State.modBb_pkg (f : Bb → Bb) : (s.modBb f).pkg = s.pkg := rfl
@[simp] theorem State.modBb_dies (f : Bb → Bb) : (s.modBb f).dies = s.dies := rfl
@[simp] theorem State.modBb_tiles (f : Bb → Bb) : (s.modBb f).tiles = s.tiles := rfl
@[simp] theorem State.modBb_ctxs (f : Bb → Bb) : (s.modBb f).ctxs = s.ctxs := rfl
@[simp] theorem State.modBb_handles (f : Bb → Bb) : (s.modBb f).handles = s.handles := rfl
@[simp] theorem State.modBb_ops (f : Bb → Bb) : (s.modBb f).ops = s.ops := rfl
@[simp] theorem State.modBb_nextOp (f : Bb → Bb) : (s.modBb f).nextOp = s.nextOp := rfl
@[simp] theorem State.modBb_signals (f : Bb → Bb) : (s.modBb f).signals = s.signals := rfl
@[simp] theorem State.modBb_xlates (f : Bb → Bb) : (s.modBb f).xlates = s.xlates := rfl
@[simp] theorem State.modBb_mrMsgs (f : Bb → Bb) : (s.modBb f).mrMsgs = s.mrMsgs := rfl
@[simp] theorem State.modBb_useCount (f : Bb → Bb) : (s.modBb f).useCount = s.useCount := rfl
@[simp] theorem State.modBb_tier (f : Bb → Bb) : (s.modBb f).tier = s.tier := rfl
@[simp] theorem State.modBb_tierPoison (f : Bb → Bb) : (s.modBb f).tierPoison = s.tierPoison := rfl
@[simp] theorem State.modBb_devices (f : Bb → Bb) : (s.modBb f).devices = s.devices := rfl
@[simp] theorem State.modBb_ports (f : Bb → Bb) : (s.modBb f).ports = s.ports := rfl
@[simp] theorem State.modBb_rxSealed (f : Bb → Bb) : (s.modBb f).rxSealed = s.rxSealed := rfl
@[simp] theorem State.modBb_rxOpen (f : Bb → Bb) : (s.modBb f).rxOpen = s.rxOpen := rfl
@[simp] theorem State.modBb_scopeDue (f : Bb → Bb) : (s.modBb f).scopeDue = s.scopeDue := rfl
@[simp] theorem State.modBb_part (f : Bb → Bb) : (s.modBb f).part = s.part := rfl
@[simp] theorem State.modBb_eth (f : Bb → Bb) : (s.modBb f).eth = s.eth := rfl
@[simp] theorem State.modBb_qps (f : Bb → Bb) : (s.modBb f).qps = s.qps := rfl
@[simp] theorem State.modBb_sess (f : Bb → Bb) : (s.modBb f).sess = s.sess := rfl
@[simp] theorem State.modBb_takeOrder (f : Bb → Bb) : (s.modBb f).takeOrder = s.takeOrder := rfl
@[simp] theorem State.modBb_sec (f : Bb → Bb) : (s.modBb f).sec = s.sec := rfl
@[simp] theorem State.modBb_power (f : Bb → Bb) : (s.modBb f).power = s.power := rfl
@[simp] theorem State.modBb_time (f : Bb → Bb) : (s.modBb f).time = s.time := rfl
@[simp] theorem State.modBb_telem (f : Bb → Bb) : (s.modBb f).telem = s.telem := rfl
@[simp] theorem State.modBb_bb (f : Bb → Bb) : (s.modBb f).bb = f s.bb := rfl

/-! ### `State.modHealth` -/

@[simp] theorem State.modHealth_pending (id : Nat) (f : HealthRec → HealthRec) : (s.modHealth id f).pending = s.pending := rfl
@[simp] theorem State.modHealth_draw (id : Nat) (f : HealthRec → HealthRec) : (s.modHealth id f).draw = s.draw := rfl
@[simp] theorem State.modHealth_out (id : Nat) (f : HealthRec → HealthRec) : (s.modHealth id f).out = s.out := rfl
@[simp] theorem State.modHealth_pkg (id : Nat) (f : HealthRec → HealthRec) : (s.modHealth id f).pkg = s.pkg := rfl
@[simp] theorem State.modHealth_dies (id : Nat) (f : HealthRec → HealthRec) : (s.modHealth id f).dies = s.dies := rfl
@[simp] theorem State.modHealth_tiles (id : Nat) (f : HealthRec → HealthRec) : (s.modHealth id f).tiles = s.tiles := rfl
@[simp] theorem State.modHealth_ctxs (id : Nat) (f : HealthRec → HealthRec) : (s.modHealth id f).ctxs = s.ctxs := rfl
@[simp] theorem State.modHealth_handles (id : Nat) (f : HealthRec → HealthRec) : (s.modHealth id f).handles = s.handles := rfl
@[simp] theorem State.modHealth_ops (id : Nat) (f : HealthRec → HealthRec) : (s.modHealth id f).ops = s.ops := rfl
@[simp] theorem State.modHealth_nextOp (id : Nat) (f : HealthRec → HealthRec) : (s.modHealth id f).nextOp = s.nextOp := rfl
@[simp] theorem State.modHealth_signals (id : Nat) (f : HealthRec → HealthRec) : (s.modHealth id f).signals = s.signals := rfl
@[simp] theorem State.modHealth_xlates (id : Nat) (f : HealthRec → HealthRec) : (s.modHealth id f).xlates = s.xlates := rfl
@[simp] theorem State.modHealth_mrMsgs (id : Nat) (f : HealthRec → HealthRec) : (s.modHealth id f).mrMsgs = s.mrMsgs := rfl
@[simp] theorem State.modHealth_useCount (id : Nat) (f : HealthRec → HealthRec) : (s.modHealth id f).useCount = s.useCount := rfl
@[simp] theorem State.modHealth_tier (id : Nat) (f : HealthRec → HealthRec) : (s.modHealth id f).tier = s.tier := rfl
@[simp] theorem State.modHealth_tierPoison (id : Nat) (f : HealthRec → HealthRec) : (s.modHealth id f).tierPoison = s.tierPoison := rfl
@[simp] theorem State.modHealth_devices (id : Nat) (f : HealthRec → HealthRec) : (s.modHealth id f).devices = s.devices := rfl
@[simp] theorem State.modHealth_ports (id : Nat) (f : HealthRec → HealthRec) : (s.modHealth id f).ports = s.ports := rfl
@[simp] theorem State.modHealth_rxSealed (id : Nat) (f : HealthRec → HealthRec) : (s.modHealth id f).rxSealed = s.rxSealed := rfl
@[simp] theorem State.modHealth_rxOpen (id : Nat) (f : HealthRec → HealthRec) : (s.modHealth id f).rxOpen = s.rxOpen := rfl
@[simp] theorem State.modHealth_scopeDue (id : Nat) (f : HealthRec → HealthRec) : (s.modHealth id f).scopeDue = s.scopeDue := rfl
@[simp] theorem State.modHealth_part (id : Nat) (f : HealthRec → HealthRec) : (s.modHealth id f).part = s.part := rfl
@[simp] theorem State.modHealth_eth (id : Nat) (f : HealthRec → HealthRec) : (s.modHealth id f).eth = s.eth := rfl
@[simp] theorem State.modHealth_qps (id : Nat) (f : HealthRec → HealthRec) : (s.modHealth id f).qps = s.qps := rfl
@[simp] theorem State.modHealth_sess (id : Nat) (f : HealthRec → HealthRec) : (s.modHealth id f).sess = s.sess := rfl
@[simp] theorem State.modHealth_takeOrder (id : Nat) (f : HealthRec → HealthRec) : (s.modHealth id f).takeOrder = s.takeOrder := rfl
@[simp] theorem State.modHealth_sec (id : Nat) (f : HealthRec → HealthRec) : (s.modHealth id f).sec = s.sec := rfl
@[simp] theorem State.modHealth_power (id : Nat) (f : HealthRec → HealthRec) : (s.modHealth id f).power = s.power := rfl
@[simp] theorem State.modHealth_time (id : Nat) (f : HealthRec → HealthRec) : (s.modHealth id f).time = s.time := rfl
@[simp] theorem State.modHealth_telem (id : Nat) (f : HealthRec → HealthRec) : (s.modHealth id f).telem = { s.telem with health := smPut s.telem.health id (f (s.health id)) } := rfl
@[simp] theorem State.modHealth_bb (id : Nat) (f : HealthRec → HealthRec) : (s.modHealth id f).bb = s.bb := rfl

/-! ### `State.tierPoisonAt` -/

@[simp] theorem State.tierPoisonAt_pending (c a k : Nat) : (s.tierPoisonAt c a k).pending = s.pending := rfl
@[simp] theorem State.tierPoisonAt_draw (c a k : Nat) : (s.tierPoisonAt c a k).draw = s.draw := rfl
@[simp] theorem State.tierPoisonAt_out (c a k : Nat) : (s.tierPoisonAt c a k).out = s.out := rfl
@[simp] theorem State.tierPoisonAt_pkg (c a k : Nat) : (s.tierPoisonAt c a k).pkg = s.pkg := rfl
@[simp] theorem State.tierPoisonAt_dies (c a k : Nat) : (s.tierPoisonAt c a k).dies = s.dies := rfl
@[simp] theorem State.tierPoisonAt_tiles (c a k : Nat) : (s.tierPoisonAt c a k).tiles = s.tiles := rfl
@[simp] theorem State.tierPoisonAt_ctxs (c a k : Nat) : (s.tierPoisonAt c a k).ctxs = s.ctxs := rfl
@[simp] theorem State.tierPoisonAt_handles (c a k : Nat) : (s.tierPoisonAt c a k).handles = s.handles := rfl
@[simp] theorem State.tierPoisonAt_ops (c a k : Nat) : (s.tierPoisonAt c a k).ops = s.ops := rfl
@[simp] theorem State.tierPoisonAt_nextOp (c a k : Nat) : (s.tierPoisonAt c a k).nextOp = s.nextOp := rfl
@[simp] theorem State.tierPoisonAt_signals (c a k : Nat) : (s.tierPoisonAt c a k).signals = s.signals := rfl
@[simp] theorem State.tierPoisonAt_xlates (c a k : Nat) : (s.tierPoisonAt c a k).xlates = s.xlates := rfl
@[simp] theorem State.tierPoisonAt_mrMsgs (c a k : Nat) : (s.tierPoisonAt c a k).mrMsgs = s.mrMsgs := rfl
@[simp] theorem State.tierPoisonAt_useCount (c a k : Nat) : (s.tierPoisonAt c a k).useCount = s.useCount := rfl
@[simp] theorem State.tierPoisonAt_tier (c a k : Nat) : (s.tierPoisonAt c a k).tier = s.tier := rfl
@[simp] theorem State.tierPoisonAt_tierPoison (c a k : Nat) : (s.tierPoisonAt c a k).tierPoison = (s.linesOf c a k).foldl (fun m l => smPut m l true) s.tierPoison := rfl
@[simp] theorem State.tierPoisonAt_devices (c a k : Nat) : (s.tierPoisonAt c a k).devices = s.devices := rfl
@[simp] theorem State.tierPoisonAt_ports (c a k : Nat) : (s.tierPoisonAt c a k).ports = s.ports := rfl
@[simp] theorem State.tierPoisonAt_rxSealed (c a k : Nat) : (s.tierPoisonAt c a k).rxSealed = s.rxSealed := rfl
@[simp] theorem State.tierPoisonAt_rxOpen (c a k : Nat) : (s.tierPoisonAt c a k).rxOpen = s.rxOpen := rfl
@[simp] theorem State.tierPoisonAt_scopeDue (c a k : Nat) : (s.tierPoisonAt c a k).scopeDue = s.scopeDue := rfl
@[simp] theorem State.tierPoisonAt_part (c a k : Nat) : (s.tierPoisonAt c a k).part = s.part := rfl
@[simp] theorem State.tierPoisonAt_eth (c a k : Nat) : (s.tierPoisonAt c a k).eth = s.eth := rfl
@[simp] theorem State.tierPoisonAt_qps (c a k : Nat) : (s.tierPoisonAt c a k).qps = s.qps := rfl
@[simp] theorem State.tierPoisonAt_sess (c a k : Nat) : (s.tierPoisonAt c a k).sess = s.sess := rfl
@[simp] theorem State.tierPoisonAt_takeOrder (c a k : Nat) : (s.tierPoisonAt c a k).takeOrder = s.takeOrder := rfl
@[simp] theorem State.tierPoisonAt_sec (c a k : Nat) : (s.tierPoisonAt c a k).sec = s.sec := rfl
@[simp] theorem State.tierPoisonAt_power (c a k : Nat) : (s.tierPoisonAt c a k).power = s.power := rfl
@[simp] theorem State.tierPoisonAt_time (c a k : Nat) : (s.tierPoisonAt c a k).time = s.time := rfl
@[simp] theorem State.tierPoisonAt_telem (c a k : Nat) : (s.tierPoisonAt c a k).telem = s.telem := rfl
@[simp] theorem State.tierPoisonAt_bb (c a k : Nat) : (s.tierPoisonAt c a k).bb = s.bb := rfl

/-! ### `State.tierWrite` -/

@[simp] theorem State.tierWrite_pending (c a : Nat) (bs : List Byte) : (s.tierWrite c a bs).pending = s.pending := rfl
@[simp] theorem State.tierWrite_draw (c a : Nat) (bs : List Byte) : (s.tierWrite c a bs).draw = s.draw := rfl
@[simp] theorem State.tierWrite_out (c a : Nat) (bs : List Byte) : (s.tierWrite c a bs).out = s.out := rfl
@[simp] theorem State.tierWrite_pkg (c a : Nat) (bs : List Byte) : (s.tierWrite c a bs).pkg = s.pkg := rfl
@[simp] theorem State.tierWrite_dies (c a : Nat) (bs : List Byte) : (s.tierWrite c a bs).dies = s.dies := rfl
@[simp] theorem State.tierWrite_tiles (c a : Nat) (bs : List Byte) : (s.tierWrite c a bs).tiles = s.tiles := rfl
@[simp] theorem State.tierWrite_ctxs (c a : Nat) (bs : List Byte) : (s.tierWrite c a bs).ctxs = s.ctxs := rfl
@[simp] theorem State.tierWrite_handles (c a : Nat) (bs : List Byte) : (s.tierWrite c a bs).handles = s.handles := rfl
@[simp] theorem State.tierWrite_ops (c a : Nat) (bs : List Byte) : (s.tierWrite c a bs).ops = s.ops := rfl
@[simp] theorem State.tierWrite_nextOp (c a : Nat) (bs : List Byte) : (s.tierWrite c a bs).nextOp = s.nextOp := rfl
@[simp] theorem State.tierWrite_signals (c a : Nat) (bs : List Byte) : (s.tierWrite c a bs).signals = s.signals := rfl
@[simp] theorem State.tierWrite_xlates (c a : Nat) (bs : List Byte) : (s.tierWrite c a bs).xlates = s.xlates := rfl
@[simp] theorem State.tierWrite_mrMsgs (c a : Nat) (bs : List Byte) : (s.tierWrite c a bs).mrMsgs = s.mrMsgs := rfl
@[simp] theorem State.tierWrite_useCount (c a : Nat) (bs : List Byte) : (s.tierWrite c a bs).useCount = s.useCount := rfl
@[simp] theorem State.tierWrite_devices (c a : Nat) (bs : List Byte) : (s.tierWrite c a bs).devices = s.devices := rfl
@[simp] theorem State.tierWrite_ports (c a : Nat) (bs : List Byte) : (s.tierWrite c a bs).ports = s.ports := rfl
@[simp] theorem State.tierWrite_rxSealed (c a : Nat) (bs : List Byte) : (s.tierWrite c a bs).rxSealed = s.rxSealed := rfl
@[simp] theorem State.tierWrite_rxOpen (c a : Nat) (bs : List Byte) : (s.tierWrite c a bs).rxOpen = s.rxOpen := rfl
@[simp] theorem State.tierWrite_scopeDue (c a : Nat) (bs : List Byte) : (s.tierWrite c a bs).scopeDue = s.scopeDue := rfl
@[simp] theorem State.tierWrite_part (c a : Nat) (bs : List Byte) : (s.tierWrite c a bs).part = s.part := rfl
@[simp] theorem State.tierWrite_eth (c a : Nat) (bs : List Byte) : (s.tierWrite c a bs).eth = s.eth := rfl
@[simp] theorem State.tierWrite_qps (c a : Nat) (bs : List Byte) : (s.tierWrite c a bs).qps = s.qps := rfl
@[simp] theorem State.tierWrite_sess (c a : Nat) (bs : List Byte) : (s.tierWrite c a bs).sess = s.sess := rfl
@[simp] theorem State.tierWrite_takeOrder (c a : Nat) (bs : List Byte) : (s.tierWrite c a bs).takeOrder = s.takeOrder := rfl
@[simp] theorem State.tierWrite_sec (c a : Nat) (bs : List Byte) : (s.tierWrite c a bs).sec = s.sec := rfl
@[simp] theorem State.tierWrite_power (c a : Nat) (bs : List Byte) : (s.tierWrite c a bs).power = s.power := rfl
@[simp] theorem State.tierWrite_time (c a : Nat) (bs : List Byte) : (s.tierWrite c a bs).time = s.time := rfl
@[simp] theorem State.tierWrite_telem (c a : Nat) (bs : List Byte) : (s.tierWrite c a bs).telem = s.telem := rfl
@[simp] theorem State.tierWrite_bb (c a : Nat) (bs : List Byte) : (s.tierWrite c a bs).bb = s.bb := rfl
@[simp] theorem State.tierWrite_tier (c a : Nat) (bs : List Byte) : (s.tierWrite c a bs).tier = memWriteSpans s.tier (s.spans c a bs.length) bs := rfl

end Sys2Proof.Machine
end

