-- ==== Sys2Proof/Laws/Mem.lean ====
section
/-! SUPPORT. Tables by number and byte memories: what a read gives after a write, that every operation keeps the canonical
form, and that memories in that form are equal when they read the same. -/

namespace Sys2Proof.Machine

variable {α : Type}

/-! ### Reads of a table -/

/-- A table whose keys start at `lo` lists nothing below it. -/
theorem smGet?_below {m : SMap α} {lo n : Nat} (h : smSortedFrom lo m = true) (hn : n < lo) : smGet? m n = none := by
  cases m with
  | nil => rfl
  | cons e t =>
    simp only [smSortedFrom, Bool.and_eq_true, decide_eq_true_eq] at h
    have h1 : e.1 ≠ n := by omega
    have h2 : n < e.1 := by omega
    simp [smGet?, h1, h2]

/-- Keys that start at `lo` start at every lower bound too. -/
theorem smSortedFrom_mono {m : SMap α} {lo lo' : Nat} (h : smSortedFrom lo m = true) (hl : lo' ≤ lo) : smSortedFrom lo' m = true := by
  cases m with
  | nil => rfl
  | cons e t =>
    simp only [smSortedFrom, Bool.and_eq_true, decide_eq_true_eq] at h ⊢
    exact ⟨by omega, h.2⟩

/-- A read gives what was written at the key. -/
@[simp] theorem smGet?_smPut_self (m : SMap α) (n : Nat) (v : α) : smGet? (smPut m n v) n = some v := by
  induction m with
  | nil => simp [smPut, smGet?]
  | cons e t ih =>
    simp only [smPut]
    split
    · simp [smGet?]
    · split
      · simp [smGet?]
      · next h1 h2 => simp [smGet?, h1, h2, ih]

/-- A write leaves every other key alone. -/
theorem smGet?_smPut_ne (m : SMap α) {n k : Nat} (v : α) (h : k ≠ n) : smGet? (smPut m n v) k = smGet? m k := by
  have h' : n ≠ k := Ne.symm h
  induction m with
  | nil => simp [smPut, smGet?, h']
  | cons e t ih =>
    simp only [smPut]
    split
    · next h1 => subst h1; simp [smGet?, h']
    · split
      · next h1 h2 =>
        by_cases h3 : k < n
        · have h4 : e.1 ≠ k := by omega
          have h5 : k < e.1 := by omega
          simp [smGet?, h', h3, h4, h5]
        · simp [smGet?, h', h3]
      · simp [smGet?, ih]

/-- A key that was removed is not listed. -/
theorem smGet?_smErase_self {m : SMap α} {lo : Nat} (h : smSortedFrom lo m = true) (n : Nat) : smGet? (smErase m n) n = none := by
  induction m generalizing lo with
  | nil => rfl
  | cons e t ih =>
    simp only [smSortedFrom, Bool.and_eq_true, decide_eq_true_eq] at h
    simp only [smErase]
    split
    · next h1 => exact smGet?_below h.2 (by omega)
    · split
      · next h1 h2 => simp [smGet?, h1, h2]
      · next h1 h2 => simp [smGet?, h1, h2, ih h.2]

/-- Removing a key leaves every other key alone. -/
theorem smGet?_smErase_ne {m : SMap α} {lo n k : Nat} (h : smSortedFrom lo m = true) (hk : k ≠ n) :
    smGet? (smErase m n) k = smGet? m k := by
  induction m generalizing lo with
  | nil => rfl
  | cons e t ih =>
    simp only [smSortedFrom, Bool.and_eq_true, decide_eq_true_eq] at h
    simp only [smErase]
    split
    · next h1 =>
      have h2 : e.1 ≠ k := by omega
      by_cases h3 : k < e.1
      · simp [smGet?, h2, h3, smGet?_below h.2 (show k < e.1 + 1 by omega)]
      · simp [smGet?, h2, h3]
    · split
      · rfl
      · simp [smGet?, ih h.2]

/-- A change of an entry changes what its key reads as. -/
theorem smGet?_smMod_self (m : SMap α) (n : Nat) (f : α → α) : smGet? (smMod m n f) n = (smGet? m n).map f := by
  unfold smMod
  split
  · next h => simp [h]
  · next v h => simp [h]

/-- A change of an entry leaves every other key alone. -/
theorem smGet?_smMod_ne (m : SMap α) {n k : Nat} (f : α → α) (h : k ≠ n) : smGet? (smMod m n f) k = smGet? m k := by
  unfold smMod
  split
  · rfl
  · exact smGet?_smPut_ne m _ h

/-- A read with a default gives what was written with that default. -/
theorem smGet_smPutD_self [DecidableEq α] {m : SMap α} (h : smSorted m = true) (d : α) (n : Nat) (v : α) :
    smGet d (smPutD d m n v) n = v := by
  unfold smPutD smGet
  split
  · next hv => simp [smGet?_smErase_self h n, hv]
  · simp

/-- A write with a default leaves every other key alone. -/
theorem smGet_smPutD_ne [DecidableEq α] {m : SMap α} (h : smSorted m = true) (d : α) {n k : Nat} (v : α) (hk : k ≠ n) :
    smGet d (smPutD d m n v) k = smGet d m k := by
  unfold smPutD smGet
  split
  · rw [smGet?_smErase_ne h hk]
  · rw [smGet?_smPut_ne m v hk]

/-- A read of a table of which some keys are kept. -/
theorem smGet?_filter {m : SMap α} {lo : Nat} (h : smSortedFrom lo m = true) (p : Nat → Bool) (k : Nat) :
    smGet? (m.filter (fun e => p e.1)) k = if p k then smGet? m k else none := by
  induction m generalizing lo with
  | nil => simp [smGet?]
  | cons e t ih =>
    simp only [smSortedFrom, Bool.and_eq_true, decide_eq_true_eq] at h
    have ih := ih h.2
    by_cases h1 : e.1 = k
    · by_cases h2 : p k = true
      · simp [h1, h2, smGet?]
      · simp only [List.filter_cons, h1, h2]
        rw [if_neg (by simp), ih]
        simp [h2]
    · by_cases h2 : k < e.1
      · have h3 : smGet? t k = none := smGet?_below h.2 (by omega)
        by_cases h4 : p e.1 = true
        · simp [h4, smGet?, h1, h2]
        · simp [h4, smGet?, h1, h2, ih, h3]
      · by_cases h4 : p e.1 = true
        · simp [h4, smGet?, h1, h2, ih]
        · simp [h4, smGet?, h1, h2, ih]

/-! ### The order of the keys -/

/-- A write keeps the keys rising. -/
theorem smSortedFrom_smPut {m : SMap α} {lo n : Nat} (h : smSortedFrom lo m = true) (hn : lo ≤ n) (v : α) :
    smSortedFrom lo (smPut m n v) = true := by
  induction m generalizing lo with
  | nil => simp [smPut, smSortedFrom, hn]
  | cons e t ih =>
    simp only [smSortedFrom, Bool.and_eq_true, decide_eq_true_eq] at h
    simp only [smPut]
    split
    · next h1 => subst h1; simp [smSortedFrom, h.1, h.2]
    · split
      · next h1 h2 => simp [smSortedFrom, hn, h.2]; omega
      · next h1 h2 => simp [smSortedFrom, h.1, ih h.2 (by omega)]

/-- A removal keeps the keys rising. -/
theorem smSortedFrom_smErase {m : SMap α} {lo : Nat} (h : smSortedFrom lo m = true) (n : Nat) : smSortedFrom lo (smErase m n) = true := by
  induction m generalizing lo with
  | nil => exact h
  | cons e t ih =>
    have h0 := h
    simp only [smSortedFrom, Bool.and_eq_true, decide_eq_true_eq] at h
    simp only [smErase]
    split
    · exact smSortedFrom_mono h.2 (by omega)
    · split
      · exact h0
      · simp [smSortedFrom, h.1, ih h.2]

/-- Keeping some entries keeps the keys rising. -/
theorem smSortedFrom_filter {m : SMap α} {lo : Nat} (h : smSortedFrom lo m = true) (p : Nat × α → Bool) :
    smSortedFrom lo (m.filter p) = true := by
  induction m generalizing lo with
  | nil => exact h
  | cons e t ih =>
    simp only [smSortedFrom, Bool.and_eq_true, decide_eq_true_eq] at h
    simp only [List.filter_cons]
    split
    · simp [smSortedFrom, h.1, ih h.2]
    · exact smSortedFrom_mono (ih h.2) (by omega)

theorem smSorted_smPut {m : SMap α} (h : smSorted m = true) (n : Nat) (v : α) : smSorted (smPut m n v) = true :=
  smSortedFrom_smPut h (Nat.zero_le n) v

theorem smSorted_smErase {m : SMap α} (h : smSorted m = true) (n : Nat) : smSorted (smErase m n) = true :=
  smSortedFrom_smErase h n

theorem smSorted_smPutD [DecidableEq α] {m : SMap α} (h : smSorted m = true) (d : α) (n : Nat) (v : α) :
    smSorted (smPutD d m n v) = true := by
  unfold smPutD
  split
  · exact smSorted_smErase h n
  · exact smSorted_smPut h n v

theorem smSorted_smMod {m : SMap α} (h : smSorted m = true) (n : Nat) (f : α → α) : smSorted (smMod m n f) = true := by
  unfold smMod
  split
  · exact h
  · exact smSorted_smPut h n _

/-! ### What the entries are -/

/-- An entry of a table after a write is the one written, or stood there before. -/
theorem mem_smPut {m : SMap α} {n : Nat} {v : α} {e : Nat × α} (h : e ∈ smPut m n v) : e = (n, v) ∨ e ∈ m := by
  induction m with
  | nil => simp [smPut] at h; exact .inl h
  | cons a t ih =>
    simp only [smPut] at h
    split at h
    · rcases List.mem_cons.mp h with h | h
      · exact .inl h
      · exact .inr (List.mem_cons_of_mem _ h)
    · split at h
      · rcases List.mem_cons.mp h with h | h
        · exact .inl h
        · exact .inr h
      · rcases List.mem_cons.mp h with h | h
        · exact .inr (h ▸ List.mem_cons_self)
        · rcases ih h with h | h
          · exact .inl h
          · exact .inr (List.mem_cons_of_mem _ h)

/-- An entry of a table after a removal stood there before. -/
theorem mem_smErase {m : SMap α} {n : Nat} {e : Nat × α} (h : e ∈ smErase m n) : e ∈ m := by
  induction m with
  | nil => exact h
  | cons a t ih =>
    simp only [smErase] at h
    split at h
    · exact List.mem_cons_of_mem _ h
    · split at h
      · exact h
      · rcases List.mem_cons.mp h with h | h
        · exact h ▸ List.mem_cons_self
        · exact List.mem_cons_of_mem _ (ih h)

/-- An entry of a table after a write that keeps the default out is the one written, or stood there before. -/
theorem mem_smPutD [DecidableEq α] {d : α} {m : SMap α} {n : Nat} {v : α} {e : Nat × α} (h : e ∈ smPutD d m n v) :
    (e = (n, v) ∧ v ≠ d) ∨ e ∈ m := by
  unfold smPutD at h
  split at h
  · exact .inr (mem_smErase h)
  · next hv =>
    rcases mem_smPut h with h | h
    · exact .inl ⟨h, hv⟩
    · exact .inr h

/-- What a key reads as is listed. -/
theorem mem_of_smGet? {m : SMap α} {n : Nat} {v : α} (h : smGet? m n = some v) : (n, v) ∈ m := by
  induction m with
  | nil => simp [smGet?] at h
  | cons a t ih =>
    simp only [smGet?] at h
    split at h
    · next h1 => simp at h; subst h1; subst h; exact List.mem_cons_self
    · split at h
      · simp at h
      · exact List.mem_cons_of_mem _ (ih h)

/-- What is listed is what its key reads as. -/
theorem smGet?_of_mem {m : SMap α} {lo : Nat} (h : smSortedFrom lo m = true) {e : Nat × α} (he : e ∈ m) : smGet? m e.1 = some e.2 := by
  induction m generalizing lo with
  | nil => simp at he
  | cons a t ih =>
    simp only [smSortedFrom, Bool.and_eq_true, decide_eq_true_eq] at h
    rcases List.mem_cons.mp he with he | he
    · subst he; simp [smGet?]
    · have h1 := ih h.2 he
      by_cases h2 : e.1 < a.1 + 1
      · rw [smGet?_below h.2 h2] at h1; simp at h1
      · have h3 : a.1 ≠ e.1 := by omega
        have h4 : ¬ e.1 < a.1 := by omega
        simp [smGet?, h3, h4, h1]

/-! ### Byte memories -/

/-- The canonical form, said of the entries. -/
theorem memWf_iff (m : Mem) : memWf m = true ↔ smSorted m = true ∧ ∀ e ∈ m, e.2 ≠ 0 := by
  simp [memWf, List.all_eq_true]

/-- The empty memory has the canonical form. -/
@[simp] theorem memWf_nil : memWf [] = true := rfl

theorem memWf_sorted {m : Mem} (h : memWf m = true) : smSorted m = true := ((memWf_iff m).mp h).1

/-- A read gives the byte that was written there. -/
theorem memGet_memPut_self {m : Mem} (h : memWf m = true) (a : Nat) (b : Byte) : memGet (memPut m a b) a = b :=
  smGet_smPutD_self (memWf_sorted h) 0 a b

/-- A write of a byte leaves every other byte alone. -/
theorem memGet_memPut_ne {m : Mem} (h : memWf m = true) {a k : Nat} (b : Byte) (hk : k ≠ a) : memGet (memPut m a b) k = memGet m k :=
  smGet_smPutD_ne (memWf_sorted h) 0 b hk

/-- A write of a byte keeps the canonical form. -/
theorem memWf_memPut {m : Mem} (h : memWf m = true) (a : Nat) (b : Byte) : memWf (memPut m a b) = true := by
  rw [memWf_iff] at h ⊢
  refine ⟨smSorted_smPutD h.1 0 a b, fun e he => ?_⟩
  rcases mem_smPutD he with ⟨h1, h2⟩ | h1
  · simpa [h1] using h2
  · exact h.2 e h1

/-- A write of bytes keeps the canonical form. -/
theorem memWf_memWrite {m : Mem} (h : memWf m = true) (a : Nat) (bs : List Byte) : memWf (memWrite m a bs) = true := by
  induction bs generalizing m a with
  | nil => exact h
  | cons b bs ih => exact ih (memWf_memPut h a b) (a + 1)

/-- A write of a number keeps the canonical form. -/
theorem memWf_memWriteN {m : Mem} (h : memWf m = true) (a k n : Nat) : memWf (memWriteN m a k n) = true := memWf_memWrite h a _

/-- A zero fill keeps the canonical form. -/
theorem memWf_memClear {m : Mem} (h : memWf m = true) (a k : Nat) : memWf (memClear m a k) = true := by
  rw [memWf_iff] at h ⊢
  exact ⟨smSortedFrom_filter h.1 _, fun e he => h.2 e (List.mem_filter.mp he).1⟩

/-- A sequence of byte writes keeps the canonical form. -/
theorem memWf_foldl_memPut {β : Type} (f : Mem → β → Nat × Byte) (cs : List β) {m : Mem} (h : memWf m = true) :
    memWf (cs.foldl (fun m c => memPut m (f m c).1 (f m c).2) m) = true := by
  induction cs generalizing m with
  | nil => exact h
  | cons c cs ih => exact ih (memWf_memPut h _ _)

/-- Writing cells keeps the canonical form. -/
theorem memWf_memWriteCells {m : Mem} (h : memWf m = true) (cs : List (Nat × Byte)) : memWf (memWriteCells m cs) = true :=
  memWf_foldl_memPut (fun _ c => c) cs h

/-- Writing single bits keeps the canonical form. -/
theorem memWf_memWriteBits {m : Mem} (h : memWf m = true) (gs : List BitSeg) : memWf (memWriteBits m gs) = true :=
  memWf_foldl_memPut (fun m (e : Nat × Nat × Nat) => (e.1, BitVec.ofNat 8 (((memGet m e.1).toNat &&& (255 - e.2.2)) ||| e.2.1))) _ h

/-- A write of bytes leaves every byte outside them alone. -/
theorem memGet_memWrite_out {m : Mem} (h : memWf m = true) (a : Nat) (bs : List Byte) {k : Nat} (hk : k < a ∨ a + bs.length ≤ k) :
    memGet (memWrite m a bs) k = memGet m k := by
  induction bs generalizing m a with
  | nil => rfl
  | cons b bs ih =>
    simp only [List.length_cons] at hk
    have h1 := ih (memWf_memPut h a b) (a + 1) (by omega)
    rw [memWrite, h1]
    exact memGet_memPut_ne h b (by omega)

/-- A read of a byte within those written gives that byte. -/
theorem memGet_memWrite_in {m : Mem} (h : memWf m = true) (a : Nat) (bs : List Byte) {i : Nat} (hi : i < bs.length) :
    memGet (memWrite m a bs) (a + i) = bs[i] := by
  induction bs generalizing m a i with
  | nil => simp at hi
  | cons b bs ih =>
    rw [memWrite]
    cases i with
    | zero =>
      rw [memGet_memWrite_out (memWf_memPut h a b) (a + 1) bs (by omega)]
      exact memGet_memPut_self h a b
    | succ j =>
      have h1 := ih (memWf_memPut h a b) (a + 1) (i := j) (by simpa using hi)
      simpa [Nat.add_assoc, Nat.add_comm 1 j] using h1

/-- After a zero fill the filled bytes read 0 and every other byte reads as before. -/
theorem memGet_memClear {m : Mem} (h : memWf m = true) (a n k : Nat) :
    memGet (memClear m a n) k = if k < a ∨ a + n ≤ k then memGet m k else 0 := by
  have h1 := smGet?_filter (memWf_sorted h) (fun k => decide (k < a) || decide (a + n ≤ k)) k
  simp only [memGet, smGet, memClear, h1]
  by_cases h2 : k < a ∨ a + n ≤ k
  · simp [h2]
  · simp [h2]

/-- Memories in the canonical form that read the same are equal. -/
theorem mem_ext {m m' : Mem} (h : memWf m = true) (h' : memWf m' = true) (e : ∀ a, memGet m a = memGet m' a) : m = m' := by
  suffices ∀ (m m' : Mem) (lo : Nat), smSortedFrom lo m = true → smSortedFrom lo m' = true → (∀ e ∈ m, e.2 ≠ 0) → (∀ e ∈ m', e.2 ≠ 0) →
      (∀ a, memGet m a = memGet m' a) → m = m' by
    rw [memWf_iff] at h h'
    exact this m m' 0 h.1 h'.1 h.2 h'.2 e
  intro m
  induction m with
  | nil =>
    intro m' lo _ hs _ hz he
    cases m' with
    | nil => rfl
    | cons b t =>
      have h1 := he b.1
      simp [memGet, smGet, smGet?] at h1
      exact absurd h1.symm (hz b List.mem_cons_self)
  | cons a t ih =>
    intro m' lo hs hs' hz hz' he
    cases m' with
    | nil =>
      have h1 := he a.1
      simp [memGet, smGet, smGet?] at h1
      exact absurd h1 (hz a List.mem_cons_self)
    | cons b t' =>
      simp only [smSortedFrom, Bool.and_eq_true, decide_eq_true_eq] at hs hs'
      have hab : a.1 = b.1 := by
        by_cases h1 : a.1 < b.1
        · have h2 := he a.1
          have h3 : b.1 ≠ a.1 := by omega
          simp [memGet, smGet, smGet?, h1, h3] at h2
          exact absurd h2 (hz a List.mem_cons_self)
        · by_cases h2 : b.1 < a.1
          · have h3 := he b.1
            have h4 : a.1 ≠ b.1 := by omega
            simp [memGet, smGet, smGet?, h2, h4] at h3
            exact absurd h3.symm (hz' b List.mem_cons_self)
          · omega
      have hv : a.2 = b.2 := by
        have h1 := he a.1
        simpa [memGet, smGet, smGet?, hab] using h1
      have ht : t = t' := by
        refine ih t' (a.1 + 1) hs.2 (hab ▸ hs'.2) (fun e h => hz e (List.mem_cons_of_mem _ h)) (fun e h => hz' e (List.mem_cons_of_mem _ h)) ?_
        intro k
        by_cases h1 : k < a.1 + 1
        · simp [memGet, smGet, smGet?_below hs.2 h1, smGet?_below hs'.2 (hab ▸ h1)]
        · have h2 := he k
          have h3 : a.1 ≠ k := by omega
          have h4 : ¬ k < a.1 := by omega
          simpa [memGet, smGet, smGet?, h3, h4, ← hab] using h2
      rw [ht, show a = b from Prod.ext hab hv]

end Sys2Proof.Machine
end

