-- ==== Sys2Proof/Laws/Tile.lean ====
section
/-! SUPPORT. The byte memories of a tile keep their canonical form: every operation on a tile, and every tile opcode. -/

namespace Sys2Proof.Machine

/-! ### Folds -/

/-- What every step of a fold keeps holds after the fold. -/
theorem foldl_keeps {α β : Type} {Q : β → Prop} {f : β → α → β} (l : List α) {b : β} (h : Q b) (hf : ∀ b a, Q b → Q (f b a)) :
    Q (l.foldl f b) := by
  induction l generalizing b with
  | nil => exact h
  | cons a l ih => exact ih (hf b a h)

/-! ### Operations on a tile -/

/-- The form, said of the two memories. -/
theorem Tile.memOk_iff (t : Tile) : t.memOk = true ↔ memWf t.sp = true ∧ memWf t.uc.mem = true := by simp [Tile.memOk]

/-- A tile at reset has the form. -/
@[simp] theorem Tile.memOk_default : Tile.memOk {} = true := rfl

theorem Tile.writeBits_memOk {t : Tile} (h : t.memOk = true) (gs : List BitSeg) : (t.writeBits gs).memOk = true := by
  rw [Tile.memOk_iff] at h ⊢
  exact ⟨memWf_memWriteBits h.1 gs, h.2⟩

theorem Tile.writeBytes_memOk {t : Tile} (h : t.memOk = true) (a : Nat) (bs : List Byte) : (t.writeBytes a bs).memOk = true := by
  rw [Tile.memOk_iff] at h ⊢
  exact ⟨memWf_memWrite h.1 a bs, h.2⟩

theorem Tile.poisonAt_memOk {t : Tile} (h : t.memOk = true) (a k : Nat) : (t.poisonAt a k).memOk = true := h

theorem Tile.raiseAmax_memOk {t : Tile} (h : t.memOk = true) (i : Nat) (a : Rat) : (t.raiseAmax i a).memOk = true := by
  unfold Tile.raiseAmax
  dsimp only
  split
  · exact h
  · exact h

@[simp] theorem Tile.clear_memOk (t : Tile) : t.clear.memOk = true := rfl

theorem Tile.modCell_memOk {t : Tile} (h : t.memOk = true) (c id : Nat) (f : Cell → Cell) : (t.modCell c id f).memOk = true := h

theorem Tile.load_memOk {t : Tile} (h : t.memOk = true) (rd : Nat → Nat → Nat) (b : BindRec) : (t.load rd b).memOk = true := by
  unfold Tile.load
  split
  · exact h
  · exact h
  · exact h
  · exact h
  · rw [Tile.memOk_iff] at h ⊢
    exact ⟨h.1, memWf_foldl_memPut (fun _ (i : Nat) => (i, BitVec.ofNat 8 (rd (b.off + i) 1))) (List.range b.len) rfl⟩
  · exact h

theorem Tile.bind_memOk {t : Tile} (h : t.memOk = true) (rd : Nat → Nat → Nat) (bs : List BindRec) : (t.bind rd bs).memOk = true := by
  unfold Tile.bind
  rw [Tile.memOk_iff] at h
  exact foldl_keeps (Q := fun t : Tile => t.memOk = true) bs ((Tile.memOk_iff _).mpr ⟨h.1, rfl⟩) (fun t b ht => Tile.load_memOk ht rd b)

theorem Tile.coldLoad_memOk (t : Tile) (x : Ctx) (l : Nat) : (t.coldLoad x l).memOk = true := by
  unfold Tile.coldLoad
  dsimp only
  split <;> rfl

theorem Tile.takeOver_memOk {t o : Tile} (h : o.memOk = true) : (t.takeOver o).memOk = true := h

theorem OpD.spoilRegion_memOk {t : Tile} (h : t.memOk = true) (d : OpD) (draw : Nat) : (d.spoilRegion t draw).memOk = true := h

/-! ### Tile opcodes -/

theorem MRun.row_tile (d : OpD) (r : MRun) (i : Issue) : (r.row d i).1.tile.memOk = r.tile.memOk := by
  unfold MRun.row
  dsimp only
  refine foldl_keeps (Q := fun x : MRun × Bool × Bool => x.1.tile.memOk = r.tile.memOk) _ rfl ?_
  intro b a hb
  exact hb

@[simp] theorem MRun.stopAt_tile (r : MRun) (c : Nat) (k : Cause) : (r.stopAt c k).tile = r.tile := by
  unfold MRun.stopAt
  repeat' split
  all_goals rfl

theorem MRun.step_memOk {r : MRun} (h : r.tile.memOk = true) (d : OpD) (ic : IssueCtx) (i : Issue) :
    (MRun.step d ic r i).tile.memOk = true := by
  have hr : (r.row d i).1.tile.memOk = true := by rw [MRun.row_tile]; exact h
  unfold MRun.step
  extract_lets c open_
  generalize open_ = o
  dsimp only
  cases o with
  | false => exact h
  | true =>
    simp only [Bool.not_true, Bool.false_eq_true, if_false]
    (repeat' split) <;> first | exact h | exact hr | (simp only [MRun.stopAt_tile]; first | exact h | exact hr)

theorem OpD.matRun_memOk {t : Tile} (h : t.memOk = true) (d : OpD) (ic : IssueCtx) : (d.matRun ic t).tile.memOk = true := by
  unfold OpD.matRun
  exact foldl_keeps (Q := fun r : MRun => r.tile.memOk = true) _ h (fun r i hr => MRun.step_memOk hr d ic i)

theorem VRun.step_memOk {r : VRun} (h : r.tile.memOk = true) (d : OpD) (ic : IssueCtx) (p : Param) (extra : Nat) (b : Nat × List Nat) :
    (VRun.step d ic p extra r b).tile.memOk = true := by
  unfold VRun.step
  dsimp only
  (repeat' split) <;> first
    | with_reducible exact h
    | with_reducible exact Tile.raiseAmax_memOk (Tile.writeBits_memOk h _) _ _
    | with_reducible exact Tile.writeBits_memOk h _
    | with_reducible exact Tile.writeBytes_memOk h _ _

theorem OpD.vecRun_memOk {t : Tile} (h : t.memOk = true) (d : OpD) (ic : IssueCtx) (draw : Nat) : (d.vecRun ic draw t).tile.memOk = true := by
  unfold OpD.vecRun
  split
  · exact h
  · exact foldl_keeps (Q := fun r : VRun => r.tile.memOk = true) _ h (fun r b hr => VRun.step_memOk hr d ic _ _ b)

theorem RRun.put_memOk {r : RRun} (h : r.tile.memOk = true) (d : OpD) (extra a : Nat) (bs : List Byte) (e : Ev) :
    (r.put d extra a bs e).tile.memOk = true := Tile.writeBytes_memOk h a bs

theorem RRun.row_memOk {r : RRun} {reads : Tile → Nat → List RowRead} {f : RRun → Nat → RRun} (h : r.tile.memOk = true)
    (m : Nat) (hf : (f r m).tile.memOk = true) : (RRun.row reads f r m).tile.memOk = true := by
  unfold RRun.row
  (repeat' split) <;> first | exact h | exact hf

theorem OpD.topkRow_memOk {r : RRun} (h : r.tile.memOk = true) (d : OpD) (m : Nat) : (d.topkRow r m).tile.memOk = true :=
  Tile.writeBytes_memOk h _ _

theorem OpD.topkMergeRow_memOk {r : RRun} (h : r.tile.memOk = true) (d : OpD) (m : Nat) :
    (d.topkMergeRow r m).tile.memOk = true := Tile.writeBytes_memOk h _ _

theorem OpD.topkRun_memOk {t : Tile} (h : t.memOk = true) (d : OpD) : (d.topkRun t).tile.memOk = true := by
  unfold OpD.topkRun RRun.res
  refine foldl_keeps (Q := fun r : RRun => r.tile.memOk = true) _ h (fun r m hr => ?_)
  split
  · exact RRun.row_memOk hr m (OpD.topkRow_memOk hr d m)
  · exact RRun.row_memOk hr m (OpD.topkMergeRow_memOk hr d m)

theorem OpD.rowStatsRun_memOk {t : Tile} (h : t.memOk = true) (d : OpD) (draw : Nat) : (d.rowStatsRun draw t).tile.memOk = true := by
  unfold OpD.rowStatsRun
  split
  · exact h
  · exact foldl_keeps (Q := fun r : RRun => r.tile.memOk = true) _ h (fun r m hr => RRun.row_memOk hr m (RRun.put_memOk hr d _ _ _ _))

theorem OpD.rowStatsMergeRun_memOk {t : Tile} (h : t.memOk = true) (d : OpD) (draw : Nat) :
    (d.rowStatsMergeRun draw t).tile.memOk = true := by
  unfold OpD.rowStatsMergeRun
  split
  · exact h
  · exact foldl_keeps (Q := fun r : RRun => r.tile.memOk = true) _ h (fun r m hr => RRun.row_memOk hr m (RRun.put_memOk hr d _ _ _ _))

theorem OpD.rowDotRun_memOk {t : Tile} (h : t.memOk = true) (d : OpD) (draw : Nat) : (d.rowDotRun draw t).tile.memOk = true := by
  unfold OpD.rowDotRun
  split
  · exact h
  · exact foldl_keeps (Q := fun r : RRun => r.tile.memOk = true) _ h (fun r m hr => RRun.row_memOk hr m (RRun.put_memOk hr d _ _ _ _))

theorem OpD.colSumRun_memOk {t : Tile} (h : t.memOk = true) (d : OpD) (ic : IssueCtx) : (d.colSumRun ic t).tile.memOk = true := by
  unfold OpD.colSumRun
  dsimp only
  (repeat' split) <;> first
    | with_reducible exact h
    | with_reducible exact Tile.raiseAmax_memOk (Tile.writeBits_memOk h _) _ _
    | with_reducible exact Tile.writeBits_memOk h _
    | with_reducible exact Tile.writeBytes_memOk h _ _

theorem OpD.amaxRun_memOk {t : Tile} (h : t.memOk = true) (d : OpD) : (d.amaxRun t).tile.memOk = true := by
  unfold OpD.amaxRun
  dsimp only
  (repeat' split) <;> first
    | with_reducible exact h
    | with_reducible exact Tile.raiseAmax_memOk (Tile.writeBits_memOk h _) _ _
    | with_reducible exact Tile.writeBits_memOk h _
    | with_reducible exact Tile.writeBytes_memOk h _ _

theorem OpD.putMove_memOk {r : RRun} (h : r.tile.memOk = true) (d : OpD) (m : Nat) (ns : List Nat) (w : Written) (nf : Nat) :
    (d.putMove r m ns w nf).tile.memOk = true := by
  have hw := Tile.writeBits_memOk h w.segs
  unfold OpD.putMove
  dsimp only
  split
  · exact Tile.raiseAmax_memOk hw _ _
  · exact hw

theorem OpD.compressRun_memOk {t : Tile} (h : t.memOk = true) (d : OpD) (ic : IssueCtx) :
    (d.compressRun ic t).tile.memOk = true := by
  unfold OpD.compressRun RRun.res
  split
  · exact h
  · refine foldl_keeps (Q := fun r : RRun => r.tile.memOk = true) _ h (fun r m hr => ?_)
    split
    · unfold OpD.compressBits
      dsimp only
      (repeat' split) <;> first | exact hr | exact OpD.putMove_memOk hr d _ _ _ _
    · unfold OpD.compressEntry
      dsimp only
      (repeat' split) <;> first | exact hr | exact OpD.putMove_memOk hr d _ _ _ _

theorem OpD.expandRun_memOk {t : Tile} (h : t.memOk = true) (d : OpD) (ic : IssueCtx) : (d.expandRun ic t).tile.memOk = true := by
  unfold OpD.expandRun RRun.res
  split
  · exact h
  · refine foldl_keeps (Q := fun r : RRun => r.tile.memOk = true) _ h (fun r m hr => ?_)
    split
    · unfold OpD.expandBits
      dsimp only
      (repeat' split) <;> first | exact hr | exact OpD.putMove_memOk hr d _ _ _ _
    · unfold OpD.expandEntry
      dsimp only
      (repeat' split) <;> first | exact hr | exact Tile.writeBits_memOk hr _ | exact OpD.putMove_memOk hr d _ _ _ _

theorem OpD.routeEntry_memOk {r : Routes} (h : r.tile.memOk = true) (d : OpD) (p : Param) (m i : Nat) :
    (d.routeEntry p m r i).tile.memOk = true := by
  unfold OpD.routeEntry
  dsimp only
  (repeat' split) <;> first | exact h | exact Tile.writeBytes_memOk h _ _ | exact Tile.writeBytes_memOk (Tile.writeBytes_memOk h _ _) _ _

theorem OpD.routeRun_memOk {t : Tile} (h : t.memOk = true) (d : OpD) : (d.routeRun t).tile.memOk = true := by
  have hs : ∀ (p : Param) (r : Routes) (m : Nat), r.tile.memOk = true → (d.routeToken p r m).tile.memOk = true := by
    intro p r m hr
    unfold OpD.routeToken
    dsimp only
    (repeat' split) <;> first
    | exact hr
    | exact foldl_keeps (Q := fun r : Routes => r.tile.memOk = true) _ hr (fun r i h => OpD.routeEntry_memOk h d p m i)
  have hf : ((List.range d.m).foldl (d.routeToken (d.param t)) { tile := t }).tile.memOk = true :=
    foldl_keeps (Q := fun r : Routes => r.tile.memOk = true) _ h (fun r m hr => hs _ r m hr)
  unfold OpD.routeRun
  dsimp only
  repeat' split
  · exact h
  · exact hf
  · exact Tile.writeBytes_memOk hf _ _

end Sys2Proof.Machine
end

