-- ==== Sys2Proof/Laws/Keeps.lean ====
section
/-! SUPPORT. What the shared operations keep: the queue of waiting commands, the canonical form of the memories, the number
of ports and devices, and tide with its rate. -/

namespace Sys2Proof.Machine

/-- What nearly every operation keeps: the queue, the invariant and, when `P` holds, tide. -/
structure Keeps (P : Prop) (s t : State) : Prop where
  queue : t.pending = s.pending
  mem : s.memOk → t.memOk
  sizes : s.sizesOk → t.sizesOk
  tide : P → t.tide16 = s.tide16
  rate : P → t.time.rate = s.time.rate

variable {P : Prop} {s0 s t : State}

/-- Nothing done keeps everything. -/
theorem Keeps.refl (s : State) : Keeps P s s := ⟨rfl, id, id, fun _ => rfl, fun _ => rfl⟩

/-- One after the other. -/
theorem Keeps.trans {u : State} (h : Keeps P s t) (k : Keeps P t u) : Keeps P s u :=
  ⟨k.queue.trans h.queue, fun m => k.mem (h.mem m), fun m => k.sizes (h.sizes m), fun q => (k.tide q).trans (h.tide q),
    fun q => (k.rate q).trans (h.rate q)⟩

/-- The invariant is kept. -/
theorem Keeps.inv (h : Keeps P s t) (i : s.Inv) : t.Inv := ⟨h.mem i.1, h.sizes i.2⟩

/-- `Keeps`, of a state that is given by its fields. -/
def KeepsMk (P : Prop) (s t : State) : Prop := Keeps P s t

/-- Turns to `KeepsMk` where the state is given by its fields. -/
theorem Keeps.mk_eq (P : Prop) (s0 : State) (pe d o pk di ti cx ha op no sg xl mr uc tr tp dv po rs ro sd pa et qp se tk sc pw tm tl bb) :
    Keeps P s0 (State.mk pe d o pk di ti cx ha op no sg xl mr uc tr tp dv po rs ro sd pa et qp se tk sc pw tm tl bb) =
      KeepsMk P s0 (State.mk pe d o pk di ti cx ha op no sg xl mr uc tr tp dv po rs ro sd pa et qp se tk sc pw tm tl bb) := rfl

/-- An update of fields: the tiles and the tiers keep their form, the lists their lengths, and tide its value. -/
theorem KeepsMk.intro (hk : Keeps P s0 s) {d o pk di ti cx ha op no sg xl mr uc tr tp dv po rs ro sd pa et qp se tk sc pw tm tl bb}
    (ht : (∀ e ∈ s.tiles, e.2.memOk = true) → ∀ e ∈ ti, e.2.memOk = true) (hm : memWf s.tier = true → memWf tr = true)
    (hp : s.ports.length = 12 → List.length po = 12) (hd : s.devices.length = 60 → List.length dv = 60)
    (he : s.eth.length = 8 → List.length et = 8)
    (htd : P → tm.ns.toNat * 2 ^ 16 + tm.frac.toNat = s.tide16) (hr : P → tm.rate = s.time.rate) :
    KeepsMk P s0 (State.mk s.pending d o pk di ti cx ha op no sg xl mr uc tr tp dv po rs ro sd pa et qp se tk sc pw tm tl bb) :=
  ⟨hk.queue, fun m => ⟨hm (hk.mem m).1, ht (hk.mem m).2⟩,
    fun m => ⟨hp (hk.sizes m).1, hd (hk.sizes m).2.1, he (hk.sizes m).2.2⟩,
    fun q => (htd q).trans (hk.tide q), fun q => (hr q).trans (hk.rate q)⟩

/-- A fold of an operation that keeps. -/
theorem Keeps.foldl {α : Type} {f : State → α → State} {l : List α} (hk : Keeps P s0 s)
    (hf : ∀ t x, Keeps P s0 t → Keeps P s0 (f t x)) : Keeps P s0 (l.foldl f s) :=
  foldl_keeps l hk (fun t x h => hf t x h)

/-- An operation that may have no outcome, with another state in its place. -/
theorem Keeps.getD {o : Option State} {u : State} (ho : ∀ t, o = some t → Keeps P s0 t) (hu : Keeps P s0 u) : Keeps P s0 (o.getD u) := by
  cases o with
  | none => exact hu
  | some t => exact ho t rfl

/-- An operation over what may be absent. -/
theorem Keeps.getD_map {α : Type} {f : α → State} {o : Option α} {u : State} (hf : ∀ d, Keeps P s0 (f d)) (hu : Keeps P s0 u) :
    Keeps P s0 ((o.map f).getD u) := by
  cases o with
  | none => exact hu
  | some d => exact hf d

/-- Every outcome of an operation that may have none keeps. -/
def KeepsOpt (P : Prop) (s : State) (o : Option State) : Prop := ∀ t, o = some t → Keeps P s t

theorem KeepsOpt.none : KeepsOpt P s none := fun _ e => by cases e
theorem KeepsOpt.some (h : Keeps P s t) : KeepsOpt P s (some t) := fun _ e => by cases e; exact h
theorem KeepsOpt.map {α : Type} {o : Option α} {f : α → State} (hf : ∀ a, Keeps P s (f a)) : KeepsOpt P s (o.map f) := fun _ e => by
  obtain ⟨a, -, rfl⟩ := Option.map_eq_some_iff.mp e
  exact hf a
theorem KeepsOpt.bind {α : Type} {o : Option α} {f : α → Option State} (hf : ∀ a, KeepsOpt P s (f a)) : KeepsOpt P s (o.bind f) := fun t e => by
  obtain ⟨a, -, h⟩ := Option.bind_eq_some_iff.mp e
  exact hf a t h
theorem KeepsOpt.getD {o : Option State} {u : State} (ho : KeepsOpt P s o) (hu : Keeps P s u) : Keeps P s (o.getD u) := Keeps.getD ho hu

/-- An access of a utility core keeps, when it is served. -/
def KeepsUc {α : Type} (P : Prop) (s : State) : UcAns α → Prop
  | .done _ t => Keeps P s t
  | _ => True

/-- An outcome of a request keeps, when there is a state in it. -/
def KeepsOut (P : Prop) (s : State) : CmdOut → Prop
  | .refuse _ _ => True
  | .done t _ _ _ => Keeps P s t
  | .wait t => Keeps P s t

/-- The answer of a command keeps, when it is a next state. -/
def KeepsAns (P : Prop) (s : State) : Ans → Prop
  | .next t => Keeps P s t
  | _ => True

theorem KeepsOut.refuse (st : Status) (c : Nat) : KeepsOut P s (.refuse st c) := trivial
theorem KeepsOut.done {st : Status} {b : BitVec 3456} {n : Nat} (h : Keeps P s t) : KeepsOut P s (.done t st b n) := h
theorem KeepsOut.wait (h : Keeps P s t) : KeepsOut P s (.wait t) := h
theorem KeepsOut.ok (h : Keeps P s t) : KeepsOut P s (.ok t) := h
theorem KeepsAns.next (h : Keeps P s t) : KeepsAns P s (.next t) := h

/-- A list of checks before an effect that keeps. -/
theorem KeepsOut.checked {cs : List Check} {k : CmdOut} (h : KeepsOut P s k) : KeepsOut P s (checked cs k) := by
  unfold Machine.checked
  split
  · trivial
  · exact h

@[simp] theorem length_modAt {α : Type} (l : List α) (i : Nat) (f : α → α) : (modAt l i f).length = l.length := by
  simp [modAt]

/-! ### The tiles and the tiers -/

theorem State.tileP_memOk (h : ∀ e ∈ s.tiles, e.2.memOk = true) (n : Nat) : (s.tileP n).memOk = true := by
  unfold State.tileP smGet
  cases hg : smGet? s.tiles n with
  | none => rfl
  | some t => exact h _ (mem_of_smGet? hg)

/-- A change of a tile, where the new tile has the form in a state that has it. -/
theorem State.modTileP_keeps_of {n : Nat} {f : Tile → Tile} (hk : Keeps P s0 s)
    (hf : (∀ e ∈ s.tiles, e.2.memOk = true) → (f (s.tileP n)).memOk = true) : Keeps P s0 (s.modTileP n f) := by
  refine KeepsMk.intro hk ?_ id id id id (fun _ => rfl) (fun _ => rfl)
  intro ht e he
  rcases mem_smPutD he with ⟨h1, -⟩ | h1
  · rw [h1]; exact hf ht
  · exact ht e h1

theorem State.modTileP_keeps {n : Nat} {f : Tile → Tile} (hk : Keeps P s0 s)
    (hf : ∀ t : Tile, t.memOk = true → (f t).memOk = true) : Keeps P s0 (s.modTileP n f) :=
  State.modTileP_keeps_of hk (fun ht => hf _ (State.tileP_memOk ht n))

theorem State.modTileL_keeps {l : Nat} {f : Tile → Tile} (hk : Keeps P s0 s)
    (hf : ∀ t : Tile, t.memOk = true → (f t).memOk = true) : Keeps P s0 (s.modTileL l f) := State.modTileP_keeps hk hf

/-- A write over ranges of memory keeps the canonical form. -/
theorem memWf_memWriteSpans {m : Mem} (h : memWf m = true) (ps : List (Nat × Nat)) (bs : List Byte) : memWf (memWriteSpans m ps bs) = true := by
  induction ps generalizing m bs with
  | nil => exact h
  | cons p ps ih => exact ih (memWf_memWrite h _ _) _

theorem State.tierWrite_keeps {c a : Nat} {bs : List Byte} (hk : Keeps P s0 s) : Keeps P s0 (s.tierWrite c a bs) :=
  KeepsMk.intro hk id (fun m => memWf_memWriteSpans m _ _) id id id (fun _ => rfl) (fun _ => rfl)

theorem State.newHandle_keeps {s1 : State} {o : HObj} {w : W32} (hk : Keeps P s0 s) (e : s.newHandle o = some (w, s1)) : Keeps P s0 s1 := by
  unfold State.newHandle at e
  split at e
  · simp at e
  · simp only [Option.some.injEq, Prod.mk.injEq] at e
    obtain ⟨-, rfl⟩ := e
    exact KeepsMk.intro hk id id id id id (fun _ => rfl) (fun _ => rfl)

end Sys2Proof.Machine
end

