-- ==== Sys2Proof/Laws/Operations.lean ====
section
/-! SUPPORT. What each shared operation of `Machine/` keeps, file by file: one lemma for each (`Keeps`, `KeepsOut`, `KeepsAns` of
Laws/Keeps.lean).  The four operations that move tide or lose it keep all but tide. -/

set_option linter.unusedSimpArgs false

namespace Sys2Proof.Machine

/-! ### Machine/Ops.lean -/

theorem State.modDie_keeps {P : Prop} {s0 s : State} {d : Nat} {f : Die → Die} (hk : Keeps P s0 s) :
    Keeps P s0 (State.modDie s d f) := by
  unfold State.modDie
  repeat' (first | with_reducible assumption | exact (rfl : (_ : Nat) = _) | dsimp only | (intro _)
                 | (simp only [Keeps.mk_eq]; with_reducible apply KeepsMk.intro))

theorem State.modCtx_keeps {P : Prop} {s0 s : State} {c : Nat} {f : Ctx → Ctx} (hk : Keeps P s0 s) :
    Keeps P s0 (State.modCtx s c f) := by
  unfold State.modCtx
  repeat' (first | with_reducible assumption | exact (rfl : (_ : Nat) = _) | dsimp only | (intro _)
                 | (simp only [Keeps.mk_eq]; with_reducible apply KeepsMk.intro))

theorem State.mapCtx_keeps {P : Prop} {s0 s : State} {f : Nat → Ctx → Ctx} (hk : Keeps P s0 s) :
    Keeps P s0 (State.mapCtx s f) := by
  unfold State.mapCtx
  repeat' (first | with_reducible assumption | exact (rfl : (_ : Nat) = _) | dsimp only | (intro _)
                 | (simp only [Keeps.mk_eq]; with_reducible apply KeepsMk.intro))

theorem State.modPort_keeps {P : Prop} {s0 s : State} {j : Nat} {f : Port → Port} (hk : Keeps P s0 s) :
    Keeps P s0 (State.modPort s j f) := by
  unfold State.modPort
  repeat' (first | with_reducible assumption | exact (rfl : (_ : Nat) = _) | dsimp only | (intro _)
                 | (simp only [Keeps.mk_eq]; with_reducible apply KeepsMk.intro)
                 | (refine (?_ : (_ : Nat) = _); simp; assumption))

theorem State.modDev_keeps {P : Prop} {s0 s : State} {d : Nat} {f : Device → Device} (hk : Keeps P s0 s) :
    Keeps P s0 (State.modDev s d f) := by
  unfold State.modDev
  repeat' (first | with_reducible assumption | exact (rfl : (_ : Nat) = _) | dsimp only | (intro _)
                 | (simp only [Keeps.mk_eq]; with_reducible apply KeepsMk.intro)
                 | (refine (?_ : (_ : Nat) = _); simp; assumption))

theorem State.modEth_keeps {P : Prop} {s0 s : State} {j : Nat} {f : EthPort → EthPort} (hk : Keeps P s0 s) :
    Keeps P s0 (State.modEth s j f) := by
  unfold State.modEth
  repeat' (first | with_reducible assumption | exact (rfl : (_ : Nat) = _) | dsimp only | (intro _)
                 | (simp only [Keeps.mk_eq]; with_reducible apply KeepsMk.intro)
                 | (refine (?_ : (_ : Nat) = _); simp; assumption))

theorem State.modSess_keeps {P : Prop} {s0 s : State} {n : Nat} {f : Sess → Sess} (hk : Keeps P s0 s) :
    Keeps P s0 (State.modSess s n f) := by
  unfold State.modSess
  repeat' (first | with_reducible assumption | exact (rfl : (_ : Nat) = _) | dsimp only | (intro _)
                 | (simp only [Keeps.mk_eq]; with_reducible apply KeepsMk.intro))

theorem State.modOp_keeps {P : Prop} {s0 s : State} {id : Nat} {f : Op → Op} (hk : Keeps P s0 s) :
    Keeps P s0 (State.modOp s id f) := by
  unfold State.modOp
  repeat' (first | with_reducible assumption | exact (rfl : (_ : Nat) = _) | dsimp only | (intro _)
                 | (simp only [Keeps.mk_eq]; with_reducible apply KeepsMk.intro))

theorem State.emit_keeps {P : Prop} {s0 s : State} {o : Out} (hk : Keeps P s0 s) : Keeps P s0 (State.emit s o) := by
  unfold State.emit
  repeat' (first | with_reducible assumption | exact (rfl : (_ : Nat) = _) | dsimp only | (intro _)
                 | (simp only [Keeps.mk_eq]; with_reducible apply KeepsMk.intro))

theorem State.modPkg_keeps {P : Prop} {s0 s : State} {f : Pkg → Pkg} (hk : Keeps P s0 s) : Keeps P s0 (State.modPkg s f) := by
  unfold State.modPkg
  repeat' (first | with_reducible assumption | exact (rfl : (_ : Nat) = _) | dsimp only | (intro _)
                 | (simp only [Keeps.mk_eq]; with_reducible apply KeepsMk.intro))

theorem State.use_keeps {P : Prop} {s0 s : State} {k : Nat} (hk : Keeps P s0 s) : Keeps P s0 (State.use s k) := by
  unfold State.use
  repeat' (first | with_reducible assumption | exact (rfl : (_ : Nat) = _) | dsimp only | (intro _)
                 | (simp only [Keeps.mk_eq]; with_reducible apply KeepsMk.intro))

theorem State.modObj_keeps {P : Prop} {s0 s : State} {h : W32} {f : HObj → HObj} (hk : Keeps P s0 s) :
    Keeps P s0 (State.modObj s h f) := by
  unfold State.modObj
  repeat' (first | with_reducible assumption | exact (rfl : (_ : Nat) = _) | dsimp only | (intro _)
                 | (simp only [Keeps.mk_eq]; with_reducible apply KeepsMk.intro))

theorem State.modChan_keeps {P : Prop} {s0 s : State} {h : W32} {f : Chan → Chan} (hk : Keeps P s0 s) :
    Keeps P s0 (State.modChan s h f) := by
  unfold State.modChan
  repeat' (first | with_reducible assumption | with_reducible apply State.modObj_keeps)

theorem State.retire_keeps {P : Prop} {s0 s : State} {h : W32} (hk : Keeps P s0 s) : Keeps P s0 (State.retire s h) := by
  unfold State.retire
  repeat' (first | with_reducible assumption | exact (rfl : (_ : Nat) = _) | dsimp only | (intro _)
                 | (simp only [Keeps.mk_eq]; with_reducible apply KeepsMk.intro))

theorem State.flush_keeps {P : Prop} {s0 s : State} {n : Nat} (hk : Keeps P s0 s) : Keeps P s0 (State.flush s n) := by
  unfold State.flush
  repeat' (first | with_reducible assumption | exact (rfl : (_ : Nat) = _) | dsimp only | split | (intro _)
                 | (simp only [Keeps.mk_eq]; with_reducible apply KeepsMk.intro))

theorem State.post_keeps {P : Prop} {s0 s : State} {e : EvWait} (hk : Keeps P s0 s) : Keeps P s0 (State.post s e) := by
  unfold State.post
  repeat' (first | with_reducible assumption | exact (rfl : (_ : Nat) = _) | dsimp only | with_reducible apply State.flush_keeps
                 | with_reducible apply Keeps.foldl | (intro _) | (simp only [Keeps.mk_eq]; with_reducible apply KeepsMk.intro))

theorem State.event_keeps {P : Prop} {s0 s : State} {code objKind obj : Nat} {ctx : Option Nat} {data : BitVec 3328} (hk : Keeps P s0 s) :
    Keeps P s0 (State.event s code objKind obj ctx data) := by
  unfold State.event
  repeat' (first | with_reducible assumption | exact (rfl : (_ : Nat) = _) | dsimp only | split
                 | with_reducible apply State.post_keeps | (intro _)
                 | (simp only [Keeps.mk_eq]; with_reducible apply KeepsMk.intro))

theorem State.postBoot_keeps {P : Prop} {s0 s : State} (hk : Keeps P s0 s) : Keeps P s0 (State.postBoot s) := by
  unfold State.postBoot
  repeat' (first | with_reducible assumption | exact (rfl : (_ : Nat) = _) | dsimp only | with_reducible apply State.post_keeps
                 | with_reducible apply Keeps.foldl | (intro _) | (simp only [Keeps.mk_eq]; with_reducible apply KeepsMk.intro))

theorem State.countPoison_keeps {P : Prop} {s0 s : State} {ls : List Nat} (hk : Keeps P s0 s) :
    Keeps P s0 (State.countPoison s ls) := by
  unfold State.countPoison
  repeat' (first | with_reducible assumption | split | with_reducible apply State.modDev_keeps | with_reducible apply Keeps.foldl
                 | (intro _))

theorem State.tierPoisonAt_keeps {P : Prop} {s0 s : State} {c a k : Nat} (hk : Keeps P s0 s) :
    Keeps P s0 (State.tierPoisonAt s c a k) := by
  unfold State.tierPoisonAt
  repeat' (first | with_reducible assumption | exact (rfl : (_ : Nat) = _) | dsimp only | (intro _)
                 | (simp only [Keeps.mk_eq]; with_reducible apply KeepsMk.intro))

theorem State.noteSpad_keeps {P : Prop} {s0 s : State} {id : Nat} {spad : Bool} (hk : Keeps P s0 s) :
    Keeps P s0 (State.noteSpad s id spad) := by
  unfold State.noteSpad
  repeat' (first | with_reducible assumption | split | with_reducible apply State.modOp_keeps)

theorem State.writeCtl_keeps {P : Prop} {s0 s : State} {h : W32} (hk : Keeps P s0 s) : Keeps P s0 (State.writeCtl s h) := by
  unfold State.writeCtl
  repeat' (first | with_reducible assumption | split | with_reducible apply State.tierWrite_keeps)

theorem State.setChan_keeps {P : Prop} {s0 s : State} {h : W32} {f : Chan → Chan} (hk : Keeps P s0 s) :
    Keeps P s0 (State.setChan s h f) := by
  unfold State.setChan
  repeat' (first | with_reducible assumption | with_reducible apply State.modChan_keeps
                 | with_reducible apply State.writeCtl_keeps)

theorem State.dropOps_keeps {P : Prop} {s0 s : State} {q : Op → Bool} (hk : Keeps P s0 s) : Keeps P s0 (State.dropOps s q) := by
  refine KeepsMk.intro hk ?_ id id id id (fun _ => rfl) (fun _ => rfl)
  intro ht e he
  obtain ⟨h1, -⟩ := List.mem_filter.mp he
  obtain ⟨a, h2, rfl⟩ := List.mem_map.mp h1
  exact ht a h2

theorem State.faultChan_keeps {P : Prop} {s0 s : State} {h : W32} {cause : Cause} {index : W32} {keepQueued : Bool} (hk : Keeps P s0 s) :
    Keeps P s0 (State.faultChan s h cause index keepQueued) := by
  unfold State.faultChan
  repeat' (first | with_reducible assumption | split | with_reducible apply State.event_keeps
                 | with_reducible apply State.setChan_keeps | with_reducible apply State.dropOps_keeps)

theorem State.bbNotify_keeps {P : Prop} {s0 : State} {s old : State} (hk : Keeps P s0 s) : Keeps P s0 (State.bbNotify s old) := by
  unfold State.bbNotify
  repeat' (first | with_reducible assumption | split | with_reducible apply State.emit_keeps)

theorem State.syncActive_keeps {P : Prop} {s0 s : State} (hk : Keeps P s0 s) : Keeps P s0 (State.syncActive s) := by
  unfold State.syncActive
  repeat' (first | with_reducible assumption | dsimp only | split | with_reducible apply State.modPkg_keeps
                 | with_reducible apply State.bbNotify_keeps)


/-! ### Machine/Flags.lean -/

theorem State.accFlag_keeps {P : Prop} {s0 s : State} {p i n : Nat} (hk : Keeps P s0 s) : Keeps P s0 (State.accFlag s p i n) := by
  unfold State.accFlag
  repeat' (first | with_reducible assumption | dsimp only | split | with_reducible apply State.modTileP_keeps
                 | with_reducible apply State.event_keeps | (intro _)
                 | (refine (?_ : Tile.memOk _ = true); simp_all [Tile.memOk]; done))

theorem State.vecFlag_keeps {P : Prop} {s0 s : State} {p i n : Nat} (hk : Keeps P s0 s) : Keeps P s0 (State.vecFlag s p i n) := by
  unfold State.vecFlag
  repeat' (first | with_reducible assumption | dsimp only | split | with_reducible apply State.modTileP_keeps
                 | with_reducible apply State.event_keeps | (intro _)
                 | (refine (?_ : Tile.memOk _ = true); simp_all [Tile.memOk]; done))

theorem State.stepHealth_keeps {P : Prop} {s0 s : State} {c n : Nat} (hk : Keeps P s0 s) :
    Keeps P s0 (State.stepHealth s c n) := by
  unfold State.stepHealth
  repeat' (first | with_reducible assumption | split | with_reducible apply State.modCtx_keeps)

theorem State.opEvents_keeps {P : Prop} {s0 s : State} {o : Op} {p : Nat} {e : Ev} (hk : Keeps P s0 s) :
    Keeps P s0 (State.opEvents s o p e) := by
  unfold State.opEvents
  repeat' (first | with_reducible assumption | split | with_reducible apply State.modOp_keeps
                 | with_reducible apply State.accFlag_keeps | with_reducible apply State.vecFlag_keeps
                 | with_reducible apply State.stepHealth_keeps)


/-! ### Machine/Telem.lean -/

theorem State.gaugeSample_keeps {P : Prop} {s0 s : State} {id obj : Nat} {v : BitVec 64} (hk : Keeps P s0 s) :
    Keeps P s0 (State.gaugeSample s id obj v) := by
  unfold State.gaugeSample
  repeat' (first | with_reducible assumption | exact (rfl : (_ : Nat) = _) | dsimp only | (intro _)
                 | (simp only [Keeps.mk_eq]; with_reducible apply KeepsMk.intro))

theorem State.formTo_keeps {P : Prop} {s0 s : State} {slot : Nat} {r : TelemRec} (hk : Keeps P s0 s) :
    Keeps P s0 (State.formTo s slot r) := by
  unfold State.formTo
  repeat' (first | with_reducible assumption | exact (rfl : (_ : Nat) = _) | dsimp only | split | (intro _)
                 | (simp only [Keeps.mk_eq]; with_reducible apply KeepsMk.intro))

theorem State.formAll_keeps {P : Prop} {s0 s : State} {kindBit : Nat} {r : TelemRec} (hk : Keeps P s0 s) :
    Keeps P s0 (State.formAll s kindBit r) := by
  unfold State.formAll
  repeat' (first | with_reducible assumption | with_reducible apply State.formTo_keeps | with_reducible apply Keeps.foldl
                 | (intro _))


/-! ### Machine/Complete.lean -/

theorem State.touchQueue_keeps {P : Prop} {s0 s : State} {o : Op} (hk : Keeps P s0 s) : Keeps P s0 (State.touchQueue s o) := by
  unfold State.touchQueue
  repeat' (first | with_reducible assumption | split | with_reducible apply State.modTileL_keeps | (intro _)
                 | (refine (?_ : Tile.memOk _ = true); simp_all [Tile.memOk]; done))

theorem State.unparkQueue_keeps {P : Prop} {s0 s : State} {o : Op} (hk : Keeps P s0 s) : Keeps P s0 (State.unparkQueue s o) := by
  unfold State.unparkQueue
  repeat' (first | with_reducible assumption | split | with_reducible apply State.modTileL_keeps | (intro _)
                 | (refine (?_ : Tile.memOk _ = true); simp_all [Tile.memOk]; done))

theorem State.refreshHeads_keeps {P : Prop} {s0 s : State} (hk : Keeps P s0 s) : Keeps P s0 (State.refreshHeads s) := by
  unfold State.refreshHeads
  repeat' (first | with_reducible assumption | exact (rfl : (_ : Nat) = _) | dsimp only | (intro _)
                 | (simp only [Keeps.mk_eq]; with_reducible apply KeepsMk.intro))

theorem State.leave_keeps {P : Prop} {s0 s : State} {o : Op} {f : Op → Op} (hk : Keeps P s0 s) :
    Keeps P s0 (State.leave s o f) := by
  unfold State.leave
  repeat' (first | with_reducible assumption | with_reducible apply State.modOp_keeps
                 | with_reducible apply State.touchQueue_keeps | with_reducible apply State.refreshHeads_keeps)

theorem State.touchDropped_keeps {P : Prop} {s0 : State} {s old : State} (hk : Keeps P s0 s) :
    Keeps P s0 (State.touchDropped s old) := by
  unfold State.touchDropped
  repeat' (first | with_reducible assumption | with_reducible apply State.touchQueue_keeps
                 | with_reducible apply State.refreshHeads_keeps | with_reducible apply Keeps.foldl)

theorem State.discard_keeps {P : Prop} {s0 s : State} {p : Op → Bool} (hk : Keeps P s0 s) : Keeps P s0 (State.discard s p) := by
  unfold State.discard
  repeat' (first | with_reducible assumption | with_reducible apply State.dropOps_keeps
                 | with_reducible apply State.touchDropped_keeps)

theorem State.faultCh_keeps {P : Prop} {s0 s : State} {h : W32} {cause : Cause} {index : W32} {keepQueued : Bool} (hk : Keeps P s0 s) :
    Keeps P s0 (State.faultCh s h cause index keepQueued) := by
  unfold State.faultCh
  repeat' (first | with_reducible assumption | with_reducible apply State.faultChan_keeps
                 | with_reducible apply State.touchDropped_keeps)

theorem State.fireWatches_keeps {P : Prop} {s0 s : State} {b k : Nat} (hk : Keeps P s0 s) :
    Keeps P s0 (State.fireWatches s b k) := by
  unfold State.fireWatches
  repeat' (first | with_reducible assumption | exact (rfl : (_ : Nat) = _) | dsimp only | (intro _)
                 | (simp only [Keeps.mk_eq]; with_reducible apply KeepsMk.intro))

theorem State.store_keeps {P : Prop} {s0 s : State} {c a : Nat} {bs : List Byte} (hk : Keeps P s0 s) :
    Keeps P s0 (State.store s c a bs) := by
  unfold State.store
  repeat' (first | with_reducible assumption | with_reducible apply State.tierWrite_keeps
                 | with_reducible apply State.fireWatches_keeps | with_reducible apply Keeps.foldl | (intro _))

theorem State.writeRecord_keeps {P : Prop} {s0 s : State} {o : Op} (hk : Keeps P s0 s) : Keeps P s0 (State.writeRecord s o) := by
  unfold State.writeRecord
  repeat' (first | with_reducible assumption | exact (rfl : (_ : Nat) = _) | dsimp only | split
                 | with_reducible apply State.setChan_keeps | with_reducible apply State.store_keeps | (intro _)
                 | (simp only [Keeps.mk_eq]; with_reducible apply KeepsMk.intro))

theorem State.releaseHeld_keeps {P : Prop} {s0 : State} {h : W32} : ∀ (n : Nat) {s : State}, Keeps P s0 s → Keeps P s0 (State.releaseHeld h n s)
  | 0, _, hk => hk
  | n + 1, s, hk => by
    unfold State.releaseHeld
    repeat' (first | with_reducible assumption | split | with_reducible apply State.writeRecord_keeps
                   | with_reducible apply State.releaseHeld_keeps)

theorem State.countKept_keeps {P : Prop} {s0 s : State} {o : Op} (hk : Keeps P s0 s) : Keeps P s0 (State.countKept s o) := by
  unfold State.countKept
  repeat' (first | with_reducible assumption | split | with_reducible apply State.modCtx_keeps)

theorem State.spoil_keeps {P : Prop} {s0 s : State} {o : Op} (hk : Keeps P s0 s) : Keeps P s0 (State.spoil s o) := by
  unfold State.spoil
  repeat' (first | with_reducible assumption | exact id | dsimp only | split | with_reducible apply State.modTileL_keeps
                 | with_reducible apply State.use_keeps | (intro _))

theorem State.noteScope_keeps {P : Prop} {s0 s : State} {o : Op} (hk : Keeps P s0 s) : Keeps P s0 (State.noteScope s o) := by
  unfold State.noteScope
  repeat' (first | with_reducible assumption | exact (rfl : (_ : Nat) = _) | dsimp only | split | (intro _)
                 | (simp only [Keeps.mk_eq]; with_reducible apply KeepsMk.intro))

theorem State.sampleOp_keeps {P : Prop} {s0 s : State} {o : Op} (hk : Keeps P s0 s) : Keeps P s0 (State.sampleOp s o) := by
  unfold State.sampleOp
  repeat' (first | with_reducible assumption | split | with_reducible apply State.gaugeSample_keeps)

theorem State.passSeq_keeps {P : Prop} {s0 s : State} {o : Op} (hk : Keeps P s0 s) : Keeps P s0 (State.passSeq s o) := by
  unfold State.passSeq
  repeat' (first | with_reducible assumption | split | with_reducible apply State.modCtx_keeps)

theorem State.completeWith_keeps {P : Prop} {s0 s : State} {id : Nat} {signal : Bool} {late : Cause} (hk : Keeps P s0 s) :
    Keeps P s0 (s.completeWith id signal late) := by
  unfold State.completeWith
  split
  · exact hk
  · rename_i o0 _
    extract_lets ran cause o sp s1 s2 s3
    have h0 : Keeps P s0 sp := State.passSeq_keeps hk
    have h1 : Keeps P s0 s1 := by
      refine State.noteScope_keeps (State.spoil_keeps (State.countKept_keeps (State.unparkQueue_keeps (State.leave_keeps ?_))))
      simp only [Keeps.mk_eq]
      exact KeepsMk.intro h0 (fun h => h) (fun h => h) (fun h => h) (fun h => h) (fun h => h) (fun _ => rfl) (fun _ => rfl)
    have h2 : Keeps P s0 s2 := by
      unfold s2
      split
      · split
        · exact KeepsMk.intro h1 (fun h => h) (fun h => h) (fun h => h) (fun h => h) (fun h => h) (fun _ => rfl) (fun _ => rfl)
        · exact h1
      · exact h1
    have h3 : Keeps P s0 s3 := by
      refine State.sampleOp_keeps ?_
      split
      · exact h2
      · exact State.faultCh_keeps h2
    split
    · split
      · exact State.writeRecord_keeps h3
      · exact h3
    · exact h3

theorem State.completeOp_keeps {P : Prop} {s0 s : State} {id : Nat} {signal : Bool} (hk : Keeps P s0 s) :
    Keeps P s0 (State.completeOp s id signal) := by
  unfold State.completeOp
  repeat' (first | with_reducible assumption | with_reducible apply State.completeWith_keeps)

theorem State.failOp_keeps {P : Prop} {s0 s : State} {id : Nat} {cause : Cause} (hk : Keeps P s0 s) :
    Keeps P s0 (State.failOp s id cause) := by
  unfold State.failOp
  repeat' (first | with_reducible assumption | with_reducible apply State.modOp_keeps
                 | with_reducible apply State.completeOp_keeps)

theorem State.failOps_keeps {P : Prop} {s0 s : State} {p : Op → Bool} {cause : Cause} (hk : Keeps P s0 s) :
    Keeps P s0 (State.failOps s p cause) := by
  unfold State.failOps
  repeat' (first | with_reducible assumption | with_reducible apply State.failOp_keeps | with_reducible apply Keeps.foldl
                 | (intro _))


/-! ### Machine/Aidar.lean -/

theorem State.finishReq_keeps {P : Prop} {s0 s : State} {n : Nat} {r : Req} {st : BitVec 16} {code : BitVec 8} {body : BitVec 3456} {len : Nat} {fin : Bool} (hk : Keeps P s0 s) :
    Keeps P s0 (State.finishReq s n r st code body len fin) := by
  unfold State.finishReq
  repeat' (first | with_reducible assumption | exact (rfl : (_ : Nat) = _) | dsimp only | split
                 | with_reducible apply State.modSess_keeps | with_reducible apply State.flush_keeps | (intro _)
                 | (simp only [Keeps.mk_eq]; with_reducible apply KeepsMk.intro))

theorem State.answer_keeps {P : Prop} {s0 s : State} {n : Nat} {r : Req} {o : CmdOut} (hk : Keeps P s0 s) (ho : KeepsOut P s0 o) :
    Keeps P s0 (s.answer n r o) := by
  unfold State.answer
  cases o with
  | refuse st c => exact State.finishReq_keeps hk
  | done t st b l => exact State.finishReq_keeps ho
  | wait t => exact State.modSess_keeps ho

theorem State.runReq_keeps {P : Prop} {s0 s : State} {n : Nat} {seq : W32} {opcode : Nat} {sel : Req → Bool} {core : Sess → Req → CmdOut} (hk : Keeps P s0 s) (hc : ∀ x r, KeepsOut P s0 (core x r)) :
    Keeps P s0 (State.runReq s n seq opcode sel core) := by
  unfold State.runReq
  repeat' (first | with_reducible assumption | split | with_reducible apply State.answer_keeps
                 | with_reducible apply KeepsOut.checked | exact hc _ _ | with_reducible apply KeepsOut.checked)

theorem State.runThen_keeps {P : Prop} {s0 s : State} {n : Nat} {seq : W32} {opcode : Nat} {core : Sess → Req → CmdOut}
    {after : Req → State → State} (hk : Keeps P s0 s) (hc : ∀ x r, KeepsOut P s0 (core x r)) (ha : ∀ r t, Keeps P s0 t → Keeps P s0 (after r t)) :
    Keeps P s0 (s.runThen n seq opcode core after) := by
  have ht : Keeps P s0 (s.runReq n seq opcode (fun _ => true) core) := State.runReq_keeps hk hc
  unfold State.runThen
  dsimp only
  split
  · exact ht
  · split
    · exact ha _ _ ht
    · exact ht

theorem aidar_keeps {P : Prop} {s0 : State} {n : Fin 64} {seq : W32} {opcode : Nat} {s : State} {core : Sess → Req → CmdOut} (hk : Keeps P s0 s) (hc : ∀ x r, KeepsOut P s0 (core x r)) :
    KeepsAns P s0 (aidar n seq opcode s core) := by
  unfold aidar
  repeat' (first | with_reducible assumption | with_reducible apply State.runReq_keeps | with_reducible apply KeepsAns.next)

theorem State.resolveCode_keeps {P : Prop} {s0 s : State} {p : Req → Bool} {st : BitVec 16} {code : Nat} {body : BitVec 3456} {len : Nat} (hk : Keeps P s0 s) :
    Keeps P s0 (State.resolveCode s p st code body len) := by
  unfold State.resolveCode
  repeat' (first | with_reducible assumption | exact (rfl : (_ : Nat) = _) | dsimp only | (intro _)
                 | (simp only [Keeps.mk_eq]; with_reducible apply KeepsMk.intro))

theorem State.resolve_keeps {P : Prop} {s0 s : State} {p : Req → Bool} {st : Status} {code : Nat} {body : BitVec 3456} {len : Nat} (hk : Keeps P s0 s) :
    Keeps P s0 (State.resolve s p st code body len) := by
  unfold State.resolve
  repeat' (first | with_reducible assumption | with_reducible apply State.resolveCode_keeps)


/-! ### Machine/Health.lean -/

theorem State.modHealth_keeps {P : Prop} {s0 s : State} {id : Nat} {f : HealthRec → HealthRec} (hk : Keeps P s0 s) :
    Keeps P s0 (State.modHealth s id f) := by
  unfold State.modHealth
  repeat' (first | with_reducible assumption | exact (rfl : (_ : Nat) = _) | dsimp only | (intro _)
                 | (simp only [Keeps.mk_eq]; with_reducible apply KeepsMk.intro)
                 | (refine (?_ : (_ : Nat) = _); simp; assumption))

theorem State.modRepair_keeps {P : Prop} {s0 s : State} {f : Repair → Repair} (hk : Keeps P s0 s) :
    Keeps P s0 (State.modRepair s f) := by
  unfold State.modRepair
  repeat' (first | with_reducible assumption | with_reducible apply State.modPkg_keeps
                 | (refine (?_ : (_ : Nat) = _); simp; assumption))

theorem State.saveBinding_keeps {P : Prop} {s0 s : State} (hk : Keeps P s0 s) : Keeps P s0 (State.saveBinding s) := by
  unfold State.saveBinding
  repeat' (first | with_reducible assumption | with_reducible apply State.modRepair_keeps
                 | (refine (?_ : (_ : Nat) = _); simp; assumption))

theorem State.persistHealth_keeps {P : Prop} {s0 s : State} (hk : Keeps P s0 s) : Keeps P s0 (State.persistHealth s) := by
  unfold State.persistHealth
  repeat' (first | with_reducible assumption | with_reducible apply State.modRepair_keeps
                 | (refine (?_ : (_ : Nat) = _); simp; assumption))

theorem State.enterHealth_keeps {P : Prop} {s0 s : State} {id : Nat} {st : HealthSt} {cause : HealthCause} (hk : Keeps P s0 s) :
    Keeps P s0 (State.enterHealth s id st cause) := by
  unfold State.enterHealth
  repeat' (first | with_reducible assumption | exact (rfl : (_ : Nat) = _) | dsimp only | split
                 | with_reducible apply State.event_keeps | with_reducible apply State.formAll_keeps
                 | with_reducible apply State.modHealth_keeps | with_reducible apply State.persistHealth_keeps | (intro _)
                 | (simp only [Keeps.mk_eq]; with_reducible apply KeepsMk.intro)
                 | (refine (?_ : (_ : Nat) = _); simp; assumption))

theorem State.addScore_keeps {P : Prop} {s0 s : State} {id : Nat} {weight : Rat} (hk : Keeps P s0 s) :
    Keeps P s0 (State.addScore s id weight) := by
  unfold State.addScore
  repeat' (first | with_reducible assumption | dsimp only | split | with_reducible apply State.modHealth_keeps
                 | with_reducible apply State.enterHealth_keeps | (refine (?_ : (_ : Nat) = _); simp; assumption))

theorem State.directHealth_keeps {P : Prop} {s0 s : State} {id : Nat} {st : HealthSt} {cause : HealthCause} (hk : Keeps P s0 s) :
    Keeps P s0 (State.directHealth s id st cause) := by
  unfold State.directHealth
  repeat' (first | with_reducible assumption | dsimp only | split | with_reducible apply State.modHealth_keeps
                 | with_reducible apply State.enterHealth_keeps | (refine (?_ : (_ : Nat) = _); simp; assumption))

theorem State.marginWatch_keeps {P : Prop} {s0 s : State} {id : Nat} (hk : Keeps P s0 s) :
    Keeps P s0 (State.marginWatch s id) := by
  unfold State.marginWatch
  repeat' (first | with_reducible assumption | dsimp only | split | with_reducible apply State.modHealth_keeps
                 | with_reducible apply State.enterHealth_keeps | (refine (?_ : (_ : Nat) = _); simp; assumption))

theorem State.repairedHealth_keeps {P : Prop} {s0 s : State} {id : Nat} (hk : Keeps P s0 s) :
    Keeps P s0 (State.repairedHealth s id) := by
  unfold State.repairedHealth
  repeat' (first | with_reducible assumption | split | with_reducible apply State.enterHealth_keeps
                 | (refine (?_ : (_ : Nat) = _); simp; assumption))

theorem State.decayOne_keeps {P : Prop} {s0 s : State} {id : Nat} (hk : Keeps P s0 s) : Keeps P s0 (State.decayOne s id) := by
  unfold State.decayOne
  repeat' (first | with_reducible assumption | dsimp only | split | with_reducible apply State.modHealth_keeps
                 | with_reducible apply State.enterHealth_keeps | (refine (?_ : (_ : Nat) = _); simp; assumption))


/-! ### Machine/Addr.lean -/

theorem State.writeAt_keeps {P : Prop} {s0 s : State} {c a : Nat} {bs : List Byte} (hk : Keeps P s0 s) :
    Keeps P s0 (State.writeAt s c a bs) := by
  unfold State.writeAt
  repeat' (first | with_reducible assumption | split | with_reducible apply State.modTileL_keeps
                 | with_reducible apply State.store_keeps | (intro _)
                 | with_reducible exact Tile.writeBytes_memOk (by assumption) _ _)

theorem State.poisonWrite_keeps {P : Prop} {s0 s : State} {c a k : Nat} (hk : Keeps P s0 s) :
    Keeps P s0 (State.poisonWrite s c a k) := by
  unfold State.poisonWrite
  repeat' (first | with_reducible assumption | exact id | split | with_reducible apply State.modTileL_keeps
                 | with_reducible apply State.tierPoisonAt_keeps | (intro _))

theorem State.lcLines_keeps {P : Prop} {s0 s : State} {ls : List Nat} (hk : Keeps P s0 s) : Keeps P s0 (State.lcLines s ls) := by
  unfold State.lcLines
  repeat' (first | with_reducible assumption | split | with_reducible apply State.modDev_keeps | with_reducible apply Keeps.foldl
                 | (intro _))

theorem State.lcRead_keeps {P : Prop} {s0 s : State} {c a k : Nat} (hk : Keeps P s0 s) : Keeps P s0 (State.lcRead s c a k) := by
  unfold State.lcRead
  repeat' (first | with_reducible assumption | with_reducible apply State.lcLines_keeps)

theorem State.noteRead_keeps {P : Prop} {s0 s : State} {c a k : Nat} (hk : Keeps P s0 s) :
    Keeps P s0 (State.noteRead s c a k) := by
  unfold State.noteRead
  repeat' (first | with_reducible assumption | with_reducible apply State.countPoison_keeps)


/-! ### Machine/Spare.lean -/

theorem State.startSparing_keeps {P : Prop} {s0 s : State} {src : Nat} {tile target : Option Nat} {warm atClose : Bool} (hk : Keeps P s0 s) :
    KeepsOpt P s0 (s.startSparing src tile target warm atClose) := by
  unfold State.startSparing
  dsimp only
  split
  · exact KeepsOpt.some (State.modPkg_keeps hk)
  · split
    · exact KeepsOpt.none
    · exact KeepsOpt.map (fun d => State.modPkg_keeps hk)


/-! ### Machine/Net.lean -/

theorem State.sendFrame_keeps {P : Prop} {s0 s : State} {j : Nat} {slots : List (BitVec 512)} {seq abort lane laneOp : Nat} (hk : Keeps P s0 s) :
    Keeps P s0 (State.sendFrame s j slots seq abort lane laneOp) := by
  unfold State.sendFrame
  repeat' (first | with_reducible assumption | with_reducible apply State.modPort_keeps | with_reducible apply State.emit_keeps)

theorem State.sendAgain_keeps {P : Prop} {s0 s : State} {j : Nat} {f : TxFrame} (hk : Keeps P s0 s) :
    Keeps P s0 (State.sendAgain s j f) := by
  unfold State.sendAgain
  repeat' (first | with_reducible assumption | with_reducible apply State.modPort_keeps | with_reducible apply State.emit_keeps)

theorem State.sendEmpty_keeps {P : Prop} {s0 s : State} {j : Nat} (hk : Keeps P s0 s) : Keeps P s0 (State.sendEmpty s j) := by
  unfold State.sendEmpty
  repeat' (first | with_reducible assumption | with_reducible apply State.sendFrame_keeps)

theorem State.modFlow_keeps {P : Prop} {s0 s : State} {j v : Nat} {f : Flow → Flow} (hk : Keeps P s0 s) :
    Keeps P s0 (State.modFlow s j v f) := by
  unfold State.modFlow
  repeat' (first | with_reducible assumption | with_reducible apply State.modPort_keeps)

theorem State.dropAt_keeps {P : Prop} {s0 s : State} {j v : Nat} (hk : Keeps P s0 s) : Keeps P s0 (State.dropAt s j v) := by
  unfold State.dropAt
  repeat' (first | with_reducible assumption | with_reducible apply State.modFlow_keeps)

theorem State.transmit_keeps {P : Prop} {s0 s : State} {j : Nat} {p : Packet} (hk : Keeps P s0 s) :
    Keeps P s0 (State.transmit s j p) := by
  unfold State.transmit
  repeat' (first | with_reducible assumption | with_reducible apply State.modPort_keeps
                 | with_reducible apply State.sendFrame_keeps | with_reducible apply State.modFlow_keeps
                 | with_reducible apply Keeps.foldl | (intro _))

theorem pumpLoop_keeps {P : Prop} {s0 : State} {j : Nat} : ∀ (n : Nat) {q kept : List Packet} {s : State}, Keeps P s0 s → Keeps P s0 (pumpLoop j n q kept s).2
  | 0, _, _, _, hk => hk
  | n + 1, q, kept, s, hk => by
    unfold pumpLoop
    split
    · exact hk
    · split
      · exact pumpLoop_keeps n (State.dropAt_keeps hk)
      · split
        · exact pumpLoop_keeps n (State.transmit_keeps hk)
        · exact pumpLoop_keeps n hk

theorem State.pump_keeps {P : Prop} {s0 s : State} {j : Nat} (hk : Keeps P s0 s) : Keeps P s0 (State.pump s j) := by
  unfold State.pump
  repeat' (first | with_reducible assumption | with_reducible apply State.modPort_keeps | with_reducible apply pumpLoop_keeps)

theorem State.sealAt_keeps {P : Prop} {s0 s : State} {j : Nat} {key : BitVec 256} {q : Packet} (hk : Keeps P s0 s) :
    Keeps P s0 (s.sealAt j key q).2 := KeepsMk.intro hk id id id id id (fun _ => rfl) (fun _ => rfl)

theorem State.sendBy_keeps {P : Prop} {s0 s : State} {j : Nat} {key : BitVec 256} {p : Packet} (hk : Keeps P s0 s) :
    Keeps P s0 (State.sendBy s j key p) := by
  unfold State.sendBy
  repeat' (first | with_reducible assumption | with_reducible apply State.modPort_keeps | with_reducible apply State.pump_keeps
                 | with_reducible apply State.sealAt_keeps)

theorem State.sendPacket_keeps {P : Prop} {s0 s : State} {c : Nat} {p : Packet} (hk : Keeps P s0 s) :
    Keeps P s0 (State.sendPacket s c p) := by
  unfold State.sendPacket
  repeat' (first | with_reducible assumption | split | with_reducible apply State.sendBy_keeps)

theorem State.sendCtl_keeps {P : Prop} {s0 s : State} {c kind slot : Nat} {dst : BitVec 12} {body : BitVec 256} (hk : Keeps P s0 s) :
    Keeps P s0 (State.sendCtl s c kind slot dst body) := by
  unfold State.sendCtl
  repeat' (first | with_reducible assumption | with_reducible apply State.sendPacket_keeps)

theorem State.sendData_keeps {P : Prop} {s0 s : State} {c kind slot : Nat} {dst : BitVec 12} {gaddr : BitVec 64} {epoch : BitVec 8} {m : BitVec 184} {payload : List (BitVec 512)} (hk : Keeps P s0 s) :
    Keeps P s0 (State.sendData s c kind slot dst gaddr epoch m payload) := by
  unfold State.sendData
  repeat' (first | with_reducible assumption | with_reducible apply State.sendPacket_keeps)

theorem State.sendStrand_keeps {P : Prop} {s0 s : State} {c kind slot : Nat} {a : Axis} {neg : Bool} {dst : BitVec 12} {epoch : BitVec 8} {m : BitVec 184} {payload : List (BitVec 512)} (hk : Keeps P s0 s) :
    Keeps P s0 (State.sendStrand s c kind slot a neg dst epoch m payload) := by
  unfold State.sendStrand
  repeat' (first | with_reducible assumption | split | with_reducible apply State.sendBy_keeps)

theorem State.sendMulti_keeps {P : Prop} {s0 s : State} {c kind slot : Nat} {a : Axis} {neg : Bool} {dst : BitVec 12} {epoch : BitVec 8} {m : BitVec 184} {payload : List (BitVec 512)} (hk : Keeps P s0 s) :
    Keeps P s0 (State.sendMulti s c kind slot a neg dst epoch m payload) := by
  unfold State.sendMulti
  repeat' (first | with_reducible assumption | split | with_reducible apply State.sendBy_keeps)

theorem State.sendHop_keeps {P : Prop} {s0 s : State} {j kind : Nat} {key : BitVec 256} {bits msg : Nat} {body : BitVec 256} (hk : Keeps P s0 s) :
    Keeps P s0 (State.sendHop s j kind key bits msg body) := by
  unfold State.sendHop
  repeat' (first | with_reducible assumption | with_reducible apply State.modPort_keeps | with_reducible apply State.pump_keeps)


/-! ### Machine/Scope.lean -/

theorem State.sendColl_keeps {P : Prop} {s0 s : State} {o : Op} {seq : Nat} {a : Axis} {r strand msg : Nat} {info : Nat} (hk : Keeps P s0 s) :
    Keeps P s0 (State.sendColl s o seq a r strand msg info) := by
  unfold State.sendColl
  repeat' (first | with_reducible assumption | split | with_reducible apply State.sendCtl_keeps)

theorem State.tellRank_keeps {P : Prop} {s0 s : State} {o : Op} {a : Axis} {r msg : Nat} {info : Nat} (hk : Keeps P s0 s) :
    Keeps P s0 (State.tellRank s o a r msg info) := by
  unfold State.tellRank
  repeat' (first | with_reducible assumption | with_reducible apply State.sendColl_keeps)

theorem State.returnCredit_keeps {P : Prop} {s0 s : State} {o : Op} {a : Axis} {r strand : Nat} {gather : Bool} (hk : Keeps P s0 s) :
    Keeps P s0 (State.returnCredit s o a r strand gather) := by
  unfold State.returnCredit
  repeat' (first | with_reducible assumption | with_reducible apply State.sendColl_keeps)

theorem State.creditSlot_keeps {P : Prop} {s0 s : State} {o : Op} {strand : Nat} (hk : Keeps P s0 s) :
    Keeps P s0 (State.creditSlot s o strand) := by
  unfold State.creditSlot
  repeat' (first | with_reducible assumption | split | with_reducible apply State.returnCredit_keeps)

theorem State.emptySlots_keeps {P : Prop} {s0 s : State} {o : Op} (hk : Keeps P s0 s) : Keeps P s0 (State.emptySlots s o) := by
  unfold State.emptySlots
  repeat' (first | with_reducible assumption | split | with_reducible apply State.modOp_keeps
                 | with_reducible apply State.creditSlot_keeps | with_reducible apply Keeps.foldl | (intro _))

theorem State.sendAbort_keeps {P : Prop} {s0 s : State} {o : Op} {axes : List Axis} {cause : Cause} {status : BitVec 16} (hk : Keeps P s0 s) :
    Keeps P s0 (State.sendAbort s o axes cause status) := by
  unfold State.sendAbort
  repeat' (first | with_reducible assumption | with_reducible apply State.tellRank_keeps | with_reducible apply Keeps.foldl
                 | (intro _))

theorem State.failColl_keeps {P : Prop} {s0 s : State} {o : Op} {cause : Cause} {status : BitVec 16} (hk : Keeps P s0 s) :
    Keeps P s0 (State.failColl s o cause status) := by
  unfold State.failColl
  repeat' (first | with_reducible assumption | with_reducible apply State.modOp_keeps | with_reducible apply State.failOp_keeps
                 | with_reducible apply State.emptySlots_keeps | with_reducible apply State.sendAbort_keeps)

theorem State.failAny_keeps {P : Prop} {s0 s : State} {id : Nat} {cause : Cause} (hk : Keeps P s0 s) :
    Keeps P s0 (State.failAny s id cause) := by
  unfold State.failAny
  repeat' (first | with_reducible assumption | split | with_reducible apply State.failOp_keeps
                 | with_reducible apply State.failColl_keeps)

theorem State.partEvt_keeps {P : Prop} {s0 s : State} {i : Nat} {objKind obj : Nat} {ctx : Option Nat} {data : BitVec 3328} (hk : Keeps P s0 s) :
    Keeps P s0 (State.partEvt s i objKind obj ctx data) := by
  unfold State.partEvt
  repeat' (first | with_reducible assumption | exact (rfl : (_ : Nat) = _) | dsimp only | split
                 | with_reducible apply State.event_keeps | (intro _)
                 | (simp only [Keeps.mk_eq]; with_reducible apply KeepsMk.intro))

theorem State.raiseLevees_keeps {P : Prop} {s0 s : State} (hk : Keeps P s0 s) : Keeps P s0 (State.raiseLevees s) := by
  unfold State.raiseLevees
  repeat' (first | with_reducible assumption | exact (rfl : (_ : Nat) = _) | dsimp only | (intro _)
                 | (simp only [Keeps.mk_eq]; with_reducible apply KeepsMk.intro))

theorem State.failWhere_keeps {P : Prop} {s0 s : State} {p : Op → Bool} {cause : Cause} (hk : Keeps P s0 s) :
    Keeps P s0 (State.failWhere s p cause) := by
  unfold State.failWhere
  repeat' (first | with_reducible assumption | with_reducible apply State.failAny_keeps | with_reducible apply Keeps.foldl
                 | (intro _))

theorem State.abortColls_keeps {P : Prop} {s0 s : State} {c : Nat} (hk : Keeps P s0 s) : Keeps P s0 (State.abortColls s c) := by
  unfold State.abortColls
  repeat' (first | with_reducible assumption | with_reducible apply State.failColl_keeps | with_reducible apply Keeps.foldl
                 | (intro _))

theorem State.failTilesOf_keeps {P : Prop} {s0 s : State} {d : Nat} (hk : Keeps P s0 s) : Keeps P s0 (State.failTilesOf s d) := by
  unfold State.failTilesOf
  repeat' (first | with_reducible assumption | with_reducible apply State.failWhere_keeps)

theorem State.holdMgr_keeps {P : Prop} {s0 s : State} {d : Nat} (hk : Keeps P s0 s) : Keeps P s0 (State.holdMgr s d) := by
  unfold State.holdMgr
  repeat' (first | with_reducible assumption | with_reducible apply State.modDie_keeps | with_reducible apply State.modPkg_keeps)

theorem State.fenceCDie_keeps {P : Prop} {s0 s : State} {d : Nat} (hk : Keeps P s0 s) : Keeps P s0 (State.fenceCDie s d) := by
  unfold State.fenceCDie
  repeat' (first | with_reducible assumption | split | with_reducible apply State.modDie_keeps
                 | with_reducible apply State.saveBinding_keeps | with_reducible apply State.failTilesOf_keeps
                 | with_reducible apply State.holdMgr_keeps)

theorem State.scopeEvents_keeps {P : Prop} {s0 s : State} {f : ScopeFault} {cs : List Nat} {fallback : Bool} (hk : Keeps P s0 s) :
    Keeps P s0 (State.scopeEvents s f cs fallback) := by
  unfold State.scopeEvents
  repeat' (first | with_reducible assumption | with_reducible apply State.event_keeps | with_reducible apply State.partEvt_keeps
                 | with_reducible apply Keeps.foldl | (intro _) | with_reducible exact Tile.bind_memOk (by assumption) _ _)

theorem State.replayDie_keeps {P : Prop} {s0 s : State} {d : Nat} (hk : Keeps P s0 s) : Keeps P s0 (s.replayDie d).1 := by
  have h1 : Keeps P s0 (s.fenceCDie d) := State.fenceCDie_keeps hk
  unfold State.replayDie
  dsimp only
  split
  · rename_i e; exact State.startSparing_keeps h1 _ e
  · exact h1

theorem State.actOn_keeps {P : Prop} {s0 s : State} {f : ScopeFault} {cs : List Nat} {replay : Bool} (hk : Keeps P s0 s) :
    Keeps P s0 (State.actOn s f cs replay) := by
  unfold State.actOn
  repeat' (first | with_reducible assumption | split | with_reducible apply State.modCtx_keeps
                 | with_reducible apply State.partEvt_keeps | with_reducible apply State.raiseLevees_keeps
                 | with_reducible apply State.failWhere_keeps | with_reducible apply State.abortColls_keeps
                 | with_reducible apply State.scopeEvents_keeps | with_reducible apply State.replayDie_keeps
                 | with_reducible apply Keeps.foldl | (intro _))

theorem State.applyScope_keeps {P : Prop} {s0 s : State} {f : ScopeFault} (hk : Keeps P s0 s) :
    Keeps P s0 (State.applyScope s f) := by
  unfold State.applyScope
  dsimp only
  split
  · split
    · exact KeepsOpt.getD (State.startSparing_keeps hk) hk
    · exact hk
  · exact hk
  · split
    · exact hk
    · exact State.actOn_keeps hk
  · exact State.actOn_keeps hk

theorem State.settle_keeps {P : Prop} {s0 s : State} (hk : Keeps P s0 s) : Keeps P s0 (State.settle s) := by
  unfold State.settle
  repeat' (first | with_reducible assumption | exact (rfl : (_ : Nat) = _) | dsimp only
                 | with_reducible apply State.applyScope_keeps | with_reducible apply Keeps.foldl | (intro _)
                 | (simp only [Keeps.mk_eq]; with_reducible apply KeepsMk.intro))


/-! ### Machine/Memory.lean -/

theorem State.countCheck_keeps {P : Prop} {s0 s : State} {d line : Nat} {o : EccOutcome} (hk : Keeps P s0 s) :
    Keeps P s0 (State.countCheck s d line o) := by
  unfold State.countCheck
  repeat' (first | with_reducible assumption | split | with_reducible apply State.modDev_keeps
                 | with_reducible apply State.addScore_keeps | (refine (?_ : (_ : Nat) = _); simp; done))

theorem State.checkLine_keeps {P : Prop} {s0 s : State} {line : Nat} {o : EccOutcome} (hk : Keeps P s0 s) :
    Keeps P s0 (State.checkLine s line o) := by
  unfold State.checkLine
  repeat' (first | with_reducible assumption | exact (rfl : (_ : Nat) = _) | dsimp only | split
                 | with_reducible apply State.modDev_keeps | with_reducible apply State.countCheck_keeps | (intro _)
                 | (simp only [Keeps.mk_eq]; with_reducible apply KeepsMk.intro) | (refine (?_ : (_ : Nat) = _); simp; done))

theorem State.recordRepairs_keeps {P : Prop} {s0 s : State} {d : Nat} (hk : Keeps P s0 s) :
    Keeps P s0 (State.recordRepairs s d) := by
  unfold State.recordRepairs
  repeat' (first | with_reducible assumption | with_reducible apply State.modRepair_keeps
                 | (refine (?_ : (_ : Nat) = _); simp; done))

theorem State.softRepair_keeps {P : Prop} {s0 s : State} {d : Nat} {r : Nat × Nat × Nat} {lines : List Nat} (hk : Keeps P s0 s) :
    Keeps P s0 (State.softRepair s d r lines) := by
  unfold State.softRepair
  repeat' (first | with_reducible assumption | with_reducible apply State.modDev_keeps | with_reducible apply State.event_keeps
                 | with_reducible apply State.recordRepairs_keeps | (refine (?_ : (_ : Nat) = _); simp; done))


/-! ### Machine/Package.lean -/

theorem State.freeFrames_keeps {P : Prop} {s0 s : State} {h : W32} (hk : Keeps P s0 s) : Keeps P s0 (State.freeFrames s h) := by
  unfold State.freeFrames
  repeat' (first | with_reducible assumption | exact (rfl : (_ : Nat) = _) | dsimp only
                 | with_reducible apply State.recordRepairs_keeps | with_reducible apply Keeps.foldl | (intro _)
                 | (simp only [Keeps.mk_eq]; with_reducible apply KeepsMk.intro)
                 | (refine (?_ : (_ : Nat) = _); simp; assumption))

theorem State.retireObj_keeps {P : Prop} {s0 s : State} {h : W32} (hk : Keeps P s0 s) : Keeps P s0 (State.retireObj s h) := by
  unfold State.retireObj
  repeat' (first | with_reducible assumption | with_reducible apply State.retire_keeps
                 | with_reducible apply State.freeFrames_keeps)

theorem State.destroyCtx_keeps {P : Prop} {s0 s : State} {c : Nat} (hk : Keeps P s0 s) : Keeps P s0 (State.destroyCtx s c) := by
  unfold State.destroyCtx
  repeat' (first | with_reducible assumption | exact (rfl : (_ : Nat) = _) | dsimp only | split
                 | with_reducible apply State.modTileL_keeps | with_reducible apply State.modCtx_keeps
                 | with_reducible apply State.syncActive_keeps | with_reducible apply State.discard_keeps
                 | with_reducible apply State.resolve_keeps | with_reducible apply State.retireObj_keeps
                 | with_reducible apply Keeps.foldl | (intro _) | (simp only [Keeps.mk_eq]; with_reducible apply KeepsMk.intro)
                 | (refine (?_ : (_ : Nat) = _); simp; assumption) | with_reducible exact Tile.clear_memOk _)

theorem State.endDebug_keeps {P : Prop} {s0 s : State} (hk : Keeps P s0 s) : Keeps P s0 (State.endDebug s) := by
  unfold State.endDebug
  repeat' (first | with_reducible assumption | exact (rfl : (_ : Nat) = _) | dsimp only
                 | with_reducible apply State.destroyCtx_keeps | with_reducible apply Keeps.foldl | (intro _)
                 | (simp only [Keeps.mk_eq]; with_reducible apply KeepsMk.intro))

theorem State.endSession_keeps {P : Prop} {s0 s : State} {n : Nat} (hk : Keeps P s0 s) : Keeps P s0 (State.endSession s n) := by
  unfold State.endSession
  repeat' (first | with_reducible assumption | exact (rfl : (_ : Nat) = _) | dsimp only | split
                 | with_reducible apply State.modSess_keeps | with_reducible apply State.endDebug_keeps | (intro _)
                 | (simp only [Keeps.mk_eq]; with_reducible apply KeepsMk.intro))


/-! ### Machine/Baseboard.lean -/

theorem State.modBb_keeps {P : Prop} {s0 s : State} {f : Bb → Bb} (hk : Keeps P s0 s) : Keeps P s0 (State.modBb s f) := by
  unfold State.modBb
  repeat' (first | with_reducible assumption | exact (rfl : (_ : Nat) = _) | dsimp only | (intro _)
                 | (simp only [Keeps.mk_eq]; with_reducible apply KeepsMk.intro))


/-! ### Machine/Sync.lean -/

theorem State.noteEntry_keeps {P : Prop} {s0 s : State} {c id : Nat} (hk : Keeps P s0 s) :
    Keeps P s0 (State.noteEntry s c id) := by
  unfold State.noteEntry
  repeat' (first | with_reducible assumption | exact (rfl : (_ : Int) = _) | dsimp only | split
                 | with_reducible apply State.noteRead_keeps | (refine (?_ : (_ : Nat) = _); simp; assumption))

theorem State.grant_keeps {P : Prop} {s0 s : State} {op : Nat} (hk : Keeps P s0 s) : Keeps P s0 (State.grant s op) := by
  unfold State.grant
  repeat' (first | with_reducible assumption | exact (rfl : (_ : Int) = _) | dsimp only | with_reducible apply State.modOp_keeps
                 | (refine (?_ : (_ : Nat) = _); simp; assumption))

theorem State.serveCell_keeps {P : Prop} {s0 s : State} {home c id : Nat} (hk : Keeps P s0 s) :
    Keeps P s0 (State.serveCell s home c id) := by
  unfold State.serveCell
  repeat' (first | with_reducible assumption | exact (rfl : (_ : Int) = _) | dsimp only | split
                 | with_reducible apply State.modTileL_keeps | with_reducible apply State.grant_keeps
                 | with_reducible apply Keeps.foldl | (intro _) | (refine (?_ : (_ : Nat) = _); simp; assumption)
                 | with_reducible exact Tile.modCell_memOk (by assumption) _ _ _)

theorem State.serveLocal_keeps {P : Prop} {s0 : State} {r l : Nat} : ∀ (n : Nat) {s : State}, Keeps P s0 s → Keeps P s0 (State.serveLocal r l n s)
  | 0, _, hk => hk
  | n + 1, s, hk => by
    unfold State.serveLocal
    repeat' (first | with_reducible assumption | exact (rfl : (_ : Int) = _) | dsimp only | split
                   | with_reducible apply State.modTileL_keeps | with_reducible apply State.grant_keeps
                   | with_reducible apply State.serveLocal_keeps | (intro _) | (refine (?_ : (_ : Nat) = _); simp; assumption)
                   | (refine (?_ : Tile.memOk _ = true); simp_all [Tile.memOk]; done) | (refine Keeps.getD_map ?_ ?_))

theorem State.useCell_keeps {P : Prop} {s0 s : State} {home c id : Nat} (hk : Keeps P s0 s) :
    Keeps P s0 (State.useCell s home c id) := by
  unfold State.useCell
  repeat' (first | with_reducible assumption | exact (rfl : (_ : Nat) = _) | exact (rfl : (_ : Int) = _) | dsimp only
                 | with_reducible apply State.modTileL_keeps | (intro _)
                 | (simp only [Keeps.mk_eq]; with_reducible apply KeepsMk.intro) | (refine (?_ : (_ : Nat) = _); simp; assumption)
                 | with_reducible exact Tile.modCell_memOk (by assumption) _ _ _)

theorem State.writeBack_keeps {P : Prop} {s0 s : State} {x : Cell} (hk : Keeps P s0 s) : Keeps P s0 (State.writeBack s x) := by
  unfold State.writeBack
  repeat' (first | with_reducible assumption | exact (rfl : (_ : Int) = _) | dsimp only | split
                 | with_reducible apply State.store_keeps | (refine (?_ : (_ : Nat) = _); simp; assumption))

theorem State.allocate_keeps {P : Prop} {s0 s : State} {home c id : Nat} {e : SyncEntry} (hk : Keeps P s0 s) :
    Keeps P s0 (State.allocate s home c id e) := by
  unfold State.allocate
  repeat' (first | with_reducible assumption | exact (rfl : (_ : Int) = _) | dsimp only | split
                 | with_reducible apply State.modTileL_keeps | with_reducible apply State.writeBack_keeps | (intro _)
                 | (refine (?_ : (_ : Nat) = _); simp; assumption)
                 | (refine (?_ : Tile.memOk _ = true); simp_all [Tile.memOk]; done))

theorem State.waitHome_keeps {P : Prop} {s0 s : State} {o : Op} {id home : Nat} (hk : Keeps P s0 s) :
    Keeps P s0 (State.waitHome s o id home) := by
  unfold State.waitHome
  repeat' (first | with_reducible assumption | exact (rfl : (_ : Nat) = _) | exact (rfl : (_ : Int) = _) | dsimp only | split
                 | with_reducible apply State.modTileL_keeps | with_reducible apply State.modOp_keeps
                 | with_reducible apply State.use_keeps | with_reducible apply State.grant_keeps
                 | with_reducible apply State.useCell_keeps | (intro _)
                 | (simp only [Keeps.mk_eq]; with_reducible apply KeepsMk.intro) | (refine (?_ : (_ : Nat) = _); simp; assumption)
                 | with_reducible exact Tile.modCell_memOk (by assumption) _ _ _)

theorem State.requestWait_keeps {P : Prop} {s0 s : State} {o : Op} (hk : Keeps P s0 s) : Keeps P s0 (State.requestWait s o) := by
  unfold State.requestWait
  repeat' (first | with_reducible assumption | exact (rfl : (_ : Nat) = _) | exact (rfl : (_ : Int) = _) | dsimp only | split
                 | with_reducible apply State.modTileL_keeps | with_reducible apply State.modOp_keeps
                 | with_reducible apply State.use_keeps | with_reducible apply State.grant_keeps
                 | with_reducible apply State.waitHome_keeps | (intro _)
                 | (simp only [Keeps.mk_eq]; with_reducible apply KeepsMk.intro) | (refine (?_ : (_ : Nat) = _); simp; assumption)
                 | (refine (?_ : Tile.memOk _ = true); simp_all [Tile.memOk]; done) | (refine Keeps.getD_map ?_ ?_))

theorem State.signalHome_keeps {P : Prop} {s0 s : State} {g : Signal} {home add : Nat} (hk : Keeps P s0 s) :
    Keeps P s0 (State.signalHome s g home add) := by
  unfold State.signalHome
  repeat' (first | with_reducible assumption | exact (rfl : (_ : Nat) = _) | exact (rfl : (_ : Int) = _) | dsimp only | split
                 | with_reducible apply State.modTileL_keeps | with_reducible apply State.use_keeps
                 | with_reducible apply State.faultCh_keeps | with_reducible apply State.serveCell_keeps
                 | with_reducible apply State.useCell_keeps | (intro _)
                 | (simp only [Keeps.mk_eq]; with_reducible apply KeepsMk.intro) | (refine (?_ : (_ : Nat) = _); simp; assumption)
                 | with_reducible exact Tile.modCell_memOk (by assumption) _ _ _)

theorem State.signalLocal_keeps {P : Prop} {s0 s : State} {g : Signal} (hk : Keeps P s0 s) :
    Keeps P s0 (State.signalLocal s g) := by
  unfold State.signalLocal
  repeat' (first | with_reducible assumption | exact (rfl : (_ : Int) = _) | dsimp only | split
                 | with_reducible apply State.modTileL_keeps | with_reducible apply State.faultCh_keeps
                 | with_reducible apply State.serveLocal_keeps | (intro _) | (refine (?_ : (_ : Nat) = _); simp; assumption)
                 | (refine (?_ : Tile.memOk _ = true); simp_all [Tile.memOk]; done) | (refine Keeps.getD_map ?_ ?_))

theorem State.deliverSignal_keeps {P : Prop} {s0 s : State} {g : Signal} (hk : Keeps P s0 s) :
    Keeps P s0 (State.deliverSignal s g) := by
  unfold State.deliverSignal
  repeat' (first | with_reducible assumption | exact (rfl : (_ : Nat) = _) | exact (rfl : (_ : Int) = _) | dsimp only | split
                 | with_reducible apply State.modTileL_keeps | with_reducible apply State.use_keeps
                 | with_reducible apply State.signalHome_keeps | with_reducible apply State.signalLocal_keeps | (intro _)
                 | (simp only [Keeps.mk_eq]; with_reducible apply KeepsMk.intro) | (refine (?_ : (_ : Nat) = _); simp; assumption)
                 | (refine (?_ : Tile.memOk _ = true); simp_all [Tile.memOk]; done))

theorem State.completeHere_keeps {P : Prop} {s0 s : State} {o : Op} (hk : Keeps P s0 s) :
    Keeps P s0 (State.completeHere s o) := by
  unfold State.completeHere
  repeat' (first | with_reducible assumption | exact (rfl : (_ : Int) = _) | dsimp only | split
                 | with_reducible apply State.completeWith_keeps | with_reducible apply State.completeOp_keeps
                 | with_reducible apply State.noteEntry_keeps | with_reducible apply State.signalLocal_keeps
                 | (refine Keeps.getD_map ?_ ?_) | (intro _) | (refine (?_ : (_ : Nat) = _); simp; assumption)
                 | (refine Keeps.getD_map ?_ ?_))

theorem State.modUc_keeps {P : Prop} {s0 s : State} {l : Nat} {f : UtilCore → UtilCore} (hk : Keeps P s0 s)
    (hf : ∀ u : UtilCore, memWf u.mem = true → memWf (f u).mem = true) : Keeps P s0 (s.modUc l f) :=
  State.modTileL_keeps hk (fun t h => by
    rw [Tile.memOk_iff] at h ⊢
    exact ⟨h.1, hf _ h.2⟩)

theorem State.endTake_keeps {P : Prop} {s0 s : State} {l : Nat} {granted : Bool} (hk : Keeps P s0 s) :
    Keeps P s0 (State.endTake s l granted) := by
  unfold State.endTake
  repeat' (first | with_reducible assumption | exact (rfl : (_ : Int) = _) | dsimp only | with_reducible apply State.modUc_keeps
                 | (intro _) | (refine (?_ : (_ : Nat) = _); simp; assumption))

theorem State.takeHome_keeps {P : Prop} {s0 s : State} {l c id home : Nat} (hk : Keeps P s0 s) :
    Keeps P s0 (State.takeHome s l c id home) := by
  unfold State.takeHome
  repeat' (first | with_reducible assumption | exact (rfl : (_ : Nat) = _) | exact (rfl : (_ : Int) = _) | dsimp only | split
                 | with_reducible apply State.modTileL_keeps | with_reducible apply State.use_keeps
                 | with_reducible apply State.useCell_keeps | with_reducible apply State.modUc_keeps
                 | with_reducible apply State.endTake_keeps | (intro _)
                 | (simp only [Keeps.mk_eq]; with_reducible apply KeepsMk.intro) | (refine (?_ : (_ : Nat) = _); simp; assumption)
                 | with_reducible exact Tile.modCell_memOk (by assumption) _ _ _)

theorem State.resumeTakes_keeps {P : Prop} {s0 s : State} (hk : Keeps P s0 s) : Keeps P s0 (State.resumeTakes s) := by
  unfold State.resumeTakes
  repeat' (first | with_reducible assumption | exact (rfl : (_ : Int) = _) | dsimp only | split
                 | with_reducible apply State.modUc_keeps | with_reducible apply State.takeHome_keeps
                 | with_reducible apply Keeps.foldl | (intro _) | (refine (?_ : (_ : Nat) = _); simp; assumption))

theorem State.xlatePoison_keeps {P : Prop} {s0 s : State} {x : XlateRead} (hk : Keeps P s0 s) :
    Keeps P s0 (State.xlatePoison s x) := by
  unfold State.xlatePoison
  repeat' (first | with_reducible assumption | exact (rfl : (_ : Int) = _) | dsimp only | split
                 | with_reducible apply State.use_keeps | with_reducible apply State.faultCh_keeps
                 | with_reducible apply State.failAny_keeps | with_reducible apply State.modUc_keeps
                 | with_reducible apply State.endTake_keeps | (intro _) | (refine (?_ : (_ : Nat) = _); simp; assumption))

theorem State.xlateUse_keeps {P : Prop} {s0 s : State} {x : XlateRead} {home add : Nat} (hk : Keeps P s0 s) :
    Keeps P s0 (State.xlateUse s x home add) := by
  unfold State.xlateUse
  repeat' (first | with_reducible assumption | exact (rfl : (_ : Int) = _) | dsimp only | split
                 | with_reducible apply State.use_keeps | with_reducible apply State.waitHome_keeps
                 | with_reducible apply State.signalHome_keeps | with_reducible apply State.takeHome_keeps
                 | (refine (?_ : (_ : Nat) = _); simp; assumption))

theorem State.xlateDone_keeps {P : Prop} {s0 s : State} {x : XlateRead} (hk : Keeps P s0 s) :
    Keeps P s0 (State.xlateDone s x) := by
  unfold State.xlateDone
  repeat' (first | with_reducible assumption | exact id | exact (rfl : (_ : Nat) = _) | exact (rfl : (_ : Int) = _) | dsimp only
                 | split | with_reducible apply State.modTileL_keeps | with_reducible apply State.noteEntry_keeps
                 | with_reducible apply State.allocate_keeps | with_reducible apply State.xlatePoison_keeps
                 | with_reducible apply State.xlateUse_keeps | with_reducible apply Keeps.foldl | (intro _)
                 | (simp only [Keeps.mk_eq]; with_reducible apply KeepsMk.intro)
                 | (refine (?_ : (_ : Nat) = _); simp; assumption))

theorem State.ucSignal_keeps {P : Prop} {s0 s : State} {l : Nat} {loc : Bool} {id : Nat} (hk : Keeps P s0 s) :
    Keeps P s0 (State.ucSignal s l loc id) := by
  unfold State.ucSignal
  repeat' (first | with_reducible assumption | exact (rfl : (_ : Nat) = _) | exact (rfl : (_ : Int) = _) | dsimp only | split
                 | with_reducible apply State.modUc_keeps | (intro _)
                 | (simp only [Keeps.mk_eq]; with_reducible apply KeepsMk.intro)
                 | (refine (?_ : (_ : Nat) = _); simp; assumption))

theorem State.ucTake_keeps {P : Prop} {s0 s : State} {l : Nat} {loc : Bool} {id : Nat} (hk : Keeps P s0 s) :
    Keeps P s0 (State.ucTake s l loc id) := by
  unfold State.ucTake
  repeat' (first | with_reducible assumption | exact (rfl : (_ : Nat) = _) | exact (rfl : (_ : Int) = _) | dsimp only | split
                 | with_reducible apply State.modTileL_keeps | with_reducible apply State.use_keeps
                 | with_reducible apply State.modUc_keeps | with_reducible apply State.endTake_keeps
                 | with_reducible apply State.takeHome_keeps | (intro _)
                 | (simp only [Keeps.mk_eq]; with_reducible apply KeepsMk.intro) | (refine (?_ : (_ : Nat) = _); simp; assumption)
                 | (refine (?_ : Tile.memOk _ = true); simp_all [Tile.memOk]; done) | (refine Keeps.getD_map ?_ ?_))

theorem State.ucException_keeps {P : Prop} {s0 s : State} {l : Nat} {pc : W64} {mcause : Nat} {tval : W64} (hk : Keeps P s0 s) :
    Keeps P s0 (State.ucException s l pc mcause tval) := by
  unfold State.ucException
  repeat' (first | with_reducible assumption | exact id | exact (rfl : (_ : Int) = _) | dsimp only | split
                 | with_reducible apply State.use_keeps | with_reducible apply State.faultCh_keeps
                 | with_reducible apply State.modUc_keeps | with_reducible apply Keeps.foldl | (intro _)
                 | (refine (?_ : (_ : Nat) = _); simp; assumption))


/-! ### Machine/Coll.lean -/

theorem State.collEvents_keeps {P : Prop} {s0 s : State} {id : Nat} {es : List (Nat × Cvt)} (hk : Keeps P s0 s) :
    Keeps P s0 (State.collEvents s id es) := by
  unfold State.collEvents
  repeat' (first | with_reducible assumption | with_reducible apply State.modOp_keeps)

theorem State.modRun_keeps {P : Prop} {s0 s : State} {id : Nat} {f : CollRun → CollRun} (hk : Keeps P s0 s) :
    Keeps P s0 (State.modRun s id f) := by
  unfold State.modRun
  repeat' (first | with_reducible assumption | with_reducible apply State.modOp_keeps)

theorem State.slotSent_keeps {P : Prop} {s0 s : State} {o : Op} {x : CollTx} (hk : Keeps P s0 s) :
    Keeps P s0 (State.slotSent s o x) := by
  unfold State.slotSent
  repeat' (first | with_reducible assumption | split | with_reducible apply State.creditSlot_keeps
                 | with_reducible apply State.modRun_keeps)

theorem State.pumpStep_keeps {P : Prop} {s0 s : State} {o : Op} {run : CollRun} {ch : Chan} {a : Axis}
    {acc : State × List (Bool × Nat × Nat) × List CollTx × List (Bool × Nat × Nat)} {x : CollTx} (hk : Keeps P s0 acc.1) :
    Keeps P s0 (s.pumpStep o run ch a acc x).1 := by
  unfold State.pumpStep
  extract_lets d need blocked m pl dst slot s1
  have h1 : Keeps P s0 s1 := by
    unfold s1
    split
    · exact State.sendStrand_keeps hk
    split
    · exact State.sendMulti_keeps hk
    · exact State.sendData_keeps hk
  split
  · exact hk
  · exact State.slotSent_keeps h1

theorem State.pumpColl_keeps {P : Prop} {s0 s : State} {id : Nat} (hk : Keeps P s0 s) : Keeps P s0 (s.pumpColl id) := by
  unfold State.pumpColl
  split
  · exact hk
  · split
    · exact State.modRun_keeps (foldl_keeps (Q := fun x : State × List (Bool × Nat × Nat) × List CollTx × List (Bool × Nat × Nat) => Keeps P s0 x.1)
        _ hk (fun x y h => State.pumpStep_keeps h))
    · exact hk

theorem State.collPoison_keeps {P : Prop} {s0 s : State} {o : Op} {spad : Bool} (hk : Keeps P s0 s) :
    Keeps P s0 (State.collPoison s o spad) := by
  unfold State.collPoison
  repeat' (first | with_reducible assumption | with_reducible apply State.noteSpad_keeps
                 | with_reducible apply State.failColl_keeps)

theorem State.noteSrc_keeps {P : Prop} {s0 s : State} {o : Op} {d : CollD} {run : CollRun} {r first n : Nat} (hk : Keeps P s0 s) :
    Keeps P s0 (State.noteSrc s o d run r first n) := by
  unfold State.noteSrc
  repeat' (first | with_reducible assumption | split | with_reducible apply State.noteRead_keeps)

theorem State.recordAmax_keeps {P : Prop} {s0 s : State} {o : Op} {d : CollD} {run : CollRun} {r : Nat} (hk : Keeps P s0 s) :
    Keeps P s0 (State.recordAmax s o d run r) := by
  unfold State.recordAmax
  repeat' (first | with_reducible assumption | dsimp only | split | with_reducible apply State.writeAt_keeps
                 | with_reducible apply Keeps.foldl | (intro _))

theorem State.writeCodes_keeps {P : Prop} {s0 s : State} {o : Op} {d : CollD} {run : CollRun} {r first : Nat} {codes : List Nat}
    (hk : Keeps P s0 s) : Keeps P s0 (s.writeCodes o d run r first codes) := State.collEvents_keeps (State.writeAt_keeps hk)

theorem State.grantCredits_keeps {P : Prop} {s0 s : State} {o : Op} {d : CollD} {a : Axis} (hk : Keeps P s0 s) :
    Keeps P s0 (State.grantCredits s o d a) := by
  unfold State.grantCredits
  repeat' (first | with_reducible assumption | split | with_reducible apply State.sendColl_keeps
                 | with_reducible apply Keeps.foldl | (intro _))

theorem State.openReduce_keeps {P : Prop} {s0 s : State} {o : Op} {d : CollD} {run : CollRun} {a : Axis} (hk : Keeps P s0 s) :
    Keeps P s0 (State.openReduce s o d run a) := by
  unfold State.openReduce
  repeat' (first | with_reducible assumption | dsimp only | split | with_reducible apply State.collEvents_keeps
                 | with_reducible apply State.modRun_keeps | with_reducible apply State.pumpColl_keeps
                 | with_reducible apply State.collPoison_keeps | with_reducible apply State.noteSrc_keeps
                 | with_reducible apply State.recordAmax_keeps | with_reducible apply State.writeCodes_keeps
                 | with_reducible apply State.grantCredits_keeps)

theorem State.openGather_keeps {P : Prop} {s0 s : State} {o : Op} {d : CollD} {run : CollRun} {a : Axis} (hk : Keeps P s0 s) :
    Keeps P s0 (State.openGather s o d run a) := by
  unfold State.openGather
  repeat' (first | with_reducible assumption | dsimp only | split | with_reducible apply State.collEvents_keeps
                 | with_reducible apply State.modRun_keeps | with_reducible apply State.pumpColl_keeps
                 | with_reducible apply State.collPoison_keeps | with_reducible apply State.noteSrc_keeps
                 | with_reducible apply State.writeCodes_keeps)

theorem State.openPermute_keeps {P : Prop} {s0 s : State} {o : Op} {d : CollD} {run : CollRun} {a : Axis} (hk : Keeps P s0 s) :
    Keeps P s0 (State.openPermute s o d run a) := by
  unfold State.openPermute
  repeat' (first | with_reducible assumption | dsimp only | split | with_reducible apply State.writeAt_keeps
                 | with_reducible apply State.modRun_keeps | with_reducible apply State.pumpColl_keeps
                 | with_reducible apply State.collPoison_keeps | with_reducible apply State.noteSrc_keeps)

theorem State.sendValues_keeps {P : Prop} {s0 s : State} {o : Op} {run : CollRun} {a : Axis} (hk : Keeps P s0 s) :
    Keeps P s0 (State.sendValues s o run a) := by
  unfold State.sendValues
  repeat' (first | with_reducible assumption | with_reducible apply State.tellRank_keeps | with_reducible apply Keeps.foldl
                 | (intro _))

theorem State.finishValues_keeps {P : Prop} {s0 s : State} {o : Op} {d : CollD} {run : CollRun} (hk : Keeps P s0 s) :
    Keeps P s0 (State.finishValues s o d run) := by
  unfold State.finishValues
  repeat' (first | with_reducible assumption | split | with_reducible apply State.writeAt_keeps
                 | with_reducible apply State.modRun_keeps | with_reducible apply Keeps.foldl | (intro _))

theorem State.advanceValues_keeps {P : Prop} {s0 : State} {id : Nat} : ∀ (n : Nat) {s : State}, Keeps P s0 s → Keeps P s0 (State.advanceValues id n s)
  | 0, _, hk => hk
  | n + 1, s, hk => by
    unfold State.advanceValues
    repeat' (first | with_reducible assumption | dsimp only | split | with_reducible apply State.modRun_keeps
                   | with_reducible apply State.sendValues_keeps | with_reducible apply State.finishValues_keeps
                   | with_reducible apply State.advanceValues_keeps)

theorem State.sample_keeps {P : Prop} {s0 s : State} {o : Op} {d : CollD} (hk : Keeps P s0 s) :
    Keeps P s0 (State.sample s o d) := by
  unfold State.sample
  repeat' (first | with_reducible assumption | split | with_reducible apply State.modTileL_keeps
                 | with_reducible apply State.modCtx_keeps | with_reducible apply State.stepHealth_keeps
                 | with_reducible apply Keeps.foldl | (intro _)
                 | (refine (?_ : Tile.memOk _ = true); simp_all [Tile.memOk]; done))

theorem State.openColl_keeps {P : Prop} {s0 s : State} {id : Nat} (hk : Keeps P s0 s) : Keeps P s0 (State.openColl s id) := by
  unfold State.openColl
  repeat' (first | with_reducible assumption | dsimp only | split | with_reducible apply State.modRun_keeps
                 | with_reducible apply State.openReduce_keeps | with_reducible apply State.openGather_keeps
                 | with_reducible apply State.openPermute_keeps | with_reducible apply State.sendValues_keeps
                 | with_reducible apply State.advanceValues_keeps)

theorem State.checkSigs_keeps {P : Prop} {s0 s : State} {id : Nat} (hk : Keeps P s0 s) : Keeps P s0 (State.checkSigs s id) := by
  unfold State.checkSigs
  repeat' (first | with_reducible assumption | split | with_reducible apply State.failColl_keeps
                 | with_reducible apply State.openColl_keeps)

theorem State.collNote_keeps {P : Prop} {s0 s : State} {o : Op} {d : CollD} {n : Nat} {ext : List Nat} (hk : Keeps P s0 s) :
    Keeps P s0 (State.collNote s o d n ext) := by
  unfold State.collNote
  repeat' (first | with_reducible assumption | split | with_reducible apply State.noteRead_keeps
                 | with_reducible apply Keeps.foldl | (intro _))

theorem State.launchColl_keeps {P : Prop} {s0 s : State} {o : Op} (hk : Keeps P s0 s) : Keeps P s0 (State.launchColl s o) := by
  unfold State.launchColl
  split
  · extract_lets d axes n ext tbl perm kb units badExt badAux sig vals reject run s1 o1 s2 s3
    have h1 : Keeps P s0 s1 := State.leave_keeps (State.passSeq_keeps (State.collNote_keeps hk))
    have h3 : Keeps P s0 s3 :=
      Keeps.foldl (State.sample_keeps h1) (fun t a h => Keeps.foldl h (fun t r h => State.tellRank_keeps h))
    split
    · exact State.collPoison_keeps h1
    · exact State.checkSigs_keeps h3
  · exact hk

theorem State.startColl_keeps {P : Prop} {s0 s : State} {h : W32} {opcode : Nat} {opt : CollD → Bool} (hk : Keeps P s0 s) :
    Keeps P s0 (State.startColl s h opcode opt) := by
  unfold State.startColl
  repeat' (first | with_reducible assumption | dsimp only | split | with_reducible apply State.failColl_keeps
                 | with_reducible apply State.launchColl_keeps)

theorem State.countStale_keeps {P : Prop} {s0 s : State} {p : Packet} (hk : Keeps P s0 s) :
    Keeps P s0 (State.countStale s p) := by
  unfold State.countStale
  repeat' (first | with_reducible assumption | exact (rfl : (_ : Nat) = _) | dsimp only | (intro _)
                 | (simp only [Keeps.mk_eq]; with_reducible apply KeepsMk.intro))

theorem State.dropStale_keeps {P : Prop} {s0 s : State} (hk : Keeps P s0 s) : Keeps P s0 (State.dropStale s) := by
  unfold State.dropStale
  repeat' (first | with_reducible assumption | exact (rfl : (_ : Nat) = _) | dsimp only
                 | with_reducible apply State.countStale_keeps | with_reducible apply Keeps.foldl | (intro _)
                 | (simp only [Keeps.mk_eq]; with_reducible apply KeepsMk.intro))

theorem State.serveColl_keeps {P : Prop} {s0 s : State} {k : Nat} {kinds : List Nat} {msgs : List Nat} {ready : Op → Packet → Bool} {f : State → Op → Packet → State} (hk : Keeps P s0 s) (hf : ∀ t o q, Keeps P s0 t → Keeps P s0 (f t o q)) :
    Keeps P s0 (State.serveColl s k kinds msgs ready f) := by
  unfold State.serveColl
  repeat' (first | with_reducible assumption | exact (rfl : (_ : Nat) = _) | dsimp only | split
                 | with_reducible apply State.countStale_keeps | with_reducible apply hf | (intro _)
                 | (simp only [Keeps.mk_eq]; with_reducible apply KeepsMk.intro))

theorem State.recvData_keeps {P : Prop} {s0 s : State} {o : Op} {p : Packet} (hk : Keeps P s0 s) :
    Keeps P s0 (State.recvData s o p) := by
  unfold State.recvData
  repeat' (first | with_reducible assumption | dsimp only | split | with_reducible apply State.modTileL_keeps
                 | with_reducible apply State.returnCredit_keeps | with_reducible apply State.modRun_keeps
                 | with_reducible apply State.writeCodes_keeps | (intro _)
                 | with_reducible exact Tile.writeBytes_memOk (by assumption) _ _
                 | (refine (?_ : Tile.memOk _ = true); simp_all [Tile.memOk]; done))

theorem State.recvValues_keeps {P : Prop} {s0 s : State} {o : Op} {p : Packet} (hk : Keeps P s0 s) :
    Keeps P s0 (State.recvValues s o p) := by
  unfold State.recvValues
  repeat' (first | with_reducible assumption | with_reducible apply State.modRun_keeps
                 | with_reducible apply State.advanceValues_keeps)

theorem State.hopOwner_keeps {P : Prop} {s0 s : State} {o : Op} {d : CollD} {run : CollRun} {a : Axis} {x : HopSlot} {used : List HopSlot} {codes : List Nat} (hk : Keeps P s0 s) :
    Keeps P s0 (State.hopOwner s o d run a x used codes) := by
  unfold State.hopOwner
  repeat' (first | with_reducible assumption | split | with_reducible apply State.creditSlot_keeps
                 | with_reducible apply State.modRun_keeps | with_reducible apply State.pumpColl_keeps
                 | with_reducible apply State.writeCodes_keeps | with_reducible apply Keeps.foldl | (intro _))

theorem State.hopOn_keeps {P : Prop} {s0 s : State} {o : Op} {a : Axis} {x : HopSlot} {codes : List Nat} (hk : Keeps P s0 s) :
    Keeps P s0 (State.hopOn s o a x codes) := by
  unfold State.hopOn
  repeat' (first | with_reducible assumption | split | with_reducible apply State.modRun_keeps
                 | with_reducible apply State.pumpColl_keeps)

theorem State.hopAdd_keeps {P : Prop} {s0 s : State} {o : Op} {k : Nat} (hk : Keeps P s0 s) :
    Keeps P s0 (State.hopAdd s o k) := by
  unfold State.hopAdd
  repeat' (first | with_reducible assumption | dsimp only | split | with_reducible apply State.collEvents_keeps
                 | with_reducible apply State.collPoison_keeps | with_reducible apply State.noteSrc_keeps
                 | with_reducible apply State.hopOwner_keeps | with_reducible apply State.hopOn_keeps)

theorem State.recvCredit_keeps {P : Prop} {s0 s : State} {o : Op} {p : Packet} (hk : Keeps P s0 s) :
    Keeps P s0 (State.recvCredit s o p) := by
  unfold State.recvCredit
  repeat' (first | with_reducible assumption | with_reducible apply State.modRun_keeps
                 | with_reducible apply State.pumpColl_keeps)

theorem State.holdAgreed_keeps {P : Prop} {s0 s : State} {c : Nat} {vs : List W32} (hk : Keeps P s0 s) :
    Keeps P s0 (State.holdAgreed s c vs) := by
  unfold State.holdAgreed
  repeat' (first | with_reducible assumption | with_reducible apply State.modCtx_keeps)

theorem State.noteScatter_keeps {P : Prop} {s0 s : State} {o : Op} {d : CollD} {run : CollRun} (hk : Keeps P s0 s) :
    Keeps P s0 (State.noteScatter s o d run) := by
  unfold State.noteScatter
  repeat' (first | with_reducible assumption | split | with_reducible apply State.modCtx_keeps)


/-! ### Machine/Copy.lean -/

theorem State.chunkNote_keeps {P : Prop} {s0 s : State} {c : Nat} {d : CopyD} {x : Chunk} (hk : Keeps P s0 s) :
    Keeps P s0 (State.chunkNote s c d x) := by
  unfold State.chunkNote
  repeat' (first | with_reducible assumption | dsimp only | split | with_reducible apply State.countPoison_keeps
                 | with_reducible apply State.lcLines_keeps)

theorem State.copyEvents_keeps {P : Prop} {s0 s : State} {id : Nat} {spad : Bool} {es : List CopyEl} (hk : Keeps P s0 s) :
    Keeps P s0 (State.copyEvents s id spad es) := by
  unfold State.copyEvents
  repeat' (first | with_reducible assumption | dsimp only | with_reducible apply State.modOp_keeps)

theorem State.chunkWrite_keeps {P : Prop} {s0 s : State} {c : Nat} {d : CopyD} {x : Chunk} {es : List CopyEl} (hk : Keeps P s0 s) :
    Keeps P s0 (State.chunkWrite s c d x es) := by
  unfold State.chunkWrite
  repeat' (first | with_reducible assumption | dsimp only | split | with_reducible apply State.writeAt_keeps
                 | with_reducible apply State.poisonWrite_keeps | with_reducible apply Keeps.foldl | (intro _))

theorem State.chunkSend_keeps {P : Prop} {s0 s : State} {o : Op} {d : CopyD} {i : Nat} {x : Chunk} {es : List CopyEl} (hk : Keeps P s0 s) :
    Keeps P s0 (State.chunkSend s o d i x es) := by
  unfold State.chunkSend
  repeat' (first | with_reducible assumption | dsimp only | with_reducible apply State.modOp_keeps
                 | with_reducible apply State.sendData_keeps | with_reducible apply Keeps.foldl | (intro _))

theorem State.askPeer_keeps {P : Prop} {s0 s : State} {o : Op} {d : CopyD} {i n a dst : Nat} (hk : Keeps P s0 s) :
    Keeps P s0 (State.askPeer s o d i n a dst) := by
  unfold State.askPeer
  repeat' (first | with_reducible assumption | dsimp only | with_reducible apply State.modOp_keeps
                 | with_reducible apply State.sendCtl_keeps)

theorem State.askMore_keeps {P : Prop} {s0 : State} {id : Nat} : ∀ (n : Nat) {s : State}, Keeps P s0 s → Keeps P s0 (State.askMore id n s)
  | 0, _, hk => hk
  | n + 1, s, hk => by
    unfold State.askMore
    repeat' (first | with_reducible assumption | dsimp only | split | with_reducible apply State.modOp_keeps
                   | with_reducible apply State.askPeer_keeps | with_reducible apply State.askMore_keeps)

theorem State.askAll_keeps {P : Prop} {s0 s : State} (hk : Keeps P s0 s) : Keeps P s0 (State.askAll s) := by
  unfold State.askAll
  repeat' (first | with_reducible assumption | dsimp only | with_reducible apply State.askMore_keeps
                 | with_reducible apply Keeps.foldl | (intro _))

theorem State.chunkPut_keeps {P : Prop} {s0 s : State} {o : Op} {d : CopyD} {i : Nat} {x : Chunk} {es : List CopyEl} (hk : Keeps P s0 s) :
    Keeps P s0 (State.chunkPut s o d i x es) := by
  unfold State.chunkPut
  repeat' (first | with_reducible assumption | dsimp only | split | with_reducible apply State.copyEvents_keeps
                 | with_reducible apply State.chunkWrite_keeps | with_reducible apply State.chunkSend_keeps)

theorem State.copyFinish_keeps {P : Prop} {s0 s : State} {id : Nat} (hk : Keeps P s0 s) : Keeps P s0 (State.copyFinish s id) := by
  unfold State.copyFinish
  repeat' (first | with_reducible assumption | dsimp only | with_reducible apply State.modOp_keeps)

theorem State.copyLocal_keeps {P : Prop} {s0 s : State} {o : Op} {d : CopyD} {cs : List Chunk} (hk : Keeps P s0 s) :
    Keeps P s0 (State.copyLocal s o d cs) := by
  unfold State.copyLocal
  repeat' (first | with_reducible assumption | dsimp only | with_reducible apply State.chunkNote_keeps
                 | with_reducible apply State.copyEvents_keeps | with_reducible apply State.chunkWrite_keeps
                 | with_reducible apply Keeps.foldl | (intro _))

theorem State.copyRun_keeps {P : Prop} {s0 s : State} {o : Op} {d : CopyD} (hk : Keeps P s0 s) :
    Keeps P s0 (State.copyRun s o d) := by
  unfold State.copyRun
  repeat' (first | with_reducible assumption | dsimp only | split | with_reducible apply State.modOp_keeps
                 | with_reducible apply State.chunkNote_keeps | with_reducible apply State.askMore_keeps
                 | with_reducible apply State.chunkPut_keeps | with_reducible apply State.copyFinish_keeps
                 | with_reducible apply State.copyLocal_keeps | with_reducible apply Keeps.foldl | (intro _))

theorem State.copyLeave_keeps {P : Prop} {s0 s : State} {o : Op} {low : BitVec 512} (hk : Keeps P s0 s) :
    Keeps P s0 (State.copyLeave s o low) := by
  unfold State.copyLeave
  repeat' (first | with_reducible assumption | dsimp only | with_reducible apply State.leave_keeps)

theorem State.startCopy_keeps {P : Prop} {s0 s : State} {h : W32} {opcode : Nat} (hk : Keeps P s0 s) :
    Keeps P s0 (State.startCopy s h opcode) := by
  unfold State.startCopy
  repeat' (first | with_reducible assumption | dsimp only | split | with_reducible apply State.noteSpad_keeps
                 | with_reducible apply State.failOp_keeps | with_reducible apply State.lcRead_keeps
                 | with_reducible apply State.noteRead_keeps | with_reducible apply State.copyRun_keeps
                 | with_reducible apply State.copyLeave_keeps)

theorem State.copyAck_keeps {P : Prop} {s0 s : State} {c : Nat} {p : Packet} {wire tag : Nat} {refused : Bool} (hk : Keeps P s0 s) :
    Keeps P s0 (State.copyAck s c p wire tag refused) := by
  unfold State.copyAck
  repeat' (first | with_reducible assumption | dsimp only | with_reducible apply State.sendCtl_keeps)

theorem State.rillFinish_keeps {P : Prop} {s0 s : State} {id : Nat} (hk : Keeps P s0 s) : Keeps P s0 (State.rillFinish s id) := by
  unfold State.rillFinish
  repeat' (first | with_reducible assumption | dsimp only | split | with_reducible apply State.modOp_keeps)

theorem State.rillPut_keeps {P : Prop} {s0 s : State} {o : Op} {b : Nat} {bs : List Byte} {bad spad : Bool} (hk : Keeps P s0 s) :
    Keeps P s0 (State.rillPut s o b bs bad spad) := by
  unfold State.rillPut
  repeat' (first | with_reducible assumption | dsimp only | split | with_reducible apply State.modOp_keeps
                 | with_reducible apply State.writeAt_keeps | with_reducible apply State.poisonWrite_keeps)

theorem State.pieceDone_keeps {P : Prop} {s0 s : State} {o : Op} (hk : Keeps P s0 s) : Keeps P s0 (State.pieceDone s o) := by
  unfold State.pieceDone
  repeat' (first | with_reducible assumption | dsimp only | split | with_reducible apply State.askAll_keeps
                 | with_reducible apply State.copyFinish_keeps | with_reducible apply State.rillFinish_keeps)

theorem State.rillIssue_keeps {P : Prop} {s0 : State} {id : Nat} : ∀ (n : Nat) {s : State}, Keeps P s0 s → Keeps P s0 (State.rillIssue id n s)
  | 0, _, hk => hk
  | n + 1, s, hk => by
    unfold State.rillIssue
    repeat' (first | with_reducible assumption | dsimp only | split | with_reducible apply State.modDev_keeps
                   | with_reducible apply State.modOp_keeps | with_reducible apply State.noteRead_keeps
                   | with_reducible apply State.rillIssue_keeps)

theorem State.rillGo_keeps {P : Prop} {s0 s : State} {id : Nat} (hk : Keeps P s0 s) : Keeps P s0 (State.rillGo s id) := by
  unfold State.rillGo
  repeat' (first | with_reducible assumption | dsimp only | split | with_reducible apply State.rillFinish_keeps
                 | with_reducible apply State.rillIssue_keeps)

theorem State.startRill_keeps {P : Prop} {s0 s : State} {h : W32} {opcode : Nat} (hk : Keeps P s0 s) :
    Keeps P s0 (State.startRill s h opcode) := by
  unfold State.startRill
  repeat' (first | with_reducible assumption | dsimp only | split | with_reducible apply State.copyLeave_keeps
                 | with_reducible apply State.rillGo_keeps)

theorem State.rillServe_keeps {P : Prop} {s0 s : State} {o : Op} {e : RillAcc} (hk : Keeps P s0 s) :
    Keeps P s0 (State.rillServe s o e) := by
  unfold State.rillServe
  repeat' (first | with_reducible assumption | dsimp only | split | with_reducible apply State.noteRead_keeps
                 | with_reducible apply State.copyEvents_keeps | with_reducible apply State.chunkSend_keeps
                 | with_reducible apply State.askPeer_keeps | with_reducible apply State.rillPut_keeps)

theorem State.rillAdmit_keeps {P : Prop} {s0 s : State} {stack : Nat} (hk : Keeps P s0 s) :
    Keeps P s0 (State.rillAdmit s stack) := by
  unfold State.rillAdmit
  repeat' (first | with_reducible assumption | dsimp only | with_reducible apply State.rillGo_keeps
                 | with_reducible apply Keeps.foldl)


/-! ### Machine/Close.lean -/

theorem State.copyExp_keeps {P : Prop} {s0 s : State} {c : Nat} (hk : Keeps P s0 s) : Keeps P s0 (State.copyExp s c) := by
  unfold State.copyExp
  repeat' (first | with_reducible assumption | split | with_reducible apply State.modTileL_keeps
                 | with_reducible apply Keeps.foldl | (intro _)
                 | (refine (?_ : Tile.memOk _ = true); simp_all [Tile.memOk]; done))

theorem State.pushMaxima_keeps {P : Prop} {s0 s : State} {c : Nat} (hk : Keeps P s0 s) : Keeps P s0 (State.pushMaxima s c) := by
  unfold State.pushMaxima
  repeat' (first | with_reducible assumption | dsimp only | split | with_reducible apply State.modCtx_keeps
                 | with_reducible apply State.store_keeps | with_reducible apply State.copyExp_keeps
                 | with_reducible apply Keeps.foldl | (intro _))

theorem State.closeSeenBy_keeps {P : Prop} {s0 s : State} {c : Nat} (hk : Keeps P s0 s) : Keeps P s0 (State.closeSeenBy s c) := by
  unfold State.closeSeenBy
  repeat' (first | with_reducible assumption | with_reducible apply State.modTileL_keeps | with_reducible apply State.modPkg_keeps
                 | with_reducible apply Keeps.foldl | (intro _)
                 | (refine (?_ : Tile.memOk _ = true); simp_all [Tile.memOk]; done))

theorem State.rewind_keeps {P : Prop} {s0 s : State} {c : Nat} (hk : Keeps P s0 s) : Keeps P s0 (State.rewind s c) := by
  unfold State.rewind
  repeat' (first | with_reducible assumption | split | with_reducible apply State.modTileL_keeps
                 | with_reducible apply State.modCtx_keeps | with_reducible apply State.stepHealth_keeps
                 | with_reducible apply Keeps.foldl | (intro _)
                 | (refine (?_ : Tile.memOk _ = true); simp_all [Tile.memOk]; done))


/-! ### Machine/Context.lean -/

theorem State.bindCtx_keeps {P : Prop} {s0 s : State} {c : Nat} {r : Req} {b : BindTable} (hk : Keeps P s0 s) :
    Keeps P s0 (State.bindCtx s c r b) := by
  unfold State.bindCtx
  repeat' (first | with_reducible assumption | with_reducible apply State.modTileL_keeps | with_reducible apply State.modCtx_keeps
                 | with_reducible apply State.copyExp_keeps | with_reducible apply Keeps.foldl | (intro _)
                 | with_reducible exact Tile.bind_memOk (by assumption) _ _)

theorem State.stopChans_keeps {P : Prop} {s0 s : State} {c : Nat} (hk : Keeps P s0 s) : Keeps P s0 (State.stopChans s c) := by
  unfold State.stopChans
  repeat' (first | with_reducible assumption | with_reducible apply State.setChan_keeps | with_reducible apply State.discard_keeps
                 | with_reducible apply Keeps.foldl | (intro _))

theorem State.haltCores_keeps {P : Prop} {s0 s : State} {c : Nat} (hk : Keeps P s0 s) : Keeps P s0 (State.haltCores s c) := by
  unfold State.haltCores
  repeat' (first | with_reducible assumption | split | with_reducible apply State.modUc_keeps | with_reducible apply Keeps.foldl
                 | (intro _))


/-! ### Machine/Channel.lean -/

theorem State.createRing_keeps {P : Prop} {s0 s : State} {r : Req} {x : Sess} (hk : Keeps P s0 s) :
    KeepsOut P s0 (State.createRing s r x) := by
  unfold State.createRing
  repeat' (first | split | with_reducible apply State.writeCtl_keeps | exact State.newHandle_keeps (by assumption) (by assumption)
                 | with_reducible apply KeepsOut.checked | with_reducible exact KeepsOut.refuse _ _
                 | with_reducible apply KeepsOut.done)

theorem State.takeFrames_keeps {P : Prop} {s0 s : State} {h : W32} {w : Window} (hk : Keeps P s0 s) :
    Keeps P s0 (State.takeFrames s h w) := by
  unfold State.takeFrames
  repeat' (first | with_reducible assumption | with_reducible apply State.modDev_keeps | with_reducible apply Keeps.foldl
                 | (intro _))

theorem State.createWindow_keeps {P : Prop} {s0 s : State} {r : Req} {x : Sess} (hk : Keeps P s0 s) :
    KeepsOut P s0 (State.createWindow s r x) := by
  unfold State.createWindow
  repeat' (first | split | with_reducible apply State.takeFrames_keeps
                 | exact State.newHandle_keeps (by assumption) (by assumption) | with_reducible apply KeepsOut.checked
                 | with_reducible exact KeepsOut.refuse _ _ | with_reducible apply KeepsOut.done
                 | with_reducible apply KeepsOut.wait)

theorem State.createSync_keeps {P : Prop} {s0 s : State} {r : Req} {x : Sess} (hk : Keeps P s0 s) :
    KeepsOut P s0 (State.createSync s r x) := by
  unfold State.createSync
  repeat' (first | split | exact State.newHandle_keeps (by assumption) (by assumption) | with_reducible apply KeepsOut.checked
                 | with_reducible exact KeepsOut.refuse _ _ | with_reducible apply KeepsOut.done)

theorem State.startCore_keeps {P : Prop} {s0 s : State} {c : Chan} (hk : Keeps P s0 s) : Keeps P s0 (State.startCore s c) := by
  unfold State.startCore
  repeat' (first | with_reducible assumption | split | with_reducible apply State.modUc_keeps | (intro _))

theorem State.startChan_keeps {P : Prop} {s0 s : State} {h : W32} {c : Chan} {restart : Option W32} (hk : Keeps P s0 s) :
    Keeps P s0 (State.startChan s h c restart) := by
  unfold State.startChan
  repeat' (first | with_reducible assumption | with_reducible apply State.modCtx_keeps | with_reducible apply State.setChan_keeps
                 | with_reducible apply State.syncActive_keeps | with_reducible apply State.startCore_keeps)


/-! ### Machine/Sched.lean -/

theorem State.runOp_keeps {P : Prop} {s0 s : State} {o : Op} {run : OpD → IssueCtx → Nat → Tile → RunRes} (hk : Keeps P s0 s)
    (hrun : ∀ d ic n t, Tile.memOk t = true → (run d ic n t).tile.memOk = true) : Keeps P s0 (State.runOp s o run) :=
  State.modOp_keeps (State.opEvents_keeps (State.use_keeps (State.modTileP_keeps_of hk (fun ht => hrun _ _ _ _ (State.tileP_memOk ht _)))))

theorem State.sendMr_keeps {P : Prop} {s0 s : State} {slot : Nat} {peer : Option (BitVec 12)} {m : MrMsg} (hk : Keeps P s0 s) :
    Keeps P s0 (State.sendMr s slot peer m) := by
  unfold State.sendMr
  repeat' (first | with_reducible assumption | exact (rfl : (_ : Nat) = _) | dsimp only | split
                 | with_reducible apply State.sendCtl_keeps | with_reducible apply State.sendData_keeps
                 | with_reducible apply State.grant_keeps | (intro _)
                 | (simp only [Keeps.mk_eq]; with_reducible apply KeepsMk.intro))

theorem State.countHandoff_keeps {P : Prop} {s0 s : State} {l e : Nat} {out : Bool} (hk : Keeps P s0 s) :
    Keeps P s0 (State.countHandoff s l e out) := by
  unfold State.countHandoff
  repeat' (first | with_reducible assumption | dsimp only | split | with_reducible apply State.modTileL_keeps | (intro _)
                 | (refine (?_ : Tile.memOk _ = true); simp_all [Tile.memOk]; done))

theorem State.issueHead_keeps {P : Prop} {s0 s : State} {o : Op} {run : OpD → IssueCtx → Nat → Tile → RunRes} (hk : Keeps P s0 s) (hrun : ∀ d ic n t, Tile.memOk t = true → (run d ic n t).tile.memOk = true) :
    Keeps P s0 (State.issueHead s o run) := by
  unfold State.issueHead
  repeat' (first | with_reducible assumption | dsimp only | split | with_reducible apply State.leave_keeps
                 | with_reducible apply State.grant_keeps | with_reducible apply State.runOp_keeps
                 | with_reducible apply State.sendMr_keeps)

theorem State.skipHead_keeps {P : Prop} {s0 s : State} {o : Op} {frozen : Bool} (hk : Keeps P s0 s) :
    Keeps P s0 (State.skipHead s o frozen) := by
  unfold State.skipHead
  repeat' (first | with_reducible assumption | dsimp only | with_reducible apply State.leave_keeps)

theorem State.countLosses_keeps {P : Prop} {s0 s : State} {o : Op} (hk : Keeps P s0 s) : Keeps P s0 (State.countLosses s o) := by
  unfold State.countLosses
  repeat' (first | with_reducible assumption | exact (rfl : (_ : Nat) = _) | dsimp only | (intro _)
                 | (simp only [Keeps.mk_eq]; with_reducible apply KeepsMk.intro))

theorem State.noteAble_keeps {P : Prop} {s0 s : State} (hk : Keeps P s0 s) : Keeps P s0 (State.noteAble s) := by
  unfold State.noteAble
  repeat' (first | with_reducible assumption | exact (rfl : (_ : Nat) = _) | dsimp only | (intro _)
                 | (simp only [Keeps.mk_eq]; with_reducible apply KeepsMk.intro))

theorem State.tryHead_keeps {P : Prop} {s0 s : State} {opcode l q : Nat} {run : OpD → IssueCtx → Nat → Tile → RunRes} (hk : Keeps P s0 s) (hrun : ∀ d ic n t, Tile.memOk t = true → (run d ic n t).tile.memOk = true) :
    Keeps P s0 (State.tryHead s opcode l q run) := by
  unfold State.tryHead
  repeat' (first | with_reducible assumption | dsimp only | split | with_reducible apply State.issueHead_keeps
                 | with_reducible apply State.skipHead_keeps | with_reducible apply State.countLosses_keeps)

theorem State.runHead_keeps {P : Prop} {s0 s : State} {opcode l q : Nat} {run : OpD → IssueCtx → Nat → Tile → RunRes} (hk : Keeps P s0 s) (hrun : ∀ d ic n t, Tile.memOk t = true → (run d ic n t).tile.memOk = true) :
    Keeps P s0 (State.runHead s opcode l q run) := by
  unfold State.runHead
  repeat' (first | with_reducible assumption | dsimp only | split | with_reducible apply State.runOp_keeps
                 | with_reducible apply State.tryHead_keeps)

theorem tileOp_keeps {P : Prop} {s0 : State} {opcode : Nat} {l q : Nat} {run : OpD → IssueCtx → Nat → Tile → RunRes} {s : State} (hk : Keeps P s0 s) (hrun : ∀ d ic n t, Tile.memOk t = true → (run d ic n t).tile.memOk = true) :
    KeepsAns P s0 (tileOp opcode l q run s) := by
  unfold tileOp
  repeat' (first | with_reducible assumption | dsimp only | with_reducible apply State.runHead_keeps
                 | with_reducible apply KeepsAns.next)

theorem State.mrReply_keeps {P : Prop} {s0 s : State} {m : MrMsg} {o : Option Op} {kind : MrKind} (hk : Keeps P s0 s) :
    Keeps P s0 (State.mrReply s m o kind) := by
  unfold State.mrReply
  repeat' (first | with_reducible assumption | dsimp only | with_reducible apply State.sendMr_keeps)

theorem State.mrDrop_keeps {P : Prop} {s0 s : State} {m : MrMsg} {out fail : Bool} {row : Nat} (hk : Keeps P s0 s) :
    Keeps P s0 (State.mrDrop s m out fail row) := by
  unfold State.mrDrop
  repeat' (first | with_reducible assumption | dsimp only | split | with_reducible apply State.accFlag_keeps
                 | with_reducible apply State.failOp_keeps | with_reducible apply State.mrReply_keeps)


/-! ### Machine/Link.lean -/

theorem State.linkEvt_keeps {P : Prop} {s0 s : State} {j i : Nat} {data : BitVec 3328} (hk : Keeps P s0 s) :
    Keeps P s0 (State.linkEvt s j i data) := by
  unfold State.linkEvt
  repeat' (first | with_reducible assumption | dsimp only | split | with_reducible apply State.modPort_keeps
                 | with_reducible apply State.event_keeps)

theorem State.lanesScore_keeps {P : Prop} {s0 s : State} {j : Nat} {w : Rat} (hk : Keeps P s0 s) :
    Keeps P s0 (State.lanesScore s j w) := by
  unfold State.lanesScore
  repeat' (first | with_reducible assumption | with_reducible apply State.addScore_keeps | with_reducible apply Keeps.foldl
                 | (intro _))

theorem State.enterRetrain_keeps {P : Prop} {s0 s : State} {j : Nat} (hk : Keeps P s0 s) :
    Keeps P s0 (State.enterRetrain s j) := by
  unfold State.enterRetrain
  repeat' (first | with_reducible assumption | with_reducible apply State.modPort_keeps | with_reducible apply State.linkEvt_keeps
                 | with_reducible apply State.lanesScore_keeps)

theorem State.resend_keeps {P : Prop} {s0 s : State} {j : Nat} (hk : Keeps P s0 s) : Keeps P s0 (State.resend s j) := by
  unfold State.resend
  repeat' (first | with_reducible assumption | dsimp only | split | with_reducible apply State.modPort_keeps
                 | with_reducible apply State.sendAgain_keeps | with_reducible apply State.enterRetrain_keeps
                 | with_reducible apply Keeps.foldl | (intro _))

theorem State.portUp_keeps {P : Prop} {s0 s : State} {j : Nat} (hk : Keeps P s0 s) : Keeps P s0 (State.portUp s j) := by
  unfold State.portUp
  repeat' (first | with_reducible assumption | exact (rfl : (_ : Nat) = _) | dsimp only | with_reducible apply State.modPort_keeps
                 | with_reducible apply State.pump_keeps | with_reducible apply State.resend_keeps | (intro _)
                 | (simp only [Keeps.mk_eq]; with_reducible apply KeepsMk.intro))

theorem State.fencePort_keeps {P : Prop} {s0 s : State} {j : Nat} (hk : Keeps P s0 s) : Keeps P s0 (State.fencePort s j) := by
  unfold State.fencePort
  repeat' (first | with_reducible assumption | split | with_reducible apply State.modPort_keeps
                 | with_reducible apply State.linkEvt_keeps)

theorem State.sendIdent_keeps {P : Prop} {s0 s : State} {j : Nat} (hk : Keeps P s0 s) : Keeps P s0 (State.sendIdent s j) := by
  unfold State.sendIdent
  repeat' (first | with_reducible assumption | with_reducible apply State.sendHop_keeps)

theorem State.identify_keeps {P : Prop} {s0 s : State} {j : Nat} (hk : Keeps P s0 s) : Keeps P s0 (State.identify s j) := by
  unfold State.identify
  repeat' (first | with_reducible assumption | dsimp only | split | with_reducible apply State.modPort_keeps
                 | with_reducible apply State.linkEvt_keeps | with_reducible apply State.portUp_keeps)

theorem State.enqueue_keeps {P : Prop} {s0 s : State} {j : Nat} {p : Packet} (hk : Keeps P s0 s) :
    Keeps P s0 (State.enqueue s j p) := by
  unfold State.enqueue
  repeat' (first | with_reducible assumption | with_reducible apply State.modPort_keeps
                 | with_reducible apply State.modFlow_keeps)

theorem State.freeFlits_keeps {P : Prop} {s0 s : State} {j v n : Nat} (hk : Keeps P s0 s) :
    Keeps P s0 (State.freeFlits s j v n) := by
  unfold State.freeFlits
  repeat' (first | with_reducible assumption | dsimp only | split | with_reducible apply State.modPort_keeps
                 | with_reducible apply State.sendEmpty_keeps)

theorem State.takeIn_keeps {P : Prop} {s0 : State} {s s1 : State} {j : Nat} {f : Nat → Packet → Bool} {q : Packet} (hk : Keeps P s0 s)
    (e : s.takeIn j f = some (q, s1)) : Keeps P s0 s1 := by
  unfold State.takeIn at e
  obtain ⟨r, -, he⟩ := Option.map_eq_some_iff.mp e
  simp only [Prod.mk.injEq] at he
  rw [← he.2]
  exact State.freeFlits_keeps (State.modPort_keeps hk)

theorem State.arrive_keeps {P : Prop} {s0 s : State} {j : Nat} {p : Packet} (hk : Keeps P s0 s) :
    Keeps P s0 (State.arrive s j p) := by
  unfold State.arrive
  repeat' (first | with_reducible assumption | dsimp only | split | with_reducible apply State.modFlow_keeps
                 | with_reducible apply State.dropAt_keeps | with_reducible apply State.partEvt_keeps
                 | with_reducible apply State.enqueue_keeps | with_reducible apply State.freeFlits_keeps)

theorem State.takeFlits_keeps {P : Prop} {s0 : State} {j : Nat} : ∀ {fs : List (BitVec 512 × Bool)} {s : State}, Keeps P s0 s → Keeps P s0 (State.takeFlits s j fs)
  | [], _, hk => hk
  | f :: rest, s, hk => by
    unfold State.takeFlits
    repeat' (first | with_reducible assumption | dsimp only | split | with_reducible apply State.modPort_keeps
                   | with_reducible apply State.arrive_keeps | with_reducible apply State.takeFlits_keeps)

theorem State.switchLane_keeps {P : Prop} {s0 s : State} {j lane : Nat} (hk : Keeps P s0 s) :
    Keeps P s0 (State.switchLane s j lane) := by
  unfold State.switchLane
  repeat' (first | with_reducible assumption | dsimp only | split | with_reducible apply State.modPort_keeps
                 | with_reducible apply State.resend_keeps)

theorem State.laneOp_keeps {P : Prop} {s0 s : State} {j op lane : Nat} (hk : Keeps P s0 s) :
    Keeps P s0 (State.laneOp s j op lane) := by
  unfold State.laneOp
  repeat' (first | with_reducible assumption | dsimp only | split | with_reducible apply State.modPort_keeps
                 | with_reducible apply State.directHealth_keeps | with_reducible apply State.sendFrame_keeps
                 | with_reducible apply State.linkEvt_keeps | with_reducible apply State.switchLane_keeps)

theorem State.takeTrailer_keeps {P : Prop} {s0 s : State} {j : Nat} {trailer : BitVec 256} (hk : Keeps P s0 s) :
    Keeps P s0 (State.takeTrailer s j trailer) := by
  unfold State.takeTrailer
  repeat' (first | with_reducible assumption | split | with_reducible apply State.modPort_keeps
                 | with_reducible apply State.resend_keeps | with_reducible apply State.laneOp_keeps)

theorem State.dueIdent_keeps {P : Prop} {s0 s : State} {j : Nat} (hk : Keeps P s0 s) : Keeps P s0 (State.dueIdent s j) := by
  unfold State.dueIdent
  repeat' (first | with_reducible assumption | split | with_reducible apply State.modPort_keeps
                 | with_reducible apply State.resend_keeps | with_reducible apply State.sendIdent_keeps
                 | with_reducible apply State.identify_keeps)

theorem State.spareLane_keeps {P : Prop} {s0 s : State} {j lane : Nat} (hk : Keeps P s0 s) :
    Keeps P s0 (State.spareLane s j lane) := by
  unfold State.spareLane
  repeat' (first | with_reducible assumption | dsimp only | split | with_reducible apply State.modPort_keeps
                 | with_reducible apply State.sendFrame_keeps)

theorem State.abortPart_keeps {P : Prop} {s0 s : State} {j : Nat} (hk : Keeps P s0 s) : Keeps P s0 (State.abortPart s j) := by
  unfold State.abortPart
  repeat' (first | with_reducible assumption | dsimp only | split | with_reducible apply State.modPort_keeps
                 | with_reducible apply State.transmit_keeps)

theorem State.failOver_keeps {P : Prop} {s0 s : State} {j seq : Nat} (hk : Keeps P s0 s) :
    Keeps P s0 (State.failOver s j seq) := by
  unfold State.failOver
  repeat' (first | with_reducible assumption | with_reducible apply State.modPort_keeps | with_reducible apply State.pump_keeps
                 | with_reducible apply State.resend_keeps)

theorem State.headIn_keeps {P : Prop} {s0 : State} {s s1 : State} {j v : Nat} {q : Packet} (hk : Keeps P s0 s) (e : s.headIn j v = some (q, s1)) :
    Keeps P s0 s1 := State.takeIn_keeps hk e

theorem State.goOn_keeps {P : Prop} {s0 : State} {s s1 : State} {j out : Nat} {p : Packet} (hk : Keeps P s0 s) (h1 : Keeps P s0 s1) :
    Keeps P s0 (s.goOn s1 j out p) := by
  unfold State.goOn
  dsimp only
  (repeat' split) <;> first | exact State.dropAt_keeps h1 | exact State.transmit_keeps h1 | exact hk

theorem State.deliver_keeps {P : Prop} {s0 s : State} {j : Nat} {p : Packet} (hk : Keeps P s0 s) :
    Keeps P s0 (State.deliver s j p) := by
  unfold State.deliver
  repeat' (first | with_reducible assumption | exact (rfl : (_ : Nat) = _) | dsimp only | split | (intro _)
                 | (simp only [Keeps.mk_eq]; with_reducible apply KeepsMk.intro))

theorem State.route_keeps {P : Prop} {s0 s : State} {j v : Nat} {across : Bool} (hk : Keeps P s0 s) :
    Keeps P s0 (State.route s j v across) := by
  unfold State.route
  repeat' (first | with_reducible assumption | split | with_reducible apply State.identify_keeps
                 | with_reducible apply State.goOn_keeps | with_reducible apply State.deliver_keeps
                 | (refine State.headIn_keeps ?_ (by assumption)))

theorem State.opened_keeps {P : Prop} {s0 s : State} {c : Nat} {p : Packet} (hk : Keeps P s0 s) :
    Keeps P s0 (State.opened s c p) := by
  unfold State.opened
  repeat' (first | with_reducible assumption | exact (rfl : (_ : Nat) = _) | dsimp only | split | (intro _)
                 | (simp only [Keeps.mk_eq]; with_reducible apply KeepsMk.intro))


/-! ### Machine/Partition.lean -/

theorem State.recordFence_keeps {P : Prop} {s0 s : State} {j : Nat} {on : Bool} (hk : Keeps P s0 s) :
    Keeps P s0 (State.recordFence s j on) := by
  unfold State.recordFence
  repeat' (first | with_reducible assumption | with_reducible apply State.modRepair_keeps)

theorem State.releasePort_keeps {P : Prop} {s0 s : State} {j : Nat} (hk : Keeps P s0 s) : Keeps P s0 (State.releasePort s j) := by
  unfold State.releasePort
  repeat' (first | with_reducible assumption | split | with_reducible apply State.modPort_keeps
                 | with_reducible apply State.recordFence_keeps)

theorem State.linkAction_keeps {P : Prop} {s0 s : State} {r : Req} {j : Nat} (hk : Keeps P s0 s) :
    Keeps P s0 (State.linkAction s r j) := by
  unfold State.linkAction
  repeat' (first | with_reducible assumption | dsimp only | split | with_reducible apply State.modPort_keeps
                 | with_reducible apply State.fencePort_keeps | with_reducible apply State.identify_keeps
                 | with_reducible apply State.recordFence_keeps | with_reducible apply State.releasePort_keeps)


/-! ### Machine/Manager.lean -/

theorem State.modMgr_keeps {P : Prop} {s0 s : State} {n : Nat} {f : Mgr → Mgr} (hk : Keeps P s0 s) :
    Keeps P s0 (State.modMgr s n f) := by
  unfold State.modMgr
  repeat' (first | with_reducible assumption | split | with_reducible apply State.modDie_keeps
                 | with_reducible apply State.modPkg_keeps)

theorem State.modFw_keeps {P : Prop} {s0 s : State} {k : Nat} {f : FwClass → FwClass} (hk : Keeps P s0 s) :
    Keeps P s0 (State.modFw s k f) := by
  unfold State.modFw
  repeat' (first | with_reducible assumption | with_reducible apply State.modPkg_keeps)

theorem State.runSlot_keeps {P : Prop} {s0 s : State} {n : Nat} {slot : Bool} (hk : Keeps P s0 s) :
    Keeps P s0 (State.runSlot s n slot) := by
  unfold State.runSlot
  repeat' (first | with_reducible assumption | with_reducible apply State.modMgr_keeps)

theorem State.recordSlot_keeps {P : Prop} {s0 s : State} {n : Nat} {slot : Bool} (hk : Keeps P s0 s) :
    Keeps P s0 (State.recordSlot s n slot) := by
  unfold State.recordSlot
  repeat' (first | with_reducible assumption | with_reducible apply State.modRepair_keeps)

theorem State.startOn_keeps {P : Prop} {s0 s : State} {n : Nat} {want : Bool} (hk : Keeps P s0 s) :
    KeepsOpt P s0 (s.startOn n want) := by
  unfold State.startOn
  dsimp only
  split
  · exact KeepsOpt.some (State.runSlot_keeps hk)
  · split
    · exact KeepsOpt.some (State.event_keeps (State.modMgr_keeps (State.runSlot_keeps hk)))
    · exact KeepsOpt.none

theorem State.startMgr_keeps {P : Prop} {s0 s : State} {n : Nat} (hk : Keeps P s0 s) :
    KeepsOpt P s0 (s.startMgr n) := State.startOn_keeps hk

theorem State.fenceDie_keeps {P : Prop} {s0 s : State} {d : Nat} (hk : Keeps P s0 s) : Keeps P s0 (State.fenceDie s d) := by
  unfold State.fenceDie
  repeat' (first | with_reducible assumption | split | with_reducible apply State.modDie_keeps
                 | with_reducible apply State.modEth_keeps | with_reducible apply State.holdMgr_keeps
                 | with_reducible apply State.fenceCDie_keeps | with_reducible apply State.endSession_keeps
                 | with_reducible apply State.fencePort_keeps | with_reducible apply Keeps.foldl | (intro _))

theorem State.fenceScope_keeps {P : Prop} {s0 s : State} {d : Nat} (hk : Keeps P s0 s) : Keeps P s0 (State.fenceScope s d) := by
  unfold State.fenceScope
  repeat' (first | with_reducible assumption | exact (rfl : (_ : Nat) = _) | dsimp only | split | (intro _)
                 | (simp only [Keeps.mk_eq]; with_reducible apply KeepsMk.intro))

theorem State.targetFails_keeps {P : Prop} {s0 s : State} {x : Sparing} {cause : HealthCause} (hk : Keeps P s0 s) :
    Keeps P s0 (State.targetFails s x cause) := by
  unfold State.targetFails
  repeat' (first | with_reducible assumption | dsimp only | split | with_reducible apply State.modTileL_keeps
                 | with_reducible apply State.modPkg_keeps | with_reducible apply State.event_keeps
                 | with_reducible apply State.resolve_keeps | with_reducible apply State.directHealth_keeps
                 | with_reducible apply State.fenceDie_keeps | with_reducible apply Keeps.foldl | (intro _)
                 | (refine (?_ : Tile.memOk _ = true); simp_all [Tile.memOk]; done))

theorem State.reports_keeps {P : Prop} {s0 s : State} {n : Nat} (hk : Keeps P s0 s) : Keeps P s0 (State.reports s n) := by
  unfold State.reports
  repeat' (first | with_reducible assumption | dsimp only | split | with_reducible apply State.modMgr_keeps
                 | with_reducible apply State.runSlot_keeps | with_reducible apply State.recordSlot_keeps)

theorem State.cancelWaves_keeps {P : Prop} {s0 s : State} (hk : Keeps P s0 s) : Keeps P s0 (State.cancelWaves s) := by
  unfold State.cancelWaves
  repeat' (first | with_reducible assumption | split | with_reducible apply State.modPkg_keeps
                 | with_reducible apply State.reports_keeps | with_reducible apply Keeps.foldl | (intro _))

theorem State.crash_keeps {P : Prop} {s0 s : State} {n : Nat} (hk : Keeps P s0 s) : Keeps P s0 (State.crash s n) := by
  unfold State.crash
  repeat' (first | with_reducible assumption | exact (rfl : (_ : Nat) = _) | dsimp only | split
                 | with_reducible apply State.modPkg_keeps | with_reducible apply State.event_keeps
                 | with_reducible apply State.addScore_keeps | with_reducible apply State.directHealth_keeps
                 | with_reducible apply State.settle_keeps | with_reducible apply State.modMgr_keeps
                 | with_reducible apply State.targetFails_keeps | with_reducible apply State.cancelWaves_keeps | (intro _)
                 | (simp only [Keeps.mk_eq]; with_reducible apply KeepsMk.intro))

theorem State.bothFail_keeps {P : Prop} {s0 s : State} {n : Nat} (hk : Keeps P s0 s) : Keeps P s0 (State.bothFail s n) := by
  unfold State.bothFail
  repeat' (first | with_reducible assumption | split | with_reducible apply State.settle_keeps
                 | with_reducible apply State.modMgr_keeps | with_reducible apply State.fenceDie_keeps
                 | with_reducible apply State.fenceScope_keeps)

theorem State.promote_keeps {P : Prop} {s0 s : State} {k : Nat} (hk : Keeps P s0 s) : Keeps P s0 (State.promote s k) := by
  unfold State.promote
  repeat' (first | with_reducible assumption | dsimp only | split | with_reducible apply State.event_keeps
                 | with_reducible apply State.modFw_keeps)

theorem State.followBoot_keeps {P : Prop} {s0 s : State} (hk : Keeps P s0 s) : Keeps P s0 (State.followBoot s) := by
  unfold State.followBoot
  repeat' (first | with_reducible assumption | with_reducible apply State.promote_keeps | with_reducible apply Keeps.foldl)

theorem State.endActivation_keeps {P : Prop} {s0 s : State} {k : Nat} (hk : Keeps P s0 s) :
    Keeps P s0 (State.endActivation s k) := by
  unfold State.endActivation
  repeat' (first | with_reducible assumption | split | with_reducible apply State.use_keeps
                 | with_reducible apply State.resolveCode_keeps | with_reducible apply State.resolve_keeps
                 | with_reducible apply State.modFw_keeps | with_reducible apply State.promote_keeps)

theorem State.startWave_keeps {P : Prop} {s0 s : State} {k : Nat} (hk : Keeps P s0 s) : Keeps P s0 (State.startWave s k) := by
  unfold State.startWave
  repeat' (first | with_reducible assumption | dsimp only | split | with_reducible apply State.modMgr_keeps
                 | with_reducible apply State.modFw_keeps | with_reducible apply State.endActivation_keeps
                 | with_reducible apply Keeps.foldl | (intro _))

theorem State.issueAlias_keeps {P : Prop} {s0 s : State} (hk : Keeps P s0 s) : Keeps P s0 (State.issueAlias s) := by
  unfold State.issueAlias
  repeat' (first | with_reducible assumption | exact (rfl : (_ : Nat) = _) | dsimp only | with_reducible apply State.use_keeps
                 | (intro _) | (simp only [Keeps.mk_eq]; with_reducible apply KeepsMk.intro))

theorem State.abandonRequests_keeps {P : Prop} {s0 s : State} (hk : Keeps P s0 s) : Keeps P s0 (State.abandonRequests s) := by
  unfold State.abandonRequests
  repeat' (first | with_reducible assumption | with_reducible apply State.finishReq_keeps | with_reducible apply Keeps.foldl
                 | (intro _))

theorem State.greetAgain_keeps {P : Prop} {s0 s : State} (hk : Keeps P s0 s) : Keeps P s0 (State.greetAgain s) := by
  unfold State.greetAgain
  repeat' (first | with_reducible assumption | exact (rfl : (_ : Nat) = _) | dsimp only | (intro _)
                 | (simp only [Keeps.mk_eq]; with_reducible apply KeepsMk.intro))


/-! ### Machine/Boot.lean -/

theorem State.toStandby_keeps {P : Prop} {s0 s : State} (hk : Keeps P s0 s) : Keeps P s0 s.toStandby := by
  unfold State.toStandby
  refine State.bbNotify_keeps (KeepsMk.intro hk ?_ (fun _ => rfl) (fun _ => rfl) (fun h => ?_) (fun h => ?_) (fun _ => rfl) (fun _ => rfl))
  · intro _ e he
    obtain ⟨a, -, rfl⟩ := List.mem_map.mp he
    rfl
  · simpa using h
  · simpa using h

theorem State.losePower_keeps {P : Prop} {s0 s : State} (hk : Keeps P s0 s) (hP : ¬P) : Keeps P s0 (State.losePower s) := by
  unfold State.losePower
  repeat' (first | with_reducible assumption | with_reducible apply State.toStandby_keeps | exact absurd (by assumption) hP
                 | (intro _) | (simp only [Keeps.mk_eq]; with_reducible apply KeepsMk.intro))

theorem State.takeOwner_keeps {P : Prop} {s0 s : State} (hk : Keeps P s0 s) : Keeps P s0 (State.takeOwner s) := by
  unfold State.takeOwner
  repeat' (first | with_reducible assumption | exact (rfl : (_ : Nat) = _) | dsimp only | split | (intro _)
                 | (simp only [Keeps.mk_eq]; with_reducible apply KeepsMk.intro)
                 | (refine (?_ : (_ : Nat) = _); simp; assumption))

theorem State.unseal_keeps {P : Prop} {s0 s : State} {bad : BitVec 10} (hk : Keeps P s0 s) : Keeps P s0 (State.unseal s bad) := by
  unfold State.unseal
  repeat' (first | with_reducible assumption | exact (rfl : (_ : Nat) = _) | dsimp only | (intro _)
                 | (simp only [Keeps.mk_eq]; with_reducible apply KeepsMk.intro)
                 | (refine (?_ : (_ : Nat) = _); simp; assumption))

theorem State.bootFence_keeps {P : Prop} {s0 s : State} {d : Nat} (hk : Keeps P s0 s) : Keeps P s0 (State.bootFence s d) := by
  unfold State.bootFence
  repeat' (first | with_reducible assumption | split | with_reducible apply State.event_keeps
                 | with_reducible apply State.fenceDie_keeps)

theorem State.releaseDie_keeps {P : Prop} {s0 s : State} {d : Nat} (hk : Keeps P s0 s) : Keeps P s0 (State.releaseDie s d) := by
  unfold State.releaseDie
  repeat' (first | with_reducible assumption | split | with_reducible apply State.modDie_keeps
                 | with_reducible apply State.bootFence_keeps | (refine KeepsOpt.getD (State.startMgr_keeps ?_) ?_)
                 | (refine State.startMgr_keeps ?_ _ (by assumption)))

theorem State.bootStep1_keeps {P : Prop} {s0 s : State} {f : BootFacts} (hk : Keeps P s0 s) :
    Keeps P s0 (State.bootStep1 s f) := by
  unfold State.bootStep1
  repeat' (first | with_reducible assumption | dsimp only | split | with_reducible apply State.modPkg_keeps
                 | with_reducible apply State.issueAlias_keeps | (refine KeepsOpt.getD (State.startMgr_keeps ?_) ?_)
                 | (refine State.startMgr_keeps ?_ _ (by assumption)))

theorem State.bootStep2_keeps {P : Prop} {s0 s : State} (hk : Keeps P s0 s) : Keeps P s0 s.bootStep2 := by
  refine KeepsMk.intro hk ?_ id id id id (fun _ => rfl) (fun _ => rfl)
  intro _
  refine foldl_keeps (Q := fun m : SMap Tile => ∀ e ∈ m, e.2.memOk = true) _ (fun e h => by simp at h) (fun m q h e he => ?_)
  rcases mem_smPutD he with ⟨rfl, -⟩ | h1
  · rfl
  · exact h e h1

theorem State.bootStep7_keeps {P : Prop} {s0 s : State} {f : BootFacts} (hk : Keeps P s0 s) :
    Keeps P s0 (State.bootStep7 s f) := by
  unfold State.bootStep7
  repeat' (first | with_reducible assumption | with_reducible apply State.modDev_keeps | with_reducible apply State.fenceDie_keeps
                 | with_reducible apply Keeps.foldl | (intro _))

theorem State.bootSpare_keeps {P : Prop} {s0 s : State} {d : Nat} (hk : Keeps P s0 s) : Keeps P s0 (State.bootSpare s d) := by
  unfold State.bootSpare
  repeat' (first | with_reducible assumption | split | (refine KeepsOpt.getD (State.startSparing_keeps ?_) ?_)
                 | (refine State.startSparing_keeps ?_ _ (by assumption)))

theorem State.bootBist_keeps {P : Prop} {s0 s : State} {d repairs : Nat} (hk : Keeps P s0 s) :
    Keeps P s0 (State.bootBist s d repairs) := by
  unfold State.bootBist
  repeat' (first | with_reducible assumption | with_reducible apply State.use_keeps | with_reducible apply State.event_keeps)

theorem State.bootStep9_keeps {P : Prop} {s0 s : State} {f : BootFacts} (hk : Keeps P s0 s) :
    Keeps P s0 (State.bootStep9 s f) := by
  unfold State.bootStep9
  repeat' (first | with_reducible assumption | split | with_reducible apply State.modRepair_keeps
                 | with_reducible apply State.directHealth_keeps | with_reducible apply State.bootFence_keeps
                 | with_reducible apply State.bootSpare_keeps | with_reducible apply State.bootBist_keeps
                 | with_reducible apply Keeps.foldl | (intro _))

theorem State.bootStep10_keeps {P : Prop} {s0 s : State} (hk : Keeps P s0 s) : Keeps P s0 (State.bootStep10 s) := by
  unfold State.bootStep10
  repeat' (first | with_reducible assumption | with_reducible apply State.fencePort_keeps | with_reducible apply Keeps.foldl)

theorem State.bootStep11_keeps {P : Prop} {s0 s : State} {f : BootFacts} (hk : Keeps P s0 s) :
    Keeps P s0 (State.bootStep11 s f) := by
  unfold State.bootStep11
  repeat' (first | with_reducible assumption | split | with_reducible apply State.modEth_keeps | with_reducible apply Keeps.foldl
                 | (intro _))

theorem State.bootWork_keeps {P : Prop} {s0 s : State} {k : Nat} {f : BootFacts} (hk : Keeps P s0 s) :
    Keeps P s0 (State.bootWork s k f) := by
  unfold State.bootWork
  repeat' (first | with_reducible assumption | exact (rfl : (_ : Nat) = _) | dsimp only | split
                 | with_reducible apply State.postBoot_keeps | with_reducible apply State.releaseDie_keeps
                 | with_reducible apply State.bootStep2_keeps | with_reducible apply State.bootStep7_keeps
                 | with_reducible apply State.bootStep9_keeps | with_reducible apply State.bootStep10_keeps
                 | with_reducible apply State.bootStep11_keeps | with_reducible apply Keeps.foldl | (intro _)
                 | (simp only [Keeps.mk_eq]; with_reducible apply KeepsMk.intro))

theorem State.noteAltered_keeps {P : Prop} {s0 s : State} {f : BootFacts} (hk : Keeps P s0 s) :
    Keeps P s0 (State.noteAltered s f) := by
  unfold State.noteAltered
  repeat' (first | with_reducible assumption | with_reducible apply State.modFw_keeps | with_reducible apply Keeps.foldl
                 | (intro _))

theorem State.safeQuiesce_keeps {P : Prop} {s0 s : State} {c : Nat} (hk : Keeps P s0 s) : Keeps P s0 (State.safeQuiesce s c) := by
  unfold State.safeQuiesce
  repeat' (first | with_reducible assumption | split | with_reducible apply State.modCtx_keeps
                 | with_reducible apply State.stopChans_keeps)

theorem State.enterSafe_keeps {P : Prop} {s0 s : State} {why : BitVec 3} (hk : Keeps P s0 s) :
    Keeps P s0 (State.enterSafe s why) := by
  unfold State.enterSafe
  repeat' (first | with_reducible assumption | split | with_reducible apply State.modPkg_keeps
                 | with_reducible apply State.bbNotify_keeps | with_reducible apply State.safeQuiesce_keeps
                 | with_reducible apply Keeps.foldl)

theorem State.stageRead_keeps {P : Prop} {s0 s : State} {n : Nat} {seq : W32} (hk : Keeps P s0 s) :
    Keeps P s0 (State.stageRead s n seq) := by
  unfold State.stageRead
  repeat' (first | with_reducible assumption | split | with_reducible apply State.emit_keeps)

theorem State.stageOut_keeps {P : Prop} {s0 s : State} {r : Req} {data : List Byte} {flash : FlashWrite} (hk : Keeps P s0 s) :
    KeepsOut P s0 (State.stageOut s r data flash) := by
  unfold State.stageOut
  repeat' (first | with_reducible assumption | split | with_reducible apply State.modPkg_keeps
                 | with_reducible apply State.modFw_keeps | with_reducible apply State.toStandby_keeps
                 | with_reducible apply KeepsOut.checked | with_reducible apply KeepsOut.ok)

theorem State.staged_keeps {P : Prop} {s0 s : State} {r : Req} {flash : FlashWrite} (hk : Keeps P s0 s) :
    Keeps P s0 (State.staged s r flash) := by
  unfold State.staged
  repeat' (first | with_reducible assumption | split | with_reducible apply State.event_keeps
                 | with_reducible apply State.modFw_keeps)


/-! ### Machine/Park.lean -/

theorem State.unpark_keeps {P : Prop} {s0 s : State} {l : Nat} (hk : Keeps P s0 s) : Keeps P s0 (State.unpark s l) := by
  unfold State.unpark
  repeat' (first | with_reducible assumption | with_reducible apply State.modTileL_keeps | (intro _)
                 | (refine (?_ : Tile.memOk _ = true); simp_all [Tile.memOk]; done))

theorem State.wakeGated_keeps {P : Prop} {s0 s : State} (hk : Keeps P s0 s) : Keeps P s0 (State.wakeGated s) := by
  unfold State.wakeGated
  repeat' (first | with_reducible assumption | with_reducible apply State.unpark_keeps | with_reducible apply Keeps.foldl)


/-! ### Machine/Power.lean -/

theorem State.enterEmergency_keeps {P : Prop} {s0 s : State} (hk : Keeps P s0 s) : Keeps P s0 (State.enterEmergency s) := by
  unfold State.enterEmergency
  repeat' (first | with_reducible assumption | exact (rfl : (_ : Nat) = _) | dsimp only | split
                 | with_reducible apply State.event_keeps | (intro _)
                 | (simp only [Keeps.mk_eq]; with_reducible apply KeepsMk.intro))


/-! ### Machine/Time.lean -/

theorem State.advanceTide_keeps {P : Prop} {s0 s : State} {d : Nat} (hk : Keeps P s0 s) (hP : ¬P) :
    Keeps P s0 (State.advanceTide s d) := by
  unfold State.advanceTide
  repeat' (first | with_reducible assumption | exact absurd (by assumption) hP | (intro _)
                 | (simp only [Keeps.mk_eq]; with_reducible apply KeepsMk.intro))

theorem State.setParent_keeps {P : Prop} {s0 s : State} (hk : Keeps P s0 s) : Keeps P s0 (State.setParent s) := by
  unfold State.setParent
  repeat' (first | with_reducible assumption | exact (rfl : (_ : Nat) = _) | dsimp only | split
                 | with_reducible apply State.event_keeps | (intro _)
                 | (simp only [Keeps.mk_eq]; with_reducible apply KeepsMk.intro))

theorem State.holdOver_keeps {P : Prop} {s0 s : State} (hk : Keeps P s0 s) : Keeps P s0 (State.holdOver s) := by
  unfold State.holdOver
  repeat' (first | with_reducible assumption | exact (rfl : (_ : Nat) = _) | dsimp only | split
                 | with_reducible apply State.event_keeps | (intro _)
                 | (simp only [Keeps.mk_eq]; with_reducible apply KeepsMk.intro))

theorem State.timeFault_keeps {P : Prop} {s0 s : State} (hk : Keeps P s0 s) : Keeps P s0 (State.timeFault s) := by
  unfold State.timeFault
  repeat' (first | with_reducible assumption | with_reducible apply State.event_keeps)

theorem State.measured_keeps {P : Prop} {s0 s : State} {theta : Int} (hk : Keeps P s0 s) (hP : ¬P) :
    Keeps P s0 (State.measured s theta) := by
  unfold State.measured
  repeat' (first | with_reducible assumption | dsimp only | split | with_reducible apply State.event_keeps
                 | with_reducible apply State.gaugeSample_keeps | with_reducible apply State.advanceTide_keeps
                 | with_reducible apply State.timeFault_keeps | exact absurd (by assumption) hP | (intro _)
                 | (simp only [Keeps.mk_eq]; with_reducible apply KeepsMk.intro))

theorem State.sendTide_keeps {P : Prop} {s0 s : State} {j : Nat} {body : BitVec 256} (hk : Keeps P s0 s) :
    Keeps P s0 (State.sendTide s j body) := by
  unfold State.sendTide
  repeat' (first | with_reducible assumption | with_reducible apply State.sendHop_keeps)

theorem State.tideResponse_keeps {P : Prop} {s0 s : State} {j : Nat} {b : BitVec 256} (hk : Keeps P s0 s) (hP : ¬P) :
    Keeps P s0 (State.tideResponse s j b) := by
  unfold State.tideResponse
  repeat' (first | with_reducible assumption | split | with_reducible apply State.holdOver_keeps
                 | with_reducible apply State.timeFault_keeps | with_reducible apply State.measured_keeps
                 | exact absurd (by assumption) hP | (intro _) | (simp only [Keeps.mk_eq]; with_reducible apply KeepsMk.intro))


/-! ### Machine/Secure.lean -/

theorem State.presentOwner_keeps {P : Prop} {s0 s : State} {c : Option (W64 × W32 × BitVec 768)} (hk : Keeps P s0 s) :
    Keeps P s0 (State.presentOwner s c) := by
  unfold State.presentOwner
  repeat' (first | with_reducible assumption | exact (rfl : (_ : Nat) = _) | dsimp only | split | (intro _)
                 | (simp only [Keeps.mk_eq]; with_reducible apply KeepsMk.intro))

theorem State.keyFlow_keeps {P : Prop} {s0 s : State} {n : Nat} {x : Sess} {m : List Byte} (hk : Keeps P s0 s) :
    Keeps P s0 (State.keyFlow s n x m) := by
  unfold State.keyFlow
  repeat' (first | with_reducible assumption | split | with_reducible apply State.modSess_keeps
                 | with_reducible apply State.presentOwner_keeps)


/-! ### Machine/Session.lean -/

theorem State.takeSlot_keeps {P : Prop} {s0 s : State} {n slot : Nat} {x : Sess} (hk : Keeps P s0 s) :
    Keeps P s0 (State.takeSlot s n slot x) := by
  unfold State.takeSlot
  repeat' (first | with_reducible assumption | exact (rfl : (_ : Nat) = _) | dsimp only | split
                 | with_reducible apply State.answer_keeps | (intro _)
                 | (simp only [Keeps.mk_eq]; with_reducible apply KeepsMk.intro) | with_reducible apply KeepsOut.checked
                 | with_reducible exact KeepsOut.refuse _ _)

theorem State.closeBye_keeps {P : Prop} {s0 s : State} {n : Nat} (hk : Keeps P s0 s) : Keeps P s0 (State.closeBye s n) := by
  unfold State.closeBye
  repeat' (first | with_reducible assumption | split | with_reducible apply State.endSession_keeps)

theorem State.writeMailbox_keeps {P : Prop} {s0 s : State} {n : Nat} {x : Sess} {rkey : W32} {va : Nat} {bs : List Byte} (hk : Keeps P s0 s) :
    Keeps P s0 (State.writeMailbox s n x rkey va bs) := by
  unfold State.writeMailbox
  repeat' (first | with_reducible assumption | split | with_reducible apply State.modSess_keeps
                 | with_reducible apply State.emit_keeps | with_reducible apply State.flush_keeps
                 | with_reducible apply State.endSession_keeps | with_reducible apply State.closeBye_keeps)


/-! ### Machine/Regs.lean -/

theorem State.writeTileReg_keeps {P : Prop} {s0 s : State} {p off : Nat} {v m : W32} (hk : Keeps P s0 s) :
    Keeps P s0 (State.writeTileReg s p off v m) := by
  unfold State.writeTileReg
  repeat' (first | with_reducible assumption | split | with_reducible apply State.modTileP_keeps
                 | with_reducible apply State.ucSignal_keeps | with_reducible apply State.ucTake_keeps | (intro _)
                 | (refine (?_ : Tile.memOk _ = true); simp_all [Tile.memOk]; done))

theorem State.writePortReg_keeps {P : Prop} {s0 s : State} {j off : Nat} {v m : W32} (hk : Keeps P s0 s) :
    Keeps P s0 (State.writePortReg s j off v m) := by
  unfold State.writePortReg
  repeat' (first | with_reducible assumption | split | with_reducible apply State.modPort_keeps)

theorem State.writeMailboxWord_keeps {P : Prop} {s0 s : State} {off : Nat} {v m : W32} (hk : Keeps P s0 s) :
    Keeps P s0 (State.writeMailboxWord s off v m) := by
  unfold State.writeMailboxWord
  repeat' (first | with_reducible assumption | dsimp only | split | with_reducible apply State.modSess_keeps)

theorem State.writePkgReg_keeps {P : Prop} {s0 s : State} {off : Nat} {v m : W32} (hk : Keeps P s0 s) :
    Keeps P s0 (State.writePkgReg s off v m) := by
  unfold State.writePkgReg
  repeat' (first | with_reducible assumption | exact (rfl : (_ : Nat) = _) | dsimp only | split
                 | with_reducible apply State.modCtx_keeps | with_reducible apply State.writeMailboxWord_keeps | (intro _)
                 | (simp only [Keeps.mk_eq]; with_reducible apply KeepsMk.intro))

theorem State.noteCleared_keeps {P : Prop} {s0 s : State} {a : Nat} {v m : W32} (hk : Keeps P s0 s) :
    Keeps P s0 (State.noteCleared s a v m) := by
  unfold State.noteCleared
  repeat' (first | with_reducible assumption | exact (rfl : (_ : Nat) = _) | dsimp only | split | (intro _)
                 | (simp only [Keeps.mk_eq]; with_reducible apply KeepsMk.intro))

theorem State.writeReg_keeps {P : Prop} {s0 s : State} {a : Nat} {v m : W32} (hk : Keeps P s0 s) :
    Keeps P s0 (State.writeReg s a v m) := by
  unfold State.writeReg
  repeat' (first | with_reducible assumption | dsimp only | split | with_reducible apply State.writeTileReg_keeps
                 | with_reducible apply State.writePortReg_keeps | with_reducible apply State.writePkgReg_keeps
                 | with_reducible apply State.noteCleared_keeps)

theorem State.hwSet_keeps {P : Prop} {s0 s : State} {a i : Nat} (hk : Keeps P s0 s) : Keeps P s0 (State.hwSet s a i) := by
  unfold State.hwSet
  repeat' (first | with_reducible assumption | dsimp only | split | with_reducible apply State.modCtx_keeps
                 | with_reducible apply State.accFlag_keeps | with_reducible apply State.vecFlag_keeps
                 | with_reducible apply State.partEvt_keeps | with_reducible apply State.linkEvt_keeps)


/-! ### Machine/Repair.lean -/

theorem fenceCmd_keeps {P : Prop} {s0 : State} {sess : Fin 64} {seq : W32} {release : Bool} {s : State} {core : Sess → Req → CmdOut} (hk : Keeps P s0 s) (hc : ∀ x r, KeepsOut P s0 (core x r)) :
    KeepsAns P s0 (fenceCmd sess seq release s core) := by
  unfold fenceCmd
  repeat' (first | with_reducible assumption | with_reducible apply State.runReq_keeps | with_reducible apply KeepsAns.next)

theorem State.poisonDie_keeps {P : Prop} {s0 s : State} {d : Nat} (hk : Keeps P s0 s) : Keeps P s0 (State.poisonDie s d) := by
  unfold State.poisonDie
  repeat' (first | with_reducible assumption | exact (rfl : (_ : Nat) = _) | dsimp only | split | with_reducible apply Keeps.foldl
                 | (intro _) | (simp only [Keeps.mk_eq]; with_reducible apply KeepsMk.intro)
                 | with_reducible exact memWf_memClear (by assumption) _ _)

theorem State.backInService_keeps {P : Prop} {s0 s : State} {d : Nat} (hk : Keeps P s0 s) :
    Keeps P s0 (State.backInService s d) := by
  unfold State.backInService
  repeat' (first | with_reducible assumption | split | with_reducible apply State.modDie_keeps
                 | with_reducible apply State.modPort_keeps | with_reducible apply State.modEth_keeps
                 | with_reducible apply State.saveBinding_keeps | with_reducible apply State.addScore_keeps
                 | with_reducible apply State.poisonDie_keeps | with_reducible apply Keeps.foldl | (intro _))

theorem State.applySram_keeps {P : Prop} {s0 s : State} {d n : Nat} (hk : Keeps P s0 s) : Keeps P s0 (State.applySram s d n) := by
  unfold State.applySram
  repeat' (first | with_reducible assumption | split | with_reducible apply State.modDie_keeps
                 | with_reducible apply State.modRepair_keeps)

theorem State.modSparing_keeps {P : Prop} {s0 s : State} {x : Sparing} {f : Sparing → Sparing} (hk : Keeps P s0 s) :
    Keeps P s0 (State.modSparing s x f) := by
  unfold State.modSparing
  repeat' (first | with_reducible assumption | with_reducible apply State.modPkg_keeps)

theorem State.leaveTile_keeps {P : Prop} {s0 s : State} {p : Nat} (hk : Keeps P s0 s) : Keeps P s0 (State.leaveTile s p) := by
  unfold State.leaveTile
  repeat' (first | with_reducible assumption | exact (rfl : (_ : Nat) = _) | dsimp only
                 | with_reducible apply State.modTileP_keeps | with_reducible apply State.modDie_keeps | (intro _)
                 | (simp only [Keeps.mk_eq]; with_reducible apply KeepsMk.intro)
                 | (refine (?_ : Tile.memOk _ = true); simp_all [Tile.memOk]; done))

theorem State.setLaser_keeps {P : Prop} {s0 s : State} {b v : Nat} (hk : Keeps P s0 s) : Keeps P s0 (State.setLaser s b v) := by
  unfold State.setLaser
  repeat' (first | with_reducible assumption | exact (rfl : (_ : Nat) = _) | dsimp only | (intro _)
                 | (simp only [Keeps.mk_eq]; with_reducible apply KeepsMk.intro))

theorem State.loseLight_keeps {P : Prop} {s0 s : State} {b : Nat} (hk : Keeps P s0 s) : Keeps P s0 (State.loseLight s b) := by
  unfold State.loseLight
  repeat' (first | with_reducible assumption | split | with_reducible apply State.modPort_keeps
                 | with_reducible apply State.modEth_keeps | with_reducible apply State.endSession_keeps
                 | with_reducible apply State.enterRetrain_keeps | with_reducible apply Keeps.foldl | (intro _))


/-! ### Machine/Export.lean -/

theorem State.spError_keeps {P : Prop} {s0 s : State} {p word : Nat} {double : Bool} (hk : Keeps P s0 s) :
    Keeps P s0 (State.spError s p word double) := by
  unfold State.spError
  repeat' (first | with_reducible assumption | split | with_reducible apply State.modTileP_keeps
                 | with_reducible apply State.addScore_keeps | (intro _)
                 | (refine (?_ : Tile.memOk _ = true); simp_all [Tile.memOk]; done))

theorem State.formList_keeps {P : Prop} {s0 s : State} {slot : Nat} {rs : List TelemRec} (hk : Keeps P s0 s) :
    Keeps P s0 (State.formList s slot rs) := by
  unfold State.formList
  repeat' (first | with_reducible assumption | with_reducible apply State.formTo_keeps | with_reducible apply Keeps.foldl
                 | (intro _))

theorem State.setSnapBank_keeps {P : Prop} {s0 s : State} {b : Bool} {x : Shadow} (hk : Keeps P s0 s) :
    Keeps P s0 (State.setSnapBank s b x) := by
  unfold State.setSnapBank
  repeat' (first | with_reducible assumption | exact (rfl : (_ : Nat) = _) | dsimp only | (intro _)
                 | (simp only [Keeps.mk_eq]; with_reducible apply KeepsMk.intro))

theorem State.dropRecord_keeps {P : Prop} {s0 s : State} {slot : Nat} (hk : Keeps P s0 s) :
    Keeps P s0 (State.dropRecord s slot) := by
  unfold State.dropRecord
  repeat' (first | with_reducible assumption | exact (rfl : (_ : Nat) = _) | dsimp only | split | (intro _)
                 | (simp only [Keeps.mk_eq]; with_reducible apply KeepsMk.intro))

theorem State.takeSnapshot_keeps {P : Prop} {s0 s : State} {t : Nat} (hk : Keeps P s0 s) :
    Keeps P s0 (State.takeSnapshot s t) := by
  unfold State.takeSnapshot
  repeat' (first | with_reducible assumption | exact (rfl : (_ : Nat) = _) | dsimp only
                 | with_reducible apply State.setSnapBank_keeps | with_reducible apply State.dropRecord_keeps
                 | with_reducible apply Keeps.foldl | (intro _) | (simp only [Keeps.mk_eq]; with_reducible apply KeepsMk.intro))

theorem State.laneAction_keeps {P : Prop} {s0 s : State} {j k : Nat} (hk : Keeps P s0 s) :
    Keeps P s0 (State.laneAction s j k) := by
  unfold State.laneAction
  repeat' (first | with_reducible assumption | split | with_reducible apply State.modPort_keeps
                 | with_reducible apply State.directHealth_keeps | with_reducible apply State.spareLane_keeps)

theorem State.laneMargin_keeps {P : Prop} {s0 s : State} {j k : Nat} {watch action : Bool} (hk : Keeps P s0 s) :
    Keeps P s0 (State.laneMargin s j k watch action) := by
  unfold State.laneMargin
  repeat' (first | with_reducible assumption | split | with_reducible apply State.marginWatch_keeps
                 | with_reducible apply State.laneAction_keeps)

theorem State.readLanes_keeps {P : Prop} {s0 s : State} {j : Nat} {rx tx : BitVec 144} (hk : Keeps P s0 s) :
    Keeps P s0 (State.readLanes s j rx tx) := by
  unfold State.readLanes
  repeat' (first | with_reducible assumption | dsimp only | split | with_reducible apply State.modPort_keeps
                 | with_reducible apply State.gaugeSample_keeps | with_reducible apply State.directHealth_keeps
                 | with_reducible apply State.laneMargin_keeps | with_reducible apply Keeps.foldl | (intro _))

theorem State.setFlowWindow_keeps {P : Prop} {s0 s : State} {ns : Nat} (hk : Keeps P s0 s) :
    Keeps P s0 (State.setFlowWindow s ns) := by
  unfold State.setFlowWindow
  repeat' (first | with_reducible assumption | exact (rfl : (_ : Nat) = _) | dsimp only | split | (intro _)
                 | (simp only [Keeps.mk_eq]; with_reducible apply KeepsMk.intro))


/-! ### Machine/Fetch.lean -/

theorem State.ringPoison_keeps {P : Prop} {s0 s : State} {h : W32} {index : W32} (hk : Keeps P s0 s) :
    Keeps P s0 (State.ringPoison s h index) := by
  unfold State.ringPoison
  repeat' (first | with_reducible assumption | with_reducible exact Keeps.refl _ | exact (rfl : (_ : Nat) = _) | dsimp only
                 | split | with_reducible apply State.faultCh_keeps | (intro _)
                 | (simp only [Keeps.mk_eq]; with_reducible apply KeepsMk.intro) | (refine (?_ : (_ : Nat) = _); simp; done))

theorem State.checkOverrun_keeps {P : Prop} {s0 s : State} {h : W32} {c : Chan} (hk : Keeps P s0 s) :
    Keeps P s0 (State.checkOverrun s h c) := by
  unfold State.checkOverrun
  repeat' (first | with_reducible assumption | with_reducible exact Keeps.refl _ | dsimp only | split
                 | with_reducible apply State.faultCh_keeps | (intro _) | (refine (?_ : (_ : Nat) = _); simp; done))

theorem State.readControl_keeps {P : Prop} {s0 s : State} {h : W32} (hk : Keeps P s0 s) : Keeps P s0 (State.readControl s h) := by
  unfold State.readControl
  repeat' (first | with_reducible assumption | with_reducible exact Keeps.refl _ | dsimp only | split
                 | with_reducible apply State.modChan_keeps | with_reducible apply State.releaseHeld_keeps
                 | with_reducible apply State.lcRead_keeps | with_reducible apply State.noteRead_keeps
                 | with_reducible apply State.ringPoison_keeps | with_reducible apply State.checkOverrun_keeps | (intro _)
                 | (refine (?_ : (_ : Nat) = _); simp; done))

theorem State.chooseEngine_keeps {P : Prop} {s0 s : State} {h : W32} {c : Chan} {raw : BitVec 1024} (hk : Keeps P s0 s) :
    Keeps P s0 (State.chooseEngine s h c raw) := by
  unfold State.chooseEngine
  repeat' (first | with_reducible assumption | with_reducible exact Keeps.refl _ | dsimp only | split
                 | with_reducible apply State.modChan_keeps | (intro _) | (refine (?_ : (_ : Nat) = _); simp; done))

theorem State.take_keeps {P : Prop} {s0 s : State} {h : W32} {c : Chan} {raw : BitVec 1024} (hk : Keeps P s0 s) :
    Keeps P s0 (State.take s h c raw) := by
  unfold State.take
  repeat' (first | with_reducible assumption | with_reducible exact Keeps.refl _ | exact (rfl : (_ : Nat) = _) | dsimp only
                 | split | with_reducible apply State.modChan_keeps | with_reducible apply State.touchQueue_keeps
                 | with_reducible apply State.refreshHeads_keeps | with_reducible apply State.failOp_keeps
                 | with_reducible apply State.failColl_keeps | with_reducible apply State.chooseEngine_keeps | (intro _)
                 | (simp only [Keeps.mk_eq]; with_reducible apply KeepsMk.intro) | (refine (?_ : (_ : Nat) = _); simp; done))

theorem State.fetchLoop_keeps {P : Prop} {s0 : State} {h : W32} : ∀ (n : Nat) {b : Bool} {s : State}, Keeps P s0 s → Keeps P s0 (State.fetchLoop h n b s)
  | 0, _, _, hk => hk
  | n + 1, b, s, hk => by
    unfold State.fetchLoop
    repeat' (first | with_reducible assumption | with_reducible exact Keeps.refl _ | dsimp only | split
                   | with_reducible apply State.lcRead_keeps | with_reducible apply State.noteRead_keeps
                   | with_reducible apply State.ringPoison_keeps | with_reducible apply State.take_keeps
                   | with_reducible apply State.fetchLoop_keeps | (intro _) | (refine (?_ : (_ : Nat) = _); simp; done))


/-! ### Machine/Rdma.lean -/

theorem State.modQp_keeps {P : Prop} {s0 s : State} {q : Nat} {f : Qp → Qp} (hk : Keeps P s0 s) :
    Keeps P s0 (State.modQp s q f) := by
  unfold State.modQp
  repeat' (first | with_reducible assumption | exact (rfl : (_ : Nat) = _) | dsimp only | (intro _)
                 | (simp only [Keeps.mk_eq]; with_reducible apply KeepsMk.intro))

theorem State.nakQp_keeps {P : Prop} {s0 s : State} {n code : Nat} {c : Nat} (hk : Keeps P s0 s) :
    Keeps P s0 (State.nakQp s n code c) := by
  unfold State.nakQp
  repeat' (first | with_reducible assumption | with_reducible apply State.modCtx_keeps | with_reducible apply State.emit_keeps
                 | with_reducible apply State.modQp_keeps)

theorem State.storeCipher_keeps {P : Prop} {s0 : State} {c : Nat} : ∀ {ls : List (List Byte)} {a : Nat} {s : State}, Keeps P s0 s → Keeps P s0 (State.storeCipher s c a ls)
  | [], _, _, hk => hk
  | l :: ls, a, s, hk => by
    unfold State.storeCipher
    repeat' (first | with_reducible assumption | with_reducible apply State.store_keeps
                   | with_reducible apply State.storeCipher_keeps)

theorem State.serveRdma_keeps {P : Prop} {s0 s : State} {n : Nat} {q : Qp} {w : RdmaReq} (hk : Keeps P s0 s) :
    Keeps P s0 (State.serveRdma s n q w) := by
  unfold State.serveRdma
  repeat' (first | with_reducible assumption | split | with_reducible apply State.emit_keeps
                 | with_reducible apply State.noteRead_keeps | with_reducible apply State.modQp_keeps
                 | with_reducible apply State.nakQp_keeps | with_reducible apply State.storeCipher_keeps)

theorem State.serveQp_keeps {P : Prop} {s0 : State} {n : Nat} : ∀ (k : Nat) {s : State}, Keeps P s0 s → Keeps P s0 (State.serveQp k n s)
  | 0, _, hk => hk
  | k + 1, s, hk => by
    unfold State.serveQp
    repeat' (first | with_reducible assumption | split | with_reducible apply State.modQp_keeps
                   | with_reducible apply State.serveRdma_keeps | with_reducible apply State.serveQp_keeps)

theorem State.takeRdma_keeps {P : Prop} {s0 s : State} {n : Nat} {w : RdmaReq} (hk : Keeps P s0 s) :
    Keeps P s0 (State.takeRdma s n w) := by
  unfold State.takeRdma
  repeat' (first | with_reducible assumption | dsimp only | split | with_reducible apply State.emit_keeps
                 | with_reducible apply State.modQp_keeps | with_reducible apply State.serveQp_keeps)

theorem State.serveQps_keeps {P : Prop} {s0 s : State} (hk : Keeps P s0 s) : Keeps P s0 (State.serveQps s) := by
  unfold State.serveQps
  repeat' (first | with_reducible assumption | with_reducible apply State.serveQp_keeps | with_reducible apply Keeps.foldl
                 | (intro _))


/-! ### Machine/Utility.lean -/

theorem State.ucRead_keeps {P : Prop} {s0 s : State} {l a k : Nat} (hk : Keeps P s0 s) : KeepsUc P s0 (s.ucRead l a k) := by
  unfold State.ucRead
  (repeat' split) <;> first
    | exact trivial
    | exact hk
    | exact State.use_keeps hk
    | exact State.use_keeps (State.lcRead_keeps (State.noteRead_keeps hk))
    | exact State.lcRead_keeps hk

theorem State.ucWrite_keeps {P : Prop} {s0 s : State} {l a k v : Nat} (hk : Keeps P s0 s) : KeepsUc P s0 (s.ucWrite l a k v) := by
  unfold State.ucWrite
  dsimp only
  (repeat' split) <;> first
    | exact trivial
    | exact State.modUc_keeps hk (fun u h => memWf_memWriteN h _ _ _)
    | exact State.writeReg_keeps (State.writeReg_keeps hk)
    | exact State.writeReg_keeps hk
    | exact State.writeAt_keeps hk

theorem State.ucNext_keeps {P : Prop} {s0 s : State} {l : Nat} {u : UtilCore} {pc : W64} (hk : Keeps P s0 s) :
    Keeps P s0 (State.ucNext s l u pc) := by
  unfold State.ucNext
  repeat' (first | with_reducible assumption | with_reducible apply State.modUc_keeps | (intro _))

theorem State.ucThen_keeps {P : Prop} {s0 : State} {α : Type} {s : State} {l : Nat} {u : UtilCore} {a c : Nat} {r : UcAns α}
    {f : α → State → State} (hk : Keeps P s0 s) (hr : KeepsUc P s0 r) (hf : ∀ v t, Keeps P s0 t → Keeps P s0 (f v t)) :
    Keeps P s0 (s.ucThen l u a c r f) := by
  cases r with
  | done v t => exact hf v t hr
  | held => exact hk
  | fault => exact State.ucException_keeps hk

theorem State.ucLoad_keeps {P : Prop} {s0 s : State} {l : Nat} {u : UtilCore} {a k : Nat} {next : W64} {get : Nat → UtilCore}
    (hk : Keeps P s0 s) : Keeps P s0 (s.ucLoad l u a k next get) := by
  unfold State.ucLoad
  split
  · exact State.ucException_keeps hk
  · exact State.ucThen_keeps hk (State.ucRead_keeps hk) (fun v t h => State.ucNext_keeps h)

theorem State.ucStore_keeps {P : Prop} {s0 s : State} {l : Nat} {u : UtilCore} {a k v : Nat} {next : W64}
    (hk : Keeps P s0 s) : Keeps P s0 (s.ucStore l u a k v next) := by
  unfold State.ucStore
  split
  · exact State.ucException_keeps hk
  · exact State.ucThen_keeps hk (State.ucWrite_keeps hk) (fun v t h => State.ucNext_keeps h)

theorem State.ucAtomic_keeps {P : Prop} {s0 s : State} {l : Nat} {u : UtilCore} {w : W32} {next : W64} (hk : Keeps P s0 s) :
    KeepsOpt P s0 (s.ucAtomic l u w next) := by
  unfold State.ucAtomic
  extract_lets k a v sx src bad
  split
  · exact KeepsOpt.none
  · split
    · split
      · exact KeepsOpt.none
      · exact KeepsOpt.some (State.ucLoad_keeps hk)
    · split
      · exact KeepsOpt.some (State.ucException_keeps hk)
      · refine KeepsOpt.some (State.ucThen_keeps hk (State.ucRead_keeps hk) (fun n t h => ?_))
        split
        · exact State.ucThen_keeps h (State.ucWrite_keeps h) (fun _ t h => State.ucNext_keeps h)
        · exact State.ucNext_keeps h
    · split
      · exact KeepsOpt.none
      · split
        · exact KeepsOpt.some (State.ucException_keeps hk)
        · exact KeepsOpt.some (State.ucThen_keeps hk (State.ucRead_keeps hk) (fun n t h =>
            State.ucThen_keeps h (State.ucWrite_keeps h) (fun _ t h => State.ucNext_keeps h)))

theorem State.ucSystem_keeps {P : Prop} {s0 s : State} {l : Nat} {u : UtilCore} {w : W32} {next : W64} (hk : Keeps P s0 s) :
    KeepsOpt P s0 (s.ucSystem l u w next) := by
  unfold State.ucSystem
  (repeat' split) <;> first
    | exact KeepsOpt.none
    | exact KeepsOpt.some (State.ucException_keeps hk)
    | exact KeepsOpt.some (State.ucNext_keeps hk)
    | exact KeepsOpt.map (fun u => State.ucNext_keeps hk)

theorem State.ucExec_keeps {P : Prop} {s0 s : State} {l : Nat} {u : UtilCore} {w : W32} {len : Nat} (hk : Keeps P s0 s) :
    KeepsOpt P s0 (s.ucExec l u w len) := by
  unfold State.ucExec
  extract_lets next rd f3 a b put at_
  (repeat' split) <;> first
    | exact KeepsOpt.none
    | exact KeepsOpt.map (fun x => State.ucNext_keeps hk)
    | exact KeepsOpt.some (State.ucNext_keeps hk)
    | exact KeepsOpt.some (State.ucLoad_keeps hk)
    | exact KeepsOpt.some (State.ucStore_keeps hk)
    | exact State.ucAtomic_keeps hk
    | exact State.ucSystem_keeps hk

theorem State.ucInstr_keeps {P : Prop} {s0 s : State} {l : Nat} (hk : Keeps P s0 s) : Keeps P s0 (s.ucInstr l) := by
  unfold State.ucInstr
  extract_lets u pc illegal
  refine State.ucThen_keeps hk (State.ucRead_keeps hk) (fun lo t h => ?_)
  split
  · exact State.ucThen_keeps h (State.ucRead_keeps h) (fun hi t2 h2 => KeepsOpt.getD (State.ucExec_keeps h2) (State.ucException_keeps h2))
  · exact KeepsOpt.getD (KeepsOpt.bind (fun w => State.ucExec_keeps h)) (State.ucException_keeps h)

theorem State.ucStep_keeps {P : Prop} {s0 s : State} {l : Nat} (hk : Keeps P s0 s) : Keeps P s0 (State.ucStep s l) := by
  unfold State.ucStep
  repeat' (first | with_reducible assumption | split | with_reducible apply State.modUc_keeps
                 | with_reducible apply State.ucInstr_keeps | (intro _))

theorem State.coresAct_keeps {P : Prop} {s0 s : State} (hk : Keeps P s0 s) : Keeps P s0 (State.coresAct s) := by
  unfold State.coresAct
  repeat' (first | with_reducible assumption | with_reducible apply State.ucStep_keeps | with_reducible apply Keeps.foldl)


/-! ### Machine/Tick.lean -/

theorem State.ackSess_keeps {P : Prop} {s0 s : State} {n : Nat} (hk : Keeps P s0 s) : Keeps P s0 (State.ackSess s n) := by
  unfold State.ackSess
  repeat' (first | with_reducible assumption | dsimp only | split | with_reducible apply State.modSess_keeps
                 | with_reducible apply State.flush_keeps)

theorem State.tick_keeps {P : Prop} {s0 s : State} (hk : Keeps P s0 s) (hP : ¬P) : Keeps P s0 (State.tick s) := by
  unfold State.tick
  repeat' (first | with_reducible assumption | split | with_reducible apply State.askAll_keeps
                 | with_reducible apply State.noteAble_keeps | with_reducible apply State.followBoot_keeps
                 | with_reducible apply State.wakeGated_keeps | with_reducible apply State.advanceTide_keeps
                 | with_reducible apply State.serveQps_keeps | with_reducible apply State.coresAct_keeps
                 | with_reducible apply State.ackSess_keeps | with_reducible apply Keeps.foldl)

end Sys2Proof.Machine
end

