-- ==== Sys2Proof/WellFormed.lean ====
section
/-! DEFINITION. The operand values that a command can carry, beyond what the types of its operands say: a line that the
memories have, a set of lanes that a port can be trained on, a list without repeats.  `exec` needs none of it: a command with
other operands changes nothing that the operand would have named. -/

namespace Sys2Proof

/-- A line of 64 bytes of Tier F or Tier S (01 R43, 08 R222). -/
def tierLineOk (line : Nat) : Bool :=
  decide (line < 0x16800000000 / 64) || (decide (0x100000000000 / 64 ≤ line) && decide (line < 0x128000000000 / 64))

/-- Lines of a memory device: 36,864 frames of 2 MiB in a stack, 32,768 in a package (08 R224). -/
def deviceLines (dev : Fin 60) : Nat := (if dev.val < 20 then 36864 else 32768) * 32768

/-- The number under which a device keeps a line: the tier line that it holds, or 2^42 and the line of the device where no
window holds it. -/
def lineKeyOk (dev : Fin 60) (line : Nat) : Bool :=
  tierLineOk line || (decide (2 ^ 42 ≤ line) && decide (line < 2 ^ 42 + deviceLines dev))

/-- No value stands twice in a list. -/
def noRepeat : List (Nat × Nat) → Bool
  | [] => true
  | x :: xs => !xs.contains x && noRepeat xs

/-- Lanes in a set of the nine lanes of a port (09 R250). -/
def laneCount (lanes : BitVec 9) : Nat := ((List.range 9).filter (fun i => lanes.getLsbD i)).length

/-- A row repair takes back four different lines (17 R490). -/
def AutoSpare.wf (dev : Fin 60) : AutoSpare → Bool
  | .line l => lineKeyOk dev l
  | .row _ _ _ l0 l1 l2 l3 => [l0, l1, l2, l3].all (lineKeyOk dev) && noRepeat ([l0, l1, l2, l3].map (fun l => (l, 0)))

/-- The repairs found at boot are told once for each die (13 R383). -/
def BootFacts.wf (f : BootFacts) : Bool := noRepeat (f.repairs.map (fun e => (e.1.val, 0)))

/-- The operands of a command are ones that a sender or a unit can give. -/
def Instr.wf : Instr → Bool
  | .hello _ _ | .bye _ _ | .ping _ _ | .ctxCreate _ _ | .ctxBind _ _ | .ctxQuiesce _ _ | .ctxQuiesceDone _ | .ctxDestroy _ _
  | .ctxClearComplete _ | .chanCreate _ _ | .windowZeroFillDone _ | .chanStart _ _ | .chanStop _ _ | .chanStopDone _ | .chanDestroy _ _
  | .chanQuery _ _ | .qpCreate _ _ | .qpModify _ _ | .qpDestroy _ _ | .partSetCoord _ _ | .partJoin _ _ | .linkExpect _ _
  | .transitGrant _ _ | .faultModeSet _ _ | .leveeRaise _ _ | .netConfig _ _ | .gaugeSubscribe _ _ | .snapshotSchedule _ _
  | .timeRoleSet _ _ | .fwStage _ _ _ _ _ | .fwActivate _ _ | .bistRun _ _ | .dieFence _ _ | .dieRelease _ _ | .dieSpare _ _
  | .hbmRepair _ _ _ | .attest _ _ | .sessionKey _ _ | .ctxKeyInstall _ _ | .powerEnvelopeSet _ _ | .debugOpen _ _ | .regRead _ _
  | .regWrite _ _ | .debugSessionEnd | .aidarConnect _ _ _ _ | .sessionEnd _ | .slotPost _ _ _ | .requestTake _ _ | .commandComplete _ _
  | .ringConsumerWrite _ _ | .qpConnect _ _ | .rdmaRead _ _ _ _ | .qpRetryExhausted _ | .ethFrameRx _ _ | .pfcPauseRx _ _ _
  | .producerWrite _ _ | .descriptorFetch _ | .cplConsumerWrite _ _ | .matmul _ _ | .ewMul _ _ | .drainRow _ | .operationComplete _
  | .vconvert _ _ | .vadd _ _ | .vsub _ _ | .vmul _ _ | .vfma _ _ | .vaxpby _ _ | .vmax _ _ | .vmin _ _ | .vdiv _ _ | .vclamp _ _
  | .vscale _ _ | .vcmp _ _ | .vexp _ _ | .vlog _ _ | .vrsqrt _ _ | .vrecip _ _ | .vsqrt _ _ | .vtanh _ _ | .vsigmoid _ _ | .vgelu _ _
  | .vsilu _ _ | .normApply _ _ | .softmaxApply _ _ | .softmaxBwd _ _ | .normBwd _ _ | .topk _ _ | .topkMerge _ _ | .rowStats _ _
  | .rowStatsMerge _ _ | .rowDot _ _ | .colSum _ _ | .amax _ _ | .compress _ _ | .expand _ _ | .routeBuild _ _ | .mrGrant _
  | .millraceSend _ | .mrRow _ | .mrAck _ | .syncSignal _ | .syncWait _ | .waitRetry _ | .xlateReadDone _ | .ucSignal _ _ _ | .ucTake _ _ _
  | .ucFault _ _ _ | .ucWfiWake _ | .queuePark _ _ | .tilePowerOff _ | .tileWake _ | .wakeTokenRequest _ | .wakeTokenGrant _
  | .tilePowerUp _ | .stepVerdict _ | .verdictSet _ | .privAgreement _ | .tableAgreement _ | .stepClose _ | .closeFlip _ | .allGather _
  | .reduceScatter _ | .allReduce _ | .permute _ | .broadcast _ | .barrier _ | .flagOr _ | .scaleMax _ | .collSignature _ | .collData _
  | .collCredit _ | .collDrained _ | .epochAdvance _ | .collAborted _ | .collectiveComplete _ | .copy _ | .transpose _ | .retile _
  | .lower _ | .rillGather _ | .rillScatter _ | .rillQueueFree _ | .copyWr _ | .copyWrAck _ | .copyRdReq _ | .copyRdRsp _ | .scrub _ _
  | .lcInterval | .devTempRead _ _ | .remapChange _ _ | .remapFlip | .sparePrepare _ _ _ _ | .warmMove _ _ | .coldMove _ _
  | .bistDone _ _ _ _ _ | .frameRx _ _ _ | .linkSilence _ | .laneSpare _ _ | .lightDetect _ | .trainingRetry _ | .ident _ | .identRefresh _
  | .retrainRealigned _ | .retrainTimeout _ | .linkFenced _ | .partnerTakeover _ | .linkCtrl _ | .failback _ | .packetRoute _ _
  | .multicast _ _ | .passage _ _ | .packetOpen _ | .neighbourLost _ | .tileFenced _ | .modResetAssert _ | .coldRestart _ | .safeEntry
  | .safeExit | .standbyLow | .watchdogExpiry _ | .mgrRestarted _ | .pkgManagerRestart | .activationWave _ | .activationResume _
  | .fwActivationExpired _ | .fwRolledBack _ | .budgetReport _ _ _ | .allocation _ _ _ | .staleAlloc _ | .weirUpdate _ _ | .weirClear
  | .thermTrip _ _ | .tripRecover _ _ | .tripShutdown _ _ | .inputRange _ _ | .laserFailed _ | .laserSwapped _ | .ppsEdge | .ppsOut
  | .ptpEventMessage _ _ _ _ _ | .tideExchange | .tide _ | .timeHoldover | .sealGeneration | .gaugeSample _ | .gaugePeriod | .liveExport
  | .datagramSend | .snapshotInstant | .snapshotExport _ _ | .healthDecay | .healthPersist | .eyeScan _ _ _ | .serWindow _ _
  | .opticalRead _ | .slackReport _ _ _ | .limitInterval _ _ _ | .registerWrite _ _ _ | .i3cPrivateWrite _ _ | .i3cPrivateRead _ _
  | .entdaa _ | .setdasa _ _ | .rstdaa | .enec _ _ | .disec _ _ | .getpid _ | .getbcr _ | .getdcr _ | .getstatus _
  | .bbReadingUpdate _ _ _ _ _ _ | .bypass _ | .idcode | .standbyInputPresent | .mainInputReturn | .ref10mInValid _ | .unrecoverableTrap _
  | .routerFailure _ | .sendOrAtomicRequest _ => true
  | .rdmaWrite _ _ _ data => decide (data.length < 2 ^ 32)
  | .lineRead line _ => tierLineOk line
  | .lineSpare dev line => lineKeyOk dev line
  | .autoLineSpare dev act => act.wf dev
  | .collHopAdd _ slot => decide (slot < 256)
  | .laneFailNoSpare _ lane best => !best.getLsbD lane.val && decide (laneCount best = 4)
  | .trainingAttemptEnd _ loop lanes => loop.isNone || decide (laneCount lanes = 4) || decide (8 ≤ laneCount lanes)
  | .flowGaugeWindow w => noRepeat (w.times.map (fun t => (t.port.val, t.vc.val)))
  | .w1cClear _ _ _ sets => noRepeat (sets.map (fun b => (b.val, 0)))
  | .bootStepEnd facts => facts.wf

end Sys2Proof
end

