-- ==== Sys2Proof/Tests/Slice0.lean ====
section
/-! SUPPORT. Tests: states and operands that meet the hypotheses of every clause of every statement, ill-formed commands that
`Instr.wf` refuses, and single steps with results worked out from the spec by hand. -/

set_option maxRecDepth 4000
set_option Elab.async false

namespace Sys2Proof.Tests

open Sys2Proof Sys2Proof.Machine

/-! ### States and requests -/

/-- The next state of an outcome. -/
def nextOf (o : Host.Outcome State Fault Refusal) : State := match o with | .next t => t | _ => State.reset

/-- A manager that runs. -/
def mgrOn : Mgr := { st := .running }

/-- A module in `READY`: every manager runs. -/
def ready : State := { State.reset with
  pkg := { State.resetPkg with st := .ready, bootStep := 12, mgr := mgrOn }
  dies := State.reset.dies.map (fun d => { d with mgr := mgrOn })
  power := { convOn := true } }

/-- A request body from (byte offset, bytes, value). -/
def bodyOf (fs : List (Nat × Nat × Nat)) : BitVec 3456 := pack 3456 (fs.map (fun f => (8 * (f.1 + f.2.1) - 1, 8 * f.1, f.2.2)))

/-- A request of `SEQ` 5. -/
def req (op len : Nat) (fs : List (Nat × Nat × Nat)) : Req :=
  { seq := 5, slot := 0, opcode := BitVec.ofNat 16 op, len := len, body := bodyOf fs, order := 0, takenAt := 0 }

/-- An open session with these requests. -/
def sess (role : Role) (rs : List Req) : Sess :=
  { port := 0, ringVa := 0x1000, rkey := 1, log2 := 6, helloDone := true, minor := 3, role := role, reqs := rs }

/-- Session 0 has taken one request. -/
def ask (s : State) (role : Role) (r : Req) : State := { s with sess := [(0, sess role [r])] }

/-- The tenant of the tests, and a context of its own with key and tile 0. -/
def ten : Role := .tenant 7
def ctxIn (st : CtxSt) : Ctx :=
  { owner := 7, st := st, seed := 0, stepCount := 0, memKey := some 1, partKey := some (1, 1), tiles := [0] }

/-- A state with context 0. -/
def with0 (y : Ctx) (s : State) : State := { s with ctxs := [(0, y)] }

/-- The objects of handle slots 0, 1, …, all of generation 1. -/
def objs (os : List HObj) (s : State) : State :=
  { s with handles := { live := (List.range os.length).zip os, fresh := os.length } }

/-- A ready window of context 0 over the first lot of Tier-F. -/
def win : Window := { ctx := 0, tierS := false, base := 0, length := 40 * 2 ^ 20, remoteRx := false, devices := List.range 20, ready := true }

/-- A collective channel of context 0, and a tile and a copy channel. -/
def ch3 : Chan := { kind := 3, ctx := 0, tile := 0x1FF, engine := 0, stream := 0, ring := 0, ringN := 32, cpl := 0x10000, cplN := 64, ctrl := 0x20000 }
def ch1 : Chan := { ch3 with kind := 1, tile := 0, ringN := 64 }
def ch2 : Chan := { ch3 with kind := 2, ringN := 64 }
def h3 : W32 := mkHandle 3 0 1
def h1 : W32 := mkHandle 1 0 1
def h2 : W32 := mkHandle 2 0 1

/-- An option that holds something is what it holds. -/
theorem eq_getD {α : Type} {o : Option α} (h : o.isSome = true) (d : α) : o = some (o.getD d) := by cases o <;> simp_all

/-- Every frame of a fresh device is free. -/
theorem frames_free (s : State) (h : s.devices = List.replicate 60 {}) (d : Nat) : (s.freeFramesOf d).length = devFrames d := by
  have e : s.dev d = {} := by
    simp only [State.dev, h, List.getD, List.getElem?_replicate]
    split <;> rfl
  simp only [State.freeFramesOf, e]
  exact (congrArg List.length (List.filter_eq_self.2 (fun _ _ => rfl))).trans List.length_range

/-- An operation at the head of its channel or queue, from the fields of its descriptor. -/
def opOf (h : W32) (fs : List (Nat × Nat × Nat)) : Op :=
  { id := 3, ch := h, idx := 0, desc := pack 1024 fs, ctx := 0, tile := 0, queue := 0 }

/-- A state with context 0 running on tile 0, one channel, and these operations. -/
def running (c : Chan) (os : List Op) : State :=
  { with0 (ctxIn .running) (objs [.chan { c with st := .running }, .window win] ready) with ops := os, nextOp := 9 }

/-- A packet of a kind, with fields of its first flit. -/
def pkt (kind : Nat) (data : Bool) (fs : List (Nat × Nat × Nat)) : Packet :=
  { head := pack 512 ([(127, 126, if data then 1 else 0), (47, 40, kind)] ++ fs), payload := if data then [0] else [] }

/-- A collective operation under way. -/
def crun : CollRun := { seq := 0, own := 0, ext := [], units := [], open_ := true, valsDone := true, firstVerdict := true }
def cop (fs : List (Nat × Nat × Nat)) : Op := { opOf h3 fs with phase := .running, coll := some crun }

/-- A state whose torus port 0 is the given one. -/
def port0 (p : Port) : State := { ready with ports := p :: ready.ports.tail }

/-- A pair that an option holds, with a known first part. -/
theorem eq_pair {α β : Type} {o : Option (α × β)} {p : α} (h : o.map (·.1) = some p) (d : α × β) : o = some (p, (o.getD d).2) := by
  cases o with
  | none => cases h
  | some x => cases h; rfl

/-- A state whose other torus ports are up with all the credits of their start, and whose torus port 0 is the given one. -/
def ups (p : Port) : State :=
  { ready with ports := p :: List.replicate 11 { st := .up, credits := List.replicate 6 256 } }

/-! ### The hypotheses of each statement are met, clause by clause -/

theorem test_meets_IdleTick :
    (∃ (s : State), (s.pending = []) ∧ (s.power.stbyOn = false)) ∧
    (∃ (s : State), (s.pending = []) ∧ (s.power.stbyOn = true) ∧ (0 ≤ 2 ^ 15 + s.time.rate) ∧ (s.tide16 + (2 ^ 15 + s.time.rate).toNat < 2 ^ 80)) ∧
    (∃ (s : State), (s.pending = []) ∧ (s.power.stbyOn = true) ∧ (s.sess = []) ∧ (s.ops = []) ∧ (s.tiles = []) ∧ (s.qps = []) ∧ ((∀ k,
        k < 6 → s.mixed k = false)) ∧ (0 ≤ 2 ^ 15 + s.time.rate) ∧ (s.tide16 + (2 ^ 15 + s.time.rate).toNat < 2 ^ 80)) :=
  ⟨⟨{ State.reset with power := { stbyOn := false } }, by decide +kernel⟩,
   ⟨ready, by decide +kernel⟩,
   ⟨ready, by decide +kernel⟩⟩

theorem test_meets_QueueKept :
    ∃ (c : Instr) (s : State) (t : State), (exec c s = .next t) :=
  ⟨.standbyLow, State.reset, nextOf (exec .standbyLow State.reset), rfl⟩

theorem test_meets_InvariantKept :
    ∃ (s : State) (t : State), (s.Inv) ∧ (step s = .next t) :=
  ⟨State.reset, nextOf (step State.reset), ⟨⟨by decide +kernel, by decide +kernel⟩, by decide +kernel, by decide +kernel, by decide +kernel⟩, rfl⟩

theorem test_meets_ResultRecord :
    (∃ (s : State) (n : Nat) (x : Sess) (r : Req), (s.sess? n = some x) ∧ (r.issuer = none) ∧ (x.closed = false) ∧ (x.ringFree = false) ∧
        ((r.acked = true ∨ s.now ≤ r.takenAt + 50000))) ∧
    (∃ (s : State) (n : Nat) (x : Sess) (r : Req), (s.sess? n = some x) ∧ (r.issuer = none) ∧ (x.closed = false) ∧ (x.results = []) ∧
        (x.events = []) ∧ (x.overflow = 0) ∧ (x.keys = none) ∧ (x.ringFree = true) ∧ ((r.acked = true ∨ s.now ≤ r.takenAt + 50000))) ∧
    (∃ (s : State) (n : Nat) (x : Sess) (r : Req), (s.sess? n = some x) ∧ (r.issuer.isSome = true) ∧ (x.closed = false)) :=
  ⟨⟨{ ready with sess := [(0, { sess ten [req 3 0 []] with consumer := 0 - 64 })] }, 0, { sess ten [req 3 0 []] with consumer := 0 - 64 },
      req 3 0 [], by decide +kernel⟩,
   ⟨{ ready with sess := [(0, sess ten [req 3 0 []])] }, 0, sess ten [req 3 0 []], req 3 0 [], by decide +kernel⟩,
   ⟨{ ready with sess := [(0, sess ten [])] }, 0, sess ten [], { req 3 0 [] with issuer := some { role := ten, minor := 3, helloDone := true, restarted := false } },
       by decide +kernel⟩⟩

theorem test_meets_ChecksInOrder :
    ∃ (s : State) (n : Fin 64) (seq : W32) (op : Nat) (x : Sess) (r : Req) (c : Check), (s.waiting? n.val seq op (fun _ => true) = some (x, r)) ∧
        (s.pkg.mgr.st = .running) ∧ (s.objBusy r = false) ∧ ((earlyChecks x r).find? (·.1) = some c) :=
  ⟨ask ready .noRole (req 0x0101 16 []), 0, 5, 0x0101, sess .noRole [req 0x0101 16 []], req 0x0101 16 [], (true, .denied, 0), by decide +kernel⟩

theorem test_meets_SessionCommandsComplete :
    (∃ (s : State) (n : Fin 64) (seq : W32) (x : Sess) (r : Req), (s.atTurn n seq 0x0001 x r) ∧ ((x.helloDone = false ∨ x.restarted = true)) ∧
        (r.num 0 2 = 2) ∧ (r.len = 4)) ∧
    (∃ (s : State) (n : Fin 64) (seq : W32) (x : Sess) (r : Req), (s.atTurn n seq 0x0002 x r) ∧ (x.reqs.length = 1)) ∧
    (∃ (s : State) (n : Fin 64) (seq : W32) (x : Sess) (r : Req), (s.atTurn n seq 0x0003 x r)) :=
  ⟨⟨{ ready with sess := [(0, { sess ten [req 1 4 [(0, 2, 2)]] with helloDone := false, minor := 0 })] }, 0, 5, { sess ten [req 1 4 [(0, 2, 2)]] with helloDone := false, minor := 0 },
      req 1 4 [(0, 2, 2)], ⟨by decide +kernel, by decide +kernel, by decide +kernel, by decide +kernel, by decide +kernel⟩, by decide +kernel⟩,
   ⟨(ask ready ten (req 0x0002 0 [])), 0, 5, (sess ten [(req 0x0002 0 [])]), (req 0x0002 0 []), ⟨by decide +kernel, by decide +kernel,
       by decide +kernel, by decide +kernel, by decide +kernel⟩, by decide +kernel⟩,
   ⟨(ask ready ten (req 0x0003 0 [])), 0, 5, (sess ten [(req 0x0003 0 [])]), (req 0x0003 0 []), ⟨by decide +kernel, by decide +kernel,
       by decide +kernel, by decide +kernel, by decide +kernel⟩⟩⟩

theorem test_meets_MailboxCommandsComplete :
    (∃ (s : State) (port : Fin 8) (log2 : BitVec 8) (n : Nat), (s.takesSessions = true) ∧ ((s.ethPort port.val).up = true) ∧
        ((List.range 64).find? s.sessFree = some n) ∧ (6 ≤ log2.toNat) ∧ (log2.toNat ≤ 12) ∧ (s.qpCount < 4096)) ∧
    (∃ (s : State) (n : Fin 64) (x : Sess), (s.sess? n.val = some x) ∧ (x.reqs = []) ∧ (s.sec.debug ≠ some n.val)) ∧
    (∃ (s : State) (n : Fin 64) (img : BitVec 4096) (x : Sess), (s.sess? n.val = some x) ∧ (x.closed = false) ∧ (slotOwner img = 1)) ∧
    (∃ (s : State) (n : Fin 64) (slot : Fin 32) (x : Sess), (s.sess? n.val = some x) ∧ (x.closed = false) ∧ (x.bye = false) ∧ (x.reqs = []) ∧
        (x.posted.getLsbD slot.val = true) ∧ (x.keys = none) ∧
        (x.nextSeq.getD (slotSeq (smGet 0 x.slots slot.val)) = slotSeq (smGet 0 x.slots slot.val)) ∧ (s.pkg.mgr.st = .running) ∧
        ((opInfo (takenReq slot.val (smGet 0 x.slots slot.val) 0 s.takeOrder s.now).opcode.toNat).isSome = true)) ∧
    (∃ (s : State) (n : Fin 64) (seq : W32) (x : Sess) (r : Req) (v : BitVec 16 × BitVec 8 × BitVec 3456 × Nat), (s.sess? n.val = some x) ∧
        (x.reqs.find? (fun r => r.seq == seq && r.result.isSome) = some r) ∧ (r.result = some v)) ∧
    (∃ (s : State) (n : Fin 64) (x : Sess), (s.sess? n.val = some x) ∧ (x.closed = false) ∧ (x.bye = false) ∧ (x.results = []) ∧ (x.events = []) ∧
        (x.overflow = 0)) :=
  ⟨⟨{ ready with eth := List.replicate 8 { up := true } }, 4, 6, 0, by decide +kernel⟩,
   ⟨{ ready with sess := [(0, sess ten [])] }, 0, sess ten [], by decide +kernel⟩,
   ⟨{ ready with sess := [(0, sess ten [])] }, 0, 1, sess ten [], by decide +kernel⟩,
   ⟨{ ready with sess := [(0, { sess ten [] with posted := 2, slots := [(1, pack 4096 [(7, 0, 1), (47, 32, 0x0003), (79, 48, 5)])] })] }, 0, 1,
       { sess ten [] with posted := 2, slots := [(1, pack 4096 [(7, 0, 1), (47, 32, 0x0003), (79, 48, 5)])] }, by decide +kernel⟩,
   ⟨{ ready with sess := [(0, sess ten [{ req 0x0103 1 [] with started := true, result := some (1, 0, 0, 0) }])] }, 0, 5,
       sess ten [{ req 0x0103 1 [] with started := true, result := some (1, 0, 0, 0) }], { req 0x0103 1 [] with started := true, result := some (1, 0, 0, 0) },
       (1, 0, 0, 0), by decide +kernel⟩,
   ⟨{ ready with sess := [(0, sess ten [])] }, 0, sess ten [], by decide +kernel⟩⟩

theorem test_meets_ContextCommandsComplete :
    (∃ (s : State) (n : Fin 64) (seq : W32) (x : Sess) (r : Req) (i : BitVec 384) (c : Nat), (s.atTurn n seq 0x0101 x r) ∧ (x.role = .tenant i) ∧
        ((List.range 64).find? (fun c => (s.ctx? c).isNone) = some c)) ∧
    (∃ (s : State) (n : Fin 64) (seq : W32) (x : Sess) (r : Req) (y : Ctx), (s.atTurn n seq 0x0603 x r) ∧ (s.ctx? (r.num 0 1) = some y) ∧
        (x.role = .tenant y.owner) ∧ (y.st = .created) ∧ (y.memKey = none) ∧ (r.clean [(0, 1), (8, 98)] = true) ∧ (r.num 8 32 ≠ r.num 40 32) ∧
        (r.num 104 2 ≠ 0)) ∧
    (∃ (s : State) (n : Fin 64) (seq : W32) (x : Sess) (r : Req) (y : Ctx) (z : SyncSpace) (b : BindTable), (s.atTurn n seq 0x0102 x r) ∧
        (s.ctx? (r.num 0 1) = some y) ∧ (x.role = .tenant y.owner) ∧ (y.st = .created) ∧ (y.memKey.isSome = true) ∧
        (BitVec.ofNat 32 (r.num 4 4) ≠ 0) ∧ (hKind (BitVec.ofNat 32 (r.num 4 4)) = 5) ∧ (s.hobj? (BitVec.ofNat 32 (r.num 4 4)) = some (.sync z)) ∧
        (z.ctx = r.num 0 1) ∧ (r.clean [(0, 1), (4, 18), (32, 60)] = true) ∧ (r.num 20 2 = s.ptag) ∧
        (s.tierBad (r.num 0 1) (r.num 8 8) (r.num 16 4) = false) ∧ (s.bindTable (r.num 0 1) r = some b) ∧ (s.keyClash (r.num 0 1) = false) ∧
        ((∀ e ∈ s.ctxs, e.2.bank = [] ∧ (e.1 ≠ r.num 0 1 → e.2.tiles = []))) ∧ (b.bank.length ≤ 4096)) ∧
    (∃ (s : State) (n : Fin 64) (seq : W32) (x : Sess) (r : Req) (y : Ctx), (s.atTurn n seq 0x0103 x r) ∧ (s.ctx? (r.num 0 1) = some y) ∧
        (x.role = .tenant y.owner) ∧ (y.st = .running)) ∧
    (∃ (s : State) (c : Fin 64) (y : Ctx), (s.ctx? c.val = some y) ∧ (y.st = .running) ∧ (y.quiescing = true) ∧ (s.inFlight c.val = false) ∧
        (y.closing = .idle) ∧ (y.closeQ = [])) ∧
    (∃ (s : State) (n : Fin 64) (seq : W32) (x : Sess) (r : Req) (y : Ctx), (s.atTurn n seq 0x0104 x r) ∧ (s.ctx? (r.num 0 1) = some y) ∧
        (x.role = .tenant y.owner) ∧ (y.st ≠ .destroying)) ∧
    (∃ (s : State) (c : Fin 64) (y : Ctx), (s.ctx? c.val = some y) ∧ (y.st = .destroying)) :=
  ⟨⟨(ask ready ten (req 0x0101 16 [])), 0, 5, (sess ten [(req 0x0101 16 [])]), (req 0x0101 16 []), 7, 0, ⟨by decide +kernel, by decide +kernel,
      by decide +kernel, by decide +kernel, by decide +kernel⟩, by decide +kernel⟩,
   ⟨(ask (with0 { ctxIn .created with memKey := none } ready) ten (req 0x0603 106 [(8, 4, 1), (40, 4, 2), (104, 2, 1)])), 0, 5,
       (sess ten [(req 0x0603 106 [(8, 4, 1), (40, 4, 2), (104, 2, 1)])]), (req 0x0603 106 [(8, 4, 1), (40, 4, 2), (104, 2, 1)]),
       { ctxIn .created with memKey := none }, ⟨by decide +kernel, by decide +kernel, by decide +kernel, by decide +kernel, by decide +kernel⟩,
       by decide +kernel⟩,
   ⟨(ask (with0 { ctxIn .created with tiles := [] } (objs [.window win, .sync { ctx := 0, table := 0, entries := 4 }] { ready with tier := [(0x10000, 8), (0x10002, 0xFF), (0x10003, 0xFF)] })) ten (req 0x0102 96 [(4,
       4, 0x50004001), (8, 8, 0x10000), (16, 4, 16), (32, 1, 1)])), 0, 5, (sess ten [(req 0x0102 96 [(4, 4, 0x50004001), (8, 8, 0x10000), (16, 4,
       16), (32, 1, 1)])]), (req 0x0102 96 [(4, 4, 0x50004001), (8, 8, 0x10000), (16, 4, 16), (32, 1, 1)]), { ctxIn .created with tiles := [] },
       { ctx := 0, table := 0, entries := 4 }, { recs := [], priv := [], bank := [] }, ⟨by decide +kernel, by decide +kernel, by decide +kernel,
       by decide +kernel, by decide +kernel⟩, by decide +kernel⟩,
   ⟨(ask (with0 (ctxIn .running) ready) ten (req 0x0103 1 [])), 0, 5, (sess ten [(req 0x0103 1 [])]), (req 0x0103 1 []), ctxIn .running,
       ⟨by decide +kernel, by decide +kernel, by decide +kernel, by decide +kernel, by decide +kernel⟩, by decide +kernel⟩,
   ⟨with0 { ctxIn .running with quiescing := true } ready, 0, { ctxIn .running with quiescing := true }, by decide +kernel⟩,
   ⟨(ask (with0 (ctxIn .quiesced) ready) ten (req 0x0104 1 [])), 0, 5, (sess ten [(req 0x0104 1 [])]), (req 0x0104 1 []), ctxIn .quiesced,
       ⟨by decide +kernel, by decide +kernel, by decide +kernel, by decide +kernel, by decide +kernel⟩, by decide +kernel⟩,
   ⟨with0 (ctxIn .destroying) ready, 0, ctxIn .destroying, by decide +kernel⟩⟩

theorem test_meets_DestroyLeavesNothing :
    ∃ (s : State) (c : Nat) (y : Ctx), (s.ctx? c = some y) ∧ (y.st ≠ .destroying) :=
  ⟨with0 (ctxIn .quiesced) ready, 0, ctxIn .quiesced, by decide +kernel⟩

theorem test_meets_ChannelCommandsComplete :
    (∃ (s : State) (n : Fin 64) (seq : W32) (x : Sess) (r : Req) (y : Ctx) (c : Chan) (h : W32) (s1 : State), (s.atTurn n seq 0x0201 x r) ∧
        (c = r.chan (if r.num 0 1 = 2 then r.num 4 1 else 0)) ∧ ((r.num 0 1 = 1 ∨ r.num 0 1 = 2 ∨ r.num 0 1 = 3)) ∧ (s.ctx? c.ctx = some y) ∧
        (x.role = .tenant y.owner) ∧ ((y.st = .bound ∨ y.st = .running ∨ y.st = .quiesced)) ∧ (r.clean [(0, 2), (4, if r.num 0 1 = 2 then 1 else 2),
        (8, 12), (24, 12), (40, 8)] = true) ∧ (s.ringOk c = true) ∧ ((r.num 0 1 = 1 → y.tiles.contains c.tile = true ∧
        (s.chansWhere (fun z => z.kind == 1 && z.tile == c.tile)).length < 4)) ∧ ((r.num 0 1 = 2 → r.num 4 1 = 0xFF ∨ c.engine < 20)) ∧
        ((r.num 0 1 = 3 → s.chansWhere (fun z => z.kind == 3 && z.ctx == c.ctx && z.stream == c.stream) = [])) ∧
        (s.watchesOn ((s.deviceAt c.ctrl).getD 0) < 1024) ∧ (s.newHandle (.chan c) = some (h, s1))) ∧
    (∃ (s : State) (n : Fin 64) (seq : W32) (x : Sess) (r : Req) (y : Ctx) (h : W32) (s1 : State), (s.atTurn n seq 0x0201 x r) ∧ (r.num 0 1 = 4) ∧
        (s.ctx? r.window.ctx = some y) ∧ (x.role = .tenant y.owner) ∧ (y.st ≠ .destroying) ∧ (y.memKey.isSome = true) ∧ (r.clean [(0, 2), (4, 2), (8,
        21)] = true) ∧ (s.windowOk r = true) ∧ ((r.window.devices.all (fun d => decide (r.window.framesEach ≤ (s.freeFramesOf d).length))) = true) ∧
        ((s.windowsOf r.window.ctx).length < 1024) ∧ (s.newHandle (.window r.window) = some (h, s1))) ∧
    (∃ (s : State) (n : Fin 64) (seq : W32) (x : Sess) (r : Req) (y : Ctx) (h : W32) (s1 : State), (s.atTurn n seq 0x0201 x r) ∧ (r.num 0 1 = 5) ∧
        (s.ctx? (r.num 1 1) = some y) ∧ (x.role = .tenant y.owner) ∧ (y.st = .created) ∧ (r.clean [(0, 2), (8, 12)] = true) ∧ (0 < r.num 16 4) ∧
        (r.num 16 4 ≤ 65536) ∧ (s.inWindow (r.num 1 1) (r.num 8 8) (8 * r.num 16 4) true = true) ∧ (s.holdsSync (r.num 1 1) = false) ∧
        (s.newHandle (.sync { ctx := r.num 1 1, table := r.num 8 8, entries := r.num 16 4 }) = some (h, s1))) ∧
    (∃ (s : State) (h : W32) (w : Window), (s.hobj? h = some (.window w)) ∧ (w.ready = false)) ∧
    (∃ (s : State) (n : Fin 64) (seq : W32) (x : Sess) (r : Req) (h : W32) (c : Chan), (s.atTurn n seq 0x0202 x r) ∧
        (h = BitVec.ofNat 32 (r.num 0 4)) ∧ (s.quiescingOf h = false) ∧ (h ≠ 0) ∧ ((hKind h = 1 ∨ hKind h = 2 ∨ hKind h = 3)) ∧
        (s.hobj? h = some (.chan c)) ∧ (roleOwns s x.role (.chan c) = true) ∧ ((c.st = .idle ∨ c.st = .stopped)) ∧ (r.clean [(0, 5), (8,
        4)] = true) ∧ (r.num 4 1 ≤ 1) ∧ (s.sparingOf c.ctx = false)) ∧
    (∃ (s : State) (n : Fin 64) (seq : W32) (x : Sess) (r : Req) (h : W32) (c : Chan), (s.atTurn n seq 0x0203 x r) ∧
        (h = BitVec.ofNat 32 (r.num 0 4)) ∧ (h ≠ 0) ∧ ((hKind h = 1 ∨ hKind h = 2 ∨ hKind h = 3)) ∧ (s.hobj? h = some (.chan c)) ∧
        (roleOwns s x.role (.chan c) = true) ∧ (c.st = .running)) ∧
    (∃ (s : State) (n : Fin 64) (seq : W32) (x : Sess) (r : Req) (h : W32) (c : Chan), (s.atTurn n seq 0x0203 x r) ∧
        (h = BitVec.ofNat 32 (r.num 0 4)) ∧ (h ≠ 0) ∧ ((hKind h = 1 ∨ hKind h = 2 ∨ hKind h = 3)) ∧ (s.hobj? h = some (.chan c)) ∧
        (roleOwns s x.role (.chan c) = true) ∧ (c.st = .faulted)) ∧
    (∃ (s : State) (h : W32) (c : Chan), (s.chan? h = some c) ∧ (c.stopping = true) ∧ ((s.ops.all (fun o => o.ch != h)) = true)) ∧
    (∃ (s : State) (n : Fin 64) (seq : W32) (x : Sess) (r : Req) (h : W32) (o : HObj), (s.atTurn n seq 0x0204 x r) ∧
        (h = BitVec.ofNat 32 (r.num 0 4)) ∧ (s.ownHandle x h [1, 2, 3, 4, 5, 6, 7] o) ∧ ((destroyRole x h).1 = false) ∧
        ((s.destroyCheck h).1 = false)) ∧
    (∃ (s : State) (n : Fin 64) (seq : W32) (x : Sess) (r : Req) (h : W32) (o : HObj), (s.atTurn n seq 0x0205 x r) ∧
        (h = BitVec.ofNat 32 (r.num 0 4)) ∧ (s.ownHandle x h [1, 2, 3, 4, 5, 6, 7] o)) :=
  ⟨⟨(ask (with0 (ctxIn .bound) (objs [.window win] ready)) ten (req 0x0201 64 [(0, 1, 3), (16, 4, 32), (24, 8, 0x10000), (32, 4, 64), (40, 8,
      0x20000)])), 0, 5, (sess ten [(req 0x0201 64 [(0, 1, 3), (16, 4, 32), (24, 8, 0x10000), (32, 4, 64), (40, 8, 0x20000)])]), (req 0x0201 64 [(0,
      1, 3), (16, 4, 32), (24, 8, 0x10000), (32, 4, 64), (40, 8, 0x20000)]), ctxIn .bound, (req 0x0201 64 [(0, 1, 3), (16, 4, 32), (24, 8, 0x10000),
      (32, 4, 64), (40, 8, 0x20000)]).chan 0, (((ask (with0 (ctxIn .bound) (objs [.window win] ready)) ten (req 0x0201 64 [(0, 1, 3), (16, 4, 32),
      (24, 8, 0x10000), (32, 4, 64), (40, 8, 0x20000)])).newHandle (.chan ((req 0x0201 64 [(0, 1, 3), (16, 4, 32), (24, 8, 0x10000), (32, 4, 64),
      (40, 8, 0x20000)]).chan 0))).getD (0, (ask (with0 (ctxIn .bound) (objs [.window win] ready)) ten (req 0x0201 64 [(0, 1, 3), (16, 4, 32), (24,
      8, 0x10000), (32, 4, 64), (40, 8, 0x20000)])))).1, (((ask (with0 (ctxIn .bound) (objs [.window win] ready)) ten (req 0x0201 64 [(0, 1, 3), (16,
      4, 32), (24, 8, 0x10000), (32, 4, 64), (40, 8, 0x20000)])).newHandle (.chan ((req 0x0201 64 [(0, 1, 3), (16, 4, 32), (24, 8, 0x10000), (32, 4,
      64), (40, 8, 0x20000)]).chan 0))).getD (0, (ask (with0 (ctxIn .bound) (objs [.window win] ready)) ten (req 0x0201 64 [(0, 1, 3), (16, 4, 32),
      (24, 8, 0x10000), (32, 4, 64), (40, 8, 0x20000)])))).2, ⟨by decide +kernel, by decide +kernel, by decide +kernel, by decide +kernel,
      by decide +kernel⟩, by decide +kernel⟩,
   ⟨(ask (with0 (ctxIn .bound) ready) ten (req 0x0201 64 [(0, 1, 4), (16, 8, 0x02800000), (24, 5, 0xFFFFF)])), 0, 5, (sess ten [(req 0x0201 64 [(0,
       1, 4), (16, 8, 0x02800000), (24, 5, 0xFFFFF)])]), (req 0x0201 64 [(0, 1, 4), (16, 8, 0x02800000), (24, 5, 0xFFFFF)]), ctxIn .bound,
       (((ask (with0 (ctxIn .bound) ready) ten (req 0x0201 64 [(0, 1, 4), (16, 8, 0x02800000), (24, 5,
       0xFFFFF)])).newHandle (.window (req 0x0201 64 [(0, 1, 4), (16, 8, 0x02800000), (24, 5, 0xFFFFF)]).window)).getD (0,
       (ask (with0 (ctxIn .bound) ready) ten (req 0x0201 64 [(0, 1, 4), (16, 8, 0x02800000), (24, 5, 0xFFFFF)])))).1,
       (((ask (with0 (ctxIn .bound) ready) ten (req 0x0201 64 [(0, 1, 4), (16, 8, 0x02800000), (24, 5,
       0xFFFFF)])).newHandle (.window (req 0x0201 64 [(0, 1, 4), (16, 8, 0x02800000), (24, 5, 0xFFFFF)]).window)).getD (0,
       (ask (with0 (ctxIn .bound) ready) ten (req 0x0201 64 [(0, 1, 4), (16, 8, 0x02800000), (24, 5, 0xFFFFF)])))).2, ⟨by decide +kernel,
       by decide +kernel, by decide +kernel, by decide +kernel, by decide +kernel⟩, by decide +kernel, of_decide_eq_true (by decide +kernel),
       by decide +kernel, by decide +kernel, by decide +kernel, by decide +kernel, by decide +kernel,
       List.all_eq_true.2 (fun d _ => by rw [frames_free _ rfl]; unfold devFrames; have : Window.framesEach (Req.window (req 0x0201 64 [(0, 1, 4),
       (16, 8, 0x02800000), (24, 5, 0xFFFFF)])) = 1 := (by decide +kernel); rw [this]; split <;> rfl), by decide +kernel⟩,
   ⟨(ask (with0 (ctxIn .created) (objs [.window win] ready)) ten (req 0x0201 64 [(0, 1, 5), (8, 8, 0x1000), (16, 4, 16)])), 0, 5,
       (sess ten [(req 0x0201 64 [(0, 1, 5), (8, 8, 0x1000), (16, 4, 16)])]), (req 0x0201 64 [(0, 1, 5), (8, 8, 0x1000), (16, 4, 16)]),
       ctxIn .created, (((ask (with0 (ctxIn .created) (objs [.window win] ready)) ten (req 0x0201 64 [(0, 1, 5), (8, 8, 0x1000), (16, 4,
       16)])).newHandle (.sync { ctx := 0, table := 0x1000, entries := 16 })).getD (0,
       (ask (with0 (ctxIn .created) (objs [.window win] ready)) ten (req 0x0201 64 [(0, 1, 5), (8, 8, 0x1000), (16, 4, 16)])))).1,
       (((ask (with0 (ctxIn .created) (objs [.window win] ready)) ten (req 0x0201 64 [(0, 1, 5), (8, 8, 0x1000), (16, 4,
       16)])).newHandle (.sync { ctx := 0, table := 0x1000, entries := 16 })).getD (0,
       (ask (with0 (ctxIn .created) (objs [.window win] ready)) ten (req 0x0201 64 [(0, 1, 5), (8, 8, 0x1000), (16, 4, 16)])))).2,
       ⟨by decide +kernel, by decide +kernel, by decide +kernel, by decide +kernel, by decide +kernel⟩, by decide +kernel⟩,
   ⟨objs [.window { win with ready := false }] ready, mkHandle 4 0 1, { win with ready := false }, by decide +kernel⟩,
   ⟨(ask (with0 (ctxIn .running) (objs [.chan ch3] ready)) ten (req 0x0202 12 [(0, 4, 0x30000001)])), 0, 5, (sess ten [(req 0x0202 12 [(0, 4,
       0x30000001)])]), (req 0x0202 12 [(0, 4, 0x30000001)]), h3, ch3, ⟨by decide +kernel, by decide +kernel, by decide +kernel, by decide +kernel,
       by decide +kernel⟩, by decide +kernel⟩,
   ⟨(ask (with0 (ctxIn .running) (objs [.chan { ch3 with st := .running }] ready)) ten (req 0x0203 4 [(0, 4, 0x30000001)])), 0, 5,
       (sess ten [(req 0x0203 4 [(0, 4, 0x30000001)])]), (req 0x0203 4 [(0, 4, 0x30000001)]), h3, { ch3 with st := .running }, ⟨by decide +kernel,
       by decide +kernel, by decide +kernel, by decide +kernel, by decide +kernel⟩, by decide +kernel⟩,
   ⟨(ask (with0 (ctxIn .running) (objs [.chan { ch3 with st := .faulted }] ready)) ten (req 0x0203 4 [(0, 4, 0x30000001)])), 0, 5,
       (sess ten [(req 0x0203 4 [(0, 4, 0x30000001)])]), (req 0x0203 4 [(0, 4, 0x30000001)]), h3, { ch3 with st := .faulted }, ⟨by decide +kernel,
       by decide +kernel, by decide +kernel, by decide +kernel, by decide +kernel⟩, by decide +kernel⟩,
   ⟨(with0 (ctxIn .running) (objs [.chan { ch3 with st := .running, stopping := true }] ready)), h3, { ch3 with st := .running, stopping := true },
       by decide +kernel⟩,
   ⟨(ask (with0 (ctxIn .running) (objs [.chan ch3] ready)) ten (req 0x0204 4 [(0, 4, 0x30000001)])), 0, 5, (sess ten [(req 0x0204 4 [(0, 4,
       0x30000001)])]), (req 0x0204 4 [(0, 4, 0x30000001)]), h3, .chan ch3, ⟨by decide +kernel, by decide +kernel, by decide +kernel,
       by decide +kernel, by decide +kernel⟩, by decide +kernel, ⟨by decide +kernel, by decide +kernel, by decide +kernel, by decide +kernel⟩,
       of_decide_eq_true (by decide +kernel)⟩,
   ⟨(ask (with0 (ctxIn .running) (objs [.chan ch3] ready)) ten (req 0x0205 4 [(0, 4, 0x30000001)])), 0, 5, (sess ten [(req 0x0205 4 [(0, 4,
       0x30000001)])]), (req 0x0205 4 [(0, 4, 0x30000001)]), h3, .chan ch3, ⟨by decide +kernel, by decide +kernel, by decide +kernel,
       by decide +kernel, by decide +kernel⟩, by decide +kernel, ⟨by decide +kernel, by decide +kernel, by decide +kernel, by decide +kernel⟩⟩⟩

theorem test_meets_RetiredHandleIsStale :
    ∃ (s : State) (h : W32), (smSorted s.handles.gen = true) ∧ (hGen h = s.handles.genOf (hSlot h)) ∧ (s.handles.genOf (hSlot h) ≤ 16383) :=
  ⟨objs [.chan ch3] ready, h3, by decide +kernel⟩

theorem test_meets_QueuePairCommandsComplete :
    (∃ (s : State) (n : Fin 64) (seq : W32) (x : Sess) (r : Req) (y : Ctx), (s.atTurn n seq 0x0206 x r) ∧ (s.ctx? (r.num 0 1) = some y) ∧
        (x.role = .tenant y.owner) ∧ (y.st ≠ .destroying) ∧ (r.clean [(0, 3), (16, 16)] = true) ∧ (r.num 1 1 ≤ 7) ∧ (r.num 2 1 ≤ 2) ∧
        (s.qpCount < 4096) ∧ ((s.qps.filter (fun e => e.2.ctx == r.num 0 1)).length < 1024)) ∧
    (∃ (s : State) (n : Fin 64) (seq : W32) (x : Sess) (r : Req) (q : Qp) (y : Ctx), (s.atTurn n seq 0x0207 x r) ∧ (s.qp? (r.num 0 4) = some q) ∧
        (s.ctx? q.ctx = some y) ∧ (x.role = .tenant y.owner) ∧ (r.clean [(0, 4), (16, 16)] = true) ∧ (q.work = [])) ∧
    (∃ (s : State) (n : Fin 64) (seq : W32) (x : Sess) (r : Req) (q : Qp) (y : Ctx), (s.atTurn n seq 0x0207 x r) ∧ (s.qp? (r.num 0 4) = some q) ∧
        (s.ctx? q.ctx = some y) ∧ (x.role = .tenant y.owner) ∧ (r.clean [(0, 4), (16, 16)] = true) ∧ (q.work ≠ [])) ∧
    (∃ (s : State) (n : Fin 64) (seq : W32) (x : Sess) (r : Req) (q : Qp) (y : Ctx), (s.atTurn n seq 0x0208 x r) ∧ (s.qp? (r.num 0 4) = some q) ∧
        (s.ctx? q.ctx = some y) ∧ (x.role = .tenant y.owner)) ∧
    (∃ (s : State) (qp : BitVec 24) (p : BitVec 128) (q : Qp), (s.qp? qp.toNat = some q) ∧ (s.serves = true) ∧ ((s.ethPort q.port).up = true) ∧
        (q.st = .idle) ∧ (q.partner = p)) ∧
    (∃ (s : State) (qp : BitVec 24) (q : Qp), (s.sessOfQp qp.toNat = none) ∧ (s.qp? qp.toNat = some q) ∧ (q.st = .connected)) ∧
    (∃ (s : State) (qp : BitVec 24) (k : Nat) (x : Sess), (s.sessOfQp qp.toNat = some (k, x))) ∧
    (∃ (s : State) (qp : BitVec 24) (q : Qp), (s.qpLive qp.toNat = some q) ∧ (q.work = [])) ∧
    (∃ (s : State) (n : Fin 64) (seq : W32) (x : Sess) (r : Req), (s.atTurn n seq 0x0307 x r) ∧ (r.clean [(0, 2), (16, 26), (48, 64)] = true) ∧
        (r.num 0 1 ≤ 7) ∧ (r.num 1 1 = 31) ∧ (r.num 38 1 ≤ 7) ∧ (r.num 39 1 ≤ 7) ∧ (r.num 40 1 ≤ 63) ∧ (r.num 41 1 ≤ 63)) ∧
    (∃ (s : State) (port : Fin 8) (f : EthFrame), (s.serves = true) ∧ ((s.ethPort port.val).up = true) ∧ (f.body ≠ .mka) ∧ (f.protected_ = false) ∧
        (f.crosses = false)) ∧
    (∃ (s : State) (port : Fin 8) (f : EthFrame), (s.serves = true) ∧ ((s.ethPort port.val).up = true) ∧ (f.protected_ = true) ∧
        (f.verifies = true) ∧ (f.crosses = false) ∧ (frameListed f (s.ethPort port.val) = true)) ∧
    (∃ (s : State) (port : Fin 8) (prio : Fin 8), (s.serves = true) ∧ ((s.ethPort port.val).up = true) ∧
        (((s.ethPort port.val).prioData.toNat = prio.val ∨ (s.ethPort port.val).prioCtrl.toNat = prio.val)) ∧
        ((s.ethPort port.val).paused.getLsbD prio.val = false)) :=
  ⟨⟨(ask (with0 (ctxIn .bound) ready) ten (req 0x0206 32 [(1, 1, 7), (2, 1, 2)])), 0, 5, (sess ten [(req 0x0206 32 [(1, 1, 7), (2, 1, 2)])]),
      (req 0x0206 32 [(1, 1, 7), (2, 1, 2)]), ctxIn .bound, ⟨by decide +kernel, by decide +kernel, by decide +kernel, by decide +kernel,
      by decide +kernel⟩, by decide +kernel⟩,
   ⟨(ask ({ with0 (ctxIn .bound) ready with qps := [(1, { ctx := 0, port := 4, mtu := 0, partner := 9, service := 0 })], eth := List.replicate 8 { up := true } }) ten (req 0x0207 32 [(0,
       4, 1), (16, 4, 77)])), 0, 5, (sess ten [(req 0x0207 32 [(0, 4, 1), (16, 4, 77)])]), (req 0x0207 32 [(0, 4, 1), (16, 4, 77)]), { ctx := 0, port := 4, mtu := 0, partner := 9, service := 0 },
       ctxIn .bound, ⟨by decide +kernel, by decide +kernel, by decide +kernel, by decide +kernel, by decide +kernel⟩, by decide +kernel⟩,
   ⟨(ask ({ with0 (ctxIn .bound) ready with qps := [(1, { ctx := 0, port := 4, mtu := 0, partner := 9, service := 0, work := [.write 1 0x40 []] })], eth := List.replicate 8 { up := true } }) ten (req 0x0207 32 [(0,
       4, 1), (16, 4, 77)])), 0, 5, (sess ten [(req 0x0207 32 [(0, 4, 1), (16, 4, 77)])]), (req 0x0207 32 [(0, 4, 1), (16, 4, 77)]), { ctx := 0, port := 4, mtu := 0, partner := 9, service := 0, work := [.write 1 0x40 []] },
       ctxIn .bound, ⟨by decide +kernel, by decide +kernel, by decide +kernel, by decide +kernel, by decide +kernel⟩, by decide +kernel⟩,
   ⟨(ask ({ with0 (ctxIn .bound) ready with qps := [(1, { ctx := 0, port := 4, mtu := 0, partner := 9, service := 0 })], eth := List.replicate 8 { up := true } }) ten (req 0x0208 4 [(0,
       4, 1)])), 0, 5, (sess ten [(req 0x0208 4 [(0, 4, 1)])]), (req 0x0208 4 [(0, 4, 1)]), { ctx := 0, port := 4, mtu := 0, partner := 9, service := 0 },
       ctxIn .bound, ⟨by decide +kernel, by decide +kernel, by decide +kernel, by decide +kernel, by decide +kernel⟩, by decide +kernel⟩,
   ⟨({ with0 (ctxIn .bound) ready with qps := [(1, { ctx := 0, port := 4, mtu := 0, partner := 9, service := 0 })], eth := List.replicate 8 { up := true } }),
       1, 9, { ctx := 0, port := 4, mtu := 0, partner := 9, service := 0 }, by decide +kernel⟩,
   ⟨({ with0 (ctxIn .bound) ready with qps := [(1, { ctx := 0, port := 4, mtu := 0, partner := 9, service := 0, st := .connected })], eth := List.replicate 8 { up := true } }),
       1, { ctx := 0, port := 4, mtu := 0, partner := 9, service := 0, st := .connected }, by decide +kernel⟩,
   ⟨{ ready with sess := [(0, { sess ten [] with qpn := 5 })] }, 5, 0, { sess ten [] with qpn := 5 }, by decide +kernel⟩,
   ⟨({ with0 (ctxIn .bound) ready with qps := [(1, { ctx := 0, port := 4, mtu := 0, partner := 9, service := 0, st := .connected })], eth := List.replicate 8 { up := true } }),
       1, { ctx := 0, port := 4, mtu := 0, partner := 9, service := 0, st := .connected }, by decide +kernel⟩,
   ⟨(ask ready .operator (req 0x0307 112 [(0, 1, 4), (1, 1, 31), (38, 1, 3), (39, 1, 5), (40, 1, 63)])), 0, 5, (sess .operator [(req 0x0307 112 [(0,
       1, 4), (1, 1, 31), (38, 1, 3), (39, 1, 5), (40, 1, 63)])]), (req 0x0307 112 [(0, 1, 4), (1, 1, 31), (38, 1, 3), (39, 1, 5), (40, 1, 63)]),
       ⟨by decide +kernel, by decide +kernel, by decide +kernel, by decide +kernel, by decide +kernel⟩, by decide +kernel⟩,
   ⟨{ ready with eth := List.replicate 8 { up := true, ipv4 := 9 } }, 4, { protected_ := false, verifies := true, len := 64, tags := [], prio := 0, crosses := false, body := .arp 9 },
       by decide +kernel⟩,
   ⟨{ ready with eth := List.replicate 8 { up := true, ipv4 := 9 } }, 4, { protected_ := true, verifies := true, len := 64, tags := [], prio := 0, crosses := false, body := .arp 9 },
       by decide +kernel⟩,
   ⟨{ ready with eth := List.replicate 8 { up := true, prioData := 3 } }, 4, 3, by decide +kernel⟩⟩

theorem test_meets_RdmaCompletes :
    (∃ (s : State) (qp : BitVec 24) (rkey : W32) (va : BitVec 64) (data : List (BitVec 8)) (q : Qp), (s.sessOfQp qp.toNat = none) ∧
        (s.qpLive qp.toNat = some q) ∧ (q.work = []) ∧ (s.rdmaOk q rkey va data.length = true) ∧ (s.accessHeld q.ctx va.toNat data.length = false)) ∧
    (∃ (s : State) (qp : BitVec 24) (rkey : W32) (va : BitVec 64) (data : List (BitVec 8)) (q : Qp), (s.sessOfQp qp.toNat = none) ∧
        (s.qpLive qp.toNat = some q) ∧ (q.work = []) ∧ (s.rdmaOk q rkey va data.length = true) ∧ (s.accessHeld q.ctx va.toNat data.length = true)) ∧
    (∃ (s : State) (n : Nat) (x : Sess) (qp : BitVec 24) (va : BitVec 64), (s.sessOfQp qp.toNat = some (n, x)) ∧ (va.toNat < mailboxAt n)) ∧
    (∃ (s : State) (qp : BitVec 24) (rkey : W32) (va : BitVec 64) (len : W32) (q : Qp), (s.sessOfQp qp.toNat = none) ∧ (s.qpLive qp.toNat = some q) ∧
        (q.work = []) ∧ (s.rdmaOk q rkey va len.toNat = true) ∧ (s.accessHeld q.ctx va.toNat len.toNat = false) ∧
        (s.tierBad q.ctx va.toNat len.toNat = false)) ∧
    (∃ (s : State) (qp : BitVec 24) (rkey : W32) (va : BitVec 64) (data : List (BitVec 8)) (q : Qp), (s.sessOfQp qp.toNat = none) ∧
        (s.qpLive qp.toNat = some q) ∧ (q.work = []) ∧ (s.rdmaOk q rkey va data.length = false)) :=
  ⟨⟨{ with0 (ctxIn .bound) (objs [.window win] ready) with qps := [(1, { ctx := 0, port := 4, mtu := 0, partner := 9, service := 0, st := .connected })], eth := List.replicate 8 { up := true } },
      1, mkHandle 4 0 1, 0x40, List.replicate 64 1, { ctx := 0, port := 4, mtu := 0, partner := 9, service := 0, st := .connected },
      by decide +kernel⟩,
   ⟨{ with0 (ctxIn .bound) (objs [.window win] ready) with devices := { movingLines := [1] } :: ready.devices.tail, qps := [(1, { ctx := 0, port := 4, mtu := 0, partner := 9, service := 0, st := .connected })], eth := List.replicate 8 { up := true } },
       1, mkHandle 4 0 1, 0x40, List.replicate 64 1, { ctx := 0, port := 4, mtu := 0, partner := 9, service := 0, st := .connected },
       by decide +kernel⟩,
   ⟨{ ready with sess := [(0, { sess ten [] with qpn := 5 })] }, 0, { sess ten [] with qpn := 5 }, 5, 0x40, by decide +kernel⟩,
   ⟨{ with0 (ctxIn .bound) (objs [.window win] ready) with qps := [(1, { ctx := 0, port := 4, mtu := 0, partner := 9, service := 0, st := .connected })], eth := List.replicate 8 { up := true } },
       1, mkHandle 4 0 1, 0x40, 64, { ctx := 0, port := 4, mtu := 0, partner := 9, service := 0, st := .connected }, by decide +kernel⟩,
   ⟨{ with0 (ctxIn .bound) (objs [.window win] ready) with qps := [(1, { ctx := 0, port := 4, mtu := 0, partner := 9, service := 0, st := .connected })], eth := List.replicate 8 { up := true } },
       1, mkHandle 4 0 1, 0x41, List.replicate 64 1, { ctx := 0, port := 4, mtu := 0, partner := 9, service := 0, st := .connected },
       by decide +kernel⟩⟩

theorem test_meets_PartitionCommandsComplete :
    (∃ (s : State) (n : Fin 64) (seq : W32) (x : Sess) (r : Req), (s.atTurn n seq 0x0301 x r) ∧ (s.ptag = 0) ∧ ((∀ a : Fin 3,
        coordOf (BitVec.ofNat 32 (r.num 0 4) &&& ~~~(0xF8#32)) 31 a.val < coordOf (BitVec.ofNat 32 (r.num 0 4) &&& ~~~(0xF8#32)) 19 a.val + 1))) ∧
    (∃ (s : State) (n : Fin 64) (seq : W32) (x : Sess) (r : Req) (v : W64), (s.atTurn n seq 0x0302 x r) ∧
        (v = BitVec.ofNat 64 (r.num 0 8) &&& ~~~(0x7FF#64)) ∧ (cfgPtag v ≠ 0) ∧ (s.joinBad v = false) ∧ (s.onPartition = false)) ∧
    (∃ (s : State) (n : Fin 64) (seq : W32) (x : Sess) (r : Req), (s.atTurn n seq 0x0305 x r) ∧ (r.num 0 1 = 1)) ∧
    (∃ (s : State) (n : Fin 64) (seq : W32) (x : Sess) (r : Req), (s.atTurn n seq 0x0305 x r) ∧ (r.num 0 1 = 0) ∧ (s.holdsGrant = false) ∧
        ((∀ a : Fin 3, cfgMode s.part.partCfg a.val ≠ 2))) ∧
    (∃ (s : State) (n : Fin 64) (seq : W32) (x : Sess) (r : Req), (s.atTurn n seq 0x0306 x r) ∧ (r.clean [(0, 3)] = true) ∧ (r.num 0 2 < 4096) ∧
        (r.num 2 1 = 1) ∧ (s.holdsGrant = false)) ∧
    (∃ (s : State) (n : Fin 64) (seq : W32) (x : Sess) (r : Req), (s.atTurn n seq 0x0306 x r) ∧ (r.clean [(0, 3)] = true) ∧ (r.num 0 2 < 4096) ∧
        (r.num 2 1 = 0)) ∧
    (∃ (s : State) (n : Fin 64) (seq : W32) (x : Sess) (r : Req) (b : BitVec 128) (h : W32) (s1 : State), (s.atTurn n seq 0x0304 x r) ∧
        (b = BitVec.ofNat 128 (r.num 0 16)) ∧ (fieldN b 127 64 = s.sec.serial.toNat) ∧ (fieldN b 47 46 ≠ 3) ∧ (fieldN b 45 40 ≤ 50) ∧
        (fieldN b 39 32 = 0) ∧ ((∀ i, smGet? s.part.issues (fieldN b 63 48) = some i → i.toNat < fieldN b 31 0)) ∧
        ((s.ptag = 0 ∨ cfgReplay s.part.partCfg = true)) ∧ (fieldN b 63 48 ≠ s.ptag) ∧ (s.grants < 8) ∧ (s.newShare b ≤ 50) ∧
        (s.newHandle (.grant { body := b }) = some (h, s1))) ∧
    (∃ (s : State) (n : Fin 64) (seq : W32) (x : Sess) (r : Req), (s.atTurn n seq 0x0303 x r) ∧ (r.clean ([(0, 2), (400,
        32)] ++ (List.range 12).map (fun j => (16 + 24 * j, 13))) = true) ∧ (r.num 0 2 = 1) ∧ (r.num 400 32 ≠ 0) ∧ (r.linkAct 0 = 2) ∧
        (s.scopeDue = [])) :=
  ⟨⟨(ask ready .operator (req 0x0301 4 [])), 0, 5, (sess .operator [(req 0x0301 4 [])]), (req 0x0301 4 []), ⟨by decide +kernel, by decide +kernel,
      by decide +kernel, by decide +kernel, by decide +kernel⟩, by decide +kernel⟩,
   ⟨(ask ready .operator (req 0x0302 8 [(6, 2, 1)])), 0, 5, (sess .operator [(req 0x0302 8 [(6, 2, 1)])]), (req 0x0302 8 [(6, 2, 1)]),
       0x0001000000000000, ⟨by decide +kernel, by decide +kernel, by decide +kernel, by decide +kernel, by decide +kernel⟩, by decide +kernel⟩,
   ⟨(ask ready .operator (req 0x0305 1 [(0, 1, 1)])), 0, 5, (sess .operator [(req 0x0305 1 [(0, 1, 1)])]), (req 0x0305 1 [(0, 1, 1)]),
       ⟨by decide +kernel, by decide +kernel, by decide +kernel, by decide +kernel, by decide +kernel⟩, by decide +kernel⟩,
   ⟨(ask ready .operator (req 0x0305 1 [])), 0, 5, (sess .operator [(req 0x0305 1 [])]), (req 0x0305 1 []), ⟨by decide +kernel, by decide +kernel,
       by decide +kernel, by decide +kernel, by decide +kernel⟩, by decide +kernel⟩,
   ⟨(ask ready .operator (req 0x0306 4 [(0, 2, 3), (2, 1, 1)])), 0, 5, (sess .operator [(req 0x0306 4 [(0, 2, 3), (2, 1, 1)])]), (req 0x0306 4 [(0,
       2, 3), (2, 1, 1)]), ⟨by decide +kernel, by decide +kernel, by decide +kernel, by decide +kernel, by decide +kernel⟩, by decide +kernel⟩,
   ⟨(ask ready .operator (req 0x0306 4 [(0, 2, 4095)])), 0, 5, (sess .operator [(req 0x0306 4 [(0, 2, 4095)])]), (req 0x0306 4 [(0, 2, 4095)]),
       ⟨by decide +kernel, by decide +kernel, by decide +kernel, by decide +kernel, by decide +kernel⟩, by decide +kernel⟩,
   ⟨(ask ready .operator (req 0x0304 112 [(0, 8, 5 * 2 ^ 48 + 3 * 2 ^ 40 + 1), (8, 8, 1)])), 0, 5, (sess .operator [(req 0x0304 112 [(0, 8,
       5 * 2 ^ 48 + 3 * 2 ^ 40 + 1), (8, 8, 1)])]), (req 0x0304 112 [(0, 8, 5 * 2 ^ 48 + 3 * 2 ^ 40 + 1), (8, 8, 1)]),
       BitVec.ofNat 128 ((req 0x0304 112 [(0, 8, 5 * 2 ^ 48 + 3 * 2 ^ 40 + 1), (8, 8, 1)]).num 0 16), (((ask ready .operator (req 0x0304 112 [(0, 8,
       5 * 2 ^ 48 + 3 * 2 ^ 40 + 1), (8, 8, 1)])).newHandle (.grant { body := BitVec.ofNat 128 ((req 0x0304 112 [(0, 8, 5 * 2 ^ 48 + 3 * 2 ^ 40 + 1), (8, 8, 1)]).num 0 16) })).getD (0,
       (ask ready .operator (req 0x0304 112 [(0, 8, 5 * 2 ^ 48 + 3 * 2 ^ 40 + 1), (8, 8, 1)])))).1, (((ask ready .operator (req 0x0304 112 [(0, 8,
       5 * 2 ^ 48 + 3 * 2 ^ 40 + 1), (8, 8, 1)])).newHandle (.grant { body := BitVec.ofNat 128 ((req 0x0304 112 [(0, 8, 5 * 2 ^ 48 + 3 * 2 ^ 40 + 1), (8, 8, 1)]).num 0 16) })).getD (0,
       (ask ready .operator (req 0x0304 112 [(0, 8, 5 * 2 ^ 48 + 3 * 2 ^ 40 + 1), (8, 8, 1)])))).2, ⟨by decide +kernel, by decide +kernel,
       by decide +kernel, by decide +kernel, by decide +kernel⟩, by decide +kernel, of_decide_eq_true (by decide +kernel), by decide +kernel,
       by decide +kernel, by decide +kernel, (by intro i h; simp only [ask, ready, State.reset] at h; cases h), by decide +kernel⟩,
   ⟨(ask ready .operator (req 0x0303 432 [(0, 2, 1), (28, 1, 2), (400, 32, 1)])), 0, 5, (sess .operator [(req 0x0303 432 [(0, 2, 1), (28, 1, 2),
       (400, 32, 1)])]), (req 0x0303 432 [(0, 2, 1), (28, 1, 2), (400, 32, 1)]), ⟨by decide +kernel, by decide +kernel, by decide +kernel,
       by decide +kernel, by decide +kernel⟩, by decide +kernel⟩⟩

theorem test_meets_ServiceCommandsComplete :
    (∃ (s : State) (n : Fin 64) (seq : W32) (x : Sess) (r : Req) (u : Sub) (h : W32) (s1 : State), (s.atTurn n seq 0x0401 x r) ∧
        (u = { owner := (match x.role with | .tenant i => some i | _ => none), kinds := BitVec.ofNat 5 (r.num 0 1), port := r.num 1 1, k := r.num 2 2, udp := r.num 4 2, addr := BitVec.ofNat 128 (r.num 16 16), filters := r.filters }) ∧
        (r.clean [(0, 6), (16, 400)] = true) ∧ (r.num 0 1 ≤ 31) ∧ (r.num 1 1 ≤ 3) ∧ (1 ≤ r.num 2 2) ∧ (r.num 2 2 ≤ 6000) ∧ (s.subs.length < 64) ∧
        (s.newHandle (.sub u) = some (h, s1))) ∧
    (∃ (s : State) (n : Fin 64) (seq : W32) (x : Sess) (r : Req), (s.atTurn n seq 0x0402 x r) ∧ (r.clean [(0, 10), (16, 8)] = true) ∧
        (r.num 8 2 = 1) ∧ (r.num 16 8 = 0) ∧ (s.now + 1000000 ≤ r.num 0 8) ∧ (r.num 0 8 ≤ s.now + 86400 * 10 ^ 9) ∧ (s.telem.series.length < 16)) ∧
    (∃ (s : State) (n : Fin 64) (seq : W32) (x : Sess) (r : Req), (s.atTurn n seq 0x0410 x r) ∧ (r.clean [(0, 7), (8, 3)] = true) ∧ (r.num 0 1 ≤ 4) ∧
        (r.num 1 1 ≤ 2) ∧ (r.num 3 1 ≤ 15) ∧ (r.num 4 1 ≤ 2) ∧ (r.num 5 2 ≤ 4095) ∧ ((r.num 0 1 = 1 ∨ r.num 0 1 = 2 → r.num 3 1 ≠ 0))) ∧
    (∃ (s : State) (n : Fin 64) (seq : W32) (x : Sess) (r : Req), (s.atTurn n seq 0x0701 x r) ∧ (r.clean [(0, 4)] = true) ∧ (6000 ≤ r.num 0 4) ∧
        (r.num 0 4 ≤ 14000) ∧ (s.power.envelope ≠ r.num 0 4)) ∧
    (∃ (s : State) (n : Fin 64) (seq : W32) (x : Sess) (r : Req), (s.atTurn n seq 0x0701 x r) ∧ ((r.num 0 4 < 6000 ∨ 14000 < r.num 0 4))) :=
  ⟨⟨(ask ready .operator (req 0x0401 416 [(0, 1, 3), (1, 1, 1), (2, 2, 10), (4, 2, 4000), (16, 16, 99)])), 0, 5,
      (sess .operator [(req 0x0401 416 [(0, 1, 3), (1, 1, 1), (2, 2, 10), (4, 2, 4000), (16, 16, 99)])]), (req 0x0401 416 [(0, 1, 3), (1, 1, 1), (2,
      2, 10), (4, 2, 4000), (16, 16, 99)]), { owner := none, kinds := 3, port := 1, k := 10, udp := 4000, addr := 99, filters := (req 0x0401 416 [(0, 1, 3), (1, 1, 1), (2, 2, 10), (4, 2, 4000), (16, 16, 99)]).filters },
      (((ask ready .operator (req 0x0401 416 [(0, 1, 3), (1, 1, 1), (2, 2, 10), (4, 2, 4000), (16, 16, 99)])).newHandle (.sub { owner := none, kinds := 3, port := 1, k := 10, udp := 4000, addr := 99, filters := (req 0x0401 416 [(0, 1, 3), (1, 1, 1), (2, 2, 10), (4, 2, 4000), (16, 16, 99)]).filters })).getD (0,
      (ask ready .operator (req 0x0401 416 [(0, 1, 3), (1, 1, 1), (2, 2, 10), (4, 2, 4000), (16, 16, 99)])))).1,
      (((ask ready .operator (req 0x0401 416 [(0, 1, 3), (1, 1, 1), (2, 2, 10), (4, 2, 4000), (16, 16, 99)])).newHandle (.sub { owner := none, kinds := 3, port := 1, k := 10, udp := 4000, addr := 99, filters := (req 0x0401 416 [(0, 1, 3), (1, 1, 1), (2, 2, 10), (4, 2, 4000), (16, 16, 99)]).filters })).getD (0,
      (ask ready .operator (req 0x0401 416 [(0, 1, 3), (1, 1, 1), (2, 2, 10), (4, 2, 4000), (16, 16, 99)])))).2, ⟨by decide +kernel,
      by decide +kernel, by decide +kernel, by decide +kernel, by decide +kernel⟩, by decide +kernel⟩,
   ⟨(ask ready .operator (req 0x0402 24 [(0, 8, 2000000), (8, 2, 1)])), 0, 5, (sess .operator [(req 0x0402 24 [(0, 8, 2000000), (8, 2, 1)])]),
       (req 0x0402 24 [(0, 8, 2000000), (8, 2, 1)]), ⟨by decide +kernel, by decide +kernel, by decide +kernel, by decide +kernel, by decide +kernel⟩,
       by decide +kernel⟩,
   ⟨(ask ready .operator (req 0x0410 16 [(0, 1, 1), (1, 1, 1), (3, 1, 15), (4, 1, 2), (5, 2, 4095)])), 0, 5, (sess .operator [(req 0x0410 16 [(0, 1,
       1), (1, 1, 1), (3, 1, 15), (4, 1, 2), (5, 2, 4095)])]), (req 0x0410 16 [(0, 1, 1), (1, 1, 1), (3, 1, 15), (4, 1, 2), (5, 2, 4095)]),
       ⟨by decide +kernel, by decide +kernel, by decide +kernel, by decide +kernel, by decide +kernel⟩, by decide +kernel⟩,
   ⟨(ask ready .operator (req 0x0701 8 [(0, 4, 12000)])), 0, 5, (sess .operator [(req 0x0701 8 [(0, 4, 12000)])]), (req 0x0701 8 [(0, 4, 12000)]),
       ⟨by decide +kernel, by decide +kernel, by decide +kernel, by decide +kernel, by decide +kernel⟩, by decide +kernel⟩,
   ⟨(ask ready .operator (req 0x0701 8 [(0, 4, 14001)])), 0, 5, (sess .operator [(req 0x0701 8 [(0, 4, 14001)])]), (req 0x0701 8 [(0, 4, 14001)]),
       ⟨by decide +kernel, by decide +kernel, by decide +kernel, by decide +kernel, by decide +kernel⟩, by decide +kernel⟩⟩

theorem test_meets_FirmwareCommandsComplete :
    (∃ (s : State) (s1 : State) (n : Fin 64) (seq : W32) (x : Sess) (r : Req) (data : List Byte) (img : Image) (k : Nat),
        (s.atTurn n seq 0x0501 x r) ∧ (k = r.num 0 1) ∧ (k < 6) ∧ (r.clean [(0, 1), (4, 16)] = true) ∧ (r.num 4 4 ≤ classLimit k) ∧
        (r.num 4 4 ≤ data.length) ∧ (img = readImage (data.take (r.num 4 4))) ∧ ((s.fwClass k).act = 0) ∧ (s.diesOn k (s.fwClass k).inactive = 0) ∧
        (s1 = s.emit (.rdmaRead x.qpn (r.num 8 8) (r.num 16 4) (r.num 4 4)))) ∧
    (∃ (s : State) (n : Fin 64) (seq : W32) (x : Sess) (r : Req) (k : Nat) (todo : List Nat), (s.atTurn n seq 0x0502 x r) ∧ (k = r.num 0 1) ∧
        (k < 6) ∧ (r.clean [(0, 1), (4, 11), (16, 4)] = true) ∧ (r.num 16 4 ≤ 86400) ∧ (((s.fwClass k).staged || s.mixed k) = true) ∧
        ((s.fwClass k).act = 0) ∧ (s.power.emerg = false) ∧
        (todo = (s.liveMgrs k).filter (fun n => (n == 88 || (r.num 4 11).testBit n) && (s.mgr n).slot != !(s.fwClass k).bootSlot)) ∧ (todo ≠ [])) ∧
    (∃ (s : State) (cls : Fin 6), ((s.fwClass cls.val).act = 1) ∧ (s.pkg.mgr.st = .running) ∧ ((s.fwClass cls.val).wave.any s.waveStuck = false) ∧
        ((s.fwClass cls.val).todo ≠ []) ∧ (s.emergency = false)) ∧
    (∃ (s : State) (cls : Fin 6), ((s.fwClass cls.val).act = 2) ∧ (s.pkg.mgr.st = .running) ∧ (s.emergency = false)) ∧
    (∃ (s : State) (cls : Fin 6), ((s.fwClass cls.val).act = 2) ∧ ((s.fwClass cls.val).wave = [])) ∧
    (∃ (s : State) (die : Fin 88) (old : Bool), ((s.mgr die.val).trial = some old) ∧ ((s.mgr die.val).st = .restarting) ∧
        ((s.fwClass (mgrClass die.val)).act = 0)) :=
  ⟨⟨(ask ready .operator (req 0x0501 20 [(0, 1, 1), (4, 4, 4), (8, 8, 0x1000), (16, 4, 7)])), (State.emit (ask ready .operator (req 0x0501 20 [(0, 1,
      1), (4, 4, 4), (8, 8, 0x1000), (16, 4, 7)])) (.rdmaRead (sess .operator [(req 0x0501 20 [(0, 1, 1), (4, 4, 4), (8, 8, 0x1000), (16, 4,
      7)])]).qpn ((req 0x0501 20 [(0, 1, 1), (4, 4, 4), (8, 8, 0x1000), (16, 4, 7)]).num 8 8) ((req 0x0501 20 [(0, 1, 1), (4, 4, 4), (8, 8, 0x1000),
      (16, 4, 7)]).num 16 4) ((req 0x0501 20 [(0, 1, 1), (4, 4, 4), (8, 8, 0x1000), (16, 4, 7)]).num 4 4))), 0, 5,
      (sess .operator [(req 0x0501 20 [(0, 1, 1), (4, 4, 4), (8, 8, 0x1000), (16, 4, 7)])]), (req 0x0501 20 [(0, 1, 1), (4, 4, 4), (8, 8, 0x1000),
      (16, 4, 7)]), [0, 0, 0, 0], (readImage (List.take ((req 0x0501 20 [(0, 1, 1), (4, 4, 4), (8, 8, 0x1000), (16, 4, 7)]).num 4 4) [0, 0, 0, 0])),
      1, ⟨by decide +kernel, by decide +kernel, by decide +kernel, by decide +kernel, by decide +kernel⟩, by decide +kernel,
      of_decide_eq_true (by decide +kernel), by decide +kernel, by decide +kernel, by decide +kernel, rfl, by decide +kernel, by decide +kernel, rfl⟩,
   ⟨(ask { ready with pkg := { ready.pkg with fw := ready.pkg.fw.set 3 { State.factoryFw 3 with staged := true } } } .operator (req 0x0502 20 [(0, 1,
       3), (4, 1, 1)])), 0, 5, (sess .operator [(req 0x0502 20 [(0, 1, 3), (4, 1, 1)])]), (req 0x0502 20 [(0, 1, 3), (4, 1, 1)]), 3, [0],
       ⟨by decide +kernel, by decide +kernel, by decide +kernel, by decide +kernel, by decide +kernel⟩, by decide +kernel⟩,
   ⟨{ ready with pkg := { ready.pkg with fw := ready.pkg.fw.set 3 { State.factoryFw 3 with act := 1, todo := [0] } } }, 3, by decide +kernel⟩,
   ⟨{ ready with pkg := { ready.pkg with fw := ready.pkg.fw.set 3 { State.factoryFw 3 with act := 2 } } }, 3, by decide +kernel⟩,
   ⟨{ ready with pkg := { ready.pkg with fw := ready.pkg.fw.set 3 { State.factoryFw 3 with act := 2 } } }, 3, by decide +kernel⟩,
   ⟨{ ready with dies := { ready.die 0 with mgr := { st := .restarting, trial := some false, rollBack := true } } :: ready.dies.tail }, 0, false,
       by decide +kernel⟩⟩

theorem test_meets_ManagerRunsSlot :
    ∃ (s : State) (d : Nat), (d < 88) ∧ (s.dies.length = 88) :=
  ⟨ready, 3, by decide +kernel⟩

theorem test_meets_RepairCommandsComplete :
    (∃ (s : State) (n : Fin 64) (seq : W32) (x : Sess) (r : Req), (s.atTurn n seq 0x0510 x r) ∧ (r.num 0 1 < 88) ∧
        (bistApplies (r.num 0 1) (r.num 1 1) = true) ∧ (r.num 2 1 ≤ 1) ∧ (s.isFenced (r.num 0 1) = true) ∧
        ((s.dies.filter (fun x => x.bist.isSome)).length < 16)) ∧
    (∃ (s : State) (die : Fin 88) (sig : BitVec 64), ((s.die die.val).bist = some 1) ∧ (sig ≠ s.expectedSig die.val 1) ∧ (s.scopeDue = [])) ∧
    (∃ (s : State) (n : Fin 64) (seq : W32) (x : Sess) (r : Req), (s.atTurn n seq 0x0511 x r) ∧ (r.num 1 1 = 0) ∧ ((s.fenceArgs r).1 = false) ∧
        (s.isFenced (r.num 0 1) = false)) ∧
    (∃ (s : State) (n : Fin 64) (seq : W32) (x : Sess) (r : Req), (s.atTurn n seq 0x0511 x r) ∧ (r.num 1 1 = 1) ∧ ((s.fenceArgs r).1 = false) ∧
        ((s.health (dieObj (r.num 0 1))).st ≠ .failed) ∧ (s.isFenced (r.num 0 1) = true)) ∧
    (∃ (s : State) (n : Fin 64) (seq : W32) (x : Sess) (r : Req) (s1 : State), (s.atTurn n seq 0x0512 x r) ∧ (r.num 0 1 < 64) ∧ (r.num 1 1 = 0) ∧
        (r.num 2 1 = 0) ∧ (r.num 3 1 = 0xFF) ∧ (s.boundTo (r.num 0 1) none ≠ []) ∧ ((s.die (r.num 0 1)).cstate = .enabled) ∧
        (s.startSparing (r.num 0 1) none none true false = some s1)) ∧
    (∃ (s : State) (n : Fin 64) (seq : W32) (x : Sess) (r : Req) (d : Nat), (s.atTurn n seq 0x0513 x r) ∧ (r.num 0 1 = 0) ∧ (d = r.num 1 1) ∧
        (d < 20) ∧ (r.num 2 1 = 0) ∧ (r.clean [(0, 3), (4, 2), (8, 8)] = true) ∧ ((s.die (devDie d)).mgr.st = .running)) :=
  ⟨⟨(ask ({ ready with dies := { ready.die 0 with cstate := .fenced, fenced := true } :: ready.dies.tail }) .operator (req 0x0510 3 [(1, 1, 1)])), 0,
      5, (sess .operator [(req 0x0510 3 [(1, 1, 1)])]), (req 0x0510 3 [(1, 1, 1)]), ⟨by decide +kernel, by decide +kernel, by decide +kernel,
      by decide +kernel, by decide +kernel⟩, by decide +kernel⟩,
   ⟨{ ready with dies := { ready.die 0 with cstate := .fenced, bist := some 1 } :: ready.dies.tail }, 0,
       ~~~ (State.expectedSig { ready with dies := { ready.die 0 with cstate := .fenced, bist := some 1 } :: ready.dies.tail } 0 1),
       by decide +kernel, by intro h; have := congrArg (·.getLsbD 0) h; simp at this, by decide +kernel⟩,
   ⟨(ask ready .operator (req 0x0511 2 [(0, 1, 1)])), 0, 5, (sess .operator [(req 0x0511 2 [(0, 1, 1)])]), (req 0x0511 2 [(0, 1, 1)]),
       ⟨by decide +kernel, by decide +kernel, by decide +kernel, by decide +kernel, by decide +kernel⟩, by decide +kernel⟩,
   ⟨(ask ({ ready with dies := { ready.die 0 with cstate := .fenced, fenced := true } :: ready.dies.tail }) .operator (req 0x0511 2 [(0, 1, 0), (1,
       1, 1)])), 0, 5, (sess .operator [(req 0x0511 2 [(0, 1, 0), (1, 1, 1)])]), (req 0x0511 2 [(0, 1, 0), (1, 1, 1)]), ⟨by decide +kernel,
       by decide +kernel, by decide +kernel, by decide +kernel, by decide +kernel⟩, by decide +kernel⟩,
   ⟨(ask ready .operator (req 0x0512 4 [(3, 1, 255)])), 0, 5, (sess .operator [(req 0x0512 4 [(3, 1, 255)])]), (req 0x0512 4 [(3, 1, 255)]),
       ((ask ready .operator (req 0x0512 4 [(3, 1, 255)])).startSparing 0 none none true false).getD ready, ⟨by decide +kernel, by decide +kernel,
       by decide +kernel, by decide +kernel, by decide +kernel⟩, by decide +kernel⟩,
   ⟨(ask ready .operator (req 0x0513 16 [])), 0, 5, (sess .operator [(req 0x0513 16 [])]), (req 0x0513 16 []), 0, ⟨by decide +kernel,
       by decide +kernel, by decide +kernel, by decide +kernel, by decide +kernel⟩, by decide +kernel⟩⟩

theorem test_meets_SparingCompletes :
    (∃ (s : State) (src : Fin 64) (tile : Option (Fin 8)) (x : Sparing), (s.sparing? src tile = some x) ∧ (x.phase = .preparing) ∧
        (s.pkg.mgr.st = .running) ∧ ((s.mgr x.target).st ≠ .restarting) ∧ (s.pkg.st ≠ .boot) ∧ ((s.die x.target).cstate = .enabled)) ∧
    (∃ (s : State) (src : Fin 64) (tile : Option (Fin 8)) (x : Sparing), (s.sparing? src tile = some x) ∧ (x.warm = true) ∧ (x.phase = .ready) ∧
        (x.atClose = false) ∧ (s.boundTo x.src x.tile ≠ []) ∧ ((s.boundTo x.src x.tile).all (fun l => (s.tileL l).moving) = true) ∧
        ((s.boundTo x.src x.tile).all s.tileQuiet = true)) ∧
    (∃ (s : State) (src : Fin 64) (tile : Option (Fin 8)) (x : Sparing), (s.sparing? src tile = some x) ∧ (x.warm = false) ∧ (x.phase = .ready) ∧
        (s.ctxs = [])) ∧
    (∃ (s : State) (src : Fin 64) (tile : Option (Fin 8)) (x : Sparing), (s.sparing? src tile = some x) ∧ (x.phase = .copied) ∧
        ((s.pkg.sparings.any (fun y => y.phase == .binding)) = false) ∧ (s.pkg.mgr.st = .running)) ∧
    (∃ (s : State) (x : Sparing), (s.pkg.sparings.find? (fun y => y.phase == .binding) = some x) ∧ (x.tile = none) ∧ (x.src < 64) ∧ (x.target < 64) ∧
        (x.src ≠ x.target) ∧ (s.dies.length = 88)) :=
  ⟨⟨{ ready with pkg := { ready.pkg with sparings := [{ src := 3, tile := none, target := 5, warm := true }] } }, 3, none, { src := 3, tile := none, target := 5, warm := true },
      by decide +kernel⟩,
   ⟨{ { ready with pkg := { ready.pkg with sparings := [{ src := 3, tile := none, target := 60, warm := true, phase := .ready }] } } with tiles := (List.range 8).map (fun t => (24 + t, { moving := true })) },
       3, none, { src := 3, tile := none, target := 60, warm := true, phase := .ready }, by decide +kernel⟩,
   ⟨{ ready with pkg := { ready.pkg with sparings := [{ src := 3, tile := none, target := 60, warm := false, phase := .ready }] } }, 3, none,
       { src := 3, tile := none, target := 60, warm := false, phase := .ready }, by decide +kernel⟩,
   ⟨{ ready with pkg := { ready.pkg with sparings := [{ src := 3, tile := none, target := 60, warm := false, phase := .copied }] } }, 3, none,
       { src := 3, tile := none, target := 60, warm := false, phase := .copied }, by decide +kernel⟩,
   ⟨{ ready with pkg := { ready.pkg with sparings := [{ src := 3, tile := none, target := 60, warm := false, phase := .binding }] } }, { src := 3, tile := none, target := 60, warm := false, phase := .binding },
       by decide +kernel⟩⟩

theorem test_meets_SecurityCommandsComplete :
    (∃ (s : State) (n : Fin 64) (seq : W32) (x : Sess) (r : Req), (s.atTurn n seq 0x0601 x r)) ∧
    (∃ (s : State) (n : Fin 64) (seq : W32) (x : Sess) (r : Req) (q : List Byte), (s.atTurn n seq 0x0602 x r) ∧ (r.issuer = none) ∧ (x.keys = none) ∧
        (x.handshake = 2) ∧ ((x.spdmTake r.message).req = some q)) ∧
    (∃ (s : State) (n : Fin 64) (seq : W32) (x : Sess) (r : Req), (s.atTurn n seq 0x0F01 x r) ∧ (r.num 0 8 = s.sec.serial.toNat) ∧
        (s.now ≤ r.num 8 8) ∧ (s.sec.debug = none)) ∧
    (∃ (s : State) (n : Nat), (s.sec.debug = some n)) :=
  ⟨⟨(ask ready .noRole (req 0x0601 64 [])), 0, 5, (sess .noRole [(req 0x0601 64 [])]), (req 0x0601 64 []), ⟨by decide +kernel, by decide +kernel,
      by decide +kernel, by decide +kernel, by decide +kernel⟩⟩,
   ⟨{ ready with sess := [(0, { sess .noRole [(req 0x0602 4 [(0, 1, 0x12), (1, 1, 0xE1)])] with handshake := 2 })] }, 0, 5,
       { sess .noRole [(req 0x0602 4 [(0, 1, 0x12), (1, 1, 0xE1)])] with handshake := 2 }, (req 0x0602 4 [(0, 1, 0x12), (1, 1, 0xE1)]),
       (Req.message (req 0x0602 4 [(0, 1, 0x12), (1, 1, 0xE1)])), ⟨by decide +kernel, by decide +kernel, by decide +kernel, by decide +kernel,
       by decide +kernel⟩, by decide +kernel⟩,
   ⟨(ask ready .operator (req 0x0f01 112 [(0, 8, 1), (8, 8, 100)])), 0, 5, (sess .operator [(req 0x0f01 112 [(0, 8, 1), (8, 8, 100)])]),
       (req 0x0f01 112 [(0, 8, 1), (8, 8, 100)]), ⟨by decide +kernel, by decide +kernel, by decide +kernel, by decide +kernel, by decide +kernel⟩,
       by decide +kernel⟩,
   ⟨{ ready with sec := { debug := some 0 } }, 0, by decide +kernel⟩⟩

theorem test_meets_RegisterCommandsComplete :
    (∃ (s : State) (n : Fin 64) (seq : W32) (x : Sess) (r : Req), (s.atTurn n seq 0x0F02 x r) ∧ (r.clean [(0, 10)] = true) ∧ (r.num 0 8 % 8 = 0) ∧
        (r.num 8 2 = 1) ∧ (inControl (r.num 0 8) = true) ∧ (s.sec.debug = some n.val)) ∧
    (∃ (s : State) (n : Fin 64) (seq : W32) (x : Sess) (r : Req), (s.atTurn n seq 0x0F03 x r) ∧ (r.num 0 8 % 8 = 0) ∧
        (inControl (r.num 0 8) = true) ∧ (s.sec.debug = some n.val)) ∧
    (∃ (s : State) (agent : Option (Fin 480)) (a : BitVec 48), (s.mayWrite agent a.toNat = true)) ∧
    (∃ (s : State), (s.mayWrite none 0xFF00FF600018 = true) ∧ (s.instantDue = false)) ∧
    (∃ (s : State), (s.mayWrite none 0xFF00FF60001C = true)) ∧
    (∃ (s : State) (v : W32), (s.mayWrite none 0xFF00FF600018 = true) ∧ (s.instantDue = true) ∧ (s.noteCleared 0xFF00FF600018 v 0xFFFFFFFF ≠ s)) :=
  ⟨⟨(ask ({ ready with sec := { debug := some 0 } }) .operator (req 0x0f02 16 [(0, 8, 0xFF00FF600000), (8, 2, 1)])), 0, 5,
      (sess .operator [(req 0x0f02 16 [(0, 8, 0xFF00FF600000), (8, 2, 1)])]), (req 0x0f02 16 [(0, 8, 0xFF00FF600000), (8, 2, 1)]),
      ⟨by decide +kernel, by decide +kernel, by decide +kernel, by decide +kernel, by decide +kernel⟩, by decide +kernel⟩,
   ⟨(ask ({ ready with sec := { debug := some 0 } }) .operator (req 0x0f03 24 [(0, 8, 0xFF00FF600000), (8, 2, 1)])), 0, 5,
       (sess .operator [(req 0x0f03 24 [(0, 8, 0xFF00FF600000), (8, 2, 1)])]), (req 0x0f03 24 [(0, 8, 0xFF00FF600000), (8, 2, 1)]),
       ⟨by decide +kernel, by decide +kernel, by decide +kernel, by decide +kernel, by decide +kernel⟩, by decide +kernel⟩,
   ⟨ready, none, 0xFF00FF600018, by decide +kernel⟩,
   ⟨ready, by decide +kernel⟩,
   ⟨ready, by decide +kernel⟩,
   ⟨{ ready with telem := { series := [{ t := 0, n := 1, p := 0 }] }, part := { evt := 1 } }, 1, by decide +kernel, by decide +kernel,
       fun h => absurd (congrArg (fun t => t.telem.cleared.length) h) (by decide +kernel)⟩⟩

theorem test_meets_RingCommandsComplete :
    (∃ (s : State) (h : W32) (c : Chan), (s.chan? h = some c) ∧ (s.accessHeld c.ctx c.ctrl 4 = false)) ∧
    (∃ (s : State) (h : W32) (c : Chan), (s.chan? h = some c) ∧ (s.accessHeld c.ctx c.ctrl 8 = false) ∧
        (s.ops.any (fun o => o.ch == h && o.phase == .held) = false)) ∧
    (∃ (s : State) (h : W32) (c : Chan) (raw : BitVec 1024), (s.chan? h = some c) ∧ (c.st = .running) ∧ (c.fired = false) ∧ (s.scopeDue = []) ∧
        (s.accessHeld c.ctx c.ctrl 64 = false) ∧ (s.accessHeld c.ctx c.ring (c.ringN * entryBytes c.kind) = false) ∧ (s.fetches c = true) ∧
        (s.itsTurn h c = true) ∧ ((c.producer - c.consumer).toNat = (c.nextFetch - c.consumer).toNat + 1) ∧
        ((c.producer - c.consumer).toNat ≤ c.ringN) ∧
        (s.tierBad c.ctx (c.ring + entryBytes c.kind * (c.nextFetch.toNat % c.ringN)) (entryBytes c.kind) = false) ∧
        (raw = BitVec.ofNat 1024 (s.tierRead c.ctx (c.ring + entryBytes c.kind * (c.nextFetch.toNat % c.ringN)) (entryBytes c.kind))) ∧
        (s.fetchRoom h c raw = true) ∧ (s.fetchCause c raw = .none)) ∧
    (∃ (s : State) (o : Op), (s.op? o.id = some o) ∧ (o.phase = .finished)) :=
  ⟨⟨running ch3 [], h3, { ch3 with st := .running }, by decide +kernel⟩,
   ⟨running ch3 [], h3, { ch3 with st := .running }, by decide +kernel⟩,
   ⟨{ running { ch2 with producer := 1 } [] with tier := memWriteN [] 0 64 (pack 1024 [(511, 448, 0x100000), (447, 384, 0x140000), (335, 304, 64), (303, 272, 64), (251, 232, 15), (63, 56, 0x80), (47, 44, 12), (43, 40, 12)]).toNat },
       h2, { ch2 with producer := 1, st := .running }, (pack 1024 [(511, 448, 0x100000), (447, 384, 0x140000), (335, 304, 64), (303, 272, 64), (251,
       232, 15), (63, 56, 0x80), (47, 44, 12), (43, 40, 12)]), by decide +kernel⟩,
   ⟨running ch2 [{ opOf h2 [] with phase := .finished }], { opOf h2 [] with phase := .finished }, by decide +kernel⟩⟩

theorem test_meets_ProducerFires :
    ∃ (s : State) (t : State) (h : W32) (v : W32) (c : Chan), (memWf s.tier = true) ∧ (s.chan? h = some c) ∧ (c.st = .running) ∧
        (s.accessHeld c.ctx c.ctrl 4 = false) ∧ ((∀ x, s.ctx? c.ctx = some x → x.bank = [])) ∧ (exec (.producerWrite h v) s = .next t) :=
  ⟨running ch3 [], nextOf (exec (.producerWrite h3 7) (running ch3 [])), h3, 7, { ch3 with st := .running }, by decide +kernel, by decide +kernel,
      by decide +kernel, by decide +kernel, (by intro x h; cases (Option.some.inj h); rfl), rfl⟩

theorem test_meets_SyncCommandsComplete :
    (∃ (s : State) (l : Fin 480) (q : Fin 8) (o : Op) (id : Nat) (x : Xlate) (c : Cell), (s.headOf l.val q.val = some o) ∧ (s.op? o.id = some o) ∧
        (o.tile = l.val) ∧ (o.kind = 1) ∧ (o.sync.loc = false) ∧ (o.sync.waits[o.waits]? = some id) ∧ (o.waitPend = false) ∧ (o.retry = false) ∧
        (s.isHeld l.val = false) ∧ (s.cached l.val id = some x) ∧ (s.isHeld x.home = false) ∧ ((s.tileL x.home).cell? o.ctx id = some c) ∧
        (c.waits = []) ∧ (c.take ≤ c.count)) ∧
    (∃ (s : State) (l : Fin 480) (q : Fin 8) (o : Op), (s.headOf l.val q.val = some o) ∧ (o.kind = 1) ∧ (o.tile = l.val) ∧ (o.retry = true) ∧
        (s.isHeld l.val = false)) ∧
    (∃ (s : State) (k : Nat) (g : Signal) (home : Nat) (add : Nat) (c : Cell), (s.signals[k]? = some g) ∧ (g.loc = false) ∧ (g.dest = some (home,
        add)) ∧ (s.isHeld g.tile = false) ∧ (s.isHeld home = false) ∧ ((s.tileL home).cell? g.ctx g.id = some c) ∧ (c.waits = []) ∧
        (c.count + add ≤ 16777215)) ∧
    (∃ (s : State) (k : Nat) (x : XlateRead) (a : Nat), (s.xlates[k]? = some x) ∧ (s.entryAddr x.ctx x.id = some a) ∧
        (s.bankHeld x.ctx a 8 = false) ∧ (s.pkg.remapHold = []) ∧ ((s.xlates.take k).any x.sameCell = false)) ∧
    (∃ (s : State) (l : Fin 480) (id : BitVec 16) (c : Nat), ((s.tileL l.val).uc.st = .running) ∧ (s.ctxOfTile l.val = some c) ∧ (id.toNat < 48)) ∧
    (∃ (s : State) (l : Fin 480) (id : BitVec 16) (c : Nat), ((s.tileL l.val).uc.st = .running) ∧ (s.ctxOfTile l.val = some c) ∧ (id.toNat < 48) ∧
        (1 ≤ (s.tileL l.val).lsync.getD id.toNat 0) ∧ ((s.tileL l.val).lsync.length = 48)) ∧
    (∃ (s : State) (l : Fin 480), ((s.tileL l.val).uc.st = .running) ∧ ((s.tileL l.val).uc.mtvec ≠ 0) ∧ ((s.tileL l.val).uc.inHandler = false)) ∧
    (∃ (s : State) (l : Fin 480), ((s.tileL l.val).uc.st = .running)) ∧
    (∃ (s : State) (l : Nat) (o : Nat) (w : W32), ((s.tileL l).uc.pc.toNat = ucBase + o) ∧ (o + 4 ≤ ucSize) ∧ (w.toNat % 4 = 3) ∧
        (memReadN (s.tileL l).uc.mem o 2 = w.toNat % 65536) ∧ (memReadN (s.tileL l).uc.mem (o + 2) 2 = w.toNat / 65536)) ∧
    (∃ (w : W32), (fieldN w 6 0 = 0x13) ∧ (rvF3 w = 0)) ∧
    (∃ (s : State) (l : Nat) (a : Nat) (k : Nat), (a % k = 0) ∧ (s.ucPlace l a k = .refused)) :=
  ⟨⟨{ running ch1 [{ opOf h1 [(432, 432, 1), (399, 384, 4)] with waitPend := false }] with tiles := [(0, { cells := [{ id := 4, ctx := 0, count := 5, take := 2 }], xlate := [{ id := 4, home := 0, add := 1, take := 2 }] })] },
      0, 0, { opOf h1 [(432, 432, 1), (399, 384, 4)] with waitPend := false }, 4, { id := 4, home := 0, add := 1, take := 2 }, { id := 4, ctx := 0, count := 5, take := 2 },
      by decide +kernel⟩,
   ⟨running ch1 [{ opOf h1 [(432, 432, 1), (399, 384, 4)] with retry := true }], 0, 0, { opOf h1 [(432, 432, 1), (399, 384, 4)] with retry := true },
       by decide +kernel⟩,
   ⟨{ running ch3 [] with tiles := [(0, { cells := [{ id := 4, ctx := 0, count := 5, take := 2 }] })], signals := [{ ctx := 0, id := 4, loc := false, tile := 1, ch := h3, idx := 0, dest := some (0, 2) }] },
       0, { ctx := 0, id := 4, loc := false, tile := 1, ch := h3, idx := 0, dest := some (0, 2) }, 0, 2, { id := 4, ctx := 0, count := 5, take := 2 },
       by decide +kernel⟩,
   ⟨{ with0 { ctxIn .running with syncSpace := some (mkHandle 5 0 1) } (objs [.sync { ctx := 0, table := 0, entries := 16 }] ready) with xlates := [{ ctx := 0, id := 4, alloc := false, use := .ucTake 0 }] },
       0, { ctx := 0, id := 4, alloc := false, use := .ucTake 0 }, 32, by decide +kernel⟩,
   ⟨{ running ch3 [] with tiles := [(0, { uc := { st := .running, mtvec := 4 }, lsync := 1 :: List.replicate 47 1 })] }, 0, 47, 0, by decide +kernel⟩,
   ⟨{ running ch3 [] with tiles := [(0, { uc := { st := .running, mtvec := 4 }, lsync := 1 :: List.replicate 47 1 })] }, 0, 47, 0, by decide +kernel⟩,
   ⟨{ running ch3 [] with tiles := [(0, { uc := { st := .running, mtvec := 4 }, lsync := 1 :: List.replicate 47 1 })] }, 0, by decide +kernel⟩,
   ⟨{ running ch3 [] with tiles := [(0, { uc := { st := .running, mtvec := 4 }, lsync := 1 :: List.replicate 47 1 })] }, 0, by decide +kernel⟩,
   ⟨{ State.reset with tiles := [(0, { uc := { mem := [(0, 0x93), (1, 0x80), (2, 0x50)] } })] }, 0, 0, 0x00508093, by decide +kernel⟩,
   ⟨0x00508093, by decide +kernel⟩,
   ⟨State.reset, 0, 8, 8, by decide +kernel⟩⟩

theorem test_meets_SignalOverflowFaults :
    ∃ (s : State) (k : Nat) (g : Signal) (home : Nat) (add : Nat) (c : Cell) (ch : Chan), (s.signals[k]? = some g) ∧ (g.loc = false) ∧
        (g.dest = some (home, add)) ∧ (s.isHeld g.tile = false) ∧ (s.isHeld home = false) ∧ ((s.tileL home).cell? g.ctx g.id = some c) ∧
        (16777215 < c.count + add) ∧ (s.chan? g.ch = some ch) ∧ (ch.st = .running) ∧ (s.sess = []) :=
  ⟨{ running ch3 [] with tiles := [(0, { cells := [{ id := 4, ctx := 0, count := 16777214, take := 2 }] })], signals := [{ ctx := 0, id := 4, loc := false, tile := 1, ch := h3, idx := 0, dest := some (0, 2) }] },
      0, { ctx := 0, id := 4, loc := false, tile := 1, ch := h3, idx := 0, dest := some (0, 2) }, 0, 2, { id := 4, ctx := 0, count := 16777214, take := 2 },
      { ch3 with st := .running }, by decide +kernel⟩

theorem test_meets_ParkCommandsComplete :
    (∃ (s : State) (l : Fin 480) (q : Fin 8), (s.headAble l.val q.val = false) ∧ (s.queueRuns l.val q.val = false) ∧
        ((s.tileL l.val).qcfg.getD q.val 250 ≠ 0xFFFFFF) ∧ (s.dieRuns (s.phys l.val) = true) ∧ (s.tileQuiet l.val = true) ∧
        ((s.tileL l.val).park = .running) ∧ ((s.tileL l.val).parked ||| (1#8 <<< q.val) = 0xFF)) ∧
    (∃ (s : State) (l : Fin 480), ((s.tileL l.val).park = .gated) ∧ ((s.tileL l.val).offDelay ≠ 0xFFFFFF)) ∧
    (∃ (s : State) (l : Fin 480) (q : Fin 8), ((s.tileL l.val).park = .gated) ∧ (s.headAble l.val q.val = true)) ∧
    (∃ (s : State) (l : Fin 480) (q : Fin 8), ((s.tileL l.val).park = .off) ∧ (s.headAble l.val q.val = true)) ∧
    (∃ (s : State) (l : Fin 480), ((s.tileL l.val).park = .waking) ∧ ((s.tileL l.val).wakeAt = none) ∧
        ((s.die (s.phys l.val / 8)).tokens.contains (s.phys l.val) = false) ∧
        ((s.die (s.phys l.val / 8)).tokenWait.contains (s.phys l.val) = false)) ∧
    (∃ (s : State) (d : Fin 64) (p : Nat) (ps : List Nat), ((s.die d.val).tokenWait = p :: ps) ∧ ((s.die d.val).tokens.length < 2)) ∧
    (∃ (s : State) (p : Nat) (ps : List Nat), (s.power.panelWait = p :: ps) ∧ (s.power.panel.length < 16)) ∧
    (∃ (s : State) (l : Fin 480), (smSorted s.tiles = true) ∧ ((s.tileL l.val).park = .waking) ∧ (s.dieRuns (s.phys l.val) = true) ∧
        ((s.die (s.phys l.val / 8)).tokens.contains (s.phys l.val) = true) ∧ (s.power.panel.contains (s.phys l.val) = true)) :=
  ⟨⟨{ running ch1 [] with tiles := [(0, { parked := 0x7F })] }, 0, 7, by decide +kernel⟩,
   ⟨{ running ch1 [] with tiles := [(0, { park := .gated })] }, 0, by decide +kernel⟩,
   ⟨{ running ch1 [opOf h1 [(63, 56, 0x11)]] with tiles := [(0, { park := .gated })] }, 0, 0, by decide +kernel⟩,
   ⟨{ running ch1 [opOf h1 [(63, 56, 0x11)]] with tiles := [(0, { park := .off })] }, 0, 0, by decide +kernel⟩,
   ⟨{ running ch1 [] with tiles := [(0, { park := .waking })] }, 0, by decide +kernel⟩,
   ⟨{ ready with dies := { ready.die 0 with tokens := [1], tokenWait := [2] } :: ready.dies.tail }, 0, 2, [], by decide +kernel⟩,
   ⟨{ ready with power := { ready.power with panelWait := [2] } }, 2, [], by decide +kernel⟩,
   ⟨{ ready with tiles := [(0, { park := .waking })], dies := { ready.die 0 with tokens := [0] } :: ready.dies.tail, power := { ready.power with panel := [0] } },
       0, by decide +kernel⟩⟩

theorem test_meets_TileOperationsIssue :
    ∃ (e : (Fin 480 → Fin 8 → Instr) × Nat × (OpD → IssueCtx → Nat → Tile → RunRes)) (s : State) (l : Fin 480) (q : Fin 8) (o : Op) (c : Nat),
        (e ∈ tileOpcodes) ∧ (s.headOf l.val q.val = some o) ∧ (s.ctxOfTile l.val = some c) ∧
        ((s.ops.any (fun x => x.kind == 1 && x.tile == l.val && x.queue == q.val && x.opcode == e.2.1 && x.phase == .issued && x.goesOn)) = false) ∧
        (o.tile = l.val) ∧ ((OpD.of o.desc).opcode = e.2.1) ∧ (o.waitsTaken = true) ∧ ((OpD.of o.desc).frozen = false) ∧
        (((OpD.of o.desc).guard = true → s.verdictOn l.val = .commit)) ∧ (s.hazard o = false) ∧ (s.engineBusy o = false) ∧
        ((engineOf e.2.1 = 1 → s.hopPending l.val = false)) ∧ ((s.tileL l.val).park = .running) ∧ ((s.tileL l.val).moving = false) ∧
        (s.dieRuns (s.phys l.val) = true) ∧ (s.chosen o = true) :=
  ⟨(.vadd, 0x11, fun d ic n t => d.vecRun ic n t), running ch1 [(opOf h1 [(63, 56, 0x11)])], 0, 0, (opOf h1 [(63, 56, 0x11)]), 0,
      by simp [tileOpcodes, matrixRows, arithmeticRows, functionRows, normRows, reductionRows, sparseRows], by decide +kernel⟩

theorem test_meets_IssueEffect :
    ∃ (s : State) (t : State) (o : Op) (run : OpD → IssueCtx → Nat → Tile → RunRes), (smSorted s.tiles = true) ∧ (s.op? o.id = some o) ∧
        (o.kind = 1) ∧ (s.issueHead o run = t) ∧ (((OpD.of o.desc).opcode ≤ 2 → (OpD.of o.desc).accInit ≠ 2)) :=
  ⟨running ch1 [(opOf h1 [(63, 56, 0x11)])], (running ch1 [(opOf h1 [(63, 56, 0x11)])]).issueHead (opOf h1 [(63, 56,
      0x11)]) (fun d ic n t => d.vecRun ic n t), (opOf h1 [(63, 56, 0x11)]), fun d ic n t => d.vecRun ic n t, by decide +kernel, by decide +kernel,
      by decide +kernel, rfl, by decide +kernel⟩

theorem test_meets_FrozenAndSkipped :
    ∃ (e : (Fin 480 → Fin 8 → Instr) × Nat × (OpD → IssueCtx → Nat → Tile → RunRes)) (s : State) (l : Fin 480) (q : Fin 8) (o : Op) (c : Nat) (y : Ctx),
        (e ∈ tileOpcodes) ∧ (smSorted s.tiles = true) ∧ (s.headOf l.val q.val = some o) ∧ (s.op? o.id = some o) ∧ (o.tile = l.val) ∧
        (s.ctxOfTile l.val = some c) ∧ (s.ctx? c = some y) ∧
        ((s.ops.any (fun x => x.kind == 1 && x.tile == l.val && x.queue == q.val && x.opcode == e.2.1 && x.phase == .issued && x.goesOn)) = false) ∧
        ((OpD.of o.desc).opcode = e.2.1) ∧ (o.waitsTaken = true) ∧ (((OpD.of o.desc).frozen = true ∨ (OpD.of o.desc).guard = true ∧
        y.verdict = .skip)) :=
  ⟨(.vadd, 0x11, fun d ic n t => d.vecRun ic n t), running ch1 [(opOf h1 [(63, 56, 0x11), (52, 52, 1)])], 0, 0, (opOf h1 [(63, 56, 0x11), (52, 52,
      1)]), 0, ctxIn .running, by simp [tileOpcodes, matrixRows, arithmeticRows, functionRows, normRows, reductionRows, sparseRows],
      by decide +kernel⟩

theorem test_meets_DrainAndMillraceComplete :
    (∃ (s : State) (o : Op) (row : Nat) (rest : List Nat), (s.op? o.id = some o) ∧ (o.rowsDue = row :: rest) ∧ (o.kind = 1) ∧ (o.drains = true) ∧
        ((OpD.of o.desc).accOut = 1) ∧ (s.dieRuns (s.phys o.tile) = true) ∧ ((OpD.of o.desc).privScale = false)) ∧
    (∃ (s : State) (k : Nat) (m : MrMsg) (o : Op), (s.mrMsgs[k]? = some m) ∧ (m.kind = .grant) ∧ (s.pkg.remapHold.contains m.tile = false) ∧
        (mrMismatch (smGet 0 (s.tileL m.tile).mrOut m.entry) m = false) ∧ (s.mrHolder m.tile m.entry true = some o)) ∧
    (∃ (s : State) (o : Op) (row : Nat) (rest : List Nat), (s.op? o.id = some o) ∧ (o.rowsDue = row :: rest) ∧ (o.kind = 1) ∧ (o.drains = true) ∧
        ((OpD.of o.desc).accOut = 2) ∧ (o.granted = true) ∧ (s.dieRuns (s.phys o.tile) = true) ∧
        (mrRemote (smGet 0 (s.tileL o.tile).mrOut (OpD.of o.desc).link) = false)) ∧
    (∃ (s : State) (k : Nat) (r : Nat) (m : MrMsg) (data : BitVec 4096) (o : Op), (s.mrMsgs[k]? = some m) ∧ (m.kind = .row r data) ∧
        (s.pkg.remapHold.contains m.tile = false) ∧ (mrMismatch (smGet 0 (s.tileL m.tile).mrIn m.entry) m = false) ∧
        (s.mrHolder m.tile m.entry false = some o) ∧ (r < (OpD.of o.desc).regionRows) ∧ (o.landed.contains r = false) ∧ ((∃ i,
        i < (OpD.of o.desc).regionRows ∧ i ≠ r ∧ o.landed.contains i = false))) ∧
    (∃ (s : State) (k : Nat) (r : Nat) (m : MrMsg) (o : Op), (s.mrMsgs[k]? = some m) ∧ (m.kind = .ack r) ∧
        (s.pkg.remapHold.contains m.tile = false) ∧ (s.mrHolder m.tile m.entry true = some o) ∧ (o.rowsDue ≠ [])) ∧
    (∃ (e : (Fin 480 → Fin 8 → Instr) × Nat × (OpD → IssueCtx → Nat → Tile → RunRes)) (s : State) (l : Fin 480) (q : Fin 8) (o : Op),
        (e ∈ matrixRows) ∧
        (s.ops.find? (fun x => x.kind == 1 && x.tile == l.val && x.queue == q.val && x.opcode == e.2.1 && x.phase == .issued) = some o) ∧ ((∀ i,
        (OpD.of o.desc).issues[o.rowIssues]? = some i → (OpD.of o.desc).fed o.landed i = true)) ∧ (s.dieRuns (s.phys l.val) = true)) ∧
    (∃ (s : State) (k : Nat) (r : Nat) (out : Bool) (m : MrMsg) (o : Op), (s.mrMsgs[k]? = some m) ∧ (m.kind = .reject r out) ∧
        (s.pkg.remapHold.contains m.tile = false) ∧ (s.mrHolder m.tile m.entry out = some o)) :=
  ⟨⟨running ch1 [{ opOf h1 [(63, 56, 1), (271, 270, 1)] with phase := .running, rowsDue := [0, 1] }], { opOf h1 [(63, 56, 1), (271, 270, 1)] with phase := .running, rowsDue := [0, 1] },
      0, [1], by decide +kernel⟩,
   ⟨{ running ch1 [{ opOf h1 [(63, 56, 1), (271, 270, 2), (279, 272, 2)] with phase := .running, rowsDue := [0, 1], granted := true }] with mrMsgs := [{ kind := .grant, ctx := 0, tile := 0, entry := 2, fmt := 0, fromTile := 1, fromEntry := 3, peer := none }], tiles := [(0, { mrOut := [(2, pack 64 [(63, 63, 1), (37, 29, 1), (28, 21, 3)])] })] },
       0, { kind := .grant, ctx := 0, tile := 0, entry := 2, fmt := 0, fromTile := 1, fromEntry := 3, peer := none }, { opOf h1 [(63, 56, 1), (271, 270, 2), (279, 272, 2)] with phase := .running, rowsDue := [0, 1], granted := true },
       by decide +kernel⟩,
   ⟨running ch1 [{ opOf h1 [(63, 56, 1), (271, 270, 2), (279, 272, 2)] with phase := .running, rowsDue := [0, 1], granted := true }], { opOf h1 [(63, 56, 1), (271, 270, 2), (279, 272, 2)] with phase := .running, rowsDue := [0, 1], granted := true },
       0, [1], by decide +kernel⟩,
   ⟨{ running ch1 [{ opOf h1 [(63, 56, 1), (269, 268, 2), (279, 272, 2), (91, 80, 1)] with phase := .issued }] with mrMsgs := [{ kind := (.row 0 0), ctx := 0, tile := 0, entry := 2, fmt := 0, fromTile := 1, fromEntry := 3, peer := none }], tiles := [(0, { mrIn := [(2, pack 64 [(63, 63, 1), (37, 29, 1), (28, 21, 3)])] })] },
       0, 0, { kind := (.row 0 0), ctx := 0, tile := 0, entry := 2, fmt := 0, fromTile := 1, fromEntry := 3, peer := none }, 0, { opOf h1 [(63, 56, 1), (269, 268, 2), (279, 272, 2), (91, 80, 1)] with phase := .issued },
       by decide +kernel, by decide +kernel, by decide +kernel, by decide +kernel, by decide +kernel, by decide +kernel,
       of_decide_eq_true (by decide +kernel), ⟨1, by decide +kernel⟩⟩,
   ⟨{ running ch1 [{ opOf h1 [(63, 56, 1), (271, 270, 2), (279, 272, 2)] with phase := .running, rowsDue := [0, 1], granted := true }] with mrMsgs := [{ kind := (.ack 0), ctx := 0, tile := 0, entry := 2, fmt := 0, fromTile := 1, fromEntry := 3, peer := none }], tiles := [(0, { mrOut := [(2, pack 64 [(63, 63, 1), (37, 29, 1), (28, 21, 3)])] })] },
       0, 0, { kind := (.ack 0), ctx := 0, tile := 0, entry := 2, fmt := 0, fromTile := 1, fromEntry := 3, peer := none }, { opOf h1 [(63, 56, 1), (271, 270, 2), (279, 272, 2)] with phase := .running, rowsDue := [0, 1], granted := true },
       by decide +kernel⟩,
   ⟨(.matmul, 0x01, fun d ic _ t => d.matRun ic t), running ch1 [{ opOf h1 [(63, 56, 1)] with phase := .issued }], 0, 0, { opOf h1 [(63, 56, 1)] with phase := .issued },
       by simp [matrixRows], by decide +kernel, (fun _ _ => rfl), by decide +kernel⟩,
   ⟨{ running ch1 [{ opOf h1 [(63, 56, 1), (269, 268, 2), (279, 272, 2), (91, 80, 1)] with phase := .issued }] with mrMsgs := [{ kind := (.reject 0 false), ctx := 0, tile := 0, entry := 2, fmt := 0, fromTile := 1, fromEntry := 3, peer := none }], tiles := [(0, { mrIn := [(2, pack 64 [(63, 63, 1), (37, 29, 1), (28, 21, 3)])] })] },
       0, 0, false, { kind := (.reject 0 false), ctx := 0, tile := 0, entry := 2, fmt := 0, fromTile := 1, fromEntry := 3, peer := none },
       { opOf h1 [(63, 56, 1), (269, 268, 2), (279, 272, 2), (91, 80, 1)] with phase := .issued }, by decide +kernel⟩⟩

theorem test_meets_GuardFollowsVerdict :
    ∃ (e : (Fin 480 → Fin 8 → Instr) × Nat × (OpD → IssueCtx → Nat → Tile → RunRes)) (s : State) (l : Fin 480) (q : Fin 8) (o : Op) (c : Nat) (y : Ctx),
        (e ∈ tileOpcodes) ∧ (s.headOf l.val q.val = some o) ∧ (s.op? o.id = some o) ∧ (o.tile = l.val) ∧ (s.ctxOfTile l.val = some c) ∧
        (s.ctx? c = some y) ∧
        ((s.ops.any (fun x => x.kind == 1 && x.tile == l.val && x.queue == q.val && x.opcode == e.2.1 && x.phase == .issued && x.goesOn)) = false) ∧
        ((OpD.of o.desc).opcode = e.2.1) ∧ (o.waitsTaken = true) ∧ ((OpD.of o.desc).frozen = false) ∧ ((OpD.of o.desc).guard = true) ∧
        (o.cause = .none) ∧ (o.frozen = false) ∧ (o.skipped = false) ∧ (o.phase = .queued) ∧ (o.noCell = false) ∧ (s.xlates = []) :=
  ⟨(.vadd, 0x11, fun d ic n t => d.vecRun ic n t), running ch1 [(opOf h1 [(63, 56, 0x11), (53, 53, 1)])], 0, 0, (opOf h1 [(63, 56, 0x11), (53, 53,
      1)]), 0, ctxIn .running, by simp [tileOpcodes, matrixRows, arithmeticRows, functionRows, normRows, reductionRows, sparseRows],
      by decide +kernel⟩

theorem test_meets_HazardHolds :
    ∃ (e : (Fin 480 → Fin 8 → Instr) × Nat × (OpD → IssueCtx → Nat → Tile → RunRes)) (s : State) (l : Fin 480) (q : Fin 8) (o : Op) (x : Op),
        (e ∈ tileOpcodes) ∧ (s.headOf l.val q.val = some o) ∧ (o.tile = l.val) ∧
        ((s.ops.any (fun x => x.kind == 1 && x.tile == l.val && x.queue == q.val && x.opcode == e.2.1 && x.phase == .issued && x.goesOn)) = false) ∧
        ((OpD.of o.desc).frozen = false) ∧ (((OpD.of o.desc).guard = true → ∀ y, (s.ctxOfTile l.val).bind s.ctx? = some y → y.verdict ≠ .skip)) ∧
        (x ∈ s.ops) ∧ (x.kind = 1) ∧ (x.tile = l.val) ∧ (x.id < o.id) ∧ (x.phase ≠ .held) ∧ ((OpD.of x.desc).conflicts (OpD.of o.desc) = true) :=
  ⟨(.vadd, 0x11, fun d ic n t => d.vecRun ic n t), running ch1 [{ opOf h1 [(63, 56, 0x12), (42, 40, 1)] with id := 1, queue := 1 }, (opOf h1 [(63,
      56, 0x11)])], 0, 0, (opOf h1 [(63, 56, 0x11)]), { opOf h1 [(63, 56, 0x12), (42, 40, 1)] with id := 1, queue := 1 }, by simp [tileOpcodes,
      matrixRows, arithmeticRows, functionRows, normRows, reductionRows, sparseRows], by decide +kernel, by decide +kernel, by decide +kernel,
      by decide +kernel, (fun h => absurd h (by decide +kernel)), by decide +kernel⟩

theorem test_meets_CollectivesStart :
    ∃ (e : (W32 → Instr) × Nat × (CollD → Bool)) (s : State) (h : W32) (o : Op), (e ∈ collStarts) ∧ (s.headOfChan h = some o) ∧ (o.kind = 3) ∧
        ((CollD.of o.desc).opcode = e.2.1) ∧ (e.2.2 (CollD.of o.desc) = true) ∧ (o.waitsTaken = true) ∧ (s.collStarted h < 4) ∧
        ((s.ctx? o.ctx).isSome = true) ∧ (s.collHeld o = false) ∧ ((∀ d ∈ s.epochDiff o, d.2 = 0)) :=
  ⟨(.barrier, 0xC5, fun _ => true), running ch3 [(opOf h3 [(63, 56, 0xC5), (53, 53, 1)])], h3, (opOf h3 [(63, 56, 0xC5), (53, 53, 1)]),
      by simp [collStarts, transferRows, agreementRows, reservedRows], by decide +kernel⟩

theorem test_meets_EpochRetired :
    ∃ (e : (W32 → Instr) × Nat × (CollD → Bool)) (s : State) (h : W32) (o : Op) (d : Axis × Nat), (e ∈ collStarts) ∧ (s.headOfChan h = some o) ∧
        (o.kind = 3) ∧ ((CollD.of o.desc).opcode = e.2.1) ∧ (e.2.2 (CollD.of o.desc) = true) ∧ (o.waitsTaken = true) ∧ (s.collStarted h < 4) ∧
        (d ∈ s.epochDiff o) ∧ (128 ≤ d.2) :=
  ⟨(.barrier, 0xC5, fun _ => true), running ch3 [(opOf h3 [(63, 56, 0xC5), (53, 53, 1), (599, 592, 200)])], h3, (opOf h3 [(63, 56, 0xC5), (53, 53,
      1), (599, 592, 200)]), (0, 200), by simp [collStarts, transferRows, agreementRows, reservedRows], by decide +kernel⟩

theorem test_meets_CollectiveCommandsComplete :
    (∃ (s : State) (k : Nat) (c : Nat) (p : Packet) (o : Op), (s.rxOpen[k]? = some (c, p)) ∧ (p.kind = 0x12) ∧ (p.collMsg = 2) ∧
        (s.staleEpoch c p = false) ∧ ((s.ctx? c).isSome = true) ∧ (s.collOfPacket c p = some o) ∧ (s.collHeld o = false)) ∧
    (∃ (s : State) (k : Nat) (c : Nat) (p : Packet) (o : Op), (s.rxOpen[k]? = some (c, p)) ∧ (p.kind = 0x10) ∧ (p.collMsg = 0) ∧
        (s.staleEpoch c p = false) ∧ (s.collOfPacket c p = some o) ∧ (s.collReady o p = true)) ∧
    (∃ (s : State) (o : Op), (s.op? o.id = some o) ∧ (o.kind = 3)) ∧
    (∃ (s : State) (k : Nat) (c : Nat) (p : Packet) (o : Op), (s.rxOpen[k]? = some (c, p)) ∧ (p.kind = 0x11) ∧ (p.collMsg = 1) ∧
        (s.staleEpoch c p = false) ∧ (s.collOfPacket c p = some o)) ∧
    (∃ (s : State) (h : W32) (o : Op) (a : Axis) (e : BitVec 8) (x : Ctx), (s.fenceAt h = some (o, a, e)) ∧ (s.olderColl o.ctx a e = false) ∧
        (s.ctx? o.ctx = some x) ∧ (x.drained.contains (a, e, s.rank a) = false)) ∧
    (∃ (s : State) (h : W32) (o : Op) (a : Axis) (e : BitVec 8) (x : Ctx), (s.fenceAt h = some (o, a, e)) ∧ (s.rxOpen = []) ∧
        (s.ctx? o.ctx = some x) ∧ ((∀ r, r < s.boxExt a → x.drained.contains (a, e, r) = true))) ∧
    (∃ (s : State) (k : Nat) (c : Nat) (p : Packet) (o : Op), (s.rxOpen[k]? = some (c, p)) ∧ (p.kind = 0x12) ∧ (p.collMsg = 4) ∧
        (s.staleEpoch c p = false) ∧ (s.collOfPacket c p = some o) ∧ (fieldN p.body 15 0 = 0x0200)) ∧
    (∃ (s : State) (o : Op) (run : CollRun), (s.op? o.id = some o) ∧ (o.kind = 3) ∧ (o.coll = some run) ∧ (run.done (CollD.of o.desc) = true) ∧
        ((CollD.of o.desc).step = false) ∧ ((CollD.of o.desc).close = false)) ∧
    (∃ (s : State) (o : Op) (run : CollRun), (s.op? o.id = some o) ∧ (o.kind = 3) ∧ (o.coll = some run) ∧ (run.done (CollD.of o.desc) = true) ∧
        ((CollD.of o.desc).step = true) ∧ (run.firstVerdict = true)) ∧
    (∃ (s : State) (o : Op) (run : CollRun), (s.op? o.id = some o) ∧ (o.kind = 3) ∧ (o.coll = some run) ∧ (run.done (CollD.of o.desc) = true) ∧
        ((CollD.of o.desc).close = true) ∧ (o.sync.signal = none)) :=
  ⟨⟨{ running ch3 [(cop [(63, 56, 0xC0), (53, 53, 1)])] with rxOpen := [(0, (pkt 0x12 false [(383, 320, 2)]))] }, 0, 0, (pkt 0x12 false [(383, 320,
      2)]), (cop [(63, 56, 0xC0), (53, 53, 1)]), by decide +kernel⟩,
   ⟨{ running ch3 [(cop [(63, 56, 0xC0), (53, 53, 1)])] with rxOpen := [(0, (pkt 0x10 true []))] }, 0, 0, (pkt 0x10 true []), (cop [(63, 56, 0xC0),
       (53, 53, 1)]), by decide +kernel⟩,
   ⟨running ch3 [(cop [(63, 56, 0xC0), (53, 53, 1)])], (cop [(63, 56, 0xC0), (53, 53, 1)]), by decide +kernel⟩,
   ⟨{ running ch3 [(cop [(63, 56, 0xC0), (53, 53, 1)])] with rxOpen := [(0, (pkt 0x11 true [(311, 248, 1)]))] }, 0, 0, (pkt 0x11 true [(311, 248,
       1)]), (cop [(63, 56, 0xC0), (53, 53, 1)]), by decide +kernel⟩,
   ⟨running ch3 [(opOf h3 [(63, 56, 0xC3), (53, 53, 1), (599, 592, 1)])], h3, (opOf h3 [(63, 56, 0xC3), (53, 53, 1), (599, 592, 1)]), 0, 1,
       ctxIn .running, by decide +kernel⟩,
   ⟨{ running ch3 [(opOf h3 [(63, 56, 0xC3), (53, 53, 1), (599, 592, 1)])] with ctxs := [(0, { ctxIn .running with drained := [(0, 1, 0)] })] }, h3,
       (opOf h3 [(63, 56, 0xC3), (53, 53, 1), (599, 592, 1)]), 0, 1, { ctxIn .running with drained := [(0, 1, 0)] }, by decide +kernel⟩,
   ⟨{ running ch3 [(cop [(63, 56, 0xC0), (53, 53, 1)])] with rxOpen := [(0, (pkt 0x12 false [(383, 320, 4), (143, 128, 0x0200)]))] }, 0, 0,
       (pkt 0x12 false [(383, 320, 4), (143, 128, 0x0200)]), (cop [(63, 56, 0xC0), (53, 53, 1)]), by decide +kernel⟩,
   ⟨running ch3 [cop [(63, 56, 0xC5)]], cop [(63, 56, 0xC5)], crun, by decide +kernel⟩,
   ⟨running ch3 [cop [(63, 56, 0xC6), (49, 49, 1)]], cop [(63, 56, 0xC6), (49, 49, 1)], crun, by decide +kernel⟩,
   ⟨running ch3 [cop [(63, 56, 0xC5), (48, 48, 1)]], cop [(63, 56, 0xC5), (48, 48, 1)], crun, by decide +kernel⟩⟩

theorem test_meets_CloseFlips :
    ∃ (s : State) (c : Fin 64) (x : Ctx) (sig : Option Signal) (commit : Bool), (s.ctx? c.val = some x) ∧ (x.closing = .holding sig commit) ∧
        (s.pkg.remapHold = []) ∧ (x.agreed = none) ∧ (x.closeQ = []) :=
  ⟨with0 { ctxIn .running with closing := .holding none true } ready, 0, { ctxIn .running with closing := .holding none true }, none, true,
      by decide +kernel⟩

theorem test_meets_CopyCommandsComplete :
    (∃ (s : State) (h : W32) (o : Op), (s.headOfChan h = some o) ∧ (o.kind = 2) ∧ ((CopyD.of o.desc).opcode = 0x80) ∧ (o.waitsTaken = true) ∧
        (s.copyHeld o.ctx (CopyD.of o.desc) = false)) ∧
    (∃ (s : State) (h : W32) (o : Op), (s.headOfChan h = some o) ∧ (o.kind = 2) ∧ ((CopyD.of o.desc).opcode = 0x81) ∧ (o.waitsTaken = true) ∧
        (s.copyHeld o.ctx (CopyD.of o.desc) = false)) ∧
    (∃ (s : State) (h : W32) (o : Op), (s.headOfChan h = some o) ∧ (o.kind = 2) ∧ ((CopyD.of o.desc).opcode = 0x82) ∧ (o.waitsTaken = true) ∧
        (s.copyHeld o.ctx (CopyD.of o.desc) = false)) ∧
    (∃ (s : State) (h : W32) (o : Op) (d : CopyD) (low : BitVec 512), (s.headOfChan h = some o) ∧ (d = CopyD.of o.desc) ∧
        (low = BitVec.ofNat 512 (s.readAt o.ctx d.aux 64)) ∧ (o.kind = 2) ∧ (d.opcode = 0x83) ∧ (o.waitsTaken = true) ∧
        (s.copyHeld o.ctx d = false) ∧ (s.badRead o.ctx d.aux 64 = false) ∧ ((LowerD.of low).ok low d = true) ∧ ((LowerD.of low).apart d = true) ∧
        (s.sideOk o.ctx d.src ((LowerD.of low).srcSpan d) true = true) ∧ (s.sideOk o.ctx d.dst ((LowerD.of low).dstSpan d) false = true) ∧
        ((s.isOwn d.src = true → s.inWindows o.ctx (gLocal d.src) ((LowerD.of low).srcSpan d) = true)) ∧
        ((s.isOwn d.dst = true → s.inWindows o.ctx (gLocal d.dst) ((LowerD.of low).dstSpan d) = true))) ∧
    (∃ (s : State) (h : W32) (o : Op), (s.headOfChan h = some o) ∧ (o.kind = 2) ∧ (o.opcode = 0x84) ∧ (o.waitsTaken = true)) ∧
    (∃ (s : State) (h : W32) (o : Op), (s.headOfChan h = some o) ∧ (o.kind = 2) ∧ (o.opcode = 0x85) ∧ (o.waitsTaken = true)) ∧
    (∃ (s : State) (k : Fin 20) (o : Op) (e : RillAcc) (rest : List RillAcc), ((s.dev k.val).rillQ = e :: rest) ∧ (s.op? e.op = some o) ∧
        (s.rillWaits o e = false)) ∧
    (∃ (s : State) (k : Nat) (c : Nat) (n : Nat) (p : Packet), (s.rxOpen[k]? = some (c, p)) ∧ (p.kind = 0x01) ∧
        (n = min (fieldN p.metaF 159 147) (64 * p.payload.length)) ∧ (s.remoteTarget p (fieldN p.metaF 63 0) (gLocal p.gaddr) n = some c) ∧
        (s.accessHeld c (gLocal p.gaddr) n = false) ∧ (bitN p.metaF 160 = false)) ∧
    (∃ (s : State) (k : Nat) (c : Nat) (p : Packet) (o : Op), (s.rxOpen[k]? = some (c, p)) ∧ (p.kind = 0x04) ∧
        (s.copyOf c (fieldN p.body 103 64) (fieldN p.body 146 104) = some o) ∧ (bitN p.body 160 = false)) ∧
    (∃ (s : State) (k : Nat) (c : Nat) (a : Nat) (n : Nat) (p : Packet), (s.rxOpen[k]? = some (c, p)) ∧ (p.kind = 0x02) ∧
        (a = fieldN p.body 207 160) ∧ (n = min 4096 (max 1 (fieldN p.body 159 147))) ∧ (s.remoteTarget p (fieldN p.body 63 0) a n = some c) ∧
        (s.accessHeld c a n = false)) ∧
    (∃ (s : State) (k : Nat) (c : Nat) (tag : Nat) (p : Packet) (o : Op) (d : CopyD) (x : Chunk), (s.rxOpen[k]? = some (c, p)) ∧ (p.kind = 0x03) ∧
        (tag = fieldN p.metaF 82 40) ∧ (s.copyOf c (fieldN p.metaF 39 0) tag = some o) ∧ (d = CopyD.of o.desc) ∧ (d.rill = false) ∧
        ((d.chunks o.lower (s.isOwn d.src) (s.isOwn d.dst))[tag / 2]? = some x) ∧ (s.chunkHeld o.ctx d x = false)) ∧
    (∃ (s : State) (k : Nat) (c : Nat) (tag : Nat) (p : Packet) (o : Op), (s.rxOpen[k]? = some (c, p)) ∧ (p.kind = 0x03) ∧
        (tag = fieldN p.metaF 82 40) ∧ (s.copyOf c (fieldN p.metaF 39 0) tag = some o) ∧ ((CopyD.of o.desc).rill = true) ∧
        (s.accessHeld o.ctx (gLocal p.gaddr) 32 = false) ∧ (fieldN p.metaF 147 83 = 0)) :=
  ⟨⟨running ch2 [(opOf h2 [(63, 56, 0x80)])], h2, (opOf h2 [(63, 56, 0x80)]), by decide +kernel⟩,
   ⟨running ch2 [(opOf h2 [(63, 56, 0x81)])], h2, (opOf h2 [(63, 56, 0x81)]), by decide +kernel⟩,
   ⟨running ch2 [(opOf h2 [(63, 56, 0x82)])], h2, (opOf h2 [(63, 56, 0x82)]), by decide +kernel⟩,
   ⟨{ running ch2 [(opOf h2 [(511, 448, 0x100000), (447, 384, 0x140000), (383, 336, 0x2000), (335, 304, 64), (303, 272, 64), (251, 232, 15), (63, 56, 0x83), (47, 44, 12), (43, 40, 12)])] with tier := memWriteN [] 0x2000 64 (pack 512 [(15, 0, 16), (31, 16, 1), (47, 32, 1), (63, 48, 1), (79, 64, 1), (95, 80, 1), (111, 96, 1), (159, 144, 1), (175, 160, 1)]).toNat },
       h2, (opOf h2 [(511, 448, 0x100000), (447, 384, 0x140000), (383, 336, 0x2000), (335, 304, 64), (303, 272, 64), (251, 232, 15), (63, 56, 0x83),
       (47, 44, 12), (43, 40, 12)]), CopyD.of (Op.desc (opOf h2 [(511, 448, 0x100000), (447, 384, 0x140000), (383, 336, 0x2000), (335, 304, 64),
       (303, 272, 64), (251, 232, 15), (63, 56, 0x83), (47, 44, 12), (43, 40, 12)])), (pack 512 [(15, 0, 16), (31, 16, 1), (47, 32, 1), (63, 48, 1),
       (79, 64, 1), (95, 80, 1), (111, 96, 1), (159, 144, 1), (175, 160, 1)]), by decide +kernel⟩,
   ⟨running ch2 [(opOf h2 [(63, 56, 0x84)])], h2, (opOf h2 [(63, 56, 0x84)]), by decide +kernel⟩,
   ⟨running ch2 [(opOf h2 [(63, 56, 0x85)])], h2, (opOf h2 [(63, 56, 0x85)]), by decide +kernel⟩,
   ⟨{ running ch2 [{ opOf h2 [(63, 56, 0x84)] with phase := .running }] with devices := { rillQ := [{ ch := h2, op := 3, acc := 0, idx := 0 }] } :: ready.devices.tail },
       0, { opOf h2 [(63, 56, 0x84)] with phase := .running }, { ch := h2, op := 3, acc := 0, idx := 0 }, [], by decide +kernel⟩,
   ⟨{ with0 { ctxIn .running with ptag := 1 } (objs [.window { win with remoteRx := true }] ready) with rxOpen := [(0, (pkt 0x01 true [(83, 68, 1), (383, 320, 0x1000), (287, 275, 64), (191, 128, 7)]))] },
       0, 0, 64, (pkt 0x01 true [(83, 68, 1), (383, 320, 0x1000), (287, 275, 64), (191, 128, 7)]), by decide +kernel⟩,
   ⟨{ running ch2 [{ opOf h2 [(63, 56, 0x80), (447, 384, 2 ^ 52 + 0x140000)] with phase := .running, remote := [5] }] with rxOpen := [(0, (pkt 0x04 false [(231, 192, 3), (274, 232, 5)]))] },
       0, 0, (pkt 0x04 false [(231, 192, 3), (274, 232, 5)]), { opOf h2 [(63, 56, 0x80), (447, 384, 2 ^ 52 + 0x140000)] with phase := .running, remote := [5] },
       by decide +kernel⟩,
   ⟨{ with0 { ctxIn .running with ptag := 1 } (objs [.window { win with remoteRx := true }] ready) with rxOpen := [(0, (pkt 0x02 false [(83, 68, 1), (335, 288, 0x1000), (287, 275, 64), (191, 128, 7)]))] },
       0, 0, 0x1000, 64, (pkt 0x02 false [(83, 68, 1), (335, 288, 0x1000), (287, 275, 64), (191, 128, 7)]), by decide +kernel⟩,
   ⟨{ running ch2 [{ opOf h2 [(447, 384, 2 ^ 52 + 0x140000), (335, 304, 64), (303, 272, 64), (251, 232, 15), (63, 56, 0x80), (47, 44, 12), (43, 40, 12)] with phase := .running, remote := [0] }] with rxOpen := [(0, (pkt 0x03 true [(167, 128, 3)]))] },
       0, 0, 0, (pkt 0x03 true [(167, 128, 3)]), { opOf h2 [(447, 384, 2 ^ 52 + 0x140000), (335, 304, 64), (303, 272, 64), (251, 232, 15), (63, 56, 0x80), (47, 44, 12), (43, 40, 12)] with phase := .running, remote := [0] },
       CopyD.of (Op.desc { opOf h2 [(447, 384, 2 ^ 52 + 0x140000), (335, 304, 64), (303, 272, 64), (251, 232, 15), (63, 56, 0x80), (47, 44, 12), (43, 40, 12)] with phase := .running, remote := [0] }),
       (((CopyD.of (Op.desc { opOf h2 [(447, 384, 2 ^ 52 + 0x140000), (335, 304, 64), (303, 272, 64), (251, 232, 15), (63, 56, 0x80), (47, 44, 12), (43, 40, 12)] with phase := .running, remote := [0] })).chunks (Op.lower { opOf h2 [(447, 384, 2 ^ 52 + 0x140000), (335, 304, 64), (303, 272, 64), (251, 232, 15), (63, 56, 0x80), (47, 44, 12), (43, 40, 12)] with phase := .running, remote := [0] }) true false)[0]?.getD ⟨none,
       0, 0, 0, 0⟩), by decide +kernel⟩,
   ⟨{ running ch2 [{ opOf h2 [(63, 56, 0x84)] with phase := .running, remote := [0] }] with rxOpen := [(0, (pkt 0x03 true [(167, 128, 3)]))] }, 0, 0,
       0, (pkt 0x03 true [(167, 128, 3)]), { opOf h2 [(63, 56, 0x84)] with phase := .running, remote := [0] }, by decide +kernel⟩⟩

theorem test_meets_MemoryCommandsComplete :
    (∃ (s : State) (line : Nat) (d : Nat) (at_ : Nat), (s.lineAt line = some (d, at_)) ∧ ((s.die (devDie d)).fenced = false) ∧
        ((s.dev d).spared.contains at_ = false) ∧ (smGet false s.tierPoison line = false) ∧ (s.scopeDue = []) ∧ (s.ops = [])) ∧
    (∃ (s : State) (d : Fin 60), ((s.die (devDie d.val)).fenced = false) ∧ (s.scopeDue = []) ∧ (s.tierLine d.val (s.dev d.val).scrubAt = none)) ∧
    (∃ (s : State) (d : Fin 60) (line : Nat), ((s.dev d.val).movingLines.contains line = true) ∧ (s.devices.length = 60) ∧ (s.scopeDue = []) ∧
        (s.ops = [])) ∧
    (∃ (s : State) (d : Fin 60) (l : Nat), ((s.die (devDie d.val)).mgr.st = .running) ∧
        (3 ≤ ((recentCorr s.now (s.dev d.val).corrHist).filter (fun e => e.1 == l)).length) ∧ ((s.dev d.val).spared.contains l = false) ∧
        ((s.dev d.val).movingLines.contains l = false) ∧ ((s.dev d.val).spared.length + (s.dev d.val).movingLines.length < spareLines d.val)) :=
  ⟨⟨objs [.window win] ready, 0, 0, 0, by decide +kernel⟩,
   ⟨ready, 59, by decide +kernel⟩,
   ⟨{ ready with devices := { movingLines := [7] } :: ready.devices.tail }, 0, 7, by decide +kernel⟩,
   ⟨{ ready with devices := { corrHist := [(7, 0), (7, 0), (7, 0)] } :: ready.devices.tail }, 0, 7, by decide +kernel⟩⟩

theorem test_meets_TierReadAfterWrite :
    ∃ (s : State) (c : Nat), (memWf s.tier = true) ∧ ((∀ x, s.ctx? c = some x → x.bank = [])) :=
  ⟨ready, 0, by decide +kernel, (by intro x h; cases h)⟩

theorem test_meets_BankSwaps :
    ∃ (s : State) (c : Nat) (x : Ctx) (b : BankEntry), (s.ctx? c = some x) ∧ (x.bank = [b]) ∧ (b.banked = true) ∧
        (b.base0 + b.pages * 4096 ≤ b.base1) :=
  ⟨with0 { ctxIn .running with bank := [{ base0 := 0, base1 := 4096, pages := 1, banked := true }] } ready, 0,
      { ctxIn .running with bank := [{ base0 := 0, base1 := 4096, pages := 1, banked := true }] }, { base0 := 0, base1 := 4096, pages := 1, banked := true },
      by decide +kernel⟩

theorem test_meets_LinkTrainingCompletes :
    (∃ (s : State) (j : Fin 12), ((s.port j.val).st = .dark) ∧ (s.pkg.st ≠ .standby) ∧ ((s.pkg.st = .boot → 9 ≤ s.pkg.bootStep)) ∧
        (s.portUsable j.val = true)) ∧
    (∃ (s : State) (j : Fin 12) (lanes : BitVec 9), ((s.port j.val).st = .training) ∧ ((s.port j.val).retryDue = false) ∧
        (s.failoverDue j.val = false) ∧ (widthOf lanes ≠ 0) ∧ (lanes &&& (s.port j.val).laneFailed = 0) ∧ ((s.port j.val).serviced = false) ∧
        (s.scopeDue = []) ∧ (s.ports.length = 12)) ∧
    (∃ (s : State) (j : Fin 12), ((s.port j.val).st = .training) ∧ ((s.port j.val).retryDue = false) ∧ (s.failoverDue j.val = false)) ∧
    (∃ (s : State) (j : Fin 12), ((s.port j.val).st = .training) ∧ ((s.port j.val).retryDue = true)) ∧
    (∃ (s : State) (s1 : State) (j : Fin 12) (p : Packet) (f : BitVec 256), (s.takeIn j.val (fun _ p => p.kind == 0x30) = some (p, s1)) ∧
        (s.sec.fabricKey = some f)) ∧
    (∃ (s : State) (j : Fin 12), ((s.port j.val).st = .up ∨ (s.port j.val).st = .quarantine)) ∧
    (∃ (s : State) (j : Fin 12), ((s.port j.val).st = .up) ∧ ((s.port j.val).realigning = false)) ∧
    (∃ (s : State) (j : Fin 12), ((s.port j.val).st = .retrain)) ∧
    (∃ (s : State) (j : Fin 12), ((s.port j.val).st = .retrain)) ∧
    (∃ (s : State) (j : Fin 12), (8 ≤ ((s.port j.val).retrainAt.filter (fun t => decide (s.now < t + 60 * 10 ^ 9))).length)) :=
  ⟨⟨ready, 0, by decide +kernel⟩,
   ⟨port0 { st := .training }, 0, 0x0FF, by decide +kernel⟩,
   ⟨port0 { st := .training }, 0, by decide +kernel⟩,
   ⟨port0 { st := .training, retryDue := true }, 0, by decide +kernel⟩,
   ⟨{ port0 { st := .identify, inQ := [(5, (pkt 0x30 false []))] } with sec := { fabricKey := some 1 } }, ((State.takeIn ({ port0 { st := .identify, inQ := [(5, (pkt 0x30 false []))] } with sec := { fabricKey := some 1 } }) 0 (fun _ p => p.kind == 0x30)).getD ((pkt 0x30 false []),
       { port0 { st := .identify, inQ := [(5, (pkt 0x30 false []))] } with sec := { fabricKey := some 1 } })).2, 0, (pkt 0x30 false []), 1,
       eq_pair (by decide +kernel) _, by decide +kernel⟩,
   ⟨port0 { st := .quarantine }, 0, by decide +kernel⟩,
   ⟨port0 { st := .up }, 0, by decide +kernel⟩,
   ⟨port0 { st := .retrain }, 0, by decide +kernel⟩,
   ⟨port0 { st := .retrain }, 0, by decide +kernel⟩,
   ⟨port0 { st := .retrain, retrainAt := List.replicate 8 0 }, 0, by decide +kernel⟩⟩

theorem test_meets_IdentifyFollowsExpect :
    ∃ (s : State) (j : Nat), (j < 12) ∧ (s.ports.length = 12) ∧ ((s.port j).st = .identify) ∧ (s.sess = []) :=
  ⟨port0 { st := .identify }, 0, by decide +kernel⟩

theorem test_meets_LinkCommandsComplete :
    (∃ (s : State) (j : Fin 12) (tr : BitVec 256), ((s.port j.val).linked = true) ∧ (s.ports.length = 12) ∧ ((s.port j.val).retryBuf = []) ∧
        ((s.port j.val).txQ = []) ∧ ((s.port j.val).rxPart = []) ∧ ((s.port j.val).identDue = false) ∧ (s.scopeDue = []) ∧
        ((s.port j.val).credits.length = 8) ∧ (fieldN tr 108 107 = 0) ∧ (bitN tr 135 = false) ∧ (bitN tr 134 = false) ∧ (fieldN tr 133 118 = 0) ∧
        (fieldN tr 159 148 = ((s.port j.val).rxSeq + 1) % 4096)) ∧
    (∃ (s : State) (j : Fin 12) (lane : Fin 9) (k : Nat), ((s.port j.val).spareLane = some k) ∧ ((s.port j.val).st = .up) ∧
        ((s.port j.val).laneMap.getLsbD lane.val = true) ∧ ((s.port j.val).laneAsked = none)) ∧
    (∃ (s : State) (j : Fin 12) (lane : Fin 9) (best : BitVec 9), ((s.port j.val).st = .up) ∧ ((s.port j.val).spareLane = none) ∧
        ((s.port j.val).laneMap.getLsbD lane.val = true) ∧ (widthOf best = 1) ∧ (best &&& ((s.port j.val).laneFailed ||| (1#9 <<< lane.val)) = 0)) ∧
    (∃ (s : State) (j : Fin 12), ((s.port j.val).st = .retrain) ∧ ((s.port j.val).byPartner = false) ∧ ((s.port (portPartner j.val)).st = .up) ∧
        ((s.port j.val).told = false) ∧ ((s.port j.val).rxPart = [])) ∧
    (∃ (s : State) (s1 : State) (k : Fin 12) (p : Packet), (s.takeIn k.val (fun _ p => p.kind == 0x31) = some (p, s1)) ∧
        (s.sec.fabricKey.isSome = true) ∧ ((s.port (portPartner k.val)).failedOver = false)) ∧
    (∃ (s : State) (j : Fin 12), ((s.port j.val).st = .up) ∧ ((s.port j.val).byPartner = true) ∧
        ((∀ p ∈ (s.port (portPartner j.val)).txQ ++ (s.port (portPartner j.val)).retryBuf.map (·.pkt), p.vc < 6 → p.slot % 2 ≠ j.val % 2))) :=
  ⟨⟨port0 { st := .up }, 0, 0, by decide +kernel⟩,
   ⟨port0 { st := .up, laneMap := 0x0FF }, 0, 0, 8, by decide +kernel⟩,
   ⟨port0 { st := .up, laneMap := 0x0FF, laneFailed := 0x100 }, 0, 0, 0x01E, by decide +kernel⟩,
   ⟨{ ready with ports := { st := .retrain } :: { st := .up } :: ready.ports.drop 2 }, 0, by decide +kernel⟩,
   ⟨{ ready with ports := { st := .up, inQ := [(5, (pkt 0x31 false []))] } :: { st := .retrain, byPartner := true } :: ready.ports.drop 2, sec := { fabricKey := some 1 } },
       ((State.takeIn ({ ready with ports := { st := .up, inQ := [(5, (pkt 0x31 false []))] } :: { st := .retrain, byPartner := true } :: ready.ports.drop 2, sec := { fabricKey := some 1 } }) 0 (fun _ p => p.kind == 0x31)).getD ((pkt 0x31 false []),
       { ready with ports := { st := .up, inQ := [(5, (pkt 0x31 false []))] } :: { st := .retrain, byPartner := true } :: ready.ports.drop 2, sec := { fabricKey := some 1 } })).2,
       0, (pkt 0x31 false []), eq_pair (by decide +kernel) _, by decide +kernel⟩,
   ⟨port0 { st := .up, byPartner := true }, 0, by decide +kernel⟩⟩

theorem test_meets_PacketCommandsComplete :
    (∃ (s : State) (s1 : State) (j : Fin 12) (vc : Fin 6) (p : Packet), ((s.port j.val).st ≠ .identify) ∧ (s.headIn j.val vc.val = some (p, s1)) ∧
        (p.mc = false) ∧ (s.unicastOut j.val p = none) ∧ (p.aborted = false)) ∧
    (∃ (s : State) (s1 : State) (j : Fin 12) (vc : Fin 6) (p : Packet) (out : Nat), ((s.port j.val).st ≠ .identify) ∧
        (s.headIn j.val vc.val = some (p, s1)) ∧ (p.mc = false) ∧ (s.unicastOut j.val p = some out) ∧ (portP out = portP j.val) ∧
        (s.leveeStops out (s.onward j.val out p).vc = false) ∧ (s.canSend out (s.onward j.val out p) = true)) ∧
    (∃ (s : State) (s1 : State) (j : Fin 12) (vc : Fin 6) (p : Packet) (out : Nat), ((s.port j.val).st ≠ .identify) ∧
        (s.headIn j.val vc.val = some (p, s1)) ∧ (p.mc = false) ∧ (s.unicastOut j.val p = some out) ∧ (portP out ≠ portP j.val) ∧
        (s.leveeStops out (s.onward j.val out p).vc = false) ∧ (s.canSend out (s.onward j.val out p) = true)) ∧
    (∃ (s : State) (s1 : State) (j : Fin 12) (vc : Fin 6) (p : Packet), ((s.port j.val).st ≠ .identify) ∧ (s.headIn j.val vc.val = some (p, s1)) ∧
        (p.mc = true) ∧ (s.isTransit p = false) ∧ (p.aborted = false) ∧ (xyzOn p.dst p.mcAxis = s.coord p.mcAxis)) ∧
    (∃ (s : State) (k : Nat) (j : Nat) (p : Packet), (s.rxSealed[k]? = some (j, p)) ∧ (s.keysOf p.ptag = [])) ∧
    (∃ (s : State) (k : Nat) (j : Nat) (c : Nat) (p : Packet) (key : BitVec 256), (s.rxSealed[k]? = some (j, p)) ∧ (s.keysOf p.ptag = [(c, key)])) ∧
    (∃ (s : State) (d : Fin 6), ((s.port (2 * d.val)).st ≠ .up) ∧ ((s.port (2 * d.val + 1)).st ≠ .up) ∧ (s.part.lost.getLsbD d.val = false) ∧
        (s.pkg.st ≠ .standby) ∧ ((s.port (2 * d.val)).txQ = []) ∧ ((s.port (2 * d.val + 1)).txQ = []) ∧ ((∀ o ∈ s.ops, o.kind ≠ 3))) :=
  ⟨⟨{ port0 { st := .up, inQ := [(1, (pkt 0x01 true []))] } with sec := { fabricKey := some 1 } }, ((State.headIn ({ port0 { st := .up, inQ := [(1, (pkt 0x01 true []))] } with sec := { fabricKey := some 1 } }) 0 1).getD ((pkt 0x01 true []),
      { port0 { st := .up, inQ := [(1, (pkt 0x01 true []))] } with sec := { fabricKey := some 1 } })).2, 0, 1, (pkt 0x01 true []), by decide +kernel,
      eq_pair (by decide +kernel) _, by decide +kernel⟩,
   ⟨{ ups { st := .up, inQ := [(1, (pkt 0x01 true [(107, 96, 0x010), (67, 54, 0)]))] } with part := { fabCfg := 0x000333F8, partCfg := 0 }, sec := { fabricKey := some 1 } },
       ((State.headIn ({ ups { st := .up, inQ := [(1, (pkt 0x01 true [(107, 96, 0x010), (67, 54, 0)]))] } with part := { fabCfg := 0x000333F8, partCfg := 0 }, sec := { fabricKey := some 1 } }) 0 1).getD ((pkt 0x01 true [(107,
       96, 0x010), (67, 54, 0)]), { ups { st := .up, inQ := [(1, (pkt 0x01 true [(107, 96, 0x010), (67, 54, 0)]))] } with part := { fabCfg := 0x000333F8, partCfg := 0 }, sec := { fabricKey := some 1 } })).2,
       0, 1, (pkt 0x01 true [(107, 96, 0x010), (67, 54, 0)]), 4, by decide +kernel, eq_pair (by decide +kernel) _, by decide +kernel⟩,
   ⟨{ ups { st := .up, inQ := [(1, (pkt 0x01 true [(107, 96, 0x200), (67, 54, 1)]))] } with part := { fabCfg := 0x000333F8, partCfg := 0 }, sec := { fabricKey := some 1 } },
       ((State.headIn ({ ups { st := .up, inQ := [(1, (pkt 0x01 true [(107, 96, 0x200), (67, 54, 1)]))] } with part := { fabCfg := 0x000333F8, partCfg := 0 }, sec := { fabricKey := some 1 } }) 0 1).getD ((pkt 0x01 true [(107,
       96, 0x200), (67, 54, 1)]), { ups { st := .up, inQ := [(1, (pkt 0x01 true [(107, 96, 0x200), (67, 54, 1)]))] } with part := { fabCfg := 0x000333F8, partCfg := 0 }, sec := { fabricKey := some 1 } })).2,
       0, 1, (pkt 0x01 true [(107, 96, 0x200), (67, 54, 1)]), 1, by decide +kernel, eq_pair (by decide +kernel) _, by decide +kernel⟩,
   ⟨{ port0 { st := .up, inQ := [(1, (pkt 0x10 true [(125, 125, 1)]))] } with sec := { fabricKey := some 1 } }, ((State.headIn ({ port0 { st := .up, inQ := [(1, (pkt 0x10 true [(125, 125, 1)]))] } with sec := { fabricKey := some 1 } }) 0 1).getD ((pkt 0x10 true [(125,
       125, 1)]), { port0 { st := .up, inQ := [(1, (pkt 0x10 true [(125, 125, 1)]))] } with sec := { fabricKey := some 1 } })).2, 0, 1,
       (pkt 0x10 true [(125, 125, 1)]), by decide +kernel, eq_pair (by decide +kernel) _, by decide +kernel⟩,
   ⟨{ ready with rxSealed := [(0, (pkt 0x01 true [(83, 68, 1)]))] }, 0, 0, (pkt 0x01 true [(83, 68, 1)]), by decide +kernel⟩,
   ⟨{ with0 (ctxIn .running) ready with rxSealed := [(0, (pkt 0x01 true [(83, 68, 1)]))] }, 0, 0, 0, (pkt 0x01 true [(83, 68, 1)]), 1,
       by decide +kernel⟩,
   ⟨ready, 0, by decide +kernel⟩⟩

theorem test_meets_ResetCommandsComplete :
    (∃ (s : State), (s.power.stbyOn = true)) ∧
    (∃ (s : State), (s.power.stbyOn = true)) ∧
    (∃ (s : State), (s.power.mainOn = false)) ∧
    (∃ (s : State), (s.pkg.st = .standby) ∧ (s.pkg.resetHigh = false) ∧ (s.power.stbyOn = true) ∧ (s.power.mainOn = true) ∧
        (s.power.inputRange = false)) ∧
    (∃ (s : State) (f : BootFacts), (s.pkg.st = .boot) ∧ (s.pkg.bootFail = 0) ∧ (s.dies.any (fun d => d.mgr.st == .restarting) = false) ∧
        (s.pkg.mgr.st ≠ .restarting) ∧ (s.pkg.bootStep = 0) ∧ (f.selfTest = false)) ∧
    (∃ (s : State) (f : BootFacts) (s1 : State), (s.pkg.st = .boot) ∧ (s.pkg.bootFail = 0) ∧
        (s.dies.any (fun d => d.mgr.st == .restarting) = false) ∧ (s.pkg.mgr.st ≠ .restarting) ∧ (s.pkg.bootStep = 11) ∧ (s.pkg.sparings = []) ∧
        (s1 = (((s.noteAltered f).bootWork 12 f).modPkg (fun p => { p with bootStep := 12 })).settle)) ∧
    (∃ (s : State), ((s.pkg.st = .ready ∨ s.pkg.st = .active)) ∧ (s.power.emerg = true)) ∧
    (∃ (s : State), (s.pkg.st = .safe) ∧ (s.emergency = false) ∧ ((s.ctxs.any (fun e => e.2.st == .running)) = false)) :=
  ⟨⟨ready, by decide +kernel⟩,
   ⟨ready, by decide +kernel⟩,
   ⟨{ ready with power := { mainOn := false } }, by decide +kernel⟩,
   ⟨State.reset, by decide +kernel⟩,
   ⟨{ ready with pkg := { ready.pkg with st := .boot, bootStep := 0 } }, { selfTest := false, copyA := true, copyB := true, altered := [], failed := 0, repairs := [], eth := 0 },
       by decide +kernel⟩,
   ⟨{ ready with pkg := { ready.pkg with st := .boot, bootStep := 11 } }, { selfTest := true, copyA := true, copyB := true, altered := [], failed := 0, repairs := [], eth := 0 },
       ((((State.noteAltered ({ ready with pkg := { ready.pkg with st := .boot, bootStep := 11 } }) ({ selfTest := true, copyA := true, copyB := true, altered := [], failed := 0, repairs := [], eth := 0 })).bootWork 12 ({ selfTest := true, copyA := true, copyB := true, altered := [], failed := 0, repairs := [], eth := 0 })).modPkg (fun p => { p with bootStep := 12 })).settle),
       by decide +kernel, by decide +kernel, by decide +kernel, by decide +kernel, by decide +kernel, by decide +kernel, rfl⟩,
   ⟨{ ready with power := { ready.power with emerg := true } }, by decide +kernel⟩,
   ⟨{ ready with pkg := { ready.pkg with st := .safe } }, by decide +kernel⟩⟩

theorem test_meets_ManagerCommandsComplete :
    (∃ (s : State) (n : Fin 89), ((s.mgr n.val).st ≠ .held)) ∧
    (∃ (s : State) (d : Fin 88), ((s.mgr d.val).st = .restarting) ∧ ((s.mgr d.val).rollBack = false) ∧ ((s.mgr d.val).trial = none)) ∧
    (∃ (s : State), (s.pkg.mgr.st = .restarting)) :=
  ⟨⟨ready, 88, by decide +kernel⟩,
   ⟨{ ready with dies := { ready.die 0 with mgr := { st := .restarting } } :: ready.dies.tail }, 0, by decide +kernel⟩,
   ⟨{ ready with pkg := { ready.pkg with mgr := { st := .restarting } } }, by decide +kernel⟩⟩

theorem test_meets_PowerCommandsComplete :
    (∃ (s : State) (d : Fin 88), ((s.die d.val).mgr.st = .running)) ∧
    (∃ (s : State) (d : Fin 88) (a : BitVec 16) (sh : BitVec 128), (s.pkg.mgr.st = .running) ∧ ((s.die d.val).mgr.st = .running) ∧
        (s.dies.length = 88) ∧ ((if d.val < 64 then eight16 sh else List.replicate 8 0).sum ≤ a.toNat)) ∧
    (∃ (s : State) (d : Fin 88), ((s.die d.val).staleAlloc = false) ∧ ((s.die d.val).mgr.st ≠ .held)) ∧
    (∃ (s : State) (r : WeirReading), (s.dies.length = 88) ∧ (s.sess = []) ∧ (r.lasted = 0)) ∧
    (∃ (s : State), (s.power.emerg = true) ∧ (s.weirCondition = false)) ∧
    (∃ (s : State) (d : Fin 88) (tj : BitVec 8), (115 ≤ tj.toInt) ∧ ((s.die d.val).trip = false) ∧ (s.dies.length = 88) ∧ (s.pkg.st = .boot) ∧
        (s.sess = [])) ∧
    (∃ (s : State) (d : Fin 88) (tj : BitVec 8), (tj.toInt < 100) ∧ ((s.die d.val).trip = true) ∧ (s.dies.length = 88)) ∧
    (∃ (s : State) (d : Fin 88) (tj : BitVec 8), (120 ≤ tj.toInt) ∧ ((s.die d.val).trip = true)) ∧
    (∃ (s : State) (v : BitVec 16), (s.power.mainOn = true) ∧ (s.power.stbyOn = true) ∧ (s.power.inputRange = false) ∧ (s.pkg.st = .boot) ∧
        (s.sess = []) ∧ ((v.toNat < 4600 ∨ 5600 < v.toNat))) ∧
    (∃ (s : State) (b : Fin 16), (s.laser b.val ≠ 0) ∧ (s.laser (laserPartner b.val) ≠ 0)) ∧
    (∃ (s : State) (b : Fin 16), (s.laser b.val = 0) ∧ ((s.die (84 + b.val / 4)).mgr.st = .running) ∧ (s.laser (laserPartner b.val) ≠ 0)) :=
  ⟨⟨ready, 0, by decide +kernel⟩,
   ⟨ready, 0, 8, 0x00010001000100010001000100010001, by decide +kernel⟩,
   ⟨ready, 0, by decide +kernel⟩,
   ⟨ready, { demand := 0, tj := 50, panelRaise := 0, railRaise := 0, current := 0, lasted := 0 }, by decide +kernel⟩,
   ⟨{ ready with power := { ready.power with emerg := true } }, by decide +kernel⟩,
   ⟨{ ready with pkg := { ready.pkg with st := .boot } }, 87, 115, by decide +kernel⟩,
   ⟨{ ready with dies := { ready.die 0 with trip := true } :: ready.dies.tail }, 0, 99, by decide +kernel⟩,
   ⟨{ ready with dies := { ready.die 0 with trip := true } :: ready.dies.tail }, 0, 120, by decide +kernel⟩,
   ⟨{ ready with pkg := { ready.pkg with st := .boot } }, 5601, by decide +kernel⟩,
   ⟨ready, 0, by decide +kernel⟩,
   ⟨{ ready with power := { ready.power with lasers := 0 :: List.replicate 15 1 } }, 0, by decide +kernel⟩⟩

theorem test_meets_TripEntersSafe :
    ∃ (s : State) (t : State) (d : Fin 88) (tj : BitVec 8), (115 ≤ tj.toInt) ∧ ((s.die d.val).trip = false) ∧ (s.dies.length = 88) ∧
        ((s.pkg.st = .ready ∨ s.pkg.st = .active)) ∧ (exec (.thermTrip d tj) s = .next t) :=
  ⟨ready, nextOf (exec (.thermTrip 0 115) ready), 0, 115, by decide +kernel, by decide +kernel, by decide +kernel, by decide +kernel, rfl⟩

theorem test_meets_TimeCommandsComplete :
    (∃ (s : State), (s.time.ptpRole ≠ 3) ∧ ((∀ x, s.time.ppsAt = some x → s.now < x + 999999000))) ∧
    (∃ (s : State), (s.now % 10 ^ 9 = 0) ∧ (s.power.stbyOn = true)) ∧
    (∃ (s : State) (p : Fin 4), ((s.ethPort (4 + p.val)).up = true)) ∧
    (∃ (s : State) (j : Nat), (s.parentPort = some j) ∧ (s.time.parent = j) ∧ ((s.port j).st = .up)) ∧
    (∃ (s : State) (s1 : State) (j : Fin 12) (p : Packet), (s.takeIn j.val (fun _ p => p.kind == 0x40) = some (p, s1)) ∧
        (s.sec.fabricKey.isSome = true) ∧ (fieldN p.body 31 0 = 0) ∧ (fieldN p.body 59 58 = 1)) ∧
    (∃ (s : State), (s.time.ptpRole = 3) ∧ (s.time.sync = .locked)) ∧
    (∃ (s : State), (s.time.sealGen ≠ s.now / 2 ^ 33)) ∧
    (∃ (s : State), (s.time.ptpRole = 3)) :=
  ⟨⟨ready, by decide +kernel, (by intro x h; cases h)⟩,
   ⟨ready, by decide +kernel⟩,
   ⟨{ ready with eth := List.replicate 8 { up := true } }, 3, by decide +kernel⟩,
   ⟨{ port0 { st := .up } with time := { torusRole := 2, root := 0x100, parent := 0 } }, 0, by decide +kernel⟩,
   ⟨{ port0 { st := .up, inQ := [(5, (pkt 0x40 false [(187, 186, 1)]))] } with sec := { fabricKey := some 1 } }, ((State.takeIn ({ port0 { st := .up, inQ := [(5, (pkt 0x40 false [(187, 186, 1)]))] } with sec := { fabricKey := some 1 } }) 0 (fun _ p => p.kind == 0x40)).getD ((pkt 0x40 false [(187,
       186, 1)]), { port0 { st := .up, inQ := [(5, (pkt 0x40 false [(187, 186, 1)]))] } with sec := { fabricKey := some 1 } })).2, 0,
       (pkt 0x40 false [(187, 186, 1)]), eq_pair (by decide +kernel) _, by decide +kernel⟩,
   ⟨{ ready with time := { ptpRole := 3, sync := .locked } }, by decide +kernel⟩,
   ⟨{ ready with time := { ns := 2 ^ 33 } }, by decide +kernel⟩,
   ⟨{ ready with time := { ptpRole := 3 } }, by decide +kernel⟩⟩

theorem test_meets_TideNeverBack :
    ∃ (s : State) (t : State), (-6 ≤ s.time.rate) ∧ (s.time.rate ≤ 6) ∧ ((s.time.stepped = true ∨ s.time.sync ≠ .unlocked)) ∧
        (s.tide16 + 2 ^ 16 < 2 ^ 80) ∧ (s.pending.head? ≠ some .standbyLow) ∧ ((∀ how, s.pending.head? ≠ some (.coldRestart how))) ∧
        (step s = .next t) :=
  ⟨{ ready with time := { rate := 6, stepped := true } }, nextOf (step ({ ready with time := { rate := 6, stepped := true } })), by decide +kernel,
      by decide +kernel, by decide +kernel, by decide +kernel, by decide +kernel, (by intro how h; cases h), rfl⟩

theorem test_meets_TelemetryCommandsComplete :
    (∃ (s : State) (slot : Nat) (u : Sub), (s.handles.live = [(slot, .sub u)]) ∧ (u.periods + 1 < u.k)) ∧
    (∃ (s : State) (t : State) (slot : Nat) (u : Sub), (s.handles.live = [(slot, .sub u)]) ∧ (u.k ≤ u.periods + 1) ∧
        (t = s.formList slot (s.liveRecords u))) ∧
    (∃ (s : State) (slot : Nat) (u : Sub), (s.nextSub = some (slot, u)) ∧ ((s.ethPort (4 + u.port)).up = true)) ∧
    (∃ (s : State) (t : Nat), (s.telem.series = [{ t := t, n := 1, p := 0 }]) ∧ (t ≤ s.now) ∧ (s.telem.lastSnap = none)) ∧
    (∃ (s : State) (t : Nat) (l : Nat), (s.telem.series = [{ t := t, n := 1, p := 0 }]) ∧ (t ≤ s.now) ∧ (s.telem.lastSnap = some l) ∧
        (t < l + 10 ^ 7)) ∧
    (∃ (s : State) (b : Bool) (n : BitVec 16) (d : Nat × Nat × Nat), ((s.snapBank b).due = [d]) ∧ (s.objStale d.2.2 = false) ∧ (1 ≤ n.toNat)) ∧
    (∃ (s : State) (id : Nat) (h : HealthRec), (s.telem.health = [(id, h)])) ∧
    (∃ (s : State) (j : Fin 12) (v : BitVec 144) (h : BitVec 144), (s.measures j.val = true) ∧ (s.scopeDue = []) ∧ ((∀ k,
        k < 9 → 12 ≤ (nine16 v k).toNat ∧ 120 ≤ (nine16 h k).toNat)) ∧ (s.ports.length = 12) ∧ ((s.port j.val).eyeBad = List.replicate 9 0) ∧
        ((s.port j.val).eyeBadH = List.replicate 9 0)) ∧
    (∃ (s : State) (j : Fin 12) (e : BitVec 288), (s.measures j.val = true) ∧ (s.scopeDue = []) ∧ ((∀ k, k < 9 → nine32 e k ≤ 20000)) ∧
        (s.ports.length = 12) ∧ ((s.port j.val).serBad = List.replicate 9 0)) ∧
    (∃ (s : State) (j : Fin 12), (s.measures j.val = true)) ∧
    (∃ (s : State) (d : Fin 88) (i : Fin 4), (s.dies.length = 88) ∧ ((s.die d.val).slackBad.getD i.val 0 < 99999) ∧
        ((s.die d.val).slackBad.length = 4)) ∧
    (∃ (m : Measure), ((∀ c, m ≠ .scatter c))) :=
  ⟨⟨objs [.sub { owner := none, kinds := 31, port := 0, k := 2, udp := 4000, addr := 9, filters := [] }] ready, 0, { owner := none, kinds := 31, port := 0, k := 2, udp := 4000, addr := 9, filters := [] },
      by decide +kernel⟩,
   ⟨objs [.sub { owner := none, kinds := 31, port := 0, k := 1, udp := 4000, addr := 9, filters := [] }] ready,
       State.formList (objs [.sub { owner := none, kinds := 31, port := 0, k := 1, udp := 4000, addr := 9, filters := [] }] ready) 0 (State.liveRecords (objs [.sub { owner := none, kinds := 31, port := 0, k := 1, udp := 4000, addr := 9, filters := [] }] ready) { owner := none, kinds := 31, port := 0, k := 1, udp := 4000, addr := 9, filters := [] }),
       0, { owner := none, kinds := 31, port := 0, k := 1, udp := 4000, addr := 9, filters := [] }, by decide +kernel, by decide +kernel, rfl⟩,
   ⟨{ objs [.sub { owner := none, kinds := 31, port := 0, k := 1, udp := 4000, addr := 9, filters := [], queue := [{ t := 0, gen := 0, id := 1, obj := 0, kind := 1, stale := false, snap := false, unlocked := true, ctx := none, seq := 0, body := 0 }] }] ready with eth := List.replicate 8 { up := true } },
       0, { owner := none, kinds := 31, port := 0, k := 1, udp := 4000, addr := 9, filters := [], queue := [{ t := 0, gen := 0, id := 1, obj := 0, kind := 1, stale := false, snap := false, unlocked := true, ctx := none, seq := 0, body := 0 }] },
       by decide +kernel⟩,
   ⟨{ ready with telem := { series := [{ t := 0, n := 1, p := 0 }] } }, 0, by decide +kernel⟩,
   ⟨{ ready with telem := { series := [{ t := 0, n := 1, p := 0 }], lastSnap := some 0 } }, 0, 0, by decide +kernel⟩,
   ⟨{ ready with telem := { bank1 := { due := [(1, 2, 3)] } } }, true, 1, (1, 2, 3), by decide +kernel⟩,
   ⟨{ ready with telem := { health := [(5, {})] } }, 5, {}, by decide +kernel⟩,
   ⟨{ ready with power := { convOn := true } }, 0, ~~~0, ~~~0, by decide +kernel⟩,
   ⟨ready, 0, 0, by decide +kernel⟩,
   ⟨ready, 0, by decide +kernel⟩,
   ⟨ready, 87, 3, by decide +kernel⟩,
   ⟨.gemm, (by intro c h; cases h)⟩⟩

theorem test_meets_BaseboardCommandsComplete :
    (∃ (s : State) (a : BitVec 7), (s.bbAddressed a = true)) ∧
    (∃ (s : State) (a : BitVec 7) (n : BitVec 8), (s.bbAddressed a = true) ∧ (s.bb.offset.toNat + n.toNat ≤ 0x19)) ∧
    (∃ (s : State), (s.power.stbyOn = true) ∧ (s.bb.dynAddr = none)) ∧
    (∃ (s : State), (s.power.stbyOn = true) ∧ (s.bb.dynAddr = none)) ∧
    (∃ (s : State), (s.power.stbyOn = true)) ∧
    (∃ (s : State) (e : BitVec 8), (s.power.stbyOn = true) ∧ (e.getLsbD 0 = true)) ∧
    (∃ (s : State) (a : BitVec 7), (s.power.stbyOn = true) ∧ (s.bb.dynAddr = some a)) ∧
    (∃ (s : State), (s.power.stbyOn = true)) ∧
    (∃ (s : State), (s.power.stbyOn = true)) :=
  ⟨⟨ready, 0x3A, by decide +kernel⟩,
   ⟨ready, 0x3A, 0x19, by decide +kernel⟩,
   ⟨ready, by decide +kernel⟩,
   ⟨ready, by decide +kernel⟩,
   ⟨ready, by decide +kernel⟩,
   ⟨ready, 1, by decide +kernel⟩,
   ⟨{ ready with bb := { dynAddr := some 9 } }, 9, by decide +kernel⟩,
   ⟨ready, by decide +kernel⟩,
   ⟨ready, by decide +kernel⟩⟩

theorem test_meets_HandleAllocation :
    (∃ (s : State), (s.handles.fresh < 16384)) ∧
    (∃ (s : State) (x : Nat) (xs : List Nat), (16384 ≤ s.handles.fresh) ∧ (s.handles.freed = x :: xs)) ∧
    (∃ (s : State), (16384 ≤ s.handles.fresh) ∧ (s.handles.freed = [])) ∧
    (∃ (s : State), (smSorted s.handles.gen = true)) ∧
    (∃ slot, (slot < 16384)) :=
  ⟨⟨ready, by decide +kernel⟩,
   ⟨{ ready with handles := { fresh := 16384, freed := [7] } }, 7, [], by decide +kernel⟩,
   ⟨{ ready with handles := { fresh := 16384 } }, by decide +kernel⟩,
   ⟨objs [.chan ch3] ready, by decide +kernel⟩,
   ⟨16383, by decide +kernel⟩⟩

theorem test_meets_SetWinsClear :
    (∃ (s : State) (i : Fin 32), (s.pkg.mgr.st = .running) ∧ (smSorted s.tiles = true) ∧ (i.val < 3)) ∧
    (∃ (s : State) (i : Fin 32), (s.pkg.mgr.st = .running) ∧ (smSorted s.tiles = true) ∧ (i.val < 2)) ∧
    (∃ (s : State) (p : Fin 4) (k : Fin 3) (i : Fin 32), (s.pkg.mgr.st = .running) ∧ (s.ports.length = 12) ∧ (i.val < 10) ∧
        (i.val < (s.port (portOfP p.val k.val)).counts.length)) ∧
    (∃ (s : State) (i : Fin 32), (s.pkg.mgr.st = .running) ∧ (i.val < 4) ∧ (i.val < s.part.counts.length)) ∧
    (∃ (s : State) (c : Fin 64) (x : Ctx), (s.pkg.mgr.st = .running) ∧ (s.ctx? c.val = some x)) :=
  ⟨⟨ready, 2, by decide +kernel⟩,
   ⟨ready, 1, by decide +kernel⟩,
   ⟨ready, 0, 0, 9, by decide +kernel⟩,
   ⟨ready, 3, by decide +kernel⟩,
   ⟨with0 (ctxIn .running) ready, 0, ctxIn .running, by decide +kernel⟩⟩

theorem test_meets_PanelRoutes :
    ∃ (f : PanelFord) (g : PanelFord), (pFord 0 .passage = some f) ∧ (pFord 1 .passage = some g) :=
  ⟨⟨(0, 1), .north⟩, ⟨(0, 7), .north⟩, by decide +kernel⟩

/-! ### Ill-formed commands -/

theorem test_wf_rdmaWrite : (Instr.rdmaWrite 0 0 0 (List.replicate (2 ^ 32) 0)).wf = false := by
  simp only [Instr.wf, List.length_replicate]; decide
theorem test_wf_lineRead : (Instr.lineRead (0x16800000000 / 64) .clean).wf = false := by decide
theorem test_wf_lineSpare : (Instr.lineSpare 0 (2 ^ 42 + 36864 * 32768)).wf = false := by decide
theorem test_wf_autoLineSpare : (Instr.autoLineSpare 0 (.row 0 0 0 1 2 3 1)).wf = false := by decide
theorem test_wf_collHopAdd : (Instr.collHopAdd 0 256).wf = false := by decide
theorem test_wf_laneFailNoSpare : (Instr.laneFailNoSpare 0 1 0x00F).wf = false := by decide
theorem test_wf_trainingAttemptEnd : (Instr.trainingAttemptEnd 0 (some 4) 0x01F).wf = false := by decide
theorem test_wf_flowGaugeWindow : (Instr.flowGaugeWindow ⟨[⟨0, 1, 0, 0, 0⟩, ⟨0, 1, 2, 3, 4⟩], none⟩).wf = false := by decide
theorem test_wf_w1cClear : (Instr.w1cClear none 0 0 [3, 3]).wf = false := by decide
theorem test_wf_bootStepEnd : (Instr.bootStepEnd ⟨true, true, true, [], 0, [(5, 1), (5, 2)], 0⟩).wf = false := by decide

/-! ### Worked examples of the spec -/

/-- 02, example of a split at a chunk boundary: 0 + 16,777,217 rounds to 2^24, and 2^24 + 1 stays there. -/
theorem test_accumulate_ties_to_even :
    (accumulate false 0 (.ofRat 16777217)).w = 0x4B800000 ∧ (accumulate false 0x4B800000 (.ofRat 1)).w = 0x4B800000 := by decide +kernel

/-- 04, example of a tie across a split: the merge of the two parts' records is the record of the unsplit row. -/
theorem test_topk_tie_across_split :
    topCands 2 [⟨.ofRat (3 / 2), 0⟩, ⟨.ofRat 3, 1⟩, ⟨.fin 0 true, 2⟩, ⟨.ofRat 3, 3⟩, ⟨.ofRat 2, 4⟩] = [⟨.ofRat 3, 1⟩, ⟨.ofRat 3, 3⟩] ∧
    topCands 2 [⟨.ofRat 3, 1⟩, ⟨.ofRat (3 / 2), 0⟩, ⟨.ofRat 3, 3⟩, ⟨.ofRat 2, 4⟩] = [⟨.ofRat 3, 1⟩, ⟨.ofRat 3, 3⟩] := by decide +kernel

/-- 07, example of a scale that follows its history: 387.5 rounds to 384, 500 saturates to 448, 193.75 rounds to 192. -/
theorem test_e4m3_rounds_and_saturates :
    convert .e4m3 .rne (.ofRat (775 / 2)) = ⟨0x7C, false, false⟩ ∧ convert .e4m3 .rne (.ofRat 500) = ⟨0x7E, true, false⟩ ∧
    convert .e4m3 .rne (.ofRat (775 / 4)) = ⟨0x74, false, false⟩ := by decide +kernel

/-- 07, the same example: an agreed maximum of 3,100 gives `EXP` 4 with `MARGIN` 1. -/
theorem test_exp_follows_history :
    privExpOf (privPush (pack 1024 [(31, 31, 1), (27, 24, 3), (19, 16, 1), (15, 8, 3)]) (toF32 .rne (.ofRat 3100))) = 4 := by decide +kernel

/-- 10, example of one element around a ring of four: 27.36 is sent as 27, 20.60 as 21 and 54.12 as 54. -/
theorem test_kb8_rounds_to_nearest :
    [684 / 25, 103 / 5, 1353 / 25].map (fun q => (convert .kb8 .rne (.ofRat q)).code) = [27, 21, 54] := by decide +kernel

/-- 14, example of a packet sealed before a generation boundary: its initial vector, and the generation that opens it. -/
theorem test_seal_near_boundary :
    toBytes 12 (sealIv 0xD40 0x4000012345).toNat = [0x40, 0x0D, 0x45, 0x23, 0x01, 0x00, 0x40, 0, 0, 0, 0, 0] ∧
    openGen 25769804456 false = 2 ∧ openGen 25769804456 true = 3 := by decide +kernel

/-- The tile of the routing example: four records of two entries, and a parameter block with `EXPERTS` 4 and `CAPACITY` 2. -/
def routeTile : Tile :=
  let rec_ := fun (m e0 v0 e1 v1 : Nat) (t : Tile) => t.writeBytes (0x1000 + 128 * m)
    (toBytes 4 v0 ++ toBytes 4 v1 ++ toBytes 56 0 ++ toBytes 4 e0 ++ toBytes 4 e1 ++ toBytes 56 0)
  let par : BitVec 512 := pack 512 [(271, 240, 2), (239, 224, 4)]
  ((((({} : Tile).writeBytes 0x40 (toBytes 64 par.toNat)) |> rec_ 0 2 0x3F19999A 0 0x3ECCCCCD) |> rec_ 1 2 0x3F333333 1 0x3E99999A)
    |> rec_ 2 2 0x3F000000 3 0x3F000000) |> rec_ 3 0 0x3F666666 2 0x3DCCCCCD

/-- The descriptor of the routing example. -/
def routeOp : OpD := OpD.of (pack 1024 [(63, 56, 0x52), (127, 127, 1), (120, 104, 1), (103, 92, 1), (91, 80, 3), (150, 128, 0x1000),
  (167, 152, 2), (342, 320, 0x4000), (359, 344, 1), (382, 360, 0x8000)])

/-- 05, example of four tokens and four local experts: the counts, the third list, and the entry beyond capacity left out. -/
theorem test_route_build :
    (List.range 5).map (fun e => memReadN (routeOp.routeRun routeTile).tile.sp (0x8000 + 4 * e) 4) = [2, 1, 4, 1, 0] ∧
    memReadN (routeOp.routeRun routeTile).tile.sp 0x4000 16 = 0x3F66666600000003 * 2 ^ 64 + 0x3ECCCCCD00000000 ∧
    memReadN (routeOp.routeRun routeTile).tile.sp 0x4080 16 = 0x3F33333300000001 * 2 ^ 64 + 0x3F19999A00000000 := by decide +kernel

end Sys2Proof.Tests
end

section
/-! Events. Posting an event touches the package's waiting boot events, the sessions and what leaves the module, and nothing
else of the state (12 R375, R376). -/

namespace Sys2Proof.Machine

variable (s : State)

/-- Writing the waiting records of a session changes the sessions and what has left the module only. -/
theorem State.flush_frame (n : Nat) : ∃ se o, s.flush n = { s with sess := se, out := o } := by
  unfold State.flush
  split
  · exact ⟨s.sess, s.out, rfl⟩
  · exact ⟨_, _, rfl⟩

/-- So does writing those of several sessions. -/
theorem State.foldl_flush_frame (ns : List Nat) : ∃ se o, ns.foldl State.flush s = { s with sess := se, out := o } := by
  induction ns generalizing s with
  | nil => exact ⟨s.sess, s.out, rfl⟩
  | cons n ns ih =>
    obtain ⟨se, o, hn⟩ := s.flush_frame n
    obtain ⟨se', o', hns⟩ := ih (s.flush n)
    exact ⟨se', o', by rw [List.foldl_cons, hns, hn]⟩

/-- An event changes the package's waiting boot events, the sessions and what has left the module only. -/
theorem State.event_frame (code objKind obj : Nat) (ctx : Option Nat) (data : BitVec 3328) :
    ∃ pk se o, s.event code objKind obj ctx data = { s with pkg := pk, sess := se, out := o } := by
  unfold State.event
  split
  · exact ⟨_, s.sess, s.out, rfl⟩
  · obtain ⟨se, o, h⟩ := State.foldl_flush_frame _ _
    exact ⟨s.pkg, se, o, by rw [State.post, h]⟩

variable (code objKind obj : Nat) (ctx : Option Nat) (data : BitVec 3328)

@[simp] theorem State.event_tiles : (s.event code objKind obj ctx data).tiles = s.tiles := by
  obtain ⟨pk, se, o, h⟩ := s.event_frame code objKind obj ctx data
  rw [h]

@[simp] theorem State.event_ports : (s.event code objKind obj ctx data).ports = s.ports := by
  obtain ⟨pk, se, o, h⟩ := s.event_frame code objKind obj ctx data
  rw [h]

@[simp] theorem State.tileP_event (p : Nat) : (s.event code objKind obj ctx data).tileP p = s.tileP p := by simp [State.tileP]

@[simp] theorem State.port_event (j : Nat) : (s.event code objKind obj ctx data).port j = s.port j := by simp [State.port]

@[simp] theorem State.event_part : (s.event code objKind obj ctx data).part = s.part := by
  obtain ⟨pk, se, o, h⟩ := s.event_frame code objKind obj ctx data
  rw [h]

end Sys2Proof.Machine
end

section
/-! Sticky flags set by hardware: one event of one source leaves its flag at 1 and its counter advanced by one, whether or not
it raises an alert (00 R15 to R17). -/

namespace Sys2Proof.Machine

variable {s : State}

/-- A flag whose events occurred reads 1. -/
theorem getLsbD_setFlag_self {w i : Nat} (f : BitVec w) (hi : i < w) : (setFlag f i 1).getLsbD i = true := by
  simp [setFlag, hi]

/-- A tile after its change. -/
theorem State.tileP_modTileP_self (h : smSorted s.tiles = true) (p : Nat) (f : Tile → Tile) :
    (s.modTileP p f).tileP p = f (s.tileP p) :=
  smGet_smPutD_self h _ _ _

/-- One event of an `ACC_FLAGS` bit, on its tile (04 R113). -/
theorem State.tileP_accFlag_one (h : smSorted s.tiles = true) (p i : Nat) :
    (s.accFlag p i 1).tileP p = { s.tileP p with
      accFlags := setFlag (s.tileP p).accFlags i 1
      satCount := if i = 0 then (s.tileP p).satCount + 1 else (s.tileP p).satCount
      nfCount := if i = 1 then (s.tileP p).nfCount + 1 else (s.tileP p).nfCount
      mrCount := if i = 2 then (s.tileP p).mrCount + 1 else (s.tileP p).mrCount } := by
  have hset := State.tileP_modTileP_self h p
  simp only [State.accFlag, Nat.one_ne_zero, ↓reduceIte]
  split
  · exact (State.tileP_event ..).trans (hset _)
  · exact hset _

/-- One event of a `VEC_FLAGS` bit, on its tile (05 R149). -/
theorem State.tileP_vecFlag_one (h : smSorted s.tiles = true) (p i : Nat) :
    (s.vecFlag p i 1).tileP p = { s.tileP p with
      vecFlags := setFlag (s.tileP p).vecFlags i 1
      invCount := if i = 0 then (s.tileP p).invCount + 1 else (s.tileP p).invCount
      dzCount := if i = 1 then (s.tileP p).dzCount + 1 else (s.tileP p).dzCount } := by
  have hset := State.tileP_modTileP_self h p
  simp only [State.vecFlag, Nat.one_ne_zero, ↓reduceIte]
  split
  · exact (State.tileP_event ..).trans (hset _)
  · exact hset _

/-- An entry of a list after its change. -/
theorem getD_modAt_self {α : Type} {l : List α} {i : Nat} (hi : i < l.length) (f : α → α) (d : α) :
    (modAt l i f).getD i d = f (l.getD i d) := by
  simp [modAt, List.getD_eq_getElem?_getD, hi]

/-- A port after its change. -/
theorem State.port_modPort_self {j : Nat} (hj : j < s.ports.length) (f : Port → Port) : (s.modPort j f).port j = f (s.port j) :=
  getD_modAt_self hj f _

/-- One event of a `LINK_EVT` bit, on its port (09 R268). -/
theorem State.port_linkEvt {j : Nat} (hj : j < s.ports.length) (i : Nat) (data : BitVec 3328) :
    (s.linkEvt j i data).port j =
      { s.port j with evt := setFlag (s.port j).evt i 1, counts := modAt (s.port j).counts i (· + 1) } := by
  have hset := State.port_modPort_self hj
  simp only [State.linkEvt]
  split
  · exact (State.port_event ..).trans (hset _)
  · exact hset _

/-- One event of a `PART_EVT` bit (11 R348). -/
theorem State.part_partEvt (i objKind obj : Nat) (ctx : Option Nat) (data : BitVec 3328) :
    (s.partEvt i objKind obj ctx data).part =
      { s.part with evt := setFlag s.part.evt i 1, counts := modAt s.part.counts i (· + 1) } := by
  simp only [State.partEvt]
  split
  · exact State.event_part ..
  · rfl

/-- A context after its change. -/
theorem State.ctx?_modCtx_self (c : Nat) (f : Ctx → Ctx) : (s.modCtx c f).ctx? c = (s.ctx? c).map f :=
  smGet?_smMod_self ..

end Sys2Proof.Machine
end

section
/-! Control and status space: which register a write, or an event of hardware, reaches at an address (01 R43; 00 R13 to R18). -/

namespace Sys2Proof.Machine

/-! ### Addresses -/

/-- The address of an offset in a block of control and status space (01 R43). -/
def ctlAddr (d off : Nat) : Nat := ctlBase + d * 2 ^ 24 + off

theorem ctlAddr_block {d off : Nat} (h : off < 2 ^ 24) : (ctlAddr d off - ctlBase) / 2 ^ 24 = d := by
  unfold ctlAddr; omega

theorem ctlAddr_offset {d off : Nat} (h : off < 2 ^ 24) : (ctlAddr d off - ctlBase) % 2 ^ 24 = off := by
  unfold ctlAddr; omega

theorem not_ctlAddr_lt_ctlBase (d off : Nat) : ¬ ctlAddr d off < ctlBase := by
  unfold ctlAddr; omega

/-- The offset of a word of a tile's registers in its die's block (04 R113). -/
def tileOff (k o : Nat) : Nat := 0x100000 + k * 0x10000 + o

theorem tileOff_bounds {k o : Nat} (hk : k < 8) (ho : o < 0x10000) : 0x100000 ≤ tileOff k o ∧ tileOff k o < 0x180000 := by
  unfold tileOff; omega

theorem tileOff_tile {k o : Nat} (ho : o < 0x10000) : (tileOff k o - 0x100000) / 0x10000 = k := by
  unfold tileOff; omega

theorem tileOff_word {k o : Nat} (ho : o < 0x10000) : tileOff k o % 0x10000 = o := by
  unfold tileOff; omega

/-- The offset of a word of a port's registers in its P-die's block (09 R268). -/
def portOff (k o : Nat) : Nat := 0x20000 + k * 0x1000 + o

theorem portOff_bounds {k o : Nat} (hk : k < 3) (ho : o < 0x1000) : 0x20000 ≤ portOff k o ∧ portOff k o < 0x23000 := by
  unfold portOff; omega

theorem portOff_port {k o : Nat} (ho : o < 0x1000) : (portOff k o - 0x20000) / 0x1000 = k := by
  unfold portOff; omega

theorem portOff_word {k o : Nat} (ho : o < 0x1000) : portOff k o % 0x1000 = o := by
  unfold portOff; omega

/-- A word of a tile's registers, as a 48-bit address. -/
theorem toNat_tileReg {d k o : Nat} (hd : d < 64) (hk : k < 8) (ho : o < 0x10000) :
    (BitVec.ofNat 48 (0xFF0000000000 + d * 2 ^ 24 + 0x100000 + k * 0x10000 + o)).toNat = ctlAddr d (tileOff k o) := by
  rw [BitVec.toNat_ofNat]
  unfold ctlAddr tileOff ctlBase
  omega

/-- A word of a port's registers, as a 48-bit address. -/
theorem toNat_portReg {d k o : Nat} (hd : d < 4) (hk : k < 3) (ho : o < 0x1000) :
    (BitVec.ofNat 48 (0xFF0000000000 + (84 + d) * 2 ^ 24 + 0x20000 + k * 0x1000 + o)).toNat = ctlAddr (84 + d) (portOff k o) := by
  rw [BitVec.toNat_ofNat]
  unfold ctlAddr portOff ctlBase
  omega

/-- `STEP_STAT` of a context, as a 48-bit address (07 R197). -/
theorem toNat_stepStat {c : Nat} (hc : c < 64) :
    (BitVec.ofNat 48 (0xFF00FF300010 + c * 0x40)).toNat = ctlAddr pkgBlock (0x300010 + c * 0x40) := by
  rw [BitVec.toNat_ofNat]
  unfold ctlAddr pkgBlock ctlBase
  omega

/-! ### Flags kept for a snapshot (00 R18) -/

section
variable (s : State) (a : Nat) (v m : W32)

/-- What a write keeps of the flags it clears is in the telemetry only. -/
theorem State.noteCleared_frame : ∃ te, s.noteCleared a v m = { s with telem := te } := by
  simp only [State.noteCleared]
  split
  · exact ⟨_, rfl⟩
  · exact ⟨s.telem, rfl⟩

@[simp] theorem State.noteCleared_tiles : (s.noteCleared a v m).tiles = s.tiles := by
  obtain ⟨te, h⟩ := s.noteCleared_frame a v m
  rw [h]

@[simp] theorem State.tileP_noteCleared (p : Nat) : (s.noteCleared a v m).tileP p = s.tileP p := by simp [State.tileP]

@[simp] theorem State.noteCleared_ports : (s.noteCleared a v m).ports = s.ports := by
  obtain ⟨te, h⟩ := s.noteCleared_frame a v m
  rw [h]

@[simp] theorem State.port_noteCleared (j : Nat) : (s.noteCleared a v m).port j = s.port j := by simp [State.port]

@[simp] theorem State.noteCleared_part : (s.noteCleared a v m).part = s.part := by
  obtain ⟨te, h⟩ := s.noteCleared_frame a v m
  rw [h]

@[simp] theorem State.noteCleared_ctxs : (s.noteCleared a v m).ctxs = s.ctxs := by
  obtain ⟨te, h⟩ := s.noteCleared_frame a v m
  rw [h]

@[simp] theorem State.ctx?_noteCleared (c : Nat) : (s.noteCleared a v m).ctx? c = s.ctx? c := by simp [State.ctx?]

end

/-! ### Writes -/

section
variable (s : State) {d k o off : Nat} (v m : W32)

/-- A write to a C-die's tile registers. -/
theorem State.writeReg_tile (hd : d < 64) (hk : k < 8) (ho : o < 0x10000) :
    s.writeReg (ctlAddr d (tileOff k o)) v m = (s.noteCleared (ctlAddr d (tileOff k o)) v m).writeTileReg (8 * d + k) o v m := by
  have hin := tileOff_bounds hk ho
  have hoff : tileOff k o < 2 ^ 24 := by omega
  simp only [State.writeReg, ctlAddr_block hoff, ctlAddr_offset hoff, not_ctlAddr_lt_ctlBase, if_pos hd, if_pos hin, tileOff_tile ho,
    tileOff_word ho, ↓reduceIte]

/-- A write to `ACC_FLAGS` clears flags of its tile and leaves the tile's counters alone (04 R113). -/
theorem State.writeReg_accFlags (hs : smSorted s.tiles = true) (hd : d < 64) (hk : k < 8) :
    smSorted (s.writeReg (ctlAddr d (tileOff k 0)) v m).tiles = true ∧
      (s.writeReg (ctlAddr d (tileOff k 0)) v m).tileP (8 * d + k) =
        { s.tileP (8 * d + k) with accFlags := cleared (s.tileP (8 * d + k)).accFlags v m } := by
  rw [s.writeReg_tile v m hd hk (by decide)]
  refine ⟨smSorted_smPutD (by simpa using hs) _ _ _, (State.tileP_modTileP_self (by simpa using hs) _ _).trans ?_⟩
  rw [State.tileP_noteCleared]

/-- A write to `VEC_FLAGS` clears flags of its tile and leaves the tile's counters alone (05 R149). -/
theorem State.writeReg_vecFlags (hs : smSorted s.tiles = true) (hd : d < 64) (hk : k < 8) :
    smSorted (s.writeReg (ctlAddr d (tileOff k 0x40)) v m).tiles = true ∧
      (s.writeReg (ctlAddr d (tileOff k 0x40)) v m).tileP (8 * d + k) =
        { s.tileP (8 * d + k) with vecFlags := cleared (s.tileP (8 * d + k)).vecFlags v m } := by
  rw [s.writeReg_tile v m hd hk (by decide)]
  refine ⟨smSorted_smPutD (by simpa using hs) _ _ _, (State.tileP_modTileP_self (by simpa using hs) _ _).trans ?_⟩
  rw [State.tileP_noteCleared]

/-- A write to a P-die's port registers. -/
theorem State.writeReg_port (hd : d < 4) (hk : k < 3) (ho : o < 0x1000) :
    s.writeReg (ctlAddr (84 + d) (portOff k o)) v m =
      (s.noteCleared (ctlAddr (84 + d) (portOff k o)) v m).writePortReg (portOfP d k) o v m := by
  have hin := portOff_bounds hk ho
  have hoff : portOff k o < 2 ^ 24 := by omega
  have hC : ¬ 84 + d < 64 := by omega
  have hP : 84 ≤ 84 + d ∧ 84 + d < 88 := by omega
  simp only [State.writeReg, ctlAddr_block hoff, ctlAddr_offset hoff, not_ctlAddr_lt_ctlBase, if_neg hC, if_pos hP, if_pos hin,
    Nat.add_sub_cancel_left, portOff_port ho, portOff_word ho, ↓reduceIte]

/-- A write to `LINK_EVT` clears flags of its port and leaves the port's counters alone (09 R268). -/
theorem State.writeReg_linkEvt (hd : d < 4) (hk : k < 3) (hj : portOfP d k < s.ports.length) :
    (s.writeReg (ctlAddr (84 + d) (portOff k 8)) v m).ports.length = s.ports.length ∧
      (s.writeReg (ctlAddr (84 + d) (portOff k 8)) v m).port (portOfP d k) =
        { s.port (portOfP d k) with evt := cleared (s.port (portOfP d k)).evt v m } := by
  rw [s.writeReg_port v m hd hk (by decide)]
  refine ⟨by simp [State.writePortReg], (State.port_modPort_self (by simpa using hj) _).trans ?_⟩
  rw [State.port_noteCleared]

/-- A write to the package block. -/
theorem State.writeReg_pkg (hoff : off < 2 ^ 24) :
    s.writeReg (ctlAddr pkgBlock off) v m = (s.noteCleared (ctlAddr pkgBlock off) v m).writePkgReg off v m := by
  have hC : ¬ pkgBlock < 64 := by decide
  have hP : ¬ (84 ≤ pkgBlock ∧ pkgBlock < 88) := by decide
  simp only [State.writeReg, ctlAddr_block hoff, ctlAddr_offset hoff, not_ctlAddr_lt_ctlBase, if_neg hC, if_neg hP, ↓reduceIte]

/-- A write to the word of a context's step registers that holds `STEP_STAT` clears `HEALTH_LATE` where it writes 1 (07 R197). -/
theorem State.writePkgReg_stepStat {c : Nat} (hc : c < 64) :
    s.writePkgReg (0x300010 + c * 0x40) v m =
      if bitN (v &&& m) 1 then s.modCtx c (fun x => { x with healthLate := false }) else s := by
  have hc' : (0x300010 + c * 0x40 - 0x300000) / 0x40 = c := by omega
  have hin : 0x300000 ≤ 0x300010 + c * 0x40 ∧ 0x300010 + c * 0x40 < 0x301000 ∧ (0x300010 + c * 0x40) % 0x40 = 0x10 := by omega
  have hmail : ¬ (0x800000 ≤ 0x300010 + c * 0x40 ∧ 0x300010 + c * 0x40 < 0xA00000) := by omega
  unfold State.writePkgReg
  split
  · omega
  · omega
  · simp only [hin, hc', if_neg hmail, true_and]

/-- A write to `PART_EVT` clears flags and leaves their counters alone (11 R348). -/
theorem State.writeReg_partEvt :
    s.writeReg (ctlAddr pkgBlock 0x600018) v m =
      { s.noteCleared (ctlAddr pkgBlock 0x600018) v m with part := { s.part with evt := cleared s.part.evt v m } } := by
  rw [s.writeReg_pkg v m (by decide)]
  simp only [State.writePkgReg, State.noteCleared_part]

/-- A write to `STEP_STAT` leaves the count of `HEALTH_LATE` alone (07 R197). -/
theorem State.writeReg_stepStat {c : Nat} {x : Ctx} (hc : c < 64) (hx : s.ctx? c = some x) :
    ∃ b, (s.writeReg (ctlAddr pkgBlock (0x300010 + c * 0x40)) v m).ctx? c = some { x with healthLate := b } := by
  rw [s.writeReg_pkg v m (by omega), State.writePkgReg_stepStat _ v m hc]
  split
  · exact ⟨false, by rw [State.ctx?_modCtx_self, State.ctx?_noteCleared, hx]; rfl⟩
  · exact ⟨x.healthLate, by rw [State.ctx?_noteCleared, hx]⟩

end

/-! ### Events of hardware -/

section
variable (s : State) {d k i : Nat}

/-- An event of an `ACC_FLAGS` bit (04 R113). -/
theorem State.hwSet_accFlags (hd : d < 64) (hk : k < 8) (hi : i < 3) :
    s.hwSet (ctlAddr d (tileOff k 0)) i = s.accFlag (8 * d + k) i 1 := by
  have hw : 0 < 0x10000 := by decide
  have hin := tileOff_bounds hk hw
  have hoff : tileOff k 0 < 2 ^ 24 := by omega
  simp only [State.hwSet, ctlAddr_block hoff, ctlAddr_offset hoff, not_ctlAddr_lt_ctlBase, if_pos (And.intro hd hin), tileOff_tile hw,
    tileOff_word hw, if_pos hi, ↓reduceIte]

/-- An event of a `VEC_FLAGS` bit (05 R149). -/
theorem State.hwSet_vecFlags (hd : d < 64) (hk : k < 8) (hi : i < 2) :
    s.hwSet (ctlAddr d (tileOff k 0x40)) i = s.vecFlag (8 * d + k) i 1 := by
  have hw : 0x40 < 0x10000 := by decide
  have hin := tileOff_bounds hk hw
  have hoff : tileOff k 0x40 < 2 ^ 24 := by omega
  simp only [State.hwSet, ctlAddr_block hoff, ctlAddr_offset hoff, not_ctlAddr_lt_ctlBase, if_pos (And.intro hd hin), tileOff_tile hw,
    tileOff_word hw, if_pos hi, ↓reduceIte]

/-- An event of a `LINK_EVT` bit (09 R268). -/
theorem State.hwSet_linkEvt (hd : d < 4) (hk : k < 3) (hi : i < 10) :
    s.hwSet (ctlAddr (84 + d) (portOff k 8)) i = s.linkEvt (portOfP d k) i 0 := by
  have hw : 8 < 0x1000 := by decide
  have hin := portOff_bounds hk hw
  have hoff : portOff k 8 < 2 ^ 24 := by omega
  have hC : ¬ (84 + d < 64 ∧ 0x100000 ≤ portOff k 8 ∧ portOff k 8 < 0x180000) := by omega
  have hP : 84 ≤ 84 + d ∧ 84 + d < 88 ∧ 0x20000 ≤ portOff k 8 ∧ portOff k 8 < 0x23000 := by omega
  have hbit : portOff k 8 % 0x1000 = 8 ∧ i < 10 := ⟨portOff_word hw, hi⟩
  simp only [State.hwSet, ctlAddr_block hoff, ctlAddr_offset hoff, not_ctlAddr_lt_ctlBase, if_neg hC, if_pos hP, if_pos hbit,
    Nat.add_sub_cancel_left, portOff_port hw, ↓reduceIte]

/-- An event of a `PART_EVT` bit (11 R348). -/
theorem State.hwSet_partEvt (hi : i < 4) : s.hwSet (ctlAddr pkgBlock 0x600018) i = s.partEvt i 0 0 none 0 := by
  have hoff : 0x600018 < 2 ^ 24 := by decide
  have hC : ¬ (pkgBlock < 64 ∧ 0x100000 ≤ 0x600018 ∧ 0x600018 < 0x180000) := by decide
  have hP : ¬ (84 ≤ pkgBlock ∧ pkgBlock < 88 ∧ 0x20000 ≤ 0x600018 ∧ 0x600018 < 0x23000) := by decide
  simp only [State.hwSet, ctlAddr_block hoff, ctlAddr_offset hoff, not_ctlAddr_lt_ctlBase, if_neg hC, if_neg hP, if_pos hi,
    and_self, ↓reduceIte]

/-- An event of `HEALTH_LATE`, bit 1 of `STEP_STAT` (07 R197). -/
theorem State.hwSet_stepStat {c : Nat} (hc : c < 64) :
    s.hwSet (ctlAddr pkgBlock (0x300010 + c * 0x40)) 1 =
      s.modCtx c (fun x => { x with healthLate := true, healthLateCount := x.healthLateCount + 1 }) := by
  have hoff : 0x300010 + c * 0x40 < 2 ^ 24 := by omega
  have hC : ¬ (pkgBlock < 64 ∧ 0x100000 ≤ 0x300010 + c * 0x40 ∧ 0x300010 + c * 0x40 < 0x180000) := by omega
  have hP : ¬ (84 ≤ pkgBlock ∧ pkgBlock < 88 ∧ 0x20000 ≤ 0x300010 + c * 0x40 ∧ 0x300010 + c * 0x40 < 0x23000) := by omega
  have hpart : ¬ 0x300010 + c * 0x40 = 0x600018 := by omega
  have hstep : 0x300000 ≤ 0x300010 + c * 0x40 ∧ 0x300010 + c * 0x40 < 0x301000 ∧ (0x300010 + c * 0x40) % 0x40 = 0x10 := by omega
  have hc' : (0x300010 + c * 0x40 - 0x300000) / 0x40 = c := by omega
  simp only [State.hwSet, ctlAddr_block hoff, ctlAddr_offset hoff, not_ctlAddr_lt_ctlBase, if_neg hC, if_neg hP, hpart, hstep, hc',
    and_self, and_false, ↓reduceIte]

end

/-- While the package manager runs, its clear of a register is the write, and then the event of the bit that hardware sets in
the same cycle. -/
theorem exec_w1cClear_one {s : State} {addr : BitVec 48} {a : Nat} (hm : s.pkg.mgr.st = .running) (ha : addr.toNat = a) (v : W32)
    (i : Fin 32) : exec (.w1cClear none addr v [i]) s = .next ((s.writeReg a v 0xFFFFFFFF).hwSet a i.val) := by
  subst ha
  have hmay : s.mayWrite none addr.toNat = true := by simp [State.mayWrite, hm]
  show execW1cClear none addr v [i] s = _
  simp only [execW1cClear, hmay, ↓reduceIte, List.foldl_cons, List.foldl_nil]

end Sys2Proof.Machine
end

section
/-! A set wins over a clear in the same cycle (00 R15), register by register: the write reaches the register first and leaves its
counters alone, the event of hardware then sets the flag and counts. -/

namespace Sys2Proof.Machine

variable {s : State} {d k c : Nat} {i : Fin 32} {x : Ctx} (v : W32)

/-- `ACC_FLAGS` (04 R113). -/
theorem accFlags_set_wins (hm : s.pkg.mgr.st = .running) (hs : smSorted s.tiles = true) (hd : d < 64) (hk : k < 8) (hi : i.val < 3) :
    ∃ t, exec (.w1cClear none (BitVec.ofNat 48 (0xFF0000000000 + d * 2 ^ 24 + 0x100000 + k * 0x10000)) v [i]) s = .next t ∧
      (t.tileP (8 * d + k)).accFlags.getLsbD i.val = true ∧
      (i.val = 0 → (t.tileP (8 * d + k)).satCount = (s.tileP (8 * d + k)).satCount + 1) ∧
      (i.val = 1 → (t.tileP (8 * d + k)).nfCount = (s.tileP (8 * d + k)).nfCount + 1) ∧
      (i.val = 2 → (t.tileP (8 * d + k)).mrCount = (s.tileP (8 * d + k)).mrCount + 1) := by
  obtain ⟨hsort, htile⟩ := s.writeReg_accFlags v 0xFFFFFFFF hs hd hk
  refine ⟨_, exec_w1cClear_one hm (toNat_tileReg hd hk (o := 0) (by decide)) v i, ?_⟩
  rw [State.hwSet_accFlags _ hd hk hi, State.tileP_accFlag_one hsort, htile]
  exact ⟨getLsbD_setFlag_self _ hi, fun h => if_pos h, fun h => if_pos h, fun h => if_pos h⟩

/-- `VEC_FLAGS` (05 R149). -/
theorem vecFlags_set_wins (hm : s.pkg.mgr.st = .running) (hs : smSorted s.tiles = true) (hd : d < 64) (hk : k < 8) (hi : i.val < 2) :
    ∃ t, exec (.w1cClear none (BitVec.ofNat 48 (0xFF0000000000 + d * 2 ^ 24 + 0x100000 + k * 0x10000 + 0x40)) v [i]) s = .next t ∧
      (t.tileP (8 * d + k)).vecFlags.getLsbD i.val = true ∧
      (i.val = 0 → (t.tileP (8 * d + k)).invCount = (s.tileP (8 * d + k)).invCount + 1) ∧
      (i.val = 1 → (t.tileP (8 * d + k)).dzCount = (s.tileP (8 * d + k)).dzCount + 1) := by
  obtain ⟨hsort, htile⟩ := s.writeReg_vecFlags v 0xFFFFFFFF hs hd hk
  refine ⟨_, exec_w1cClear_one hm (toNat_tileReg hd hk (by decide)) v i, ?_⟩
  rw [State.hwSet_vecFlags _ hd hk hi, State.tileP_vecFlag_one hsort, htile]
  exact ⟨getLsbD_setFlag_self _ hi, fun h => if_pos h, fun h => if_pos h⟩

/-- The ports of the four P-dies are the module's 12 (09 R248). -/
theorem portOfP_lt (hd : d < 4) (hk : k < 3) : portOfP d k < 12 := by
  have hletter : ∀ p, p < 4 → [0, 2, 1, 3].getD p 0 < 4 := by decide
  have := hletter d hd
  unfold portOfP; omega

/-- `LINK_EVT` (09 R268). -/
theorem linkEvt_set_wins (hm : s.pkg.mgr.st = .running) (hports : s.ports.length = 12) (hd : d < 4) (hk : k < 3) (hi : i.val < 10)
    (hcount : i.val < (s.port (portOfP d k)).counts.length) :
    ∃ t, exec (.w1cClear none (BitVec.ofNat 48 (0xFF0000000000 + (84 + d) * 2 ^ 24 + 0x20000 + k * 0x1000 + 8)) v [i]) s = .next t ∧
      (t.port (portOfP d k)).evt.getLsbD i.val = true ∧
      (t.port (portOfP d k)).counts.getD i.val 0 = (s.port (portOfP d k)).counts.getD i.val 0 + 1 := by
  have hj : portOfP d k < s.ports.length := hports ▸ portOfP_lt hd hk
  obtain ⟨hlen, hport⟩ := s.writeReg_linkEvt v 0xFFFFFFFF hd hk hj
  refine ⟨_, exec_w1cClear_one hm (toNat_portReg hd hk (by decide)) v i, ?_⟩
  rw [State.hwSet_linkEvt _ hd hk hi, State.port_linkEvt (hlen ▸ hj), hport]
  exact ⟨getLsbD_setFlag_self _ hi, getD_modAt_self hcount _ _⟩

/-- `PART_EVT` (11 R348). -/
theorem partEvt_set_wins (hm : s.pkg.mgr.st = .running) (hi : i.val < 4) (hcount : i.val < s.part.counts.length) :
    ∃ t, exec (.w1cClear none 0xFF00FF600018#48 v [i]) s = .next t ∧ t.part.evt.getLsbD i.val = true ∧
      t.part.counts.getD i.val 0 = s.part.counts.getD i.val 0 + 1 := by
  refine ⟨_, exec_w1cClear_one (a := ctlAddr pkgBlock 0x600018) hm rfl v i, ?_⟩
  rw [State.hwSet_partEvt _ hi, State.part_partEvt, State.writeReg_partEvt]
  exact ⟨getLsbD_setFlag_self _ hi, getD_modAt_self hcount _ _⟩

/-- `HEALTH_LATE` of `STEP_STAT` (07 R197). -/
theorem stepStat_set_wins (hm : s.pkg.mgr.st = .running) (hc : c < 64) (hx : s.ctx? c = some x) :
    ∃ (t : State) (y : Ctx), exec (.w1cClear none (BitVec.ofNat 48 (0xFF00FF300010 + c * 0x40)) v [1]) s = .next t ∧ t.ctx? c = some y ∧
      y.healthLate = true ∧ y.healthLateCount = x.healthLateCount + 1 := by
  obtain ⟨b, hwrite⟩ := s.writeReg_stepStat v 0xFFFFFFFF hc hx
  refine ⟨_, { x with healthLate := true, healthLateCount := x.healthLateCount + 1 },
    exec_w1cClear_one hm (toNat_stepStat hc) v 1, ?_, rfl, rfl⟩
  exact (congrArg (State.ctx? · c) (State.hwSet_stepStat _ hc)).trans (by rw [State.ctx?_modCtx_self, hwrite, Option.map_some])

/-- Settles O59: register by register, the write leaves the counters alone and the event that follows sets the flag and counts. -/
theorem setWinsClear : Obligations.SetWinsClear :=
  ⟨fun _ d k _ v hm hs hi => accFlags_set_wins v hm hs d.isLt k.isLt hi,
    fun _ d k _ v hm hs hi => vecFlags_set_wins v hm hs d.isLt k.isLt hi,
    fun _ p k _ v hm hports hi hcount => linkEvt_set_wins v hm hports p.isLt k.isLt hi hcount,
    fun _ _ v hm hi hcount => partEvt_set_wins v hm hi hcount,
    fun _ c v _ hm hx => stepStat_set_wins v hm c.isLt hx⟩

end Sys2Proof.Machine
end

section
/-! Reads and writes of registers by those who may (00 R13 to R18; 14 R420, R421). -/

namespace Sys2Proof.Machine

/-! ### Debug sessions -/

section
variable {s : State} {n : Fin 64} {seq : W32} {x : Sess} {r : Req}

/-- A `REG_READ` of one word of 8 bytes gives the two 4-byte words of its address (12 R373). -/
theorem exec_regRead_one (h : s.atTurn n seq 0x0F02 x r) (hclean : r.clean [(0, 10)] = true) (hal : r.num 0 8 % 8 = 0)
    (hone : r.num 8 2 = 1) (hin : inControl (r.num 0 8) = true) (hdbg : s.sec.debug = some n.val) :
    exec (.regRead n seq) s = .next (s.answer n.val r (.done (s.use 2) .ok (pack 3456
      [(31, 0, ((s.reg32 (r.num 0 8)).getD (Config.freeBits 32 s.draw)).toNat),
        (63, 32, ((s.reg32 (r.num 0 8 + 4)).getD (Config.freeBits 32 (s.draw + 1))).toNat)]) 8)) := by
  show execRegRead n seq s = _
  have hrange : List.range 2 = [0, 1] := rfl
  rw [execRegRead, aidar_at_turn h]
  simp [h.pkg, hclean, hal, hone, hin, hdbg, hrange]

/-- A `REG_WRITE` writes the two 4-byte words of its address, each under its mask (12 R373). -/
theorem exec_regWrite (h : s.atTurn n seq 0x0F03 x r) (hal : r.num 0 8 % 8 = 0) (hin : inControl (r.num 0 8) = true)
    (hdbg : s.sec.debug = some n.val) :
    exec (.regWrite n seq) s = .next (s.answer n.val r (.ok
      ((s.writeReg (r.num 0 8) (BitVec.ofNat 32 (r.num 8 4)) (BitVec.ofNat 32 (r.num 16 4))).writeReg (r.num 0 8 + 4)
        (BitVec.ofNat 32 (r.num 12 4)) (BitVec.ofNat 32 (r.num 20 4))))) := by
  show execRegWrite n seq s = _
  rw [execRegWrite, aidar_at_turn h]
  simp [h.pkg, hal, hin, hdbg]

end

/-! ### The agents' own writes -/

section
variable {s : State}

/-- An agent that may write a register writes it whole. -/
theorem exec_registerWrite {agent : Option (Fin 480)} {a : BitVec 48} (h : s.mayWrite agent a.toNat = true) (v : W32) :
    exec (.registerWrite agent a v) s = .next (s.writeReg a.toNat v 0xFFFFFFFF) := by
  show execRegisterWrite agent a v s = _
  rw [execRegisterWrite, if_pos h]

/-- So does its clear of flags, when hardware sets none in the same cycle. -/
theorem exec_w1cClear_nil {agent : Option (Fin 480)} {a : BitVec 48} (h : s.mayWrite agent a.toNat = true) (v : W32) :
    exec (.w1cClear agent a v []) s = .next (s.writeReg a.toNat v 0xFFFFFFFF) := by
  show execW1cClear agent a v [] s = _
  rw [execW1cClear, if_pos h, List.foldl_nil]

/-- The mask that a whole write uses. -/
theorem wholeMask_eq_allOnes : (0xFFFFFFFF : W32) = BitVec.allOnes 32 := rfl

/-- A field written whole holds the value's low bits. -/
theorem masked_whole {w : Nat} (hw : w ≤ 32) (old : BitVec w) (v : W32) : masked old v 0xFFFFFFFF = v.setWidth w := by
  have hones : (BitVec.allOnes 32).setWidth w = BitVec.allOnes w := by
    ext i hi
    rw [BitVec.getElem_setWidth, BitVec.getLsbD_allOnes, BitVec.getElem_allOnes, decide_eq_true (Nat.lt_of_lt_of_le hi hw)]
  rw [masked, wholeMask_eq_allOnes, hones, BitVec.not_allOnes, BitVec.and_zero, BitVec.zero_or, BitVec.and_allOnes]

/-- Flags written whole lose the bits that are written as 1. -/
theorem cleared_whole {w : Nat} (old : BitVec w) (v : W32) : cleared old v 0xFFFFFFFF = old &&& ~~~(v.setWidth w) := by
  rw [cleared, wholeMask_eq_allOnes, BitVec.and_allOnes]

end

/-! ### Flags that a write clears while an instant is due (00 R18; 16 R465) -/

section
variable {s : State}

/-- Past the tiles' registers and off the places of `STEP_STAT`, the only flags of the package block are those of `PART_EVT`. -/
theorem State.w1cRegs_pkg {off : Nat} (hlo : 0x180000 ≤ off) (hhi : off < 2 ^ 24) (hstep : off % 0x40 ≠ 0x10) {w : W32}
    (h : (ctlAddr pkgBlock off, w) ∈ s.w1cRegs) : off = 0x600018 ∧ w = s.part.evt.setWidth 32 := by
  simp only [State.w1cRegs, List.mem_filter, List.mem_append, List.mem_flatMap, List.mem_map, List.mem_cons, List.not_mem_nil,
    List.mem_range, Prod.mk.injEq, or_false, ctlAddr, pkgBlock, tileBase] at h
  obtain ⟨((⟨e, -, he⟩ | ⟨j, hj, he, -⟩) | ⟨he, hw⟩) | ⟨e, -, he, -⟩, -⟩ := h
  case inl.inl.inl => omega
  case inl.inl.inr => omega
  case inl.inr => exact ⟨by omega, hw⟩
  case inr => omega

/-- The flags that a clear of `PART_EVT` finds. -/
theorem State.w1cRegs_partEvt :
    ((s.w1cRegs.find? (fun e => e.1 == ctlAddr pkgBlock 0x600018)).map (·.2)).getD 0 = s.part.evt.setWidth 32 := by
  cases hf : s.w1cRegs.find? (fun e => e.1 == ctlAddr pkgBlock 0x600018) with
  | some e =>
    obtain ⟨a, w⟩ := e
    have ha : a = ctlAddr pkgBlock 0x600018 := by simpa using List.find?_some hf
    subst ha
    exact (State.w1cRegs_pkg (by decide) (by decide) (by decide) (List.mem_of_find?_eq_some hf)).2
  | none =>
    refine Decidable.byContradiction fun hne => ?_
    have hmem : (ctlAddr pkgBlock 0x600018, s.part.evt.setWidth 32) ∈ s.w1cRegs := by
      simp only [State.w1cRegs, List.mem_filter, List.mem_append, List.mem_singleton]
      exact ⟨.inl (.inr rfl), by simpa using Ne.symm hne⟩
    simpa using List.find?_eq_none.mp hf _ hmem

/-- What a write to `PART_EVT` keeps, when it keeps anything: the flags that it clears. -/
theorem State.noteCleared_partEvt {v m : W32} (h : s.noteCleared (ctlAddr pkgBlock 0x600018) v m ≠ s) :
    s.noteCleared (ctlAddr pkgBlock 0x600018) v m =
      { s with telem := { s.telem with
        cleared := s.telem.cleared ++ [(ctlAddr pkgBlock 0x600018, s.part.evt.setWidth 32 &&& v &&& m)] } } := by
  simp only [State.noteCleared, State.w1cRegs_partEvt] at h ⊢
  split at h
  · next hkeep => rw [if_pos hkeep]
  · exact absurd rfl h

/-- With no instant due, a write keeps none of the flags that it clears. -/
theorem State.noteCleared_not_due (h : s.instantDue = false) (a : Nat) (v m : W32) : s.noteCleared a v m = s := by
  simp [State.noteCleared, h]

/-- `PART_EVT_EN` is not a register of flags: a write keeps nothing of it. -/
theorem State.noteCleared_partEvtEn (v m : W32) : s.noteCleared (ctlAddr pkgBlock 0x60001C) v m = s := by
  have hnone : s.w1cRegs.find? (fun e => e.1 == ctlAddr pkgBlock 0x60001C) = none := by
    rw [List.find?_eq_none]
    rintro ⟨a, w⟩ hmem heq
    have ha : a = ctlAddr pkgBlock 0x60001C := by simpa using heq
    subst ha
    exact absurd (State.w1cRegs_pkg (by decide) (by decide) (by decide) hmem).1 (by decide)
  simp [State.noteCleared, hnone]

/-- A write to `PART_EVT_EN` (11 R348). -/
theorem State.writeReg_partEvtEn (v m : W32) :
    s.writeReg (ctlAddr pkgBlock 0x60001C) v m = { s with part := { s.part with evtEn := masked s.part.evtEn v m } } := by
  rw [s.writeReg_pkg v m (by decide), State.noteCleared_partEvtEn]
  rfl

end

/-- Settles O25: each command is reduced to its write, and the write to what it does to its register. -/
theorem registerCommandsComplete : Obligations.RegisterCommandsComplete := by
  refine ⟨fun s n seq x r h => exec_regRead_one h, fun s n seq x r h => exec_regWrite h,
    fun s agent a v h => exec_registerWrite h v, fun s v hmay hdue => ?_, fun s v hmay => ?_, fun s v hmay _ hkept => ?_⟩
  · have hwrite := s.writeReg_partEvt v 0xFFFFFFFF
    rw [State.noteCleared_not_due hdue, cleared_whole] at hwrite
    exact (exec_w1cClear_nil hmay v).trans (congrArg _ hwrite)
  · have hwrite := s.writeReg_partEvtEn v 0xFFFFFFFF
    rw [masked_whole (by decide)] at hwrite
    exact (exec_registerWrite hmay v).trans (congrArg _ hwrite)
  · have hwrite := s.writeReg_partEvt v 0xFFFFFFFF
    rw [State.noteCleared_partEvt hkept, cleared_whole] at hwrite
    refine ⟨_, _, (exec_w1cClear_nil hmay v).trans (congrArg _ hwrite), rfl, ?_, rfl⟩
    exact BitVec.and_allOnes

end Sys2Proof.Machine
end

section
/-! What every command keeps: the commands that take more than one of the shared operations of Laws/Operations.lean, family by
family.  A command that answers in one way only stands in `exec_keeps` below. -/

namespace Sys2Proof.Machine

open State

variable {P : Prop} {s0 s : State}

/-! ### Branches and updates -/

/-- A choice between two states that keep. -/
theorem Keeps.ite {c : Prop} [Decidable c] {t u : State} (ht : Keeps P s0 t) (hu : Keeps P s0 u) : Keeps P s0 (if c then t else u) := by
  split
  · exact ht
  · exact hu

/-- A choice between two answers that keep. -/
theorem KeepsAns.ite {c : Prop} [Decidable c] {a b : Ans} (ha : KeepsAns P s0 a) (hb : KeepsAns P s0 b) : KeepsAns P s0 (if c then a else b) := by
  split
  · exact ha
  · exact hb

/-- A choice between two outcomes that keep. -/
theorem KeepsOut.ite {c : Prop} [Decidable c] {a b : CmdOut} (ha : KeepsOut P s0 a) (hb : KeepsOut P s0 b) : KeepsOut P s0 (if c then a else b) := by
  split
  · exact ha
  · exact hb

/-- An update of fields other than the queue, the tiles, the tiers, the devices, the ports and tide. -/
theorem Keeps.update (hk : Keeps P s0 s) {d o pk di cx ha op no sg xl mr uc tp rs ro sd pa qp se tk sc pw tl bb} :
    Keeps P s0 (State.mk s.pending d o pk di s.tiles cx ha op no sg xl mr uc s.tier tp s.devices s.ports rs ro sd pa s.eth qp se tk sc pw
      s.time tl bb) :=
  KeepsMk.intro hk id id id id id (fun _ => rfl) (fun _ => rfl)

/-- An update of the time registers that leaves tide and its rate alone, and of the fields of `Keeps.update`. -/
theorem Keeps.updateTime (hk : Keeps P s0 s) {d o pk di cx ha op no sg xl mr uc tp rs ro sd pa qp se tk sc pw tm tl bb}
    (hn : Time.ns tm = s.time.ns) (hf : Time.frac tm = s.time.frac) (hr : Time.rate tm = s.time.rate) :
    Keeps P s0 (State.mk s.pending d o pk di s.tiles cx ha op no sg xl mr uc s.tier tp s.devices s.ports rs ro sd pa s.eth qp se tk sc pw
      tm tl bb) :=
  KeepsMk.intro hk id id id id id (fun _ => by rw [hn, hf]; rfl) (fun _ => hr)

/-- An update of the torus ports that keeps their number, and of the fields of `Keeps.update`. -/
theorem Keeps.updatePorts (hk : Keeps P s0 s) {d o pk di cx ha op no sg xl mr uc tp po rs ro sd pa qp se tk sc pw tl bb}
    (hp : List.length po = s.ports.length) :
    Keeps P s0 (State.mk s.pending d o pk di s.tiles cx ha op no sg xl mr uc s.tier tp s.devices po rs ro sd pa s.eth qp se tk sc pw
      s.time tl bb) :=
  KeepsMk.intro hk id id hp.trans id id (fun _ => rfl) (fun _ => rfl)

section
variable (hk : Keeps P s0 s)
include hk

/-! ### Completion, memory and the baseboard (06, 08, 18) -/

section
variable {n : Fin 64} {seq : W32} {d : Fin 60} {l k : Nat}

theorem execCommandComplete_keeps : KeepsAns P s0 (execCommandComplete n seq s) := by
  unfold execCommandComplete
  (repeat' split) <;> first | exact hk | exact finishReq_keeps hk

theorem execScrub_keeps {e : EccOutcome} : KeepsAns P s0 (execScrub d e s) := by
  unfold execScrub
  extract_lets +onlyGivenNames d' at_
  refine .ite hk ?_
  split
  · exact settle_keeps (checkLine_keeps (modDev_keeps hk))
  · exact Keeps.ite (modDev_keeps hk) (settle_keeps (countCheck_keeps (modDev_keeps hk)))

theorem execLcInterval_keeps : KeepsAns P s0 (execLcInterval s) :=
  KeepsMk.intro hk id id id (fun h => (List.length_map _).trans h) id (fun _ => rfl) (fun _ => rfl)

theorem execAutoLineSpare_keeps {a : AutoSpare} : KeepsAns P s0 (execAutoLineSpare d a s) := by
  unfold execAutoLineSpare
  refine .ite hk ?_
  split
  · exact .ite (event_keeps (modDev_keeps hk)) hk
  · exact .ite (softRepair_keeps hk) hk

theorem execI3cPrivateWrite_keeps {a : BitVec 7} {bs : List (BitVec 8)} : KeepsAns P s0 (execI3cPrivateWrite a bs s) := by
  unfold execI3cPrivateWrite
  refine .ite hk ?_
  split
  · exact hk
  · exact modBb_keeps hk
  · exact emit_keeps hk

/-! ### Synchronisation (06) -/

theorem execSyncWait_keeps {h : HeadRef} : KeepsAns P s0 (execSyncWait h s) := by
  unfold execSyncWait
  split
  · exact .ite hk (requestWait_keeps hk)
  · exact hk

theorem execWaitRetry_keeps {h : HeadRef} : KeepsAns P s0 (execWaitRetry h s) := by
  unfold execWaitRetry
  split
  · exact .ite (requestWait_keeps hk) hk
  · exact hk

theorem execSyncSignal_keeps : KeepsAns P s0 (execSyncSignal k s) := by
  unfold execSyncSignal
  split
  · exact .ite hk (deliverSignal_keeps (.update hk))
  · exact hk

theorem execXlateReadDone_keeps : KeepsAns P s0 (execXlateReadDone k s) := by
  unfold execXlateReadDone
  split
  · next x _ =>
    extract_lets +onlyGivenNames held home t u
    have hu : Keeps P s0 u := by
      unfold u
      split
      · exact lcRead_keeps (.update hk)
      · exact .update hk
    exact .ite hk (settle_keeps (xlateDone_keeps hu))
  · exact hk

theorem execUcWfiWake_keeps {l : Fin 480} : KeepsAns P s0 (execUcWfiWake l s) :=
  modUc_keeps hk fun u h => by split <;> exact h

/-! ### Collectives (10) -/

theorem execCollHopAdd_keeps : KeepsAns P s0 (execCollHopAdd l k s) := by
  unfold execCollHopAdd
  split
  · exact .ite (settle_keeps (hopAdd_keeps hk)) hk
  · exact hk

theorem execCollDrained_keeps {h : W32} : KeepsAns P s0 (execCollDrained h s) := by
  unfold execCollDrained
  split
  · exact dropStale_keeps hk
  · exact .ite (dropStale_keeps hk) (Keeps.foldl (modCtx_keeps (dropStale_keeps hk)) fun _ _ h => tellRank_keeps h)

theorem execEpochAdvance_keeps {h : W32} : KeepsAns P s0 (execEpochAdvance h s) := by
  unfold execEpochAdvance
  split
  · exact dropStale_keeps hk
  · extract_lets +onlyGivenNames mine ranks t u all
    have hu : Keeps P s0 u := modCtx_keeps (dropStale_keeps (.update hk))
    exact .ite (settle_keeps (startColl_keeps (modCtx_keeps hu))) hu

theorem execCollAborted_keeps : KeepsAns P s0 (execCollAborted k s) :=
  settle_keeps (serveColl_keeps hk fun t o p ht => by
    extract_lets +onlyGivenNames st cause u v
    have hv : Keeps P s0 v := failOp_keeps (modOp_keeps (emptySlots_keeps (sendAbort_keeps ht)))
    exact Keeps.ite (.update hv) hv)

theorem execCollectiveComplete_keeps : KeepsAns P s0 (execCollectiveComplete k s) := by
  unfold execCollectiveComplete
  split
  · exact hk
  · extract_lets +onlyGivenNames d
    split
    · exact hk
    · exact .ite hk (completeHere_keeps (noteScatter_keeps (.ite (holdAgreed_keeps hk) hk)))

theorem execVerdictSet_keeps : KeepsAns P s0 (execVerdictSet k s) := by
  unfold execVerdictSet
  split
  · exact hk
  · extract_lets +onlyGivenNames d
    split
    · exact hk
    · exact .ite hk (completeHere_keeps (modCtx_keeps hk))

theorem execStepClose_keeps : KeepsAns P s0 (execStepClose k s) := by
  unfold execStepClose
  split
  · exact hk
  · extract_lets +onlyGivenNames d
    split
    · exact hk
    · exact .ite hk (modCtx_keeps (completeOp_keeps hk))

theorem execCloseFlip_keeps : KeepsAns P s0 (execCloseFlip n s) := by
  unfold execCloseFlip
  extract_lets +onlyGivenNames c
  split
  · exact hk
  · split
    · exact hk
    · refine .ite hk ?_
      extract_lets +onlyGivenNames t u v w
      have hu : Keeps P s0 u := modCtx_keeps (pushMaxima_keeps (modCtx_keeps hk))
      have hv : Keeps P s0 v := by
        unfold v
        split
        · exact .update hu
        · exact hu
      exact closeSeenBy_keeps (modCtx_keeps hv)

/-! ### Copies (08, 09) -/

theorem execCopyWr_keeps : KeepsAns P s0 (execCopyWr k s) := by
  unfold execCopyWr
  split
  · exact hk
  · refine .ite hk ?_
    extract_lets +onlyGivenNames m a len t
    have ht : Keeps P s0 t := .update hk
    split
    · exact copyAck_keeps ht
    · refine .ite hk ?_
      extract_lets +onlyGivenNames u v
      have hu : Keeps P s0 u := writeAt_keeps ht
      exact copyAck_keeps (.ite (poisonWrite_keeps hu) hu)

theorem execCopyWrAck_keeps : KeepsAns P s0 (execCopyWrAck k s) := by
  unfold execCopyWrAck
  split
  · exact hk
  · refine .ite hk ?_
    extract_lets +onlyGivenNames t tag
    have ht : Keeps P s0 t := .update hk
    split
    · exact ht
    · exact .ite (settle_keeps (askAll_keeps (failOp_keeps ht))) (pieceDone_keeps (modOp_keeps ht))

theorem execCopyRdReq_keeps : KeepsAns P s0 (execCopyRdReq k s) := by
  unfold execCopyRdReq
  split
  · exact hk
  · refine .ite hk ?_
    extract_lets +onlyGivenNames b a len wire tag t
    have ht : Keeps P s0 t := .update hk
    split
    · exact copyAck_keeps ht
    · exact .ite hk (sendData_keeps (noteRead_keeps ht))

theorem execCopyRdRsp_keeps : KeepsAns P s0 (execCopyRdRsp k s) := by
  unfold execCopyRdRsp
  split
  · exact hk
  · refine .ite hk ?_
    extract_lets +onlyGivenNames m tag bad t
    have ht : Keeps P s0 t := .update hk
    split
    · exact ht
    · extract_lets +onlyGivenNames d u
      have hu : Keeps P s0 u := modOp_keeps ht
      refine .ite (.ite hk (pieceDone_keeps (rillPut_keeps hu))) ?_
      split
      · exact ht
      · exact .ite hk (pieceDone_keeps (chunkPut_keeps hu))

theorem execRillQueueFree_keeps {q : Fin 20} : KeepsAns P s0 (execRillQueueFree q s) := by
  unfold execRillQueueFree
  split
  · exact rillAdmit_keeps hk
  · split
    · exact rillAdmit_keeps (modDev_keeps hk)
    · exact .ite hk (rillAdmit_keeps (rillServe_keeps (modDev_keeps hk)))

/-! ### Contexts and channels (06, 12) -/

theorem execCtxCreate_keeps : KeepsAns P s0 (execCtxCreate n seq s) :=
  aidar_keeps hk fun _ _ => .checked (by
    split
    · exact .update hk
    · trivial)

theorem execCtxBind_keeps : KeepsAns P s0 (execCtxBind n seq s) :=
  aidar_keeps hk fun _ _ => .checked (.ite (noteRead_keeps hk) (.checked (by
    split
    · exact bindCtx_keeps hk
    · trivial)))

theorem execCtxQuiesceDone_keeps : KeepsAns P s0 (execCtxQuiesceDone n s) := by
  unfold execCtxQuiesceDone
  extract_lets +onlyGivenNames c
  split
  · exact hk
  · refine .ite hk ?_
    extract_lets +onlyGivenNames t u
    have ht : Keeps P s0 t := modCtx_keeps (haltCores_keeps (stopChans_keeps hk))
    exact syncActive_keeps (resolve_keeps (.ite (rewind_keeps ht) ht))

theorem execCtxClearComplete_keeps : KeepsAns P s0 (execCtxClearComplete n s) := by
  unfold execCtxClearComplete
  split
  · exact hk
  · exact .ite hk (Keeps.update (event_keeps hk))

theorem execWindowZeroFillDone_keeps {h : W32} : KeepsAns P s0 (execWindowZeroFillDone h s) := by
  unfold execWindowZeroFillDone
  split
  · next w _ =>
    refine .ite hk ?_
    extract_lets +onlyGivenNames t u
    have ht : Keeps P s0 t := KeepsMk.intro hk id (fun m => memWf_memClear m _ _) id id id (fun _ => rfl) (fun _ => rfl)
    exact resolve_keeps (modObj_keeps ht)
  · exact hk

theorem execChanCreate_keeps : KeepsAns P s0 (execChanCreate n seq s) :=
  aidar_keeps hk fun _ _ => by
    split
    · exact createRing_keeps hk
    · exact createRing_keeps hk
    · exact createRing_keeps hk
    · exact createWindow_keeps hk
    · exact createSync_keeps hk
    · exact .checked trivial

theorem execChanStart_keeps : KeepsAns P s0 (execChanStart n seq s) :=
  runReq_keeps hk fun _ _ => .checked (by
    split
    · exact startChan_keeps hk
    · trivial)

theorem execChanStopDone_keeps {h : W32} : KeepsAns P s0 (execChanStopDone h s) := by
  unfold execChanStopDone
  split
  · exact hk
  · exact .ite hk (resolve_keeps (modChan_keeps hk))

theorem execChanQuery_keeps : KeepsAns P s0 (execChanQuery n seq s) :=
  aidar_keeps hk fun _ _ => .checked (by
    split
    · exact hk
    · trivial)

theorem execProducerWrite_keeps {h v : W32} : KeepsAns P s0 (execProducerWrite h v s) := by
  unfold execProducerWrite
  split
  · exact hk
  · exact .ite hk (store_keeps hk)

theorem execCplConsumerWrite_keeps {h v : W32} : KeepsAns P s0 (execCplConsumerWrite h v s) := by
  unfold execCplConsumerWrite
  split
  · exact hk
  · refine .ite hk ?_
    extract_lets +onlyGivenNames t
    have ht : Keeps P s0 t := store_keeps hk
    split
    · exact .ite (settle_keeps (readControl_keeps ht)) ht
    · exact ht

theorem execDescriptorFetch_keeps {h : W32} : KeepsAns P s0 (execDescriptorFetch h s) := by
  unfold execDescriptorFetch
  split
  · exact hk
  · refine .ite hk ?_
    extract_lets +onlyGivenNames t u
    have ht : Keeps P s0 t := .ite (modTileL_keeps hk fun _ m => m) hk
    exact settle_keeps (fetchLoop_keeps 8 (.ite (readControl_keeps ht) (checkOverrun_keeps ht)))

end

/-! ### Operations on a tile and the millrace (03, 04) -/

section
variable {k : Nat}

theorem execDrainRow_keeps : KeepsAns P s0 (execDrainRow k s) := by
  unfold execDrainRow
  split
  · exact hk
  · extract_lets +onlyGivenNames d
    split
    · exact hk
    · refine .ite hk ?_
      extract_lets +onlyGivenNames p t w am u v
      have hu : Keeps P s0 u := modTileP_keeps hk fun t m => by
        have hw := Tile.writeBits_memOk m w.segs
        dsimp only
        split
        · exact Tile.raiseAmax_memOk hw _ _
        · exact hw
      exact modOp_keeps (opEvents_keeps hu)

theorem execOperationComplete_keeps : KeepsAns P s0 (execOperationComplete k s) := by
  unfold execOperationComplete
  split
  · exact hk
  · exact .ite (settle_keeps (completeHere_keeps hk)) hk

theorem execMrGrant_keeps : KeepsAns P s0 (execMrGrant k s) := by
  unfold execMrGrant
  split
  · refine .ite hk (.ite (mrDrop_keeps (.update hk)) ?_)
    split
    · exact modOp_keeps (.update hk)
    · exact hk
  · exact hk

theorem execMillraceSend_keeps : KeepsAns P s0 (execMillraceSend k s) := by
  unfold execMillraceSend
  split
  · exact hk
  · extract_lets +onlyGivenNames d
    split
    · exact hk
    · exact .ite hk (sendMr_keeps (modOp_keeps hk))

theorem execMrRow_keeps : KeepsAns P s0 (execMrRow k s) := by
  unfold execMrRow
  split
  · next m _ =>
    split
    · refine .ite hk ?_
      extract_lets +onlyGivenNames t
      have ht : Keeps P s0 t := .update hk
      refine .ite (mrDrop_keeps ht) ?_
      split
      · exact mrDrop_keeps ht
      · extract_lets +onlyGivenNames d
        refine .ite (mrDrop_keeps ht) ?_
        extract_lets +onlyGivenNames u all v
        have hu : Keeps P s0 u := modOp_keeps (modTileL_keeps ht fun _ m => m)
        exact mrReply_keeps (.ite (countHandoff_keeps hu) hu)
    · exact hk
  · exact hk

theorem execMrAck_keeps : KeepsAns P s0 (execMrAck k s) := by
  unfold execMrAck
  split
  · next m _ =>
    refine .ite hk ?_
    extract_lets +onlyGivenNames t
    have ht : Keeps P s0 t := .update hk
    split
    · split
      · exact ht
      · exact Keeps.ite (countHandoff_keeps (modOp_keeps ht)) (modOp_keeps ht)
    · extract_lets +onlyGivenNames u
      have hu : Keeps P s0 u := accFlag_keeps ht
      split
      · exact failOp_keeps hu
      · exact hu
    · exact hk
  · exact hk

end

/-! ### Torus links and packets (09, 11) -/

section
variable {j : Fin 12} {vc : Fin 6}

theorem execFrameRx_keeps {b : BitVec 8192} {e : BitVec 256} : KeepsAns P s0 (execFrameRx j b e s) := by
  unfold execFrameRx
  extract_lets +onlyGivenNames j' p flits nak
  have hnak : ∀ t, Keeps P s0 t → Keeps P s0 (nak t) := fun t h => sendEmpty_keeps (modPort_keeps h)
  refine .ite hk (.ite (settle_keeps (hnak _ (lanesScore_keeps hk))) (.ite ?_ (.ite (hnak _ hk) ?_)))
  · extract_lets +onlyGivenNames t
    have ht : Keeps P s0 t := pump_keeps (dueIdent_keeps (takeTrailer_keeps hk))
    exact settle_keeps (.ite ht (hnak _ ht))
  · exact settle_keeps (sendEmpty_keeps (pump_keeps (takeFlits_keeps (dueIdent_keeps (modPort_keeps (takeTrailer_keeps hk))))))

theorem execTrainingAttemptEnd_keeps {ns : Option (BitVec 16)} {b : BitVec 9} : KeepsAns P s0 (execTrainingAttemptEnd j ns b s) := by
  unfold execTrainingAttemptEnd
  extract_lets +onlyGivenNames j'
  refine .ite hk ?_
  split
  · extract_lets +onlyGivenNames use
    refine .ite (linkEvt_keeps (modPort_keeps hk)) ?_
    extract_lets +onlyGivenNames t u
    have ht : Keeps P s0 t := modPort_keeps hk
    exact settle_keeps (sendIdent_keeps (.ite (Keeps.foldl (modPort_keeps ht) fun _ _ h => repairedHealth_keeps h) ht))
  · exact linkEvt_keeps (modPort_keeps hk)

theorem execIdent_keeps : KeepsAns P s0 (execIdent j s) := by
  unfold execIdent
  extract_lets +onlyGivenNames j'
  split
  · exact hk
  · next p t e => exact identify_keeps (modPort_keeps (takeIn_keeps hk e))

theorem execRetrainRealigned_keeps : KeepsAns P s0 (execRetrainRealigned j s) := by
  unfold execRetrainRealigned
  extract_lets +onlyGivenNames j'
  refine .ite ?_ hk
  extract_lets +onlyGivenNames t
  have ht : Keeps P s0 t := modPort_keeps hk
  exact Keeps.ite (sendEmpty_keeps (modPort_keeps ht)) (sendIdent_keeps ht)

theorem execLinkCtrl_keeps : KeepsAns P s0 (execLinkCtrl j s) := by
  unfold execLinkCtrl
  extract_lets +onlyGivenNames k' j'
  split
  · exact hk
  · next p t e =>
    have ht := takeIn_keeps hk e
    exact .ite ht (settle_keeps (failOver_keeps ht))

theorem execNeighbourLost_keeps {d : Fin 6} : KeepsAns P s0 (execNeighbourLost d s) := by
  unfold execNeighbourLost
  extract_lets +onlyGivenNames a
  refine .ite hk ?_
  extract_lets +onlyGivenNames drop t u v
  have hdrop : ∀ t i, Keeps P s0 t → Keeps P s0 (drop t i) := fun t i h => Keeps.foldl (modPort_keeps h) fun _ _ h => dropAt_keeps h
  have ht : Keeps P s0 t := hdrop _ _ (hdrop _ _ hk)
  exact settle_keeps (partEvt_keeps (.update (.ite (failWhere_keeps ht) ht)))

theorem execMulticast_keeps : KeepsAns P s0 (execMulticast j vc s) := by
  unfold execMulticast
  extract_lets +onlyGivenNames j'
  refine .ite hk ?_
  split
  · exact hk
  · next p t e =>
    have ht := headIn_keeps hk e
    extract_lets +onlyGivenNames a own here
    have hhere : ∀ u, Keeps P s0 u → Keeps P s0 (here u) := fun u h => .ite (deliver_keeps h) h
    refine .ite hk ?_
    split
    · exact hhere _ ht
    · exact .ite (hhere _ (dropAt_keeps ht)) (.ite (hhere _ (goOn_keeps hk ht)) hk)

theorem execPacketOpen_keeps {k : Nat} : KeepsAns P s0 (execPacketOpen k s) := by
  unfold execPacketOpen
  split
  · exact hk
  · extract_lets +onlyGivenNames t g
    have ht : Keeps P s0 t := .update hk
    split
    · exact opened_keeps ht
    · exact Keeps.update ht

theorem execTransitGrant_keeps {n : Fin 64} {seq : W32} : KeepsAns P s0 (execTransitGrant n seq s) :=
  aidar_keeps hk fun _ _ => .checked (by
    split
    · next h t e => exact Keeps.update (newHandle_keeps hk e)
    · trivial)

theorem execLinkExpect_keeps {n : Fin 64} {seq : W32} : KeepsAns P s0 (execLinkExpect n seq s) :=
  aidar_keeps hk fun _ _ => .checked (settle_keeps (Keeps.foldl (.ite hk (.update hk)) fun _ _ h => linkAction_keeps h))

theorem execFlowGaugeWindow_keeps {w : FlowWindow} : KeepsAns P s0 (execFlowGaugeWindow w s) := by
  unfold execFlowGaugeWindow
  extract_lets +onlyGivenNames t u v w'
  have hu : Keeps P s0 u := Keeps.foldl (Keeps.foldl hk fun _ _ h => modFlow_keeps h) fun _ _ h => formAll_keeps h
  have hv : Keeps P s0 v := by
    unfold v
    split
    · exact setFlowWindow_keeps hu
    · exact hu
  exact Keeps.updatePorts hv (List.length_map _)

end

/-! ### Managers, boot and firmware (13) -/

section
variable {n : Fin 64} {seq : W32} {d : Fin 88} {c : Fin 6}

theorem execMgrRestarted_keeps : KeepsAns P s0 (execMgrRestarted d s) := by
  unfold execMgrRestarted
  extract_lets +onlyGivenNames n m
  refine .ite hk ?_
  split
  · refine .ite ?_ hk
    extract_lets +onlyGivenNames t
    have ht : Keeps P s0 t := event_keeps (modMgr_keeps (runSlot_keeps hk))
    exact Keeps.ite ht (reports_keeps ht)
  · split
    · next t e => exact event_keeps (startMgr_keeps hk t e)
    · exact bothFail_keeps hk

theorem execFwActivate_keeps : KeepsAns P s0 (execFwActivate n seq s) :=
  aidar_keeps hk fun _ _ => .checked (by
    extract_lets +onlyGivenNames t
    have ht : Keeps P s0 t := modFw_keeps hk
    exact .ite (modFw_keeps ht) (.ite (endActivation_keeps ht) (startWave_keeps ht)))

theorem execActivationWave_keeps : KeepsAns P s0 (execActivationWave c s) := by
  unfold execActivationWave
  extract_lets +onlyGivenNames k c'
  refine .ite hk ?_
  extract_lets +onlyGivenNames t
  have ht : Keeps P s0 t := modFw_keeps (Keeps.foldl hk fun _ _ h => reports_keeps h)
  exact .ite (endActivation_keeps ht) (.ite (modFw_keeps ht) (startWave_keeps ht))

theorem execFwActivationExpired_keeps : KeepsAns P s0 (execFwActivationExpired c s) := by
  unfold execFwActivationExpired
  extract_lets +onlyGivenNames k c'
  refine .ite hk ?_
  extract_lets +onlyGivenNames t
  have ht : Keeps P s0 t := event_keeps (modFw_keeps hk)
  exact .ite (endActivation_keeps ht) ht

theorem execFwRolledBack_keeps : KeepsAns P s0 (execFwRolledBack d s) := by
  unfold execFwRolledBack
  extract_lets +onlyGivenNames n m k
  split
  · exact hk
  · refine .ite hk ?_
    extract_lets +onlyGivenNames t u v
    have ht : Keeps P s0 t := by
      unfold t
      split
      · exact bothFail_keeps hk
      · next u e =>
        have hu := startOn_keeps hk u e
        exact .ite (event_keeps (recordSlot_keeps hu)) (recordSlot_keeps hu)
    have hu : Keeps P s0 u := event_keeps ht
    exact .ite hu (.ite (endActivation_keeps (modFw_keeps hu)) (modFw_keeps hu))

theorem execPkgManagerRestart_keeps : KeepsAns P s0 (execPkgManagerRestart s) := by
  unfold execPkgManagerRestart
  extract_lets +onlyGivenNames old new started
  have hstarted : KeepsOpt P s0 started := by
    unfold started
    have hmap : ∀ f : State → State, (∀ t, Keeps P s0 t → Keeps P s0 (f t)) → KeepsOpt P s0 ((s.startMgr 88).map f) := fun f hf t e => by
      obtain ⟨u, hu, rfl⟩ := Option.map_eq_some_iff.mp e
      exact hf u (startMgr_keeps hk u hu)
    split
    · exact hmap _ fun _ h => event_keeps h
    · split
      · exact .some (promote_keeps (cancelWaves_keeps (recordSlot_keeps (runSlot_keeps hk))))
      · exact hmap _ fun _ h => cancelWaves_keeps h
    · exact .none
  clear_value started
  cases started with
  | none => exact hk
  | some t => exact greetAgain_keeps (abandonRequests_keeps (issueAlias_keeps (hstarted t rfl)))

theorem execModResetAssert_keeps {b : Bool} : KeepsAns P s0 (execModResetAssert b s) := by
  unfold execModResetAssert
  extract_lets +onlyGivenNames pw t
  have ht : Keeps P s0 t := .ite (.update hk) (modPkg_keeps hk)
  exact .ite (toStandby_keeps ht) ht

/-- A cold restart begins a new tide. -/
theorem execColdRestart_keeps {how : ColdStart} (hP : ¬P) : KeepsAns P s0 (execColdRestart how s) := by
  unfold execColdRestart
  refine .ite hk (.ite (modPkg_keeps hk) ?_)
  extract_lets +onlyGivenNames t u
  have ht : Keeps P s0 t := takeOwner_keeps (unseal_keeps hk)
  exact bbNotify_keeps (KeepsMk.intro ht id id id id id (absurd · hP) (absurd · hP))

theorem execBootStepEnd_keeps {f : BootFacts} : KeepsAns P s0 (execBootStepEnd f s) := by
  unfold execBootStepEnd
  refine .ite hk ?_
  extract_lets +onlyGivenNames k t
  have ht : Keeps P s0 t := noteAltered_keeps hk
  refine .ite (bbNotify_keeps (bootStep1_keeps ht)) (.ite hk ?_)
  extract_lets +onlyGivenNames u
  have hu : Keeps P s0 u := settle_keeps (modPkg_keeps (bootWork_keeps ht))
  exact .ite hu (bbNotify_keeps (modPkg_keeps hu))

theorem execFwStage_keeps {bs : List (BitVec 8)} {b e : Bool} : KeepsAns P s0 (execFwStage n seq bs b e s) :=
  runThen_keeps (stageRead_keeps hk) (fun _ _ => stageOut_keeps (stageRead_keeps hk)) (fun _ _ h => staged_keeps h)

end

/-! ### Power and parking (15) -/

section
variable {l : Fin 480} {d : Fin 88}

theorem execQueuePark_keeps {q : Fin 8} : KeepsAns P s0 (execQueuePark l q s) :=
  .ite hk (.ite (modTileL_keeps hk fun _ m => m) (modTileL_keeps hk fun _ m => m))

theorem execTileWake_keeps : KeepsAns P s0 (execTileWake l s) := by
  unfold execTileWake
  refine .ite hk ?_
  split
  · exact modTileL_keeps hk fun _ m => m
  · exact modTileL_keeps hk fun _ m => m
  · exact hk

theorem execWakeTokenGrant_keeps {p : Option (Fin 64)} : KeepsAns P s0 (execWakeTokenGrant p s) := by
  unfold execWakeTokenGrant
  split
  · extract_lets +onlyGivenNames d
    split
    · exact .ite (modDie_keeps hk) hk
    · exact hk
  · split
    · exact .ite (Keeps.update hk) hk
    · exact hk

theorem execPowerEnvelopeSet_keeps {n : Fin 64} {seq : W32} : KeepsAns P s0 (execPowerEnvelopeSet n seq s) :=
  aidar_keeps hk fun _ _ => .checked (Keeps.ite (.update hk) (event_keeps (.update hk)))

theorem execWeirUpdate_keeps {r : WeirReading} : KeepsAns P s0 (execWeirUpdate d r s) := by
  unfold execWeirUpdate
  extract_lets +onlyGivenNames d' st run hot slow full t pw u
  have hu : Keeps P s0 u := .update (modDie_keeps hk)
  exact enterEmergency_keeps (.ite (Keeps.foldl hu fun _ _ h => gaugeSample_keeps h) hu)

theorem execInputRange_keeps {v : BitVec 16} {b : Bool} : KeepsAns P s0 (execInputRange v b s) := by
  unfold execInputRange
  extract_lets +onlyGivenNames v' out off
  refine .ite hk ?_
  extract_lets +onlyGivenNames pw t u w
  have ht : Keeps P s0 t := .update hk
  have hu : Keeps P s0 u := .ite ht (event_keeps ht)
  have hw : Keeps P s0 w := .ite (enterSafe_keeps (enterEmergency_keeps hu)) hu
  exact .ite (bbNotify_keeps (toStandby_keeps hw)) (bbNotify_keeps hw)

end

/-! ### Sessions, queue pairs and frames (12, 14) -/

section
variable {n : Fin 64} {seq : W32} {q : BitVec 24}

theorem execDebugOpen_keeps : KeepsAns P s0 (execDebugOpen n seq s) :=
  aidar_keeps hk fun _ _ => .checked (Keeps.update (Keeps.foldl hk fun _ _ h => destroyCtx_keeps h))

theorem execDebugSessionEnd_keeps : KeepsAns P s0 (execDebugSessionEnd s) := by
  unfold execDebugSessionEnd
  split
  · exact hk
  · exact endSession_keeps hk

theorem execAidarConnect_keeps {p : Fin 8} {va : BitVec 64} {key : W32} {log : BitVec 8} :
    KeepsAns P s0 (execAidarConnect p va key log s) := by
  unfold execAidarConnect
  refine .ite hk ?_
  dsimp only
  split
  · exact emit_keeps hk
  · exact .ite (emit_keeps hk) (use_keeps (emit_keeps (.update hk)))

theorem execSlotPost_keeps {k : Fin 32} {b : BitVec 4096} : KeepsAns P s0 (execSlotPost n k b s) := by
  unfold execSlotPost
  split
  · exact hk
  · exact .ite hk (modSess_keeps hk)

theorem execRequestTake_keeps {k : Fin 32} : KeepsAns P s0 (execRequestTake n k s) := by
  unfold execRequestTake
  split
  · exact hk
  · exact .ite hk (takeSlot_keeps hk)

theorem execRingConsumerWrite_keeps {v : W32} : KeepsAns P s0 (execRingConsumerWrite n v s) := by
  unfold execRingConsumerWrite
  split
  · exact hk
  · exact .ite hk (closeBye_keeps (flush_keeps (modSess_keeps hk)))

theorem execBye_keeps : KeepsAns P s0 (execBye n seq s) := by
  unfold execBye
  split
  · exact hk
  · exact .ite hk (closeBye_keeps (runReq_keeps hk fun _ _ => .checked (modSess_keeps hk)))

theorem execQpModify_keeps : KeepsAns P s0 (execQpModify n seq s) :=
  aidar_keeps hk fun _ _ => .checked (by
    split
    · trivial
    · exact modQp_keeps hk)

theorem execQpConnect_keeps {a : BitVec 128} : KeepsAns P s0 (execQpConnect q a s) := by
  unfold execQpConnect
  extract_lets +onlyGivenNames m
  split
  · exact hk
  · exact .ite hk (.ite (emit_keeps (modQp_keeps hk)) (emit_keeps hk))

theorem execRdmaWrite_keeps {key : W32} {va : BitVec 64} {bs : List (BitVec 8)} : KeepsAns P s0 (execRdmaWrite q key va bs s) := by
  unfold execRdmaWrite
  split
  · exact writeMailbox_keeps hk
  · exact takeRdma_keeps hk

theorem execRdmaRead_keeps {key len : W32} {va : BitVec 64} : KeepsAns P s0 (execRdmaRead q key va len s) := by
  unfold execRdmaRead
  split
  · exact endSession_keeps (emit_keeps hk)
  · exact takeRdma_keeps hk

theorem execQpRetryExhausted_keeps : KeepsAns P s0 (execQpRetryExhausted q s) := by
  unfold execQpRetryExhausted
  split
  · exact endSession_keeps hk
  · split
    · exact hk
    · exact .ite (modQp_keeps hk) hk

theorem execGaugeSubscribe_keeps : KeepsAns P s0 (execGaugeSubscribe n seq s) :=
  aidar_keeps hk fun _ _ => .checked (by
    split
    · next h t e => exact newHandle_keeps hk e
    · trivial)

end

/-! ### Tide (15) -/

section
variable {j : Fin 12}

theorem execTimeRoleSet_keeps {n : Fin 64} {seq : W32} : KeepsAns P s0 (execTimeRoleSet n seq s) :=
  aidar_keeps hk fun _ _ => .checked (by
    extract_lets +onlyGivenNames t u
    refine setParent_keeps (Keeps.updateTime hk ?_ ?_ ?_) <;> split <;> rfl)

theorem execTideExchange_keeps : KeepsAns P s0 (execTideExchange s) := by
  unfold execTideExchange
  extract_lets +onlyGivenNames t
  have ht : Keeps P s0 t := setParent_keeps hk
  split
  · exact ht
  · exact .ite ht (sendTide_keeps (Keeps.updateTime ht rfl rfl rfl))

/-- A response of the parent moves tide. -/
theorem execTide_keeps (hP : ¬P) : KeepsAns P s0 (execTide j s) := by
  unfold execTide
  extract_lets +onlyGivenNames j'
  split
  · exact hk
  · next p t e =>
    have ht := takeIn_keeps hk e
    exact .ite ht (.ite (sendTide_keeps (use_keeps ht)) (.ite (tideResponse_keeps ht hP) ht))

/-- A measured offset moves tide. -/
theorem execPtpEventMessage_keeps {p : Fin 4} {a b : Bool} {c : BitVec 64} {o : Option (BitVec 64)} (hP : ¬P) :
    KeepsAns P s0 (execPtpEventMessage p a b c o s) := by
  unfold execPtpEventMessage
  refine .ite hk ?_
  extract_lets +onlyGivenNames upd c' t
  have ht : Keeps P s0 t := emit_keeps (.ite (use_keeps hk) hk)
  split
  · exact ht
  · exact .ite (measured_keeps ht hP) ht

/-- So does the edge of the second, of the grandmaster. -/
theorem execPpsEdge_keeps (hP : ¬P) : KeepsAns P s0 (execPpsEdge s) := by
  unfold execPpsEdge
  extract_lets +onlyGivenNames inSpan good tm t u
  have ht : Keeps P s0 t := Keeps.updateTime hk rfl rfl rfl
  have hu : Keeps P s0 u := .ite (measured_keeps ht hP) ht
  exact Keeps.updateTime hu rfl rfl rfl

theorem execRef10mInValid_keeps {b : Bool} : KeepsAns P s0 (execRef10mInValid b s) := by
  unfold execRef10mInValid
  extract_lets +onlyGivenNames tm t
  have ht : Keeps P s0 t := Keeps.updateTime hk rfl rfl rfl
  exact Keeps.ite (holdOver_keeps ht) ht

end

/-! ### Repair (01, 17) -/

section
variable {n : Fin 64} {seq : W32} {src : Fin 64} {tile : Option (Fin 8)}

theorem execDieRelease_keeps : KeepsAns P s0 (execDieRelease n seq s) :=
  fenceCmd_keeps hk fun _ r => .checked (.ite (by
    split
    · trivial
    · next t e => exact settle_keeps (event_keeps (backInService_keeps (startMgr_keeps hk t e)))) hk)

theorem execBistDone_keeps {d : Fin 88} {g : BitVec 64} {b : Bool} {k u : W32} : KeepsAns P s0 (execBistDone d g b k u s) := by
  unfold execBistDone
  extract_lets +onlyGivenNames d' x
  split
  · exact hk
  · extract_lets +onlyGivenNames want pass n body s1 counts s2 healed s3 s4
    have h1 : Keeps P s0 s1 := applySram_keeps (modDie_keeps hk)
    have h2 : Keeps P s0 s2 := .ite (modDie_keeps h1) h1
    have h3 : Keeps P s0 s3 := .ite (directHealth_keeps h2) (.ite (repairedHealth_keeps h2) h2)
    exact settle_keeps (resolve_keeps (event_keeps h3))

theorem execDieSpare_keeps : KeepsAns P s0 (execDieSpare n seq s) :=
  aidar_keeps hk fun _ _ => .checked (by
    split
    · next t e => exact startSparing_keeps hk t e
    · trivial)

theorem execSparePrepare_keeps {b : Bool} {k : W32} : KeepsAns P s0 (execSparePrepare src tile b k s) := by
  unfold execSparePrepare
  split
  · exact hk
  · refine .ite hk ?_
    extract_lets +onlyGivenNames ready
    have hready : ∀ t, Keeps P s0 t → Keeps P s0 (ready t) := fun t h => modSparing_keeps h
    split
    · exact hready _ hk
    · split
      · exact settle_keeps (targetFails_keeps hk)
      · next t e =>
        have ht := startMgr_keeps hk t e
        exact .ite (hready _ (applySram_keeps ht)) (settle_keeps (targetFails_keeps ht))
    · exact settle_keeps (targetFails_keeps hk)

theorem execWarmMove_keeps : KeepsAns P s0 (execWarmMove src tile s) := by
  unfold execWarmMove
  split
  · exact hk
  · exact .ite hk (.ite (.ite (modSparing_keeps hk) hk) (.ite (Keeps.foldl hk fun _ _ h => modTileL_keeps h fun _ m => m) hk))

theorem execColdMove_keeps : KeepsAns P s0 (execColdMove src tile s) := by
  unfold execColdMove
  split
  · exact hk
  · refine .ite hk (modSparing_keeps (Keeps.foldl hk fun _ _ h => modTileP_keeps h fun t _ => ?_))
    split
    · exact Tile.coldLoad_memOk _ _ _
    · rfl

theorem execRemapChange_keeps : KeepsAns P s0 (execRemapChange src tile s) := by
  unfold execRemapChange
  split
  · exact hk
  · exact .ite hk (modSparing_keeps (modPkg_keeps hk))

theorem execRemapFlip_keeps : KeepsAns P s0 (execRemapFlip s) := by
  unfold execRemapFlip
  split
  · exact hk
  · extract_lets +onlyGivenNames mv s1 s2 s3 s4 s5
    have h1 : Keeps P s0 s1 := Keeps.foldl hk fun t m h =>
      leaveTile_keeps (.ite (modTileP_keeps_of h fun ht => Tile.takeOver_memOk (tileP_memOk ht _)) h)
    have h3 : Keeps P s0 s3 := modDie_keeps (modPkg_keeps h1)
    have h4 : Keeps P s0 s4 := by
      unfold s4
      split
      · exact modDie_keeps h3
      · exact modTileP_keeps h3 fun _ m => m
    exact resolve_keeps (event_keeps (saveBinding_keeps (resumeTakes_keeps h4)))

theorem execRouterFailure_keeps : KeepsAns P s0 (execRouterFailure n s) :=
  settle_keeps (directHealth_keeps (Keeps.updatePorts (modPkg_keeps (modDie_keeps hk)) (List.length_map _)))

theorem execHbmRepair_keeps {b : Bool} : KeepsAns P s0 (execHbmRepair n seq b s) := by
  unfold execHbmRepair
  split
  · exact hk
  · extract_lets +onlyGivenNames cls d die act row frame
    refine .ite hk (aidar_keeps hk fun _ _ => ?_)
    extract_lets +onlyGivenNames bad repaired
    have hrep : ∀ t, Keeps P s0 t → Keeps P s0 (repaired t) := fun t h => event_keeps (repairedHealth_keeps (recordRepairs_keeps h))
    refine .checked (.ite (event_keeps hk) ?_)
    clear_value act
    split
    · exact settle_keeps (hrep _ (modDev_keeps hk))
    · exact settle_keeps (hrep _ (modDev_keeps hk))
    · exact settle_keeps (addScore_keeps (hrep _ (modDev_keeps hk)))
    · exact .ite hk (.ite (event_keeps (modDev_keeps hk)) (event_keeps (recordRepairs_keeps (modDev_keeps hk))))

theorem execLaserSwapped_keeps {b : Fin 16} : KeepsAns P s0 (execLaserSwapped b s) := by
  unfold execLaserSwapped
  extract_lets +onlyGivenNames b' p q
  refine .ite hk ?_
  extract_lets +onlyGivenNames t u
  have ht : Keeps P s0 t := setLaser_keeps hk
  have hu : Keeps P s0 u := .ite (.ite ht (Keeps.foldl ht fun _ _ h => modEth_keeps h)) (setLaser_keeps ht)
  exact settle_keeps (event_keeps (repairedHealth_keeps hu))

end

/-! ### Gauges, snapshots and margins (16) -/

section
variable {j : Fin 12}

theorem execGaugeSample_keeps {x : Sample} : KeepsAns P s0 (execGaugeSample x s) := by
  unfold execGaugeSample
  split
  · split
    · exact Keeps.ite (.update (gaugeSample_keeps hk)) (gaugeSample_keeps hk)
    · exact hk
  · exact settle_keeps (spError_keeps hk)
  · exact settle_keeps (addScore_keeps (modDie_keeps hk))
  · exact settle_keeps (addScore_keeps hk)

theorem execDatagramSend_keeps : KeepsAns P s0 (execDatagramSend s) := by
  unfold execDatagramSend
  split
  · exact hk
  · exact .ite (Keeps.update hk) (Keeps.update (emit_keeps hk))

theorem execSnapshotInstant_keeps : KeepsAns P s0 (execSnapshotInstant s) := by
  unfold execSnapshotInstant
  split
  · exact hk
  · refine .ite hk ?_
    extract_lets +onlyGivenNames tl t tl' u
    have ht : Keeps P s0 t := .update hk
    have hu : Keeps P s0 u := .ite (.update ht) (takeSnapshot_keeps ht)
    exact Keeps.ite hu (.update hu)

theorem execOpticalRead_keeps {x : Optical} : KeepsAns P s0 (execOpticalRead x s) := by
  unfold execOpticalRead
  split
  · exact .ite (settle_keeps (readLanes_keeps hk)) hk
  · extract_lets +onlyGivenNames b bol
    refine .ite hk ?_
    extract_lets +onlyGivenNames t u
    have ht : Keeps P s0 t := gaugeSample_keeps hk
    have hu : Keeps P s0 u := .ite (marginWatch_keeps ht) ht
    exact settle_keeps (.ite (directHealth_keeps hu) hu)

theorem execSlackReport_keeps {d : Fin 88} {i : Fin 4} {x : W32} : KeepsAns P s0 (execSlackReport d i x s) := by
  unfold execSlackReport
  extract_lets +onlyGivenNames d' i' x' cal t u
  have hu : Keeps P s0 u := modDie_keeps (gaugeSample_keeps hk)
  exact Keeps.ite (settle_keeps (marginWatch_keeps hu)) hu

theorem execLimitInterval_keeps {m : Measure} {f : W32} {b : Bool} : KeepsAns P s0 (execLimitInterval m f b s) := by
  unfold execLimitInterval
  extract_lets +onlyGivenNames key gone
  refine .ite hk ?_
  extract_lets +onlyGivenNames counted below tl t ha u
  have ht : Keeps P s0 t := .update hk
  have hu : Keeps P s0 u := .ite (.update ht) ht
  exact Keeps.ite (event_keeps hu) hu

theorem execLiveExport_keeps : KeepsAns P s0 (execLiveExport s) :=
  Keeps.foldl hk fun _ _ h => Keeps.update (Keeps.ite (formList_keeps h) h)

end
end

end Sys2Proof.Machine
end

section
/-! The invariant of every step (01 R43; 08 R220, R224; 09 R248; 12 R351), with what each command leaves as it is. -/

namespace Sys2Proof.Machine

open State

/-- The commands after which tide, or its rate, may be another. -/
def movesTide : Instr → Bool
  | .standbyLow | .coldRestart _ | .tide _ | .ptpEventMessage _ _ _ _ _ | .ppsEdge => true
  | _ => false

section
variable {P : Prop} {s0 s : State}

/-- An opcode of the vector engine. -/
theorem vecOp_keeps {code l q : Nat} (hk : Keeps P s0 s) : KeepsAns P s0 (tileOp code l q (fun d ic n t => d.vecRun ic n t) s) :=
  tileOp_keeps hk fun d ic n _ h => OpD.vecRun_memOk h d ic n

/-- Every command keeps the queue, the form of the memories and the numbers of ports and devices; all but five keep tide. -/
theorem exec_keeps {c : Instr} (hk : Keeps P s0 s) (hP : movesTide c = true → ¬P) : KeepsAns P s0 (exec c s) := by
  cases c with
  | hello _ _ => exact aidar_keeps hk fun _ _ => .checked (.ite (modSess_keeps hk) hk)
  | bye _ _ => exact execBye_keeps hk
  | ping _ _ => exact aidar_keeps hk fun _ _ => .checked hk
  | ctxCreate _ _ => exact execCtxCreate_keeps hk
  | ctxBind _ _ => exact execCtxBind_keeps hk
  | ctxQuiesce _ _ => exact aidar_keeps hk fun _ _ => .checked (modCtx_keeps (stopChans_keeps hk))
  | ctxQuiesceDone _ => exact execCtxQuiesceDone_keeps hk
  | ctxDestroy _ _ => exact aidar_keeps hk fun _ _ => .checked (destroyCtx_keeps hk)
  | ctxClearComplete _ => exact execCtxClearComplete_keeps hk
  | chanCreate _ _ => exact execChanCreate_keeps hk
  | windowZeroFillDone _ => exact execWindowZeroFillDone_keeps hk
  | chanStart _ _ => exact execChanStart_keeps hk
  | chanStop _ _ => exact aidar_keeps hk fun _ _ => .checked (.ite (setChan_keeps hk) (setChan_keeps (discard_keeps hk)))
  | chanStopDone _ => exact execChanStopDone_keeps hk
  | chanDestroy _ _ => exact aidar_keeps hk fun _ _ => .checked (retireObj_keeps (discard_keeps hk))
  | chanQuery _ _ => exact execChanQuery_keeps hk
  | qpCreate _ _ => exact aidar_keeps hk fun _ _ => .checked (Keeps.update hk)
  | qpModify _ _ => exact execQpModify_keeps hk
  | qpDestroy _ _ => exact aidar_keeps hk fun _ _ => .checked (Keeps.update hk)
  | partSetCoord _ _ => exact aidar_keeps hk fun _ _ => .checked (Keeps.update hk)
  | partJoin _ _ => exact aidar_keeps hk fun _ _ => .checked (Keeps.update hk)
  | linkExpect _ _ => exact execLinkExpect_keeps hk
  | transitGrant _ _ => exact execTransitGrant_keeps hk
  | faultModeSet _ _ => exact aidar_keeps hk fun _ _ => .checked (Keeps.update hk)
  | leveeRaise _ _ => exact aidar_keeps hk fun _ _ => .checked (Keeps.update hk)
  | netConfig _ _ => exact aidar_keeps hk fun _ _ => .checked (modEth_keeps hk)
  | gaugeSubscribe _ _ => exact execGaugeSubscribe_keeps hk
  | snapshotSchedule _ _ => exact aidar_keeps hk fun _ _ => .checked (Keeps.update hk)
  | timeRoleSet _ _ => exact execTimeRoleSet_keeps hk
  | fwStage _ _ _ _ _ => exact execFwStage_keeps hk
  | fwActivate _ _ => exact execFwActivate_keeps hk
  | bistRun _ _ => exact aidar_keeps hk fun _ _ => .checked (modDie_keeps hk)
  | dieFence _ _ => exact fenceCmd_keeps hk fun _ _ => .checked (.ite hk (settle_keeps (fenceScope_keeps (event_keeps (fenceDie_keeps hk)))))
  | dieRelease _ _ => exact execDieRelease_keeps hk
  | dieSpare _ _ => exact execDieSpare_keeps hk
  | hbmRepair _ _ _ => exact execHbmRepair_keeps hk
  | attest _ _ => exact aidar_keeps hk fun _ _ => .checked (use_keeps (modSess_keeps hk))
  | sessionKey _ _ => exact aidar_keeps hk fun _ _ => .checked (use_keeps (modSess_keeps (keyFlow_keeps hk)))
  | ctxKeyInstall _ _ => exact aidar_keeps hk fun _ _ => .checked (modCtx_keeps hk)
  | powerEnvelopeSet _ _ => exact execPowerEnvelopeSet_keeps hk
  | debugOpen _ _ => exact execDebugOpen_keeps hk
  | regRead _ _ => exact aidar_keeps hk fun _ _ => .checked (use_keeps hk)
  | regWrite _ _ => exact aidar_keeps hk fun _ _ => .checked (writeReg_keeps (writeReg_keeps hk))
  | debugSessionEnd => exact execDebugSessionEnd_keeps hk
  | aidarConnect _ _ _ _ => exact execAidarConnect_keeps hk
  | sessionEnd _ => exact endSession_keeps hk
  | slotPost _ _ _ => exact execSlotPost_keeps hk
  | requestTake _ _ => exact execRequestTake_keeps hk
  | commandComplete _ _ => exact execCommandComplete_keeps hk
  | ringConsumerWrite _ _ => exact execRingConsumerWrite_keeps hk
  | qpConnect _ _ => exact execQpConnect_keeps hk
  | rdmaWrite _ _ _ _ => exact execRdmaWrite_keeps hk
  | rdmaRead _ _ _ _ => exact execRdmaRead_keeps hk
  | qpRetryExhausted _ => exact execQpRetryExhausted_keeps hk
  | ethFrameRx _ _ => exact .ite hk (.ite (Keeps.update hk) (.ite (modEth_keeps (.update hk)) (Keeps.update hk)))
  | pfcPauseRx _ _ _ => exact .ite hk (.ite (modEth_keeps hk) (.ite (.ite hk (emit_keeps (modEth_keeps hk))) (.ite (emit_keeps (modEth_keeps hk)) hk)))
  | producerWrite _ _ => exact execProducerWrite_keeps hk
  | descriptorFetch _ => exact execDescriptorFetch_keeps hk
  | cplConsumerWrite _ _ => exact execCplConsumerWrite_keeps hk
  | matmul _ _ => exact tileOp_keeps hk fun d ic _ _ h => OpD.matRun_memOk h d ic
  | ewMul _ _ => exact tileOp_keeps hk fun d ic _ _ h => OpD.matRun_memOk h d ic
  | drainRow _ => exact execDrainRow_keeps hk
  | operationComplete _ => exact execOperationComplete_keeps hk
  | vconvert _ _ => exact vecOp_keeps hk
  | vadd _ _ => exact vecOp_keeps hk
  | vsub _ _ => exact vecOp_keeps hk
  | vmul _ _ => exact vecOp_keeps hk
  | vfma _ _ => exact vecOp_keeps hk
  | vaxpby _ _ => exact vecOp_keeps hk
  | vmax _ _ => exact vecOp_keeps hk
  | vmin _ _ => exact vecOp_keeps hk
  | vdiv _ _ => exact vecOp_keeps hk
  | vclamp _ _ => exact vecOp_keeps hk
  | vscale _ _ => exact vecOp_keeps hk
  | vcmp _ _ => exact vecOp_keeps hk
  | vexp _ _ => exact vecOp_keeps hk
  | vlog _ _ => exact vecOp_keeps hk
  | vrsqrt _ _ => exact vecOp_keeps hk
  | vrecip _ _ => exact vecOp_keeps hk
  | vsqrt _ _ => exact vecOp_keeps hk
  | vtanh _ _ => exact vecOp_keeps hk
  | vsigmoid _ _ => exact vecOp_keeps hk
  | vgelu _ _ => exact vecOp_keeps hk
  | vsilu _ _ => exact vecOp_keeps hk
  | normApply _ _ => exact vecOp_keeps hk
  | softmaxApply _ _ => exact vecOp_keeps hk
  | softmaxBwd _ _ => exact vecOp_keeps hk
  | normBwd _ _ => exact vecOp_keeps hk
  | topk _ _ => exact tileOp_keeps hk fun d _ _ _ h => OpD.topkRun_memOk h d
  | topkMerge _ _ => exact tileOp_keeps hk fun d _ _ _ h => OpD.topkRun_memOk h d
  | rowStats _ _ => exact tileOp_keeps hk fun d _ n _ h => OpD.rowStatsRun_memOk h d n
  | rowStatsMerge _ _ => exact tileOp_keeps hk fun d _ n _ h => OpD.rowStatsMergeRun_memOk h d n
  | rowDot _ _ => exact tileOp_keeps hk fun d _ n _ h => OpD.rowDotRun_memOk h d n
  | colSum _ _ => exact tileOp_keeps hk fun d ic _ _ h => OpD.colSumRun_memOk h d ic
  | amax _ _ => exact tileOp_keeps hk fun d _ _ _ h => OpD.amaxRun_memOk h d
  | compress _ _ => exact tileOp_keeps hk fun d ic _ _ h => OpD.compressRun_memOk h d ic
  | expand _ _ => exact tileOp_keeps hk fun d ic _ _ h => OpD.expandRun_memOk h d ic
  | routeBuild _ _ => exact tileOp_keeps hk fun d _ _ _ h => OpD.routeRun_memOk h d
  | mrGrant _ => exact execMrGrant_keeps hk
  | millraceSend _ => exact execMillraceSend_keeps hk
  | mrRow _ => exact execMrRow_keeps hk
  | mrAck _ => exact execMrAck_keeps hk
  | syncSignal _ => exact execSyncSignal_keeps hk
  | syncWait _ => exact execSyncWait_keeps hk
  | waitRetry _ => exact execWaitRetry_keeps hk
  | xlateReadDone _ => exact execXlateReadDone_keeps hk
  | ucSignal _ _ _ => exact .ite (ucSignal_keeps hk) hk
  | ucTake _ _ _ => exact .ite (ucTake_keeps hk) hk
  | ucFault _ _ _ => exact .ite (ucException_keeps hk) hk
  | ucWfiWake _ => exact execUcWfiWake_keeps hk
  | queuePark _ _ => exact execQueuePark_keeps hk
  | tilePowerOff _ => exact .ite (modTileL_keeps hk fun _ m => m) hk
  | tileWake _ => exact execTileWake_keeps hk
  | wakeTokenRequest _ => exact .ite hk (.ite (.ite hk (Keeps.update hk)) (.ite hk (modDie_keeps hk)))
  | wakeTokenGrant _ => exact execWakeTokenGrant_keeps hk
  | tilePowerUp _ => exact .ite (Keeps.update (modDie_keeps (unpark_keeps hk))) hk
  | stepVerdict _ => exact settle_keeps (startColl_keeps hk)
  | verdictSet _ => exact execVerdictSet_keeps hk
  | privAgreement _ => exact settle_keeps (startColl_keeps hk)
  | tableAgreement _ => exact settle_keeps (startColl_keeps hk)
  | stepClose _ => exact execStepClose_keeps hk
  | closeFlip _ => exact execCloseFlip_keeps hk
  | allGather _ => exact settle_keeps (startColl_keeps hk)
  | reduceScatter _ => exact settle_keeps (startColl_keeps hk)
  | allReduce _ => exact settle_keeps (startColl_keeps hk)
  | permute _ => exact settle_keeps (startColl_keeps hk)
  | broadcast _ => exact settle_keeps (startColl_keeps hk)
  | barrier _ => exact settle_keeps (startColl_keeps hk)
  | flagOr _ => exact settle_keeps (startColl_keeps hk)
  | scaleMax _ => exact settle_keeps (startColl_keeps hk)
  | collSignature _ => exact settle_keeps (serveColl_keeps hk fun _ _ _ h => checkSigs_keeps (modRun_keeps h))
  | collData _ => exact settle_keeps (serveColl_keeps hk fun _ _ _ h => .ite (recvValues_keeps h) (recvData_keeps h))
  | collHopAdd _ _ => exact execCollHopAdd_keeps hk
  | collCredit _ => exact serveColl_keeps hk fun _ _ _ h => recvCredit_keeps h
  | collDrained _ => exact execCollDrained_keeps hk
  | epochAdvance _ => exact execEpochAdvance_keeps hk
  | collAborted _ => exact execCollAborted_keeps hk
  | collectiveComplete _ => exact execCollectiveComplete_keeps hk
  | copy _ => exact settle_keeps (startCopy_keeps hk)
  | transpose _ => exact settle_keeps (startCopy_keeps hk)
  | retile _ => exact settle_keeps (startCopy_keeps hk)
  | lower _ => exact settle_keeps (startCopy_keeps hk)
  | rillGather _ => exact startRill_keeps hk
  | rillScatter _ => exact startRill_keeps hk
  | rillQueueFree _ => exact execRillQueueFree_keeps hk
  | copyWr _ => exact execCopyWr_keeps hk
  | copyWrAck _ => exact execCopyWrAck_keeps hk
  | copyRdReq _ => exact execCopyRdReq_keeps hk
  | copyRdRsp _ => exact execCopyRdRsp_keeps hk
  | lineRead _ _ => exact settle_keeps (checkLine_keeps hk)
  | scrub _ _ => exact execScrub_keeps hk
  | lcInterval => exact execLcInterval_keeps hk
  | lineSpare _ _ => exact .ite (settle_keeps (addScore_keeps (recordRepairs_keeps (modDev_keeps hk)))) hk
  | autoLineSpare _ _ => exact execAutoLineSpare_keeps hk
  | devTempRead _ _ => exact gaugeSample_keeps (modDev_keeps hk)
  | remapChange _ _ => exact execRemapChange_keeps hk
  | remapFlip => exact execRemapFlip_keeps hk
  | sparePrepare _ _ _ _ => exact execSparePrepare_keeps hk
  | warmMove _ _ => exact execWarmMove_keeps hk
  | coldMove _ _ => exact execColdMove_keeps hk
  | bistDone _ _ _ _ _ => exact execBistDone_keeps hk
  | frameRx _ _ _ => exact execFrameRx_keeps hk
  | linkSilence _ => exact .ite (settle_keeps (enterRetrain_keeps hk)) hk
  | laneSpare _ _ => exact settle_keeps (spareLane_keeps hk)
  | laneFailNoSpare _ _ _ => exact .ite (settle_keeps (enterRetrain_keeps (directHealth_keeps (linkEvt_keeps (modPort_keeps hk))))) hk
  | lightDetect _ => exact .ite (use_keeps (modPort_keeps hk)) hk
  | trainingAttemptEnd _ _ _ => exact execTrainingAttemptEnd_keeps hk
  | trainingRetry _ => exact .ite (use_keeps (modPort_keeps hk)) hk
  | ident _ => exact execIdent_keeps hk
  | identRefresh _ => exact .ite (sendIdent_keeps hk) hk
  | retrainRealigned _ => exact execRetrainRealigned_keeps hk
  | retrainTimeout _ => exact .ite (use_keeps (modPort_keeps hk)) hk
  | linkFenced _ => exact .ite (fencePort_keeps hk) hk
  | partnerTakeover _ => exact .ite hk (sendHop_keeps (modPort_keeps (abortPart_keeps hk)))
  | linkCtrl _ => exact execLinkCtrl_keeps hk
  | failback _ => exact .ite (pump_keeps (modPort_keeps hk)) hk
  | packetRoute _ _ => exact route_keeps hk
  | multicast _ _ => exact execMulticast_keeps hk
  | passage _ _ => exact route_keeps hk
  | packetOpen _ => exact execPacketOpen_keeps hk
  | flowGaugeWindow _ => exact execFlowGaugeWindow_keeps hk
  | neighbourLost _ => exact execNeighbourLost_keeps hk
  | tileFenced _ => exact settle_keeps (.update (fenceCDie_keeps hk))
  | modResetAssert _ => exact execModResetAssert_keeps hk
  | coldRestart _ => exact execColdRestart_keeps hk (hP rfl)
  | bootStepEnd _ => exact execBootStepEnd_keeps hk
  | safeEntry => exact enterSafe_keeps hk
  | safeExit => exact .ite hk (syncActive_keeps (bbNotify_keeps (modPkg_keeps hk)))
  | standbyLow => exact .ite (losePower_keeps hk (hP rfl)) hk
  | watchdogExpiry _ => exact crash_keeps hk
  | mgrRestarted _ => exact execMgrRestarted_keeps hk
  | pkgManagerRestart => exact execPkgManagerRestart_keeps hk
  | activationWave _ => exact execActivationWave_keeps hk
  | activationResume _ => exact .ite hk (startWave_keeps hk)
  | fwActivationExpired _ => exact execFwActivationExpired_keeps hk
  | fwRolledBack _ => exact execFwRolledBack_keeps hk
  | budgetReport _ _ _ => exact .ite hk (gaugeSample_keeps (modDie_keeps (emit_keeps hk)))
  | allocation _ _ _ => exact .ite hk (emit_keeps (modDie_keeps hk))
  | staleAlloc _ => exact .ite hk (event_keeps (modDie_keeps hk))
  | weirUpdate _ _ => exact execWeirUpdate_keeps hk
  | weirClear => exact .ite hk (event_keeps (.update hk))
  | thermTrip _ _ => exact .ite hk (bbNotify_keeps (enterSafe_keeps (event_keeps (modPkg_keeps (modDie_keeps hk)))))
  | tripRecover _ _ => exact .ite hk (bbNotify_keeps (modPkg_keeps (modDie_keeps hk)))
  | tripShutdown _ _ => exact .ite hk (toStandby_keeps (modDie_keeps hk))
  | inputRange _ _ => exact execInputRange_keeps hk
  | laserFailed _ => exact .ite hk (.ite (settle_keeps (event_keeps (loseLight_keeps (setLaser_keeps hk)))) (setLaser_keeps (setLaser_keeps hk)))
  | laserSwapped _ => exact execLaserSwapped_keeps hk
  | ppsEdge => exact execPpsEdge_keeps hk (hP rfl)
  | ppsOut => exact .ite (emit_keeps hk) hk
  | ptpEventMessage _ _ _ _ _ => exact execPtpEventMessage_keeps hk (hP rfl)
  | tideExchange => exact execTideExchange_keeps hk
  | tide _ => exact execTide_keeps hk (hP rfl)
  | timeHoldover => exact .ite (holdOver_keeps hk) hk
  | sealGeneration => exact .ite hk (Keeps.updateTime hk rfl rfl rfl)
  | gaugeSample _ => exact execGaugeSample_keeps hk
  | gaugePeriod => exact Keeps.update hk
  | liveExport => exact execLiveExport_keeps hk
  | datagramSend => exact execDatagramSend_keeps hk
  | snapshotInstant => exact execSnapshotInstant_keeps hk
  | snapshotExport _ _ => exact setSnapBank_keeps (Keeps.foldl hk fun _ _ h => formTo_keeps h)
  | healthDecay => exact Keeps.foldl hk fun _ _ h => decayOne_keeps h
  | healthPersist => exact persistHealth_keeps hk
  | eyeScan _ _ _ => exact .ite hk (settle_keeps (Keeps.foldl hk fun _ _ h => laneMargin_keeps (modPort_keeps (gaugeSample_keeps (gaugeSample_keeps h)))))
  | serWindow _ _ => exact .ite hk (settle_keeps (Keeps.foldl hk fun _ _ h => laneMargin_keeps (modPort_keeps (gaugeSample_keeps h))))
  | opticalRead _ => exact execOpticalRead_keeps hk
  | slackReport _ _ _ => exact execSlackReport_keeps hk
  | limitInterval _ _ _ => exact execLimitInterval_keeps hk
  | w1cClear _ _ _ _ => exact .ite (Keeps.foldl (writeReg_keeps hk) fun _ _ h => hwSet_keeps h) hk
  | registerWrite _ _ _ => exact .ite (writeReg_keeps hk) hk
  | i3cPrivateWrite _ _ => exact execI3cPrivateWrite_keeps hk
  | i3cPrivateRead _ _ => exact .ite hk (use_keeps (emit_keeps hk))
  | entdaa _ => exact .ite hk (modBb_keeps (emit_keeps hk))
  | setdasa _ _ => exact .ite hk (modBb_keeps hk)
  | rstdaa => exact .ite (modBb_keeps hk) hk
  | enec _ _ => exact .ite (modBb_keeps hk) hk
  | disec _ _ => exact .ite (modBb_keeps hk) hk
  | getpid _ => exact .ite (emit_keeps hk) hk
  | getbcr _ => exact .ite (emit_keeps hk) hk
  | getdcr _ => exact .ite (emit_keeps hk) hk
  | getstatus _ => exact .ite (use_keeps (emit_keeps hk)) hk
  | bbReadingUpdate _ _ _ _ _ _ => exact .ite hk (Keeps.update (modBb_keeps hk))
  | bypass _ => exact .ite (emit_keeps hk) hk
  | idcode => exact .ite (emit_keeps hk) hk
  | standbyInputPresent => exact Keeps.update hk
  | mainInputReturn => exact .ite hk (bbNotify_keeps (.update hk))
  | ref10mInValid _ => exact execRef10mInValid_keeps hk
  | unrecoverableTrap _ => exact crash_keeps hk
  | routerFailure _ => exact execRouterFailure_keeps hk
  | sendOrAtomicRequest _ => exact takeRdma_keeps hk

end

/-- A step keeps the invariant: a command that waits, and the tick of an empty queue. -/
theorem step_inv {s t : State} (hi : s.Inv) (h : step s = .next t) : t.Inv := by
  unfold step at h
  split at h
  · cases h
    exact (tick_keeps (P := False) (.refl s) id).inv hi
  · next c cs _ =>
    have hc : KeepsAns False _ (exec c { s with pending := cs }) := exec_keeps (.refl _) fun _ => id
    rw [h] at hc
    exact Keeps.inv hc hi

/-- Settles O5: the invariant holds of the state without its front command, and the command keeps it. -/
theorem invariantKept : Obligations.InvariantKept := fun _ _ => step_inv

/-- Settles O6: after reset the memories are empty, and the lists have their lengths by definition. -/
theorem invariantAtReset : Obligations.InvariantAtReset :=
  ⟨⟨rfl, fun _ h => nomatch h⟩, rfl, rfl, rfl⟩

end Sys2Proof.Machine
end

section
/-! Tier memory of a context without bank translation (01 R43; 07 R214). -/

namespace Sys2Proof.Machine

/-- A read of the bytes that were just written gives them back. -/
theorem memReadN_memWrite_self {m : Mem} (h : memWf m = true) (a : Nat) (bs : List Byte) :
    memReadN (memWrite m a bs) a bs.length = ofBytes bs := by
  have hbytes : (List.range bs.length).map (fun i => memGet (memWrite m a bs) (a + i)) = bs := by
    refine List.ext_getElem (by simp) fun i _ hi => ?_
    rw [List.getElem_map, List.getElem_range, memGet_memWrite_in h a bs hi]
  rw [memReadN, hbytes]

section
variable {s : State} {c : Nat} (hb : ∀ x, s.ctx? c = some x → x.bank = [])
include hb

/-- A context without a bank table reaches the address that it names. -/
theorem State.xaddr_of_no_bank (a : Nat) : s.xaddr c a = a := by
  unfold State.xaddr
  split
  · rfl
  · next x hx => rw [Ctx.bankAddr, hb x hx, List.foldl_nil]

/-- None of its accesses is translated. -/
theorem State.flips_of_no_bank : s.flips c = false := by
  unfold State.flips
  cases hx : s.ctx? c with
  | none => rfl
  | some x => simp [hb x hx]

/-- Its accesses reach one range of memory, the one that they name. -/
theorem State.spans_of_no_bank (a k : Nat) : s.spans c a k = [(a, k)] := by
  simp [State.spans, State.flips_of_no_bank hb, State.xaddr_of_no_bank hb]

/-- Its reads are reads of tier memory. -/
theorem State.tierRead_of_no_bank (a k : Nat) : s.tierRead c a k = memReadN s.tier a k := by
  simp [State.tierRead, State.spans_of_no_bank hb]

/-- Its writes are writes of tier memory. -/
theorem State.tierWrite_tier_of_no_bank (a : Nat) (bs : List Byte) : (s.tierWrite c a bs).tier = memWrite s.tier a bs := by
  simp [State.tierWrite, State.spans_of_no_bank hb, memWriteSpans]

end

/-- Settles O44: without translation the accesses are those of the byte memory, and the write leaves the bank tables alone. -/
theorem tierReadAfterWrite : Obligations.TierReadAfterWrite := by
  intro s c a bs hm hb
  have ht := State.tierWrite_tier_of_no_bank hb a bs
  have hr : (s.tierWrite c a bs).tierRead c a bs.length = memReadN (s.tierWrite c a bs).tier a bs.length :=
    State.tierRead_of_no_bank (s := s.tierWrite c a bs) hb a _
  rw [hr, ht]
  exact ⟨memReadN_memWrite_self hm a bs, fun b hout => memGet_memWrite_out hm a bs hout, memWf_memWrite hm a bs⟩

end Sys2Proof.Machine
end

section
/-! Ways over the panel (01 R29 to R31): two straight legs that meet at a corner. -/

namespace Sys2Proof.Machine

/-! ### A straight leg -/

@[simp] theorem length_between (a b : Nat) : (between a b).length = (a - b) + (b - a) + 1 := by
  unfold between
  split <;> simp <;> omega

theorem getElem_between {a b i : Nat} (hi : i < (between a b).length) : (between a b)[i] = if a ≤ b then a + i else a - i := by
  unfold between
  split <;> simp

/-- A leg is crossed back in the other direction. -/
theorem reverse_between (a b : Nat) : (between a b).reverse = between b a := by
  refine List.ext_getElem (by simp; omega) fun i hi hj => ?_
  simp only [List.length_reverse, length_between] at hi
  rw [List.getElem_reverse, getElem_between, getElem_between, length_between]
  repeat' split
  all_goals omega

@[simp] theorem head?_between (a b : Nat) : (between a b).head? = some a := by
  rw [List.head?_eq_getElem?, List.getElem?_eq_getElem (by simp), getElem_between]
  simp

@[simp] theorem getLast?_between (a b : Nat) : (between a b).getLast? = some b := by
  rw [← List.head?_reverse, reverse_between, head?_between]

/-! ### Two legs -/

/-- The way along the leg of `f` from `x` to `v`, which ends where the leg of `g` from `u` to `w` begins. -/
def bend (f g : Nat → GridPlace) (x v u w : Nat) : List GridPlace := (between x v).map f ++ ((between u w).drop 1).map g

/-- The way of a packet has two legs, in the order of the packet. -/
theorem panelWay_eq_bend (a b : PanelEnd) : panelWay a b = if orderXY a b
    then bend (fun c => (a.place.1, c)) (fun r => (r, b.place.2)) a.place.2 b.place.2 a.place.1 b.place.1
    else bend (fun r => (r, a.place.2)) (fun c => (b.place.1, c)) a.place.1 b.place.1 a.place.2 b.place.2 := rfl

section
variable {f g : Nat → GridPlace} {x v u w : Nat}

theorem length_bend : (bend f g x v u w).length = (x - v) + (v - x) + (u - w) + (w - u) + 1 := by
  simp [bend]
  omega

/-- A way starts at the start of its first leg. -/
theorem head?_bend : (bend f g x v u w).head? = some (f x) := by
  simp [bend]

/-- Each place of a way lies on one of its legs. -/
theorem mem_bend {q : GridPlace} (h : q ∈ bend f g x v u w) : (∃ i, q = f i) ∨ ∃ i, q = g i := by
  rcases List.mem_append.mp h with h | h
  · obtain ⟨i, -, rfl⟩ := List.mem_map.mp h
    exact .inl ⟨i, rfl⟩
  · obtain ⟨i, -, rfl⟩ := List.mem_map.mp h
    exact .inr ⟨i, rfl⟩

/-- The corner may be counted to the second leg. -/
theorem bend_eq_dropLast (hc : f v = g u) : bend f g x v u w = (between x v).dropLast.map f ++ (between u w).map g := by
  have hfirst : between x v = (between x v).dropLast ++ [v] := by
    obtain ⟨t, ht⟩ := List.getLast?_eq_some_iff.mp (getLast?_between x v)
    rw [ht, List.dropLast_concat]
  have hsecond : between u w = u :: (between u w).drop 1 := by
    obtain ⟨t, ht⟩ := List.head?_eq_some_iff.mp (head?_between u w)
    rw [ht]
    rfl
  calc bend f g x v u w
      = ((between x v).dropLast ++ [v]).map f ++ ((between u w).drop 1).map g := by rw [bend, ← hfirst]
    _ = (between x v).dropLast.map f ++ (u :: (between u w).drop 1).map g := by simp [hc]
    _ = (between x v).dropLast.map f ++ (between u w).map g := by rw [← hsecond]

/-- A way ends at the end of its second leg. -/
theorem getLast?_bend (hc : f v = g u) : (bend f g x v u w).getLast? = some (g w) := by
  rw [bend_eq_dropLast hc, List.getLast?_append, List.getLast?_map, getLast?_between, Option.map_some, Option.some_or]

/-- A way back takes the legs in the other order. -/
theorem reverse_bend (hc : f v = g u) : (bend f g x v u w).reverse = bend g f w u v x := by
  rw [bend_eq_dropLast hc, List.reverse_append, ← List.map_reverse, ← List.map_reverse, reverse_between, ← List.tail_reverse,
    reverse_between, bend, List.drop_one]

end

/-! ### Ways of packets -/

/-- A packet's way has no detour, starts and ends where it should, and turns once. -/
theorem panelWay_no_detour (a b : PanelEnd) :
    (panelWay a b).length = (a.place.1 - b.place.1) + (b.place.1 - a.place.1) + (a.place.2 - b.place.2) + (b.place.2 - a.place.2) + 1 ∧
    (panelWay a b).head? = some a.place ∧ (panelWay a b).getLast? = some b.place ∧
    (∀ q ∈ panelWay a b, if orderXY a b then q.1 = a.place.1 ∨ q.2 = b.place.2 else q.2 = a.place.2 ∨ q.1 = b.place.1) := by
  rw [panelWay_eq_bend]
  split
  · refine ⟨by rw [length_bend]; omega, head?_bend, getLast?_bend rfl, fun q hq => ?_⟩
    rcases mem_bend hq with ⟨i, rfl⟩ | ⟨i, rfl⟩
    · exact .inl rfl
    · exact .inr rfl
  · refine ⟨length_bend, head?_bend, getLast?_bend rfl, fun q hq => ?_⟩
    rcases mem_bend hq with ⟨i, rfl⟩ | ⟨i, rfl⟩
    · exact .inl rfl
    · exact .inr rfl

/-- Requests to a perimeter die and their responses have opposite orders. -/
theorem orderXY_response (p : GridPlace) (f : PanelFord) : orderXY (.rim f) (.grid p) = !orderXY (.grid p) (.rim f) := rfl

/-- So a response crosses the C-dies of its request, backwards. -/
theorem panelWay_response (p : GridPlace) (f : PanelFord) : panelWay (.rim f) (.grid p) = (panelWay (.grid p) (.rim f)).reverse := by
  rw [panelWay_eq_bend, panelWay_eq_bend, orderXY_response]
  cases orderXY (.grid p) (.rim f)
  · exact (reverse_bend (by rfl)).symm
  · exact (reverse_bend (by rfl)).symm

/-- The channel of a request to a perimeter die, and of the response. -/
theorem panelVc_perimeter (p : GridPlace) (f : PanelFord) : panelVc false (.grid p) (.rim f) = (if f.edge.vertical then 0 else 1) ∧
    panelVc true (.rim f) (.grid p) = (if f.edge.vertical then 3 else 2) := by
  have horder : orderXY (.grid p) (.rim f) = f.edge.vertical := rfl
  rw [panelVc, panelVc, orderXY_response, horder]
  cases f.edge.vertical
  · exact ⟨rfl, rfl⟩
  · exact ⟨rfl, rfl⟩

/-- Settles O60: the two legs of a way, the same legs backwards, and the passage from P0 to P1 crossed ford by ford. -/
theorem panelRoutes : Obligations.PanelRoutes := by
  refine ⟨panelWay_no_detour, fun p f => ⟨panelWay_response p f, panelVc_perimeter p f⟩, fun f g hf hg => ?_⟩
  cases hf
  cases hg
  decide

end Sys2Proof.Machine
end

section
/-! Sparing, step by step, and the flip of the binding (01 R38 to R41; 17 R485 to R487). -/

namespace Sys2Proof.Machine

/-! ### The remap banks and the states of the dies -/

/-- What a flip changes: the remap banks with what says which is active, and the states of the dies. -/
structure Binding where
  activeBank : Bool
  generation : BitVec 16
  remapHold : List Nat
  bank0 : List Nat
  bank1 : List Nat
  cstates : List CState

/-- The binding of a state. -/
def State.binding (s : State) : Binding where
  activeBank := s.pkg.activeBank
  generation := s.pkg.generation
  remapHold := s.pkg.remapHold
  bank0 := s.pkg.bank0
  bank1 := s.pkg.bank1
  cstates := s.dies.map (·.cstate)

/-- A change of an entry leaves every other entry alone. -/
theorem getD_modAt_ne {α : Type} {l : List α} {i k : Nat} (h : k ≠ i) (f : α → α) (d : α) : (modAt l i f).getD k d = l.getD k d := by
  simp [modAt, List.getD_eq_getElem?_getD, h.symm]

/-- A list of images changes as the list does. -/
theorem map_modAt {α β : Type} {g : α → β} {f : α → α} {f' : β → β} (l : List α) (i : Nat) (h : ∀ x, g (f x) = f' (g x)) :
    (modAt l i f).map g = modAt (l.map g) i f' := by
  refine List.ext_getElem (by simp) fun k _ _ => ?_
  simp only [modAt, List.getElem_map, List.getElem_modify]
  split
  · exact h _
  · rfl

/-- The state of a die, in the binding. -/
theorem State.die_cstate (s : State) (d : Nat) : (s.die d).cstate = s.binding.cstates.getD d .enabled := by
  rw [State.binding, List.getD_eq_getElem?_getD, List.getElem?_map, State.die, List.getD_eq_getElem?_getD]
  exact (Option.getD_map Die.cstate {} s.dies[d]?).symm

/-! ### What leaves the binding alone -/

section
variable {s t : State}

theorem State.binding_modTileP (p : Nat) (f : Tile → Tile) : (s.modTileP p f).binding = s.binding := rfl

/-- A change of a die changes its state as it says, and nothing else of the binding. -/
theorem State.binding_modDie {d : Nat} {f : Die → Die} {f' : CState → CState} (h : ∀ x, (f x).cstate = f' x.cstate) :
    (s.modDie d f).binding = { s.binding with cstates := modAt s.binding.cstates d f' } :=
  congrArg (Binding.mk s.pkg.activeBank s.pkg.generation s.pkg.remapHold s.pkg.bank0 s.pkg.bank1) (map_modAt s.dies d h)

theorem State.binding_leaveTile (p : Nat) : (s.leaveTile p).binding = s.binding := by
  refine (State.binding_modDie (s := s) (d := p / 8) (f' := id) (f := fun d => { d with
    tokens := d.tokens.filter (· != p), tokenWait := d.tokenWait.filter (· != p) }) fun _ => rfl).trans ?_
  rw [modAt, List.modify_id]

theorem State.binding_takeHome (l c id home : Nat) : (s.takeHome l c id home).binding = s.binding := by
  unfold State.takeHome
  dsimp only
  repeat' split
  all_goals rfl

theorem State.binding_resumeTakes : s.resumeTakes.binding = s.binding := by
  refine foldl_keeps (Q := fun t : State => t.binding = s.binding) _ rfl fun t l h => ?_
  dsimp only
  split
  · exact (State.binding_takeHome ..).trans h
  · exact h

theorem State.binding_saveBinding : s.saveBinding.binding = s.binding := rfl

theorem State.binding_event (code objKind obj : Nat) (ctx : Option Nat) (data : BitVec 3328) :
    (s.event code objKind obj ctx data).binding = s.binding := by
  unfold State.event
  split
  · rfl
  · obtain ⟨se, o, h⟩ := State.foldl_flush_frame _ _
    rw [State.post, h]
    rfl

theorem State.binding_resolve (p : Req → Bool) (st : Status) (code : Nat) (body : BitVec 3456) (len : Nat) :
    (s.resolve p st code body len).binding = s.binding := rfl

end

/-! ### The steps of a sparing -/

section
variable {s : State} {src : Fin 64} {tile : Option (Fin 8)} {x : Sparing}

/-- A target that carries tiles needs no preparation. -/
theorem exec_sparePrepare_enabled (rep : W32) (hx : s.sparing? src tile = some x) (hphase : x.phase = .preparing)
    (hmgr : s.pkg.mgr.st = .running) (htarget : (s.mgr x.target).st ≠ .restarting) (hboot : s.pkg.st ≠ .boot)
    (hen : (s.die x.target).cstate = .enabled) :
    exec (.sparePrepare src tile true rep) s = .next (s.modSparing x (fun y => { y with phase := .ready })) := by
  show execSparePrepare src tile true rep s = _
  simp [execSparePrepare, hx, hphase, hmgr, htarget, hboot, hen]

/-- A warm move has copied when the operations of its tiles have completed. -/
theorem exec_warmMove_quiet (hx : s.sparing? src tile = some x) (hwarm : x.warm = true) (hphase : x.phase = .ready)
    (hne : s.boundTo x.src x.tile ≠ []) (hmoving : (s.boundTo x.src x.tile).all (fun l => (s.tileL l).moving) = true)
    (hquiet : (s.boundTo x.src x.tile).all s.tileQuiet = true) :
    exec (.warmMove src tile) s = .next (s.modSparing x (fun y => { y with phase := .copied })) := by
  show execWarmMove src tile s = _
  simp only [execWarmMove, hx]
  rw [if_neg (by simp [hwarm, hne]), if_pos hmoving, if_pos ⟨hphase, hquiet⟩]

/-- Two folds are equal when their steps are, in the states that both go through. -/
theorem foldl_eq_of_keeps {α β : Type} {Q : β → Prop} {f g : β → α → β} (l : List α) {b : β} (h : Q b)
    (hfg : ∀ b a, Q b → f b a = g b a ∧ Q (g b a)) : l.foldl f b = l.foldl g b := by
  induction l generalizing b with
  | nil => rfl
  | cons a l ih =>
    obtain ⟨heq, hq⟩ := hfg b a h
    rw [List.foldl_cons, List.foldl_cons, heq, ih hq]

/-- A cold move without contexts clears the target tiles: none of them has a compiled table to load. -/
theorem exec_coldMove_of_no_ctx (hx : s.sparing? src tile = some x) (hwarm : x.warm = false) (hphase : x.phase = .ready) (hctx : s.ctxs = []) :
    exec (.coldMove src tile) s =
      .next (((s.movesOf x).foldl (fun s m => s.modTileP m.2 Tile.clear) s).modSparing x (fun y => { y with phase := .copied })) := by
  show execColdMove src tile s = _
  simp only [execColdMove, hx]
  rw [if_neg (by simp [hwarm, hphase, hctx])]
  refine congrArg (fun t : State => Host.Outcome.next (t.modSparing x _))
    (foldl_eq_of_keeps (Q := fun t : State => t.ctxs = []) _ hctx fun t m h => ⟨?_, h⟩)
  have hnone : t.ctxOfTile m.1 = none := by simp [State.ctxOfTile, h]
  rw [hnone]
  rfl

/-- The state after a change of the remap table: the inactive bank holds the new one. -/
def State.remapped (s : State) (x : Sparing) : State :=
  (s.modPkg (fun p => { p with
    bank0 := if p.activeBank then (s.movesOf x).foldl (fun b m => b.set m.1 m.2) s.bank else p.bank0
    bank1 := if p.activeBank then p.bank1 else (s.movesOf x).foldl (fun b m => b.set m.1 m.2) s.bank
    remapHold := (s.movesOf x).map (·.1) })).modSparing x (fun y => { y with phase := .binding })

/-- A change of the remap table begins when no other is under way. -/
theorem exec_remapChange (hx : s.sparing? src tile = some x) (hphase : x.phase = .copied)
    (hone : s.pkg.sparings.any (fun y => y.phase == .binding) = false) (hmgr : s.pkg.mgr.st = .running) :
    exec (.remapChange src tile) s = .next (s.remapped x) := by
  show execRemapChange src tile s = _
  simp only [execRemapChange, hx]
  rw [if_neg (by simp [hphase, hone, hmgr])]
  rfl

/-- It changes the package's registers only, and holds the traffic of the moving tiles. -/
theorem State.pkg_remapped : (s.remapped x).pkg.activeBank = s.pkg.activeBank ∧ (s.remapped x).pkg.remapHold = (s.movesOf x).map (·.1) ∧
    s.remapped x = { s with pkg := (s.remapped x).pkg } := by
  simp only [State.remapped, State.modSparing, State.modPkg, and_self]

/-- It leaves the bindings as they are. -/
theorem State.phys_remapped (l : Nat) : (s.remapped x).phys l = s.phys l := by
  cases hb : s.pkg.activeBank <;> simp [State.remapped, State.phys, State.modSparing, hb]

/-- The bank that is not active takes the new table. -/
theorem State.bank_remapped : (if s.pkg.activeBank then (s.remapped x).pkg.bank0 else (s.remapped x).pkg.bank1) =
    (s.movesOf x).foldl (fun b m => b.set m.1 m.2) s.bank := by
  cases hb : s.pkg.activeBank <;> simp [State.remapped, State.modSparing, hb]

end

/-! ### The flip -/

/-- The tiles of a move hand over: at a warm move the target takes the state of the source. -/
def State.handOver (s : State) (x : Sparing) : State :=
  (s.movesOf x).foldl (fun s m =>
    let a := if x.warm then s.modTileP m.2 (fun t => t.takeOver (s.tileL m.1)) else s
    a.leaveTile (s.phys m.1)) s

/-- The flip of a whole die's move, once its tiles have handed over. -/
def State.flipWhole (s : State) (x : Sparing) : State :=
  ((s.modPkg (fun p => { p with
    activeBank := !p.activeBank
    generation := p.generation + 1
    remapHold := []
    sparings := p.sparings.filter (· != x) })).modDie x.target (fun d => { d with cstate := .enabled })).modDie x.src
      (fun d => { d with cstate := .retired })

section
variable {s : State} {x : Sparing}

/-- The hand-over does not change the binding. -/
theorem State.binding_handOver : (s.handOver x).binding = s.binding := by
  refine foldl_keeps (Q := fun t : State => t.binding = s.binding) _ rfl fun t m h => ?_
  dsimp only
  rw [State.binding_leaveTile]
  split
  · exact h
  · exact h

/-- A flip of a whole die's move ends in the binding of `State.flipWhole`. -/
theorem exec_remapFlip_whole (hx : s.pkg.sparings.find? (fun y => y.phase == .binding) = some x) (htile : x.tile = none) :
    ∃ t, exec .remapFlip s = .next t ∧ t.binding = ((s.handOver x).flipWhole x).binding := by
  show ∃ t, execRemapFlip s = .next t ∧ _
  simp only [execRemapFlip, hx, htile]
  refine ⟨_, rfl, ?_⟩
  rw [State.binding_resolve, State.binding_event, State.binding_saveBinding, State.binding_resumeTakes]
  rfl

/-- In that binding the other bank is active, in a new generation, with no traffic held and the banks as they were. -/
theorem State.binding_flipWhole : (s.flipWhole x).binding = { s.binding with
    activeBank := !s.binding.activeBank
    generation := s.binding.generation + 1
    remapHold := []
    cstates := modAt (modAt s.binding.cstates x.target (fun _ => .enabled)) x.src (fun _ => .retired) } := by
  rw [State.flipWhole, State.binding_modDie (f' := fun _ => .retired) fun _ => rfl,
    State.binding_modDie (f' := fun _ => .enabled) fun _ => rfl]
  rfl

end

/-- Settles O23: the command of each step in turn; the flip is read off its binding. -/
theorem sparingCompletes : Obligations.SparingCompletes := by
  refine ⟨fun s src tile rep x => exec_sparePrepare_enabled rep,
    fun s src tile x hx hwarm hphase _ => exec_warmMove_quiet hx hwarm hphase,
    fun s src tile x => exec_coldMove_of_no_ctx,
    fun s src tile x hx hphase hone hmgr => ?_, fun s x hx htile hsrc htarget hne hdies => ?_⟩
  · obtain ⟨hact, hhold, hpkg⟩ := s.pkg_remapped (x := x)
    exact ⟨s.remapped x, exec_remapChange hx hphase hone hmgr, hact, hhold, s.phys_remapped, hpkg, s.bank_remapped⟩
  · obtain ⟨t, ht, hb⟩ := exec_remapFlip_whole hx htile
    rw [State.binding_flipWhole, State.binding_handOver] at hb
    have hlen : s.binding.cstates.length = 88 := (List.length_map _).trans hdies
    refine ⟨t, ht, congrArg Binding.activeBank hb, congrArg Binding.generation hb, congrArg Binding.remapHold hb,
      congrArg Binding.bank0 hb, congrArg Binding.bank1 hb, ?_, ?_⟩
    · rw [State.die_cstate, hb]
      exact getD_modAt_self (by rw [length_modAt]; omega) _ _
    · rw [State.die_cstate, hb]
      exact (getD_modAt_ne hne.symm _ _).trans (getD_modAt_self (by omega) _ _)

end Sys2Proof.Machine
end

section
/-! Drains and the millrace, message by message (04 R115 to R124). -/

namespace Sys2Proof.Machine

section
variable {s : State}

/-- An operation in flight is found again after a change that keeps the numbers of the operations. -/
theorem State.op?_modOp {id : Nat} {o : Op} {f : Op → Op} (hop : s.op? id = some o) (hf : ∀ x, (f x).id = x.id) :
    (s.modOp id f).op? id = some (f o) := by
  have hid : ((fun x : Op => x.id == id) ∘ fun x => if x.id = id then f x else x) = fun x => x.id == id := by
    funext x
    simp only [Function.comp_apply]
    split
    · rw [hf]
    · rfl
  have ho : o.id = id := by simpa using List.find?_some hop
  rw [State.op?, State.modOp_ops, List.find?_map, hid, show s.ops.find? _ = some o from hop, Option.map_some, if_pos ho]

/-- Within the module a message of the millrace joins those on their way. -/
@[simp] theorem State.sendMr_none (slot : Nat) (m : MrMsg) : s.sendMr slot none m = { s with mrMsgs := s.mrMsgs ++ [m] } := rfl

/-- A half whose peer is on this module sends within it. -/
theorem mrTo_of_not_mrRemote {half : W64} (h : mrRemote half = false) : mrTo half = none := by
  simp [mrTo, h]

end

/-! ### Rows that leave -/

section
variable {s : State} {o : Op} {row : Nat} {rest : List Nat}

/-- The next row of a drain without privatized scales is converted and written, and counts its events (04 R115 to R117). -/
theorem exec_drainRow_shared (hop : s.op? o.id = some o) (hdue : o.rowsDue = row :: rest) (hkind : o.kind = 1) (hdrains : o.drains = true)
    (hout : (OpD.of o.desc).accOut = 1) (hdie : s.dieRuns (s.phys o.tile) = true) (hpriv : (OpD.of o.desc).privScale = false) :
    exec (.drainRow o.id) s =
      .next (((s.modTileP (s.phys o.tile) (fun t => t.writeBits ((OpD.of o.desc).drainRow (s.issueCtx o) (s.tileL o.tile) row).segs)).opEvents
        o (s.phys o.tile) { sat := b2n ((OpD.of o.desc).drainRow (s.issueCtx o) (s.tileL o.tile) row).sat
                            nf := b2n ((OpD.of o.desc).drainRow (s.issueCtx o) (s.tileL o.tile) row).nf }).modOp o.id (fun x => { x with
          rowsDue := rest
          phase := if rest.isEmpty ∧ x.phase = .running then .finished else x.phase })) := by
  show execDrainRow o.id s = _
  simp only [execDrainRow, hop, hdue]
  rw [if_neg (by simp [hkind, hdrains, hout, hdie])]
  simp only [hpriv, Bool.false_eq_true, if_false]
  rfl

/-- A row of accumulator memory as a message carries it: 128 words of 32 bits (04 R122). -/
def Tile.accData (t : Tile) (row : Nat) : BitVec 4096 :=
  BitVec.ofNat 4096 (ofBytes ((List.range 128).flatMap (fun j => toBytes 4 (smGet 0 t.acc (row * 128 + j)).toNat)))

/-- After its grant an operation sends its next row, numbered from the start of its region (04 R122). -/
theorem exec_millraceSend_granted (hop : s.op? o.id = some o) (hdue : o.rowsDue = row :: rest) (hkind : o.kind = 1)
    (hdrains : o.drains = true) (hout : (OpD.of o.desc).accOut = 2) (hgrant : o.granted = true) (hdie : s.dieRuns (s.phys o.tile) = true) :
    exec (.millraceSend o.id) s =
      .next ((s.modOp o.id (fun x => { x with
        rowsDue := rest
        rowsSent := x.rowsSent ++ [row - (OpD.of o.desc).accRow] })).sendMr (hSlot o.ch)
          (mrTo (smGet 0 (s.tileL o.tile).mrOut (OpD.of o.desc).link))
          (o.mrMsg (smGet 0 (s.tileL o.tile).mrOut (OpD.of o.desc).link)
            (.row (row - (OpD.of o.desc).accRow) ((s.tileL o.tile).accData row)))) := by
  show execMillraceSend o.id s = _
  simp only [execMillraceSend, hop, hdue]
  rw [if_neg (by simp [hkind, hdrains, hout, hgrant, hdie])]
  rfl

end

/-! ### Messages that arrive -/

section
variable {s : State} {k r : Nat} {m : MrMsg} {o : Op}

/-- A grant that matches its half lets the operation that holds it send (04 R121). -/
theorem exec_mrGrant_held (hm : s.mrMsgs[k]? = some m) (hkind : m.kind = .grant) (hhold : s.pkg.remapHold.contains m.tile = false)
    (hmatch : mrMismatch (smGet 0 (s.tileL m.tile).mrOut m.entry) m = false) (hop : s.mrHolder m.tile m.entry true = some o) :
    exec (.mrGrant k) s =
      .next (({ s with mrMsgs := s.mrMsgs.eraseIdx k } : State).modOp o.id (fun x => { x with granted := true })) := by
  show execMrGrant k s = _
  simp only [execMrGrant, hm]
  rw [if_neg (by simp only [hkind, hhold]; decide), if_neg (by simp only [hmatch]; decide), hop]

/-- While another row is missing, the rows of a region have not all landed. -/
theorem not_all_landed {n : Nat} {landed : List Nat} (h : ∃ i, i < n ∧ i ≠ r ∧ landed.contains i = false) :
    (List.range n).all (fun i => i == r || landed.contains i) = false := by
  obtain ⟨i, hi, hne, hmiss⟩ := h
  exact List.all_eq_false.mpr ⟨i, List.mem_range.mpr hi, by simpa [hne] using hmiss⟩

/-- A row of the region of the operation that receives it lands in the accumulator and is acknowledged; with others missing, the
hand-off is not complete (04 R119, R122). -/
theorem exec_mrRow_lands {data : BitVec 4096} (hm : s.mrMsgs[k]? = some m) (hkind : m.kind = .row r data)
    (hhold : s.pkg.remapHold.contains m.tile = false) (hmatch : mrMismatch (smGet 0 (s.tileL m.tile).mrIn m.entry) m = false)
    (hop : s.mrHolder m.tile m.entry false = some o) (hr : r < (OpD.of o.desc).regionRows)
    (hmore : ∃ i, i < (OpD.of o.desc).regionRows ∧ i ≠ r ∧ o.landed.contains i = false) :
    exec (.mrRow k) s = .next (((({ s with mrMsgs := s.mrMsgs.eraseIdx k } : State).modTileL m.tile (fun t => { t with
      acc := (List.range 128).foldl (fun a j => smPutD 0 a (((OpD.of o.desc).accRow + r) * 128 + j)
        (BitVec.ofNat 32 (fieldN data (32 * j + 31) (32 * j)))) t.acc })).modOp o.id (fun x => { x with
          landed := if x.landed.contains r then x.landed else x.landed ++ [r] })).mrReply m (some o) (.ack r)) := by
  show execMrRow k s = _
  simp only [execMrRow, hm, hkind, hhold, hmatch, hop, not_all_landed hmore, Bool.false_eq_true, false_and, if_false]
  rw [if_neg (by omega)]

/-- An acknowledgement takes its row off those sent; with rows still to send, the operation goes on (04 R122). -/
theorem exec_mrAck_ack (hm : s.mrMsgs[k]? = some m) (hkind : m.kind = .ack r) (hhold : s.pkg.remapHold.contains m.tile = false)
    (hop : s.mrHolder m.tile m.entry true = some o) (hdue : o.rowsDue ≠ []) :
    exec (.mrAck k) s = .next (({ s with mrMsgs := s.mrMsgs.eraseIdx k } : State).modOp o.id (fun x => { x with
      rowsSent := o.rowsSent.erase r })) := by
  have hmore : o.rowsDue.isEmpty = false := by simpa using hdue
  show execMrAck k s = _
  simp only [execMrAck, hm, hhold, hkind, hop, hmore, Bool.and_false, Bool.false_and, Bool.false_eq_true, false_and, if_false]

/-- A rejection is counted, and fails the operation that holds the side it names (04 R124). -/
theorem exec_mrAck_reject {out : Bool} (hm : s.mrMsgs[k]? = some m) (hkind : m.kind = .reject r out)
    (hhold : s.pkg.remapHold.contains m.tile = false) (hop : s.mrHolder m.tile m.entry out = some o) :
    exec (.mrAck k) s =
      .next ((({ s with mrMsgs := s.mrMsgs.eraseIdx k } : State).accFlag (s.phys m.tile) 2 1).failOp o.id .millraceReject) := by
  show execMrAck k s = _
  simp only [execMrAck, hm, hhold, hkind, hop, Bool.false_eq_true, if_false]

end

/-! ### The operation that receives -/

section
variable {s : State} {o : Op}

/-- An operation goes on when the row of its next issue, where it has one, has landed (04 R123). -/
theorem Op.goesOn_of_fed (h : ∀ i, (OpD.of o.desc).issues[o.rowIssues]? = some i → (OpD.of o.desc).fed o.landed i = true) :
    o.goesOn = true := by
  simp only [Op.goesOn]
  split
  case h_1 i hi => exact h i hi
  case h_2 => rfl

/-- The issued operation of a queue goes on before the head of the queue is tried (04 R123; 06 R180). -/
theorem State.runHead_goesOn {opcode l q : Nat} (run : OpD → IssueCtx → Nat → Tile → RunRes)
    (hop : s.ops.find? (fun x => x.kind == 1 && x.tile == l && x.queue == q && x.opcode == opcode && x.phase == .issued) = some o)
    (hfed : o.goesOn = true) (hdie : s.dieRuns (s.phys l) = true) : s.runHead opcode l q run = s.runOp o run := by
  simp only [State.runHead, hop]
  exact if_pos ⟨hfed, hdie⟩

/-- The command of a matrix opcode runs it on the queue it names. -/
theorem exec_matrixRow {e : TileRow} (he : e ∈ matrixRows) (s : State) (l : Fin 480) (q : Fin 8) :
    exec (e.1 l q) s = .next (s.runHead e.2.1 l.val q.val e.2.2) := by
  obtain rfl | rfl : e = _ ∨ e = _ := by simpa [matrixRows] using he
  · rfl
  · rfl

end

/-- Settles O34: each message takes effect at the operation that holds its side; a row sent within the module is read off the
accumulator and joins the messages on their way. -/
theorem drainAndMillraceComplete : Obligations.DrainAndMillraceComplete := by
  refine ⟨fun s o row rest => exec_drainRow_shared, fun s k m o => exec_mrGrant_held,
    fun s o row rest hop hdue hkind hdrains hout hgrant hdie hlocal => ?_,
    fun s k r m data o hm hkind hhold hmatch hop hr _ hmore => exec_mrRow_lands hm hkind hhold hmatch hop hr hmore,
    fun s k r m o => exec_mrAck_ack, fun e he s l q o hop hfed hdie => ?_, fun s k r out m o => exec_mrAck_reject⟩
  · have hsend := exec_millraceSend_granted hop hdue hkind hdrains hout hgrant hdie
    rw [mrTo_of_not_mrRemote hlocal, State.sendMr_none] at hsend
    exact ⟨_, _, _, (s.tileL o.tile).accData row, hsend, State.op?_modOp hop fun _ => rfl, rfl, rfl, rfl, rfl, rfl, rfl, rfl⟩
  · rw [exec_matrixRow he, State.runHead_goesOn _ hop (Op.goesOn_of_fed hfed) hdie]

end Sys2Proof.Machine
end

section
/-! The training step: heads under `GUARD`, the close, and banked ranges (07 R200, R214, R216). -/

namespace Sys2Proof.Machine

/-! ### The commands of the tile opcodes -/

/-- The command of a tile opcode tries its operation on the queue it names (06 R180). -/
theorem exec_tileOpcode {e : TileRow} (he : e ∈ tileOpcodes) (s : State) (l : Fin 480) (q : Fin 8) :
    exec (e.1 l q) s = .next (s.runHead e.2.1 l.val q.val e.2.2) := by
  simp only [tileOpcodes, List.mem_append] at he
  obtain ((((he | he) | he) | he) | he) | he := he
  · exact exec_matrixRow he s l q
  · simp only [arithmeticRows, List.mem_cons, List.not_mem_nil, or_false] at he
    obtain rfl | rfl | rfl | rfl | rfl | rfl | rfl | rfl | rfl | rfl | rfl | rfl := he <;> rfl
  · simp only [functionRows, List.mem_cons, List.not_mem_nil, or_false] at he
    obtain rfl | rfl | rfl | rfl | rfl | rfl | rfl | rfl | rfl := he <;> rfl
  · simp only [normRows, List.mem_cons, List.not_mem_nil, or_false] at he
    obtain rfl | rfl | rfl | rfl := he <;> rfl
  · simp only [reductionRows, List.mem_cons, List.not_mem_nil, or_false] at he
    obtain rfl | rfl | rfl | rfl | rfl | rfl | rfl := he <;> rfl
  · simp only [sparseRows, List.mem_cons, List.not_mem_nil, or_false] at he
    obtain rfl | rfl | rfl := he <;> rfl

/-! ### The head of a queue -/

section
variable {s : State} {o : Op} {opcode l q c : Nat} {y : Ctx} {run : OpD → IssueCtx → Nat → Tile → RunRes}

/-- While no issued operation of the opcode on a queue can go on, the head of the queue is tried (06 R180; 04 R123). -/
theorem State.runHead_of_not_goesOn (run : OpD → IssueCtx → Nat → Tile → RunRes)
    (h : s.ops.any (fun x => x.kind == 1 && x.tile == l && x.queue == q && x.opcode == opcode && x.phase == .issued && x.goesOn) = false) :
    s.runHead opcode l q run = s.tryHead opcode l q run := by
  rw [State.runHead]
  split
  · next x hx =>
    have hstay : ¬ x.goesOn = true := by
      have hx' := List.any_eq_false.mp h x (List.mem_of_find?_eq_some hx)
      rwa [List.find?_some hx, Bool.true_and] at hx'
    exact if_neg fun hgo => hstay hgo.1
  · rfl

/-- The verdict that a bound tile sees is that of its context (07 R200). -/
theorem State.verdictOn_of_ctx (hc : s.ctxOfTile l = some c) (hy : s.ctx? c = some y) : s.verdictOn l = y.verdict := by
  simp [State.verdictOn, hc, hy]

/-- A head that neither completes without running nor can issue stays (06 R180). -/
theorem State.tryHead_stays (hhead : s.headOf l q = some o) (hskip : s.headSkips o = false) (hissue : s.issuable o = false) :
    s.tryHead opcode l q run = s := by
  simp [State.tryHead, hhead, hskip, hissue]

/-- A head of the opcode that can issue, on a tile that is open, issues when it is chosen (06 R180 to R182). -/
theorem State.tryHead_issues (hhead : s.headOf l q = some o) (hop : o.opcode = opcode) (hc : s.ctxOfTile l = some c)
    (hwaits : o.waitsTaken = true) (hskip : s.headSkips o = false) (hissue : s.issuable o = true) (hopen : s.tileOpen l = true)
    (hchosen : s.chosen o = true) :
    s.tryHead opcode l q run = (s.countLosses o).issueHead o run := by
  simp [State.tryHead, hhead, hop, hc, hskip, hissue, hopen, hchosen, hwaits]

/-- A head of the opcode that completes without running does so once its waits are taken (06 R183). -/
theorem State.tryHead_skips (hhead : s.headOf l q = some o) (hop : o.opcode = opcode) (hc : s.ctxOfTile l = some c)
    (hwaits : o.waitsTaken = true) (hskip : s.headSkips o = true) :
    s.tryHead opcode l q run = s.skipHead o (OpD.of o.desc).frozen := by
  simp [State.tryHead, hhead, hop, hc, hskip, hwaits]

end

/-! ### An operation that leaves the head -/

section
variable {s : State} {o : Op}

/-- An operation that is not at a queue is found as it was after the heads are noted. -/
theorem State.op?_refreshHeads {id : Nat} (hop : s.op? id = some o) (hq : o.isQueued = false) : s.refreshHeads.op? id = some o := by
  have hid : ∀ (b : Prop) [Decidable b] (x : Op), (if b then { x with headAt := some s.now } else x).id = x.id := by
    intro b _ x
    split <;> rfl
  simp only [State.op?, State.refreshHeads, List.find?_map, Function.comp_def, hid] at hop ⊢
  simp [hop, hq]

/-- The instant at which a queue's wait began does not concern the operations. -/
theorem State.op?_touchQueue (id : Nat) : (s.touchQueue o).op? id = s.op? id := by
  unfold State.touchQueue
  split <;> rfl

/-- An operation that leaves the head of its queue is found as its change leaves it. -/
theorem State.op?_leave {f : Op → Op} (hop : s.op? o.id = some o) (hf : ∀ x, (f x).id = x.id) (hq : (f o).isQueued = false) :
    (s.leave o f).op? o.id = some (f o) :=
  State.op?_refreshHeads (by rw [State.op?_touchQueue, State.op?_modOp hop hf]) hq

/-- An operation that completes without running is found finished (06 R183). -/
theorem State.op?_skipHead (hop : s.op? o.id = some o) (frozen : Bool) :
    (s.skipHead o frozen).op? o.id = some { o with phase := .finished, frozen := frozen, skipped := !frozen } :=
  State.op?_leave hop (fun _ => rfl) rfl

end

/-! ### Fields of a packed word -/

/-- Fields joined to a word keep its bits and add their own. -/
theorem getLsbD_foldl_place {w i : Nat} {f : Nat × Nat × Nat} (hi : (place w f.1 f.2.1 f.2.2).getLsbD i = true)
    (fs : List (Nat × Nat × Nat)) (acc : BitVec w) (h : acc.getLsbD i = true ∨ f ∈ fs) :
    (fs.foldl (fun acc g => acc ||| place w g.1 g.2.1 g.2.2) acc).getLsbD i = true := by
  induction fs generalizing acc with
  | nil => simpa using h
  | cons g fs ih =>
    refine ih _ ?_
    rw [BitVec.getLsbD_or]
    obtain hacc | hmem := h
    · simp [hacc]
    · obtain rfl | hmem := List.mem_cons.mp hmem
      · simp [hi]
      · exact .inr hmem

/-- A bit of a packed word that one of its fields sets is set. -/
theorem getLsbD_pack_of_mem {w i : Nat} {f : Nat × Nat × Nat} {fs : List (Nat × Nat × Nat)} (hf : f ∈ fs)
    (hi : (place w f.1 f.2.1 f.2.2).getLsbD i = true) : (pack w fs).getLsbD i = true :=
  getLsbD_foldl_place hi fs 0 (.inr hf)

/-- The record of a skipped operation has `SKIPPED` set (06 R175). -/
theorem Op.record_skipped {p : Op} (h : p.skipped = true) (ringN : Nat) (phase : Bool) : (p.record ringN phase).getLsbD 6 = true := by
  rw [Op.record]
  refine getLsbD_pack_of_mem (f := (6, 6, b2n p.skipped)) (by simp) ?_
  simp [place, h, b2n]

/-- Settles O35: the verdict of the tile's context decides whether the head can issue or completes without running. -/
theorem guardFollowsVerdict : Obligations.GuardFollowsVerdict := by
  intro e he s l q o c y hhead hop htile hc hy hstay hopcode hwaits hfrozen hguard hcause _ _ _ hcell hxl
  have hverdict : s.verdictOn l.val = y.verdict := State.verdictOn_of_ctx hc hy
  have hskips : s.headSkips o = (y.verdict == .skip) := by simp [State.headSkips, hfrozen, hguard, htile, hverdict]
  rw [exec_tileOpcode he, State.runHead_of_not_goesOn e.2.2 hstay]
  refine ⟨fun hv => ?_, fun hv hhaz hbusy hhop hpark hmove hdie hchosen => ?_, fun hv => ?_⟩
  · have hno : s.headSkips o = false := by rw [hskips, hv]; rfl
    have hheld : s.issuable o = false := by simp [State.issuable, hguard, htile, hverdict, hv]
    rw [State.tryHead_stays hhead hno hheld]
    exact ⟨rfl, by simp [State.headReason, hhead, hcell, hxl, hwaits, hguard, hno, hverdict, hv]⟩
  · have hno : s.headSkips o = false := by rw [hskips, hv]; rfl
    have hissue : s.issuable o = true := by simp [State.issuable, hwaits, hno, htile, hverdict, hv, hhaz, hbusy, hhop]
    have hopen : s.tileOpen l.val = true := by simp [State.tileOpen, hpark, hmove, hdie]
    rw [State.tryHead_issues hhead hopcode hc hwaits hno hissue hopen hchosen]
  · rw [State.tryHead_skips hhead hopcode hc hwaits (by rw [hskips, hv]; rfl), hfrozen]
    exact ⟨_, _, rfl, State.op?_skipHead hop false, rfl, rfl, by simp [Op.status, hcause, Cause.status, Status.code],
      Op.record_skipped rfl⟩

/-! ### Banked ranges -/

section
variable {x : Ctx} {b : BankEntry} {a i : Nat}

/-- The current range of the only entry of a bank table (07 R214). -/
theorem Ctx.bankAddr_base0 (hbank : x.bank = [b]) (hb : b.banked = true) (hi : i < b.pages * 4096) :
    x.bankAddr (b.base0 + i) = if x.bankSel then b.base1 + i else b.base0 + i := by
  simp [Ctx.bankAddr, hbank, hb, bankPage, hi]

/-- The alternate range of the only entry of a bank table, above the current one (07 R214). -/
theorem Ctx.bankAddr_base1 (hbank : x.bank = [b]) (hb : b.banked = true) (hapart : b.base0 + b.pages * 4096 ≤ b.base1)
    (hi : i < b.pages * 4096) : x.bankAddr (b.base1 + i) = if x.bankSel then b.base0 + i else b.base1 + i := by
  have habove : ¬ b.base1 + i < b.base0 + b.pages * 4096 := by omega
  simp [Ctx.bankAddr, hbank, hb, bankPage, hi, habove]

/-- An address outside both ranges of the only entry of a bank table (07 R214). -/
theorem Ctx.bankAddr_outside (hbank : x.bank = [b]) (h0 : a < b.base0 ∨ b.base0 + b.pages * 4096 ≤ a)
    (h1 : a < b.base1 ∨ b.base1 + b.pages * 4096 ≤ a) : x.bankAddr a = a := by
  have hout : ∀ base, a < base ∨ base + b.pages * 4096 ≤ a →
      (decide (base ≤ a) && decide (a < base + b.pages * bankPage)) = false := by
    intro base h
    rw [Bool.and_eq_false_iff, decide_eq_false_iff_not, decide_eq_false_iff_not, bankPage]
    omega
  simp only [Ctx.bankAddr, hbank, List.foldl_cons, List.foldl_nil, Bool.and_assoc, hout _ h0, hout _ h1, Bool.and_false, Bool.false_eq_true, if_false]

end

/-- Settles O45: range by range, and outside both. -/
theorem bankSwaps : Obligations.BankSwaps := by
  intro s c a x b hx hbank hb hapart
  have hxaddr : ∀ a, s.xaddr c a = x.bankAddr a := fun a => by rw [State.xaddr, hx]
  simp only [hxaddr]
  exact ⟨fun i hi => ⟨Ctx.bankAddr_base0 hbank hb hi, Ctx.bankAddr_base1 hbank hb hapart hi⟩,
    fun h0 h1 => Ctx.bankAddr_outside hbank h0 h1⟩

/-! ### The close -/

/-- Settles O41: one verdict at a time. -/
theorem pendingCloseSkips : Obligations.PendingCloseSkips := by
  intro x sig
  refine ⟨fun hv => ?_, fun hv => ?_, fun hv => ?_⟩ <;> simp [Ctx.beginClose, hv]

/-- A close waits while an issued rill access to a banked range is in flight (07 R216, step 2). -/
theorem exec_closeFlip_waits {s : State} {c : Fin 64} (h : s.rillBanked c.val = true) : exec (.closeFlip c) s = .next s := by
  show execCloseFlip c s = _
  rw [execCloseFlip]
  split
  · rfl
  · split
    · rfl
    · exact if_pos (.inr h)

/-- A context that commits its step, with one banked page. -/
def closingCtx : Ctx :=
  { owner := 7, seed := 0, stepCount := 0, st := .running, bank := [{ base0 := 0, base1 := 4096, pages := 1, banked := true }]
    verdict := .commit, closing := .holding none true }

/-- The close of context 0 is held while the first access of a `RILL_GATHER` to the banked page is in the queue of stack 0. -/
def rillAtClose : State :=
  { State.reset with
    ctxs := [(0, closingCtx)]
    ops := [{ id := 3, ch := mkHandle 2 0 1, idx := 0, desc := pack 1024 [(63, 56, 0x84)], ctx := 0, tile := 0, queue := 0, phase := .running }]
    devices := { rillQ := [{ ch := mkHandle 2 0 1, op := 3, acc := 0, idx := 0 }] } :: State.reset.devices.tail }

/-- That access is one of the context, to its banked page. -/
theorem rillAtClose_rillBanked : rillAtClose.rillBanked 0 = true := by decide +kernel

/-- Refutes O40: the statement leaves out that no access to a banked range is in flight (07 R216, step 2). In `rillAtClose` one
is, and the command leaves the close held. -/
theorem not_closeFlips : ¬ Obligations.CloseFlips := by
  intro h
  obtain ⟨t, hexec, -, hctx, -⟩ := h rillAtClose 0 closingCtx none true rfl rfl rfl rfl rfl
  have hwaits : exec (.closeFlip 0) rillAtClose = .next rillAtClose := exec_closeFlip_waits rillAtClose_rillBanked
  obtain rfl : rillAtClose = t := by injection hwaits.symm.trans hexec
  have hheld : rillAtClose.ctx? 0 = some closingCtx := rfl
  have hidle := congrArg (Option.map Ctx.closing) (hheld.symm.trans hctx)
  cases hidle

end Sys2Proof.Machine
end

section
/-! Copies, step by step: the head of a copy channel, the rill queue of a stack, and the packets of copies between modules
(08 R233 to R243, R517). -/

namespace Sys2Proof.Machine

/-! ### The head of a copy channel -/

section
variable {s : State} {h : W32} {o : Op} {opcode : Nat} {i : Instr}

/-- The command of a copy whose runs its descriptor gives takes it off the head and runs it, when its waits are taken and nothing
holds it (08 R233, R235; log 68). -/
theorem exec_startCopy (hplain : opcode ≠ 0x83) (hexec : exec i s = .next (s.startCopy h opcode).settle) (hhead : s.headOfChan h = some o)
    (hkind : o.kind = 2) (hop : (CopyD.of o.desc).opcode = opcode) (hwaits : o.waitsTaken = true)
    (hheld : s.copyHeld o.ctx (CopyD.of o.desc) = false) :
    exec i s = .next ((s.copyLeave o 0).copyRun o (CopyD.of o.desc)).settle := by
  rw [hexec, State.startCopy, hhead]
  dsimp only
  rw [if_neg (by simp [hkind, hop, hwaits, hheld]), if_neg hplain]

/-- A lowering reads its block as it starts; one whose block passes the checks leaves the head and runs with it (08 R240; log 22). -/
theorem exec_lower {d : CopyD} {low : BitVec 512} (hhead : s.headOfChan h = some o) (hd : d = CopyD.of o.desc)
    (hlow : low = BitVec.ofNat 512 (s.readAt o.ctx d.aux 64)) (hkind : o.kind = 2) (hop : d.opcode = 0x83) (hwaits : o.waitsTaken = true)
    (hheld : s.copyHeld o.ctx d = false) (hclean : s.badRead o.ctx d.aux 64 = false) (hok : (LowerD.of low).ok low d = true)
    (hapart : (LowerD.of low).apart d = true) (hsrc : s.sideOk o.ctx d.src ((LowerD.of low).srcSpan d) true = true)
    (hdst : s.sideOk o.ctx d.dst ((LowerD.of low).dstSpan d) false = true)
    (hsrcWin : s.isOwn d.src = true → s.inWindows o.ctx (gLocal d.src) ((LowerD.of low).srcSpan d) = true)
    (hdstWin : s.isOwn d.dst = true → s.inWindows o.ctx (gLocal d.dst) ((LowerD.of low).dstSpan d) = true) :
    exec (.lower h) s = .next (((((if d.cls = 1 then s.lcRead o.ctx d.aux 64 else s).noteRead o.ctx d.aux 64).copyLeave o low).copyRun
      { o with lower := low } d).settle) := by
  show execLower h s = _
  simp only [execLower, State.startCopy, hhead, ← hd, ← hlow]
  rw [if_neg (by simp [hkind, hop, hwaits, hheld]), if_pos trivial, if_neg (by simp [hclean]), if_neg (by simp [hok, hapart, hsrc, hdst]),
    if_neg (by simpa using ⟨hsrcWin, hdstWin⟩)]

/-- The command of a rill operation takes it off the head, when its waits are taken, and issues what it may (08 R241, R243). -/
theorem exec_startRill (hexec : exec i s = .next (s.startRill h opcode)) (hhead : s.headOfChan h = some o) (hkind : o.kind = 2)
    (hop : o.opcode = opcode) (hwaits : o.waitsTaken = true) : exec i s = .next ((s.copyLeave o 0).rillGo o.id) := by
  rw [hexec, State.startRill, hhead]
  dsimp only
  rw [if_neg (by simp [hkind, hop, hwaits])]

end

/-- The oldest access of a stack's queue is served, and the queue admits more (08 R242, R243). -/
theorem exec_rillQueueFree_serves {s : State} {k : Fin 20} {o : Op} {e : RillAcc} {rest : List RillAcc}
    (hq : (s.dev k.val).rillQ = e :: rest) (hop : s.op? e.op = some o) (hwaits : s.rillWaits o e = false) :
    exec (.rillQueueFree k) s = .next (((s.modDev k.val (fun x => { x with rillQ := rest })).rillServe o e).rillAdmit k.val) := by
  show execRillQueueFree k s = _
  simp only [execRillQueueFree, hq, hop]
  rw [if_neg (by simp [hwaits])]

/-! ### Packets of copies between modules -/

section
variable {s : State} {k c n tag : Nat} {p : Packet} {o : Op}

/-- A write that a peer may make is made and acknowledged (08 R517, R229). -/
theorem exec_copyWr_writes (hp : s.rxOpen[k]? = some (c, p)) (hkind : p.kind = 0x01) (hn : n = min (fieldN p.metaF 159 147) (64 * p.payload.length))
    (hto : s.remoteTarget p (fieldN p.metaF 63 0) (gLocal p.gaddr) n = some c) (hheld : s.accessHeld c (gLocal p.gaddr) n = false)
    (hclean : bitN p.metaF 160 = false) :
    exec (.copyWr k) s = .next ((({ s with rxOpen := s.rxOpen.eraseIdx k } : State).writeAt c (gLocal p.gaddr) (p.bytes.take n)).copyAck c p
      (fieldN p.metaF 103 64) (fieldN p.metaF 146 104) false) := by
  show execCopyWr k s = _
  simp only [execCopyWr, hp, ← hn, hto]
  rw [if_neg (by simp [hkind]), if_neg (by simp [hheld]), if_neg (by simp [hclean])]

/-- An acknowledgement that does not refuse takes its tag off those outstanding (08 R234). -/
theorem exec_copyWrAck_accepted (hp : s.rxOpen[k]? = some (c, p)) (hkind : p.kind = 0x04)
    (hcopy : s.copyOf c (fieldN p.body 103 64) (fieldN p.body 146 104) = some o) (hacc : bitN p.body 160 = false) :
    exec (.copyWrAck k) s = .next ((({ s with rxOpen := s.rxOpen.eraseIdx k } : State).modOp o.id (fun o => { o with
      remote := o.remote.erase (fieldN p.body 146 104) })).pieceDone o) := by
  show execCopyWrAck k s = _
  simp only [execCopyWrAck, hp, hcopy]
  rw [if_neg (by simp [hkind]), if_neg (by simp [hacc])]

/-- One bit of an answer for each unit of the `n` bytes from `a`, at 1 where what is read of the unit is poisoned (01 R36, 08 R239). -/
def State.poisonMask (s : State) (c a n : Nat) : Nat :=
  ((List.range (cdiv (a % poisonUnit a + n) (poisonUnit a))).map (fun i =>
    let lo := max a (poisonUnit a * (a / poisonUnit a + i))
    if s.badRead c lo (min (a + n) (poisonUnit a * (a / poisonUnit a + i + 1)) - lo) then 2 ^ i else 0)).sum

/-- A read that a peer may make is answered with its bytes and their poison (08 R517, R229, R239). -/
theorem exec_copyRdReq_answers {a : Nat} (hp : s.rxOpen[k]? = some (c, p)) (hkind : p.kind = 0x02) (ha : a = fieldN p.body 207 160)
    (hn : n = min 4096 (max 1 (fieldN p.body 159 147))) (hto : s.remoteTarget p (fieldN p.body 63 0) a n = some c)
    (hheld : s.accessHeld c a n = false) :
    exec (.copyRdReq k) s = .next ((({ s with rxOpen := s.rxOpen.eraseIdx k } : State).noteRead c a n).sendData c 0x03 p.slot p.src
      ((p.src.setWidth 64 <<< 52) ||| BitVec.ofNat 64 (fieldN p.body 255 208)) 0
      (pack 184 [(39, 0, fieldN p.body 103 64), (82, 40, fieldN p.body 146 104), (147, 83, s.poisonMask c a n)])
      (flitsOf (toBytes n (s.readAt c a n)))) := by
  show execCopyRdReq k s = _
  simp only [execCopyRdReq, hp, ← hn, ← ha, hto]
  rw [if_neg (by simp [hkind]), if_neg (by simp [hheld])]
  rfl

/-- The data of a read go to the chunk that asked for them (08 R517). -/
theorem exec_copyRdRsp_chunk {d : CopyD} {x : Chunk} (hp : s.rxOpen[k]? = some (c, p)) (hkind : p.kind = 0x03)
    (htag : tag = fieldN p.metaF 82 40) (hcopy : s.copyOf c (fieldN p.metaF 39 0) tag = some o) (hd : d = CopyD.of o.desc)
    (hrill : d.rill = false) (hx : (d.chunks o.lower (s.isOwn d.src) (s.isOwn d.dst))[tag / 2]? = some x)
    (hheld : s.chunkHeld o.ctx d x = false) :
    exec (.copyRdRsp k) s = .next (((({ s with rxOpen := s.rxOpen.eraseIdx k } : State).modOp o.id (fun o => { o with
      remote := o.remote.erase tag })).chunkPut o d (tag / 2) x (d.answered x p.bytes (fieldN p.metaF 147 83))).pieceDone o) := by
  show execCopyRdRsp k s = _
  simp only [execCopyRdRsp, hp, ← htag, hcopy, ← hd, hx]
  rw [if_neg (by simp [hkind]), if_neg (by simp [hrill]), if_neg (by simp [hheld])]

/-- The data of a row that a scatter asked for go to their table entry (08 R241, R517). -/
theorem exec_copyRdRsp_rill (hp : s.rxOpen[k]? = some (c, p)) (hkind : p.kind = 0x03) (htag : tag = fieldN p.metaF 82 40)
    (hcopy : s.copyOf c (fieldN p.metaF 39 0) tag = some o) (hrill : (CopyD.of o.desc).rill = true)
    (hheld : s.accessHeld o.ctx (gLocal p.gaddr) 32 = false) (hclean : fieldN p.metaF 147 83 = 0) :
    exec (.copyRdRsp k) s = .next ((((({ s with rxOpen := s.rxOpen.eraseIdx k } : State).modOp o.id (fun o => { o with
      remote := o.remote.erase tag })).writeAt o.ctx (gLocal p.gaddr) (p.bytes.take 32))).pieceDone o) := by
  show execCopyRdRsp k s = _
  simp only [execCopyRdRsp, hp, ← htag, hcopy]
  rw [if_neg (by simp [hkind]), if_pos hrill, if_neg (by simp [hheld]), State.rillPut, if_neg (by simp [hclean])]

end

/-- Settles O42: command by command; the mask of an answer is `State.poisonMask` of what was read. -/
theorem copyCommandsComplete : Obligations.CopyCommandsComplete :=
  ⟨fun _ _ _ => exec_startCopy (by decide) rfl,
    fun _ _ _ => exec_startCopy (by decide) rfl,
    fun _ _ _ => exec_startCopy (by decide) rfl,
    fun _ _ _ _ _ => exec_lower,
    fun _ _ _ => exec_startRill rfl,
    fun _ _ _ => exec_startRill rfl,
    fun _ _ _ _ _ => exec_rillQueueFree_serves,
    fun _ _ _ _ _ => exec_copyWr_writes,
    fun _ _ _ _ _ => exec_copyWrAck_accepted,
    fun s _ c a n _ hp hkind ha hn hto hheld => ⟨s.poisonMask c a n, exec_copyRdReq_answers hp hkind ha hn hto hheld⟩,
    fun _ _ _ _ _ _ _ _ => exec_copyRdRsp_chunk,
    fun _ _ _ _ _ _ => exec_copyRdRsp_rill⟩

end Sys2Proof.Machine
end

section
/-! Memory devices: the check of a line and its health, the scrub, and the line-sparing store (08 R222, R223, R246, R247; 16 R470,
R471; 17 R490). -/

namespace Sys2Proof.Machine

/-! ### Health of a device -/

/-- `t` is `s` but for what the module reports: events, records, and what the package keeps of them. -/
def State.Reports (s t : State) : Prop :=
  ∃ pk se o ha te, t = { s with pkg := pk, sess := se, out := o, handles := ha, telem := te }

section
variable {s t u : State}

theorem State.Reports.trans (h : s.Reports t) (h' : t.Reports u) : s.Reports u := by
  obtain ⟨_, _, _, _, _, rfl⟩ := h
  obtain ⟨_, _, _, _, _, rfl⟩ := h'
  exact ⟨_, _, _, _, _, rfl⟩

/-- What reports leave as it is. -/
theorem State.Reports.tier (h : s.Reports t) : t.tier = s.tier := by
  obtain ⟨_, _, _, _, _, rfl⟩ := h
  rfl

theorem State.Reports.dev (h : s.Reports t) (d : Nat) : t.dev d = s.dev d := by
  obtain ⟨_, _, _, _, _, rfl⟩ := h
  rfl

theorem State.Reports.scopeDue (h : s.Reports t) : t.scopeDue = s.scopeDue := by
  obtain ⟨_, _, _, _, _, rfl⟩ := h
  rfl

theorem State.reports_event (s : State) (code objKind obj : Nat) (ctx : Option Nat) (data : BitVec 3328) :
    s.Reports (s.event code objKind obj ctx data) := by
  obtain ⟨pk, se, o, h⟩ := s.event_frame code objKind obj ctx data
  exact ⟨pk, se, o, s.handles, s.telem, h⟩

theorem State.reports_formTo (s : State) (slot : Nat) (r : TelemRec) : s.Reports (s.formTo slot r) := by
  unfold State.formTo
  split
  · exact ⟨s.pkg, s.sess, s.out, _, _, rfl⟩
  · exact ⟨s.pkg, s.sess, s.out, s.handles, s.telem, rfl⟩

theorem State.reports_formAll (s : State) (kindBit : Nat) (r : TelemRec) : s.Reports (s.formAll kindBit r) :=
  foldl_keeps (Q := s.Reports) _ ⟨s.pkg, s.sess, s.out, s.handles, s.telem, rfl⟩ fun t e h => h.trans (t.reports_formTo e.1 r)

theorem State.reports_modHealth (s : State) (id : Nat) (f : HealthRec → HealthRec) : s.Reports (s.modHealth id f) :=
  ⟨s.pkg, s.sess, s.out, s.handles, _, rfl⟩

theorem State.reports_persistHealth (s : State) : s.Reports s.persistHealth :=
  ⟨_, s.sess, s.out, s.handles, s.telem, rfl⟩

theorem State.reports_recordRepairs (s : State) (d : Nat) : s.Reports (s.recordRepairs d) :=
  ⟨_, s.sess, s.out, s.handles, s.telem, rfl⟩

/-- A part that is no die enters a health state: no fault is noted (16 R471). -/
theorem State.reports_enterHealth (s : State) {id : Nat} (hid : 3 < id / 2 ^ 24) (st : HealthSt) (cause : HealthCause) :
    s.Reports (s.enterHealth id st cause) := by
  simp only [State.enterHealth]
  rw [if_neg (by omega), if_neg (by omega), if_neg (by omega)]
  exact (((s.reports_modHealth id _).trans (State.reports_event ..)).trans (State.reports_formAll ..)).trans (State.reports_persistHealth _)

/-- An event adds to the score of a part that is no die, and its health follows (16 R470, R471). -/
theorem State.reports_addScore (s : State) {id : Nat} (hid : 3 < id / 2 ^ 24) (weight : Rat) : s.Reports (s.addScore id weight) := by
  simp only [State.addScore]
  split
  · exact s.reports_modHealth id _
  · exact (s.reports_modHealth id _).trans (State.reports_enterHealth _ hid _ _)

/-- The object of a memory device is no die. -/
theorem devObj_class (d : Nat) : 3 < devObj d / 2 ^ 24 := by
  unfold devObj objId
  split <;> omega

/-- With no fault noted there is nothing to act on. -/
theorem State.settle_of_none_due (h : s.scopeDue = []) : s.settle = s := by
  rw [State.settle, h]
  exact congrArg (fun due => { s with scopeDue := due }) h.symm

/-- A device after its change. -/
theorem State.dev_modDev_self {d : Nat} (hd : d < s.devices.length) (f : Device → Device) : (s.modDev d f).dev d = f (s.dev d) :=
  getD_modAt_self hd f _

end

/-! ### Commands -/

section
variable {s : State}

/-- A line of the tiers is poisoned. -/
def State.poisonLine (s : State) (line : Nat) : State := { s with tierPoison := smPut s.tierPoison line true }

/-- A line is read where it can be checked: its die works, and it is neither spared nor poisoned (08 R222). -/
structure State.Checked (s : State) (line d at_ : Nat) : Prop where
  lies : s.lineAt line = some (d, at_)
  works : (s.die (devDie d)).fenced = false
  inPlace : (s.dev d).spared.contains at_ = false
  sound : smGet false s.tierPoison line = false

/-- Such a line is counted at its device as its check ends, and poisoned when it is uncorrectable (08 R222; log 51). -/
theorem State.Checked.exec_lineRead {line d at_ : Nat} (h : s.Checked line d at_) (e : EccOutcome) :
    exec (.lineRead line e) s =
      .next (if e = .uncorrectable then (s.countCheck d at_ e).poisonLine line else s.countCheck d at_ e).settle := by
  obtain ⟨hat, hdie, hspared, hpoison⟩ := h
  show execLineRead line e s = _
  simp only [execLineRead, State.checkLine, hat]
  rw [if_neg (by simp [hdie]), if_neg (by simp [hpoison]), if_neg (by rw [hspared]; decide)]
  rfl

/-- An uncorrectable error changes the counter and the health of the device (16 R470). -/
theorem State.reports_countCheck_uncorrectable (d at_ : Nat) :
    (s.modDev d (fun x => { x with uncorrectable := x.uncorrectable + 1 })).Reports (s.countCheck d at_ .uncorrectable) :=
  State.reports_addScore _ (devObj_class d) 500

/-- A scrub that finds no error goes on to the next line of its device, when the line holds no tier line (08 R223). -/
theorem exec_scrub_free {d : Fin 60} (hdie : (s.die (devDie d.val)).fenced = false) (hdue : s.scopeDue = [])
    (hfree : s.tierLine d.val (s.dev d.val).scrubAt = none) :
    exec (.scrub d .clean) s = .next (s.modDev d.val (fun x => { x with scrubAt := (x.scrubAt + 1) % (devFrames d.val * frameLines) })) := by
  show execScrub d .clean s = _
  simp only [execScrub, hfree, State.countCheck]
  rw [if_neg (by simp [hdie])]
  refine congrArg _ ?_
  split
  · rfl
  · exact State.settle_of_none_due hdue

/-- A device whose line has moved to the store. -/
def Device.spareLine (x : Device) (line : Nat) : Device :=
  { x with
    movingLines := x.movingLines.filter (· != line)
    spared := x.spared ++ [line]
    linesSparedCount := x.linesSparedCount + 1 }

/-- A line that moves is spared: the store serves it, the repair record takes it, and the device's health counts it (08 R247;
16 R470; 17 R483). -/
theorem exec_lineSpare_moving {d : Fin 60} {line : Nat} (hmoving : (s.dev d.val).movingLines.contains line = true) :
    exec (.lineSpare d line) s =
      .next (((s.modDev d.val (·.spareLine line)).recordRepairs d.val).addScore (devObj d.val) 20).settle :=
  if_pos hmoving

/-- A line corrected three times in 24 h begins to move to the store, where it has room (17 R490). -/
theorem exec_autoLineSpare_line {d : Fin 60} {l : Nat} (hmgr : (s.die (devDie d.val)).mgr.st = .running)
    (hhits : 3 ≤ ((recentCorr s.now (s.dev d.val).corrHist).filter (fun e => e.1 == l)).length)
    (hspared : (s.dev d.val).spared.contains l = false) (hmoving : (s.dev d.val).movingLines.contains l = false)
    (hroom : (s.dev d.val).spared.length + (s.dev d.val).movingLines.length < spareLines d.val) :
    exec (.autoLineSpare d (.line l)) s = .next ((s.modDev d.val (fun x => { x with movingLines := x.movingLines ++ [l] })).event 0x0585 2
      (devDie d.val) none 0) := by
  show execAutoLineSpare d (.line l) s = _
  simp only [execAutoLineSpare]
  rw [if_neg (by simp [hmgr]), if_pos ⟨hhits, by rw [hspared]; rfl, by rw [hmoving]; rfl, hroom⟩]

end

/-- Settles O43: command by command; an uncorrectable line and a spared one also add to the health of their device, which is a
matter of reports only. -/
theorem memoryCommandsComplete : Obligations.MemoryCommandsComplete := by
  refine ⟨fun s line d at_ hat hdie hspared hpoison hdue _ => ?_, fun s d => exec_scrub_free, fun s => rfl,
    fun s d line hmoving hlen hdue _ => ?_, fun s d l => exec_autoLineSpare_line, fun s d t => rfl⟩
  · have hline : s.Checked line d at_ := ⟨hat, hdie, hspared, hpoison⟩
    have hreports := s.reports_countCheck_uncorrectable d at_
    refine ⟨(hline.exec_lineRead .clean).trans (congrArg _ (State.settle_of_none_due hdue)), _, hline.exec_lineRead .uncorrectable, ?_⟩
    rw [if_pos rfl,
      State.settle_of_none_due (s := (s.countCheck d at_ .uncorrectable).poisonLine line) (hreports.scopeDue.trans hdue)]
    exact ⟨congrArg (·.getD false) (smGet?_smPut_self _ line true), hreports.tier⟩
  · have hreports := ((s.modDev d.val (·.spareLine line)).reports_recordRepairs d.val).trans (State.reports_addScore _ (devObj_class d.val) 20)
    refine ⟨_, exec_lineSpare_moving hmoving, ?_⟩
    rw [State.settle_of_none_due (hreports.scopeDue.trans hdue), hreports.dev, State.dev_modDev_self (by omega)]
    exact ⟨rfl, rfl, rfl, hreports.tier⟩

end Sys2Proof.Machine
end

section
/-! Torus ports: what sending leaves of a port, and the steps of training, identification, frames and lanes, the takeover by a
partner and failback (09 R251 to R258, R264 to R272, R281). -/

namespace Sys2Proof.Machine

/-! ### A change of a port -/

section
variable {s t : State} {j : Nat} {f g : Port → Port}

/-- Two changes that agree on an entry change a list alike. -/
theorem modAt_congr {α : Type} {l : List α} {i : Nat} {d : α} {f g : α → α} (h : f (l.getD i d) = g (l.getD i d)) :
    modAt l i f = modAt l i g := by
  refine List.ext_getElem (by simp) fun k hk _ => ?_
  simp only [modAt, List.getElem_modify]
  split
  · next hik =>
    subst hik
    rwa [List.getD_eq_getElem?_getD, List.getElem?_eq_getElem (by simpa using hk), Option.getD_some] at h
  · rfl

theorem State.modPort_congr (h : f (s.port j) = g (s.port j)) : s.modPort j f = s.modPort j g :=
  congrArg (fun ports => { s with ports }) (modAt_congr h)

/-- A change that leaves a port as it is changes nothing. -/
theorem State.modPort_eq_self (h : f (s.port j) = s.port j) : s.modPort j f = s := by
  rw [State.modPort_congr (g := id) h, State.modPort, modAt, List.modify_id]

/-- One change after the other. -/
theorem State.modPort_modPort : (s.modPort j f).modPort j g = s.modPort j (fun p => g (f p)) :=
  congrArg (fun ports => { s with ports }) (List.modify_modify_eq f g j s.ports)

/-- A change of a port leaves every other port alone. -/
theorem State.port_modPort_ne {k : Nat} (h : k ≠ j) : (s.modPort j f).port k = s.port k := getD_modAt_ne h f _

/-- What holds of a port before and after its change holds of it in the changed state, whether or not there is such a port. -/
theorem State.port_modPort_keeps {Q : Port → Prop} (h : Q (s.port j)) (hf : Q (f (s.port j))) : Q ((s.modPort j f).port j) := by
  by_cases hj : j < s.ports.length
  · rwa [State.port_modPort_self hj]
  · rwa [State.modPort, modAt, List.modify_eq_self (by omega)]

end

/-! ### Sending -/

/-- `q` is `p` but for what sending changes: `NAK` and the credits due, the credits held, the frames kept for retry, what waits,
and the counts of flits. -/
def Port.Sends (p q : Port) : Prop :=
  ∃ n cr cd rb ts tq fl th, q = { p with
    nakDue := n, credits := cr, creditDue := cd, retryBuf := rb, txSeq := ts, txQ := tq, flow := fl, transitHist := th }

theorem Port.Sends.trans {p q r : Port} (h : p.Sends q) (h' : q.Sends r) : p.Sends r := by
  obtain ⟨_, _, _, _, _, _, _, _, rfl⟩ := h
  obtain ⟨_, _, _, _, _, _, _, _, rfl⟩ := h'
  exact ⟨_, _, _, _, _, _, _, _, rfl⟩

/-- `t` comes of `s` by sending on port `j`. -/
structure State.SendsOn (j : Nat) (s t : State) : Prop where
  port : (s.port j).Sends (t.port j)
  scopeDue : t.scopeDue = s.scopeDue

namespace State.SendsOn

variable {s t : State} {j : Nat}

theorem refl (s : State) (j : Nat) : s.SendsOn j s := ⟨⟨_, _, _, _, _, _, _, _, rfl⟩, rfl⟩

theorem modPort (h : s.SendsOn j t) {f : Port → Port} (hf : ∀ p : Port, p.Sends (f p)) : s.SendsOn j (t.modPort j f) :=
  ⟨State.port_modPort_keeps h.port (h.port.trans (hf _)), h.scopeDue⟩

theorem modFlow (h : s.SendsOn j t) (v : Nat) (f : Flow → Flow) : s.SendsOn j (t.modFlow j v f) :=
  h.modPort fun _ => ⟨_, _, _, _, _, _, _, _, rfl⟩

theorem emit (h : s.SendsOn j t) (o : Out) : s.SendsOn j (t.emit o) := ⟨h.port, h.scopeDue⟩

theorem sendFrame (h : s.SendsOn j t) (slots : List (BitVec 512)) (seq abort lane laneOp : Nat) :
    s.SendsOn j (t.sendFrame j slots seq abort lane laneOp) :=
  (h.modPort fun _ => ⟨_, _, _, _, _, _, _, _, rfl⟩).emit _

theorem transmit (h : s.SendsOn j t) (p : Packet) : s.SendsOn j (t.transmit j p) :=
  foldl_keeps (Q := s.SendsOn j) _ ((h.modPort fun _ => ⟨_, _, _, _, _, _, _, _, rfl⟩).modFlow _ _) fun _ _ hu =>
    (hu.sendFrame ..).modPort fun _ => ⟨_, _, _, _, _, _, _, _, rfl⟩

theorem pumpLoop (n : Nat) {q kept : List Packet} (h : s.SendsOn j t) : s.SendsOn j (pumpLoop j n q kept t).2 := by
  induction n generalizing q kept t with
  | zero => exact h
  | succ n ih =>
    cases q with
    | nil => exact h
    | cons p ps =>
      unfold Machine.pumpLoop
      dsimp only
      split
      · exact ih (h.modFlow _ _)
      · split
        · exact ih (h.transmit p)
        · exact ih h

theorem pump (h : s.SendsOn j t) : s.SendsOn j (t.pump j) := (h.pumpLoop _).modPort fun _ => ⟨_, _, _, _, _, _, _, _, rfl⟩

theorem sendHop (h : s.SendsOn j t) (kind : Nat) (key : BitVec 256) (bits msg : Nat) (body : BitVec 256) :
    s.SendsOn j (t.sendHop j kind key bits msg body) :=
  (h.modPort fun _ => ⟨_, _, _, _, _, _, _, _, rfl⟩).pump

theorem sendIdent (h : s.SendsOn j t) : s.SendsOn j (t.sendIdent j) := h.sendHop ..

end State.SendsOn

/-- A port on which nothing waits sends nothing. -/
theorem State.pump_of_idle {s : State} {j : Nat} (h : (s.port j).txQ = []) : s.pump j = s := by
  simp only [State.pump, h, List.length_nil, pumpLoop, List.append_nil]
  exact State.modPort_eq_self (by rw [← h])

/-! ### Training and identification -/

/-- With no lane in use that has failed, an attempt of a port that has not been serviced takes the lanes it finds. -/
theorem Port.trainedLanes_of_sound {p : Port} {lanes : BitVec 9} (hserv : p.serviced = false) (hsound : lanes &&& p.laneFailed = 0)
    (hwidth : widthOf lanes ≠ 0) : p.trainedLanes lanes = lanes := by
  have hand : lanes &&& ~~~p.laneFailed = lanes := by
    ext i hi
    have hbit : lanes[i] = true → p.laneFailed[i] = false := by simpa using congrArg (·[i]) hsound
    simpa using hbit
  have hall : lanes ≠ 0x1FF := by
    rintro rfl
    exact hwidth (by decide)
  simp only [Port.trainedLanes, hserv, hand, if_neg hall, Bool.false_eq_true, ↓reduceIte]

/-- A port that has trained, without service, and begins to identify its peer (09 R264, R281). -/
def Port.trained (p : Port) (ns : BitVec 16) (lanes : BitVec 9) : Port :=
  { p with
    st := .identify, loopNs := ns.toNat, laneMap := lanes, width := widthOf lanes, rxSeq := 4095, txSeq := 0, nakDue := false
    txQ := p.unsent ++ p.txQ, retryBuf := [], kept := [], resends := 0, rxPart := [], identDue := false
    credits := List.replicate 8 256, creditDue := List.replicate 8 0, oldFlits := (List.range 8).map p.waiting
    pool := List.replicate 8 0, laneAsked := none, laneAgreed := none, realigning := false, nakHeld := false }

section
variable {s : State} {j : Fin 12}

/-- A port that sees light begins to train, when the package is on and the port can be used (09 R264). -/
theorem exec_lightDetect (hst : (s.port j.val).st = .dark) (hon : s.pkg.st ≠ .standby) (hboot : s.pkg.st = .boot → 9 ≤ s.pkg.bootStep)
    (husable : s.portUsable j.val = true) :
    exec (.lightDetect j) s = .next ((s.modPort j.val (fun p => { p with
      st := .training, light := true, retryDue := false, nonce := Config.freeBits 128 s.draw, peerSeen := false, peerTagOk := false })).use 1) :=
  if_pos ⟨hst, by simpa [hon, ← Decidable.imp_iff_not_or] using hboot, husable⟩

/-- A training attempt ends with the lanes that it has found, and `IDENT` goes out (09 R252, R264). -/
theorem exec_trainingAttemptEnd_trains {ns : BitVec 16} {lanes : BitVec 9} (hst : (s.port j.val).st = .training)
    (hretry : (s.port j.val).retryDue = false) (hover : s.failoverDue j.val = false) (hwidth : widthOf lanes ≠ 0)
    (hsound : lanes &&& (s.port j.val).laneFailed = 0) (hserv : (s.port j.val).serviced = false) :
    exec (.trainingAttemptEnd j (some ns) lanes) s = .next ((s.modPort j.val (·.trained ns lanes)).sendIdent j.val).settle := by
  show execTrainingAttemptEnd j (some ns) lanes s = _
  simp only [execTrainingAttemptEnd, Port.trainedLanes_of_sound hserv hsound hwidth]
  rw [if_neg (by simp [hst, hretry, hover]), if_neg hwidth, if_neg (by simp [hserv])]
  exact congrArg (fun t : State => Host.Outcome.next (t.sendIdent j.val).settle) (State.modPort_congr (by simp [hserv, Port.trained]))

/-- An attempt without a loop delay has failed, and is tried again later (09 R264). -/
theorem exec_trainingAttemptEnd_fails {lanes : BitVec 9} (hst : (s.port j.val).st = .training)
    (hretry : (s.port j.val).retryDue = false) (hover : s.failoverDue j.val = false) :
    exec (.trainingAttemptEnd j none lanes) s = .next ((s.modPort j.val (fun p => { p with retryDue := true })).linkEvt j.val 8 0) :=
  if_neg (by simp [hst, hretry, hover])

/-- The port acts on the `IDENT` that waits in its buffer, under the key of the fabric (09 R266, 14 R416). -/
theorem exec_ident {s1 : State} {p : Packet} {f : BitVec 256} (hin : s.takeIn j.val (fun _ p => p.kind == 0x30) = some (p, s1))
    (hkey : s.sec.fabricKey = some f) :
    exec (.ident j) s = .next ((s1.modPort j.val (fun q => { q with
      peerIdent := p.body, peerSeen := true
      peerTagOk := p.tag == linkTag (identKey f (BitVec.ofNat 64 (fieldN p.body 255 192))) 256 p.body.toNat })).identify j.val) := by
  show execIdent j s = _
  simp only [execIdent, hin, hkey]

end

/-- Settles O46: command by command; the port that has trained then sends its `IDENT`, which leaves its lanes and loop alone. -/
theorem linkTrainingCompletes : Obligations.LinkTrainingCompletes := by
  refine ⟨fun s j => exec_lightDetect, fun s j ns lanes hst hretry hover hwidth hsound hserv hdue hports => ?_,
    fun s j lanes => exec_trainingAttemptEnd_fails, fun s j hst hretry => if_pos ⟨hst, hretry⟩, fun s s1 j p f => exec_ident,
    fun s j hst => if_pos hst, fun s j hst hlane => if_pos ⟨hst, by simp [hlane]⟩, fun s j hst => if_pos hst,
    fun s j hst => if_pos hst, fun s j hmany => if_pos (.inl hmany)⟩
  have hsends := (State.SendsOn.refl (s.modPort j.val (·.trained ns lanes)) j.val).sendIdent
  refine ⟨_, exec_trainingAttemptEnd_trains hst hretry hover hwidth hsound hserv, ?_⟩
  rw [State.settle_of_none_due (hsends.scopeDue.trans hdue)]
  obtain ⟨_, _, _, _, _, _, _, _, hport⟩ := hsends.port
  rw [hport, State.port_modPort_self (by omega)]
  exact ⟨rfl, rfl, rfl, rfl, rfl⟩

/-! ### Frames -/

/-- A port that has taken a trailer which returns credits and says nothing else (09 R255). -/
def Port.takeCredits (p : Port) (tr : BitVec 256) : Port :=
  { p with realigning := false, credits := p.credits.zipIdx.map (fun c => c.1 + fieldN tr (167 + 8 * c.2) (160 + 8 * c.2)) }

/-- A port that has accepted such a trailer in a frame that is next in sequence (09 R256). -/
def Port.acceptFrame (p : Port) (tr : BitVec 256) : Port := { p.takeCredits tr with rxSeq := fieldN tr 159 148 }

section
variable {s : State} {j : Fin 12} {slots : BitVec 8192} {tr : BitVec 256}

theorem Port.getD_takeCredits {p : Port} {v : Nat} (hv : v < p.credits.length) :
    (p.takeCredits tr).credits.getD v 0 = p.credits.getD v 0 + fieldN tr (167 + 8 * v) (160 + 8 * v) := by
  simp [Port.takeCredits, List.getD_eq_getElem?_getD, hv]

theorem State.takeTrailer_credits {j : Nat} (hbuf : (s.port j).retryBuf = []) (hop : fieldN tr 108 107 = 0) (hnak : bitN tr 135 = false) :
    s.takeTrailer j tr = s.modPort j (·.takeCredits tr) := by
  simp only [State.takeTrailer, hbuf, hop, hnak, State.laneOp]
  exact State.modPort_congr (by simp [Port.takeCredits, hbuf, ackFrames])

/-- A port without `IDENT` due sends none. -/
theorem State.dueIdent_of_not_due {j : Nat} (h : (s.port j).identDue = false) : s.dueIdent j = s := if_neg (by simp [h])

/-- A port that has reported has less to report. -/
theorem State.port_sendEmpty {j : Nat} (hj : j < s.ports.length) :
    (s.sendEmpty j).port j = { s.port j with nakDue := false, creditDue := (s.port j).creditDue.map (fun c => c - min c 255) } :=
  State.port_modPort_self hj _

/-- A frame with a good CRC that is next in sequence and fills no slot is accepted, and `ACK_SEQ` goes out (09 R255, R256). -/
theorem exec_frameRx_accepted (hlinked : (s.port j.val).linked = true) (hbuf : (s.port j.val).retryBuf = []) (hq : (s.port j.val).txQ = [])
    (hpart : (s.port j.val).rxPart = []) (hident : (s.port j.val).identDue = false) (hop : fieldN tr 108 107 = 0)
    (hnak : bitN tr 135 = false) (hempty : bitN tr 134 = false) (hmap : fieldN tr 133 118 = 0)
    (hseq : fieldN tr 159 148 = ((s.port j.val).rxSeq + 1) % 4096)
    (hcrc : (frameCrc slots.toNat (fieldN tr 223 0)).toNat = fieldN tr 255 224) :
    exec (.frameRx j slots tr) s = .next ((s.modPort j.val (·.acceptFrame tr)).sendEmpty j.val).settle := by
  have hflits : filledSlots slots 0 (fieldN tr 117 113) = [] := by simp [filledSlots]
  obtain ⟨hdue, hwait⟩ := State.port_modPort_keeps (s := s) (j := j.val) (f := (·.acceptFrame tr))
    (Q := fun p => p.identDue = false ∧ p.txQ = []) ⟨hident, hq⟩ ⟨hident, hq⟩
  show execFrameRx j slots tr s = _
  simp only [execFrameRx, hpart, hmap, hflits, State.takeTrailer_credits hbuf hop hnak, State.modPort_modPort, State.takeFlits]
  rw [if_neg (by simp [hlinked]), if_neg (by simpa using hcrc), if_neg (by simp [hempty]), if_neg (by simp [hseq, routedFrame])]
  show Host.Outcome.next ((((s.modPort j.val (·.acceptFrame tr)).dueIdent j.val).pump j.val).sendEmpty j.val).settle = _
  rw [State.dueIdent_of_not_due hdue, State.pump_of_idle hwait]

/-- A frame with a bad CRC adds to the health of every lane in use, and is answered by `NAK` (09 R257; log 23). -/
theorem exec_frameRx_corrupt (hlinked : (s.port j.val).linked = true)
    (hcrc : (frameCrc slots.toNat (fieldN tr 223 0)).toNat ≠ fieldN tr 255 224) :
    exec (.frameRx j slots tr) s = .next (((s.lanesScore j.val (mkRat 1 1000)).modPort j.val (fun p => { p with nakDue := true })).sendEmpty
      j.val).settle := by
  show execFrameRx j slots tr s = _
  simp only [execFrameRx]
  rw [if_neg (by simp [hlinked]), if_pos hcrc]

end

/-! ### Lanes, takeover and failback -/

section
variable {s : State} {j : Fin 12}

/-- A lane in use begins to be spared where a spare lane is free and no request is under way (09 R251). -/
theorem exec_laneSpare {lane : Fin 9} {k : Nat} (hspare : (s.port j.val).spareLane = some k) (hst : (s.port j.val).st = .up)
    (hlane : (s.port j.val).laneMap.getLsbD lane.val = true) (hasked : (s.port j.val).laneAsked = none) :
    exec (.laneSpare j lane) s = .next ((s.modPort j.val (fun p => { p with laneAsked := some lane.val })).sendFrame j.val []
      (s.port j.val).txSeq 0 lane.val 1).settle :=
  congrArg (fun t : State => Host.Outcome.next t.settle) (if_pos ⟨hst, by simp [Port.canSpare, hspare, hlane], hasked⟩)

/-- A port whose partner takes its direction over, and of which the other end is told (09 R270). -/
def Port.takenOver (p : Port) : Port := { p with rxPart := [], byPartner := true, told := true }

/-- No port is its own partner. -/
theorem portPartner_ne (j : Nat) : portPartner j ≠ j := by
  unfold portPartner
  split <;> omega

/-- A port without a part of a packet has none to end. -/
theorem State.abortPart_of_nil {j : Nat} (h : (s.port j).rxPart = []) : s.abortPart j = s := by
  simp only [State.abortPart, h]

/-- The link key of a port does not change with another port. -/
theorem State.portLinkKey_modPort_ne {j k : Nat} (h : k ≠ j) (f : Port → Port) : (s.modPort j f).portLinkKey k = s.portLinkKey k := by
  simp only [State.portLinkKey, State.port_modPort_ne h, State.modPort_sec]

/-- A port in `RETRAIN` that holds no part of a packet hands its direction to its partner, over which it reports the last frame it
has accepted (09 R269, R270). -/
theorem exec_partnerTakeover (hst : (s.port j.val).st = .retrain) (hpartner : (s.port (portPartner j.val)).st = .up)
    (htold : (s.port j.val).told = false) (hpart : (s.port j.val).rxPart = []) :
    exec (.partnerTakeover j) s = .next ((s.modPort j.val Port.takenOver).sendHop (portPartner j.val) 0x31
      ((s.modPort j.val Port.takenOver).portLinkKey (portPartner j.val)) 256 (pack 256 [(11, 0, (s.port j.val).rxSeq)]).toNat
      (pack 256 [(11, 0, (s.port j.val).rxSeq)])) := by
  have hchange : s.modPort j.val (fun p => { p with byPartner := true, told := true }) = s.modPort j.val Port.takenOver :=
    State.modPort_congr (by rw [Port.takenOver, ← hpart])
  show execPartnerTakeover j s = _
  simp only [execPartnerTakeover, State.abortPart_of_nil hpart, hchange, State.portLinkKey_modPort_ne (portPartner_ne _)]
  exact if_neg (by simp [hst, hpartner, htold, hpart])

/-- A report under the link key of a port moves to that port what its partner has not got across (09 R270). -/
theorem exec_linkCtrl {s1 : State} {p : Packet} (hin : s.takeIn j.val (fun _ p => p.kind == 0x31) = some (p, s1))
    (hkey : s.sec.fabricKey.isSome = true) (hover : (s.port (portPartner j.val)).failedOver = false) :
    exec (.linkCtrl j) s = .next (if p.tag = linkTag (s.portLinkKey j.val) 256 p.body.toNat then
      (s1.failOver (portPartner j.val) (fieldN p.body 11 0)).settle else s1) := by
  have hknown : s.sec.fabricKey.isNone = false := by simpa using hkey
  show execLinkCtrl j s = _
  simp only [execLinkCtrl, hin]
  by_cases htag : p.tag = linkTag (s.portLinkKey j.val) 256 p.body.toNat
  · rw [if_pos htag, if_neg (by simp [hknown, htag, hover])]
  · rw [if_neg htag, if_pos (.inr (.inl htag))]

/-- A returned port takes its traffic back when its partner holds none of it (09 R271). -/
theorem exec_failback (hst : (s.port j.val).st = .up) (hby : (s.port j.val).byPartner = true)
    (hnone : ∀ p ∈ (s.port (portPartner j.val)).txQ ++ (s.port (portPartner j.val)).retryBuf.map (·.pkt), p.vc < 6 →
      p.slot % 2 ≠ j.val % 2) :
    exec (.failback j) s = .next ((s.modPort j.val (fun p => { p with byPartner := false, failedOver := false })).pump j.val) := by
  refine if_pos ⟨hst, hby, ?_, ?_⟩
  · simpa using fun p hp hslot => Nat.not_lt.mp fun hvc => hnone p (List.mem_append_left _ hp) hvc hslot
  · simpa using fun f hf hslot => Nat.not_lt.mp fun hvc =>
      hnone f.pkt (List.mem_append_right _ (List.mem_map_of_mem hf)) hvc hslot

end

/-- Settles O48: command by command; the CRC of a frame decides which of two answers it gets. -/
theorem linkCommandsComplete : Obligations.LinkCommandsComplete := by
  refine ⟨fun s j slots tr hlinked hports hbuf hq hpart hident hdue hcredits hop hnak hempty hmap hseq => ?_,
    fun s j lane k => exec_laneSpare, fun s j lane best hst hspare hlane hwidth hbest => if_pos ⟨hst, hspare, hlane, hwidth, hbest⟩,
    fun s j hst _ hpartner htold hpart => ⟨_, exec_partnerTakeover hst hpartner htold hpart, rfl⟩,
    fun s s1 j p => exec_linkCtrl, fun s j => exec_failback⟩
  by_cases hcrc : (frameCrc slots.toNat (fieldN tr 223 0)).toNat = fieldN tr 255 224
  · refine ⟨_, exec_frameRx_accepted hlinked hbuf hq hpart hident hop hnak hempty hmap hseq hcrc, fun _ => ?_, fun h => absurd hcrc h⟩
    have hlen : j.val < (s.modPort j.val (·.acceptFrame tr)).ports.length := by simp [hports]
    rw [State.settle_of_none_due (s := (s.modPort j.val (·.acceptFrame tr)).sendEmpty j.val) hdue, State.port_sendEmpty hlen,
      State.port_modPort_self (by omega)]
    exact ⟨hseq, fun v hv => Port.getD_takeCredits (by omega)⟩
  · exact ⟨_, exec_frameRx_corrupt hlinked hcrc, fun h => absurd h hcrc, fun _ => rfl⟩

end Sys2Proof.Machine
end

section
/-! Packets at the ports: routing, copying along an axis, passage and opening, the windows of the flow gauges, and a lost neighbour
(09 R272 to R282; 11 R343; 14 R415). -/

namespace Sys2Proof.Machine

/-! ### Routing -/

section
variable {s s1 : State} {j : Fin 12} {vc : Fin 6} {p : Packet} {out : Nat} (hst : (s.port j.val).st ≠ .identify)
  (hhead : s.headIn j.val vc.val = some (p, s1))
include hst hhead

/-- A unicast packet that leaves by no port is delivered here (09 R272). -/
theorem exec_packetRoute_delivers (hmc : p.mc = false) (hout : s.unicastOut j.val p = none) (hwhole : p.aborted = false) :
    exec (.packetRoute j vc) s = .next { s1 with rxSealed := s1.rxSealed ++ [(j.val, p)] } := by
  show Host.Outcome.next (s.route j.val vc.val false) = _
  simp [State.route, hst, hhead, hmc, hout, State.deliver, hwhole]

/-- A unicast packet that a port can take goes on by it, where the command is the one for its way: within the P-die or across the
panel (09 R258, R272, R280). -/
theorem State.route_sends {across : Bool} (hmc : p.mc = false) (hout : s.unicastOut j.val p = some out)
    (hacross : (portP out != portP j.val) = across) (hlevee : s.leveeStops out (s.onward j.val out p).vc = false)
    (hsend : s.canSend out (s.onward j.val out p) = true) :
    s.route j.val vc.val across = s1.transmit out (s.onward j.val out p) := by
  simp [State.route, hst, hhead, hmc, hout, hacross, State.goOn, hlevee, hsend]

/-- A multicast packet at the end of its span is delivered here (09 R279). -/
theorem exec_multicast_delivers (hmc : p.mc = true) (hown : s.isTransit p = false) (hwhole : p.aborted = false)
    (hend : xyzOn p.dst p.mcAxis = s.coord p.mcAxis) :
    exec (.multicast j vc) s = .next { s1 with rxSealed := s1.rxSealed ++ [(j.val, p)] } := by
  show execMulticast j vc s = _
  simp [execMulticast, hst, hhead, hmc, State.multicastOut, hown, hend, State.deliver, hwhole]

end

/-! ### Opening -/

section
variable {s : State} {k j : Nat} {p : Packet}

/-- The state in which packet `k`, which arrived at port `j`, could not be opened: it is dropped and counted (14 R415). -/
def State.sealFailed (s : State) (k j : Nat) : State :=
  { s with rxSealed := s.rxSealed.eraseIdx k, sec := { s.sec with sealFail := modAt s.sec.sealFail (portP j) (· + 1) } }

/-- A packet of which no context holds the key cannot be opened (14 R415). -/
theorem exec_packetOpen_of_no_key (hp : s.rxSealed[k]? = some (j, p)) (hkeys : s.keysOf p.ptag = []) :
    exec (.packetOpen k) s = .next (s.sealFailed k j) := by
  show execPacketOpen k s = _
  simp only [execPacketOpen, hp, hkeys, List.findSome?_nil]
  rfl

/-- A packet of which one context holds the key is opened under it, or fails (14 R415). -/
theorem exec_packetOpen_of_key {c : Nat} {key : BitVec 256} (hp : s.rxSealed[k]? = some (j, p)) (hkeys : s.keysOf p.ptag = [(c, key)]) :
    exec (.packetOpen k) s = .next (match p.open? (genKey key (openGen s.now (fieldN p.head 39 39 == 1)) p.ptag) with
      | some q => ({ s with rxSealed := s.rxSealed.eraseIdx k } : State).opened c q
      | none => s.sealFailed k j) := by
  show execPacketOpen k s = _
  simp only [execPacketOpen, hp, hkeys, List.findSome?_singleton]
  cases p.open? (genKey key (openGen s.now (fieldN p.head 39 39 == 1)) p.ptag) <;> rfl

end

/-! ### Windows of the flow gauges -/

/-- A port whose next window begins (09 R282). -/
def Port.newWindow (p : Port) : Port := { p with flow := List.replicate 8 {} }

/-- `t` is within the window of `s`: the ports are the same but for the counts of their flows, and windows are of one length. -/
structure State.InWindow (s t : State) : Prop where
  ports : t.ports.map Port.newWindow = s.ports.map Port.newWindow
  length : t.telem.flowWindow = s.telem.flowWindow

namespace State.InWindow

variable {s t : State}

theorem modFlow (h : s.InWindow t) (j v : Nat) (f : Flow → Flow) : s.InWindow (t.modFlow j v f) := by
  refine ⟨Eq.trans ?_ h.ports, h.length⟩
  exact (map_modAt (g := Port.newWindow) (f := fun p => { p with flow := modAt p.flow v f }) (f' := id) t.ports j fun _ => rfl).trans
    (List.modify_id ..)

theorem formTo (h : s.InWindow t) (slot : Nat) (r : TelemRec) : s.InWindow (t.formTo slot r) := by
  unfold State.formTo
  split
  · exact ⟨h.ports, by dsimp only; split <;> exact h.length⟩
  · exact h

theorem formAll (h : s.InWindow t) (kindBit : Nat) (r : TelemRec) : s.InWindow (t.formAll kindBit r) :=
  foldl_keeps (Q := s.InWindow) _ h fun _ e hu => hu.formTo e.1 r

end State.InWindow

/-- The end of a window: its times and its records, before the next window begins (09 R282). -/
def State.closeWindow (s : State) (times : List FlowTimes) : State :=
  let s1 := times.foldl (fun s x => s.modFlow x.port.val x.vc.val (fun f => { f with
    creditWait := x.creditWait.toNat, busy := x.busy.toNat, headWait := x.headWait.toNat })) s
  ((List.range 12).flatMap s1.flowRecords).foldl (fun s r => s.formAll 4 r) s1

theorem State.inWindow_closeWindow (s : State) (times : List FlowTimes) : s.InWindow (s.closeWindow times) :=
  foldl_keeps (Q := s.InWindow) _ (foldl_keeps (Q := s.InWindow) _ ⟨rfl, rfl⟩ fun _ _ h => h.modFlow _ _ _) fun _ r h => h.formAll 4 r

/-- A length of windows is set from 10 µs to 10 ms, and changes nothing else (09 R282). -/
theorem State.flowWindow_setFlowWindow (s : State) (ns : Nat) :
    (s.setFlowWindow ns).telem.flowWindow = if 10000 ≤ ns ∧ ns ≤ 10000000 then ns else s.telem.flowWindow := by
  unfold State.setFlowWindow
  split <;> rfl

theorem State.ports_setFlowWindow (s : State) (ns : Nat) : (s.setFlowWindow ns).ports = s.ports := by
  unfold State.setFlowWindow
  split <;> rfl

/-- The length of windows is set, where one is. -/
def State.setWindow (s : State) (set : Option (BitVec 24)) : State :=
  match set with
  | some ns => s.setFlowWindow ns.toNat
  | none => s

/-- The next window begins. -/
def State.beginWindow (s : State) (now : Nat) : State :=
  let w := max 1 s.telem.flowWindow
  { s with ports := s.ports.map Port.newWindow, telem := { s.telem with flowStart := now / w * w } }

theorem State.flowWindow_setWindow (s : State) (set : Option (BitVec 24)) :
    (s.setWindow set).telem.flowWindow = (match set with
      | some ns => if 10000 ≤ ns.toNat ∧ ns.toNat ≤ 10000000 then ns.toNat else s.telem.flowWindow
      | none => s.telem.flowWindow) := by
  cases set with
  | none => rfl
  | some ns => exact s.flowWindow_setFlowWindow _

theorem State.ports_setWindow (s : State) (set : Option (BitVec 24)) : (s.setWindow set).ports = s.ports := by
  cases set with
  | none => rfl
  | some ns => exact s.ports_setFlowWindow _

/-- The window ends, the length is set, and the next window begins (09 R282; log 57). -/
theorem exec_flowGaugeWindow (s : State) (times : List FlowTimes) (set : Option (BitVec 24)) :
    exec (.flowGaugeWindow ⟨times, set⟩) s = .next (((s.closeWindow times).setWindow set).beginWindow s.now) := by
  show execFlowGaugeWindow ⟨times, set⟩ s = _
  simp only [execFlowGaugeWindow]
  generalize hu : s.closeWindow times = u
  rw [State.closeWindow] at hu
  rw [hu]
  cases set <;> rfl

/-! ### A lost neighbour -/

/-- The packets of VC0 to VC5 that a port holds are dropped (11 R343). -/
def State.dropHeld (s : State) (j : Nat) : State :=
  ((s.port j).unsent ++ (s.port j).txQ.filter (fun p => decide (p.vc < 6))).foldl (fun s p => s.dropAt j p.vc)
    (s.modPort j (fun p => { p.layAside with kept := [], txQ := p.txQ.filter (fun x => decide (6 ≤ x.vc)) }))

/-- So are those that both ports of a direction hold. -/
def State.dropDirection (s : State) (d : Nat) : State := (s.dropHeld (2 * d)).dropHeld (2 * d + 1)

/-- A drop changes ports only. -/
theorem State.dropHeld_eq (s : State) (j : Nat) : ∃ ports, s.dropHeld j = { s with ports } :=
  foldl_keeps (Q := fun t : State => ∃ ports, t = { s with ports }) _ ⟨_, rfl⟩ fun t p h => by
    obtain ⟨ports, rfl⟩ := h
    exact ⟨_, rfl⟩

theorem State.dropDirection_eq (s : State) (d : Nat) : ∃ ports, s.dropDirection d = { s with ports } := by
  obtain ⟨_, ha⟩ := s.dropHeld_eq (2 * d)
  obtain ⟨ports, hb⟩ := (s.dropHeld (2 * d)).dropHeld_eq (2 * d + 1)
  exact ⟨ports, by rw [State.dropDirection, hb, ha]⟩

/-- With no operation that meets the test, none completes. -/
theorem State.failWhere_of_none {s : State} {p : Op → Bool} (h : ∀ o ∈ s.ops, p o = false) (cause : Cause) : s.failWhere p cause = s := by
  have hnone : s.ops.filter (fun o => p o && o.incomplete) = [] := List.filter_eq_nil_iff.mpr fun o ho => by simp [h o ho]
  simp only [State.failWhere, hnone, List.map_nil, List.foldl_nil]

/-- The state in which the neighbour of a direction is lost: what the ports of the direction hold is dropped, and the fault scope is
to act on the loss (11 R343). -/
def State.loseNeighbour (s : State) (d : Nat) : State :=
  let t := s.dropDirection d
  { t with part := { t.part with lost := t.part.lost ||| (1#6 <<< d) }, scopeDue := t.scopeDue ++ [⟨3, none, none⟩] }

theorem State.loseNeighbour_marks (s : State) (d : Nat) : (s.loseNeighbour d).part.lost = s.part.lost ||| (1#6 <<< d) ∧
    (s.loseNeighbour d).scopeDue = s.scopeDue ++ [⟨3, none, none⟩] := by
  obtain ⟨ports, h⟩ := s.dropDirection_eq d
  rw [State.loseNeighbour, h]
  exact ⟨rfl, rfl⟩

/-- Both ports of a direction are out of `UP`: with no collective in flight, the neighbour is lost and the fault scope acts
(11 R343). -/
theorem exec_neighbourLost {s : State} {d : Fin 6} (ha : (s.port (2 * d.val)).st ≠ .up) (hb : (s.port (2 * d.val + 1)).st ≠ .up)
    (hlost : s.part.lost.getLsbD d.val = false) (hon : s.pkg.st ≠ .standby) (hcoll : ∀ o ∈ s.ops, o.kind ≠ 3) :
    exec (.neighbourLost d) s = .next ((s.loseNeighbour d.val).partEvt 2 3 (2 * d.val) none 0).settle := by
  have hops : (s.dropDirection d.val).ops = s.ops := by
    obtain ⟨ports, h⟩ := s.dropDirection_eq d.val
    rw [h]
  have hquiet : (s.dropDirection d.val).failWhere (fun o => s.collFlying o && (collAxes o.desc).contains (d.val / 2)) .peerLost =
      s.dropDirection d.val :=
    State.failWhere_of_none (fun o ho => by simp [State.collFlying, hcoll o (hops ▸ ho)]) _
  show execNeighbourLost d s = _
  rw [execNeighbourLost, if_neg (by rw [hlost]; simp [ha, hb, hon])]
  simp only [State.loseNeighbour, State.dropDirection, State.dropHeld] at hquiet ⊢
  simp only [hquiet, ite_self]

/-- Settles O49: command by command; what a window measures and what a drop counts stands in the ports alone. -/
theorem packetCommandsComplete : Obligations.PacketCommandsComplete := by
  refine ⟨fun s s1 j vc p => exec_packetRoute_delivers,
    fun s s1 j vc p out hst hhead hmc hout hdie hlevee hsend =>
      congrArg Host.Outcome.next (State.route_sends hst hhead hmc hout (by simp [hdie]) hlevee hsend),
    fun s s1 j vc p out hst hhead hmc hout hdie hlevee hsend =>
      congrArg Host.Outcome.next (State.route_sends hst hhead hmc hout (by simp [hdie]) hlevee hsend),
    fun s s1 j vc p => exec_multicast_delivers, fun s k j p => exec_packetOpen_of_no_key, fun s k j c p key => exec_packetOpen_of_key,
    fun s times set => ?_,
    fun s d ha hb hlost hon _ _ hcoll => ⟨_, exec_neighbourLost ha hb hlost hon hcoll, s.loseNeighbour_marks d.val⟩, fun s d => rfl⟩
  obtain ⟨hports, hlength⟩ := s.inWindow_closeWindow times
  refine ⟨_, exec_flowGaugeWindow s times set, ?_, ?_, rfl⟩
  · exact (congrArg (List.map Port.newWindow) (State.ports_setWindow _ _)).trans hports
  · rw [← hlength]
    exact State.flowWindow_setWindow _ _

end Sys2Proof.Machine
end

section
/-! Collectives: the head of a collective channel, the packets of a collective, the fence of an epoch, and completion (10 R286 to
R289, R301, R312, R315 to R319; 07 R198, R199, R216). -/

namespace Sys2Proof.Machine

/-! ### The head of a collective channel -/

/-- The command of a collective tries the head of the channel it names (10 R286, R304, R306; 07 R198). -/
theorem exec_collStart {e : CollRow} (he : e ∈ collStarts) (s : State) (h : W32) :
    exec (e.1 h) s = .next (s.startColl h e.2.1 e.2.2).settle := by
  simp only [collStarts, List.mem_append] at he
  obtain (he | he) | he := he
  · simp only [transferRows, List.mem_cons, List.not_mem_nil, or_false] at he
    obtain rfl | rfl | rfl | rfl := he <;> rfl
  · simp only [agreementRows, List.mem_cons, List.not_mem_nil, or_false] at he
    obtain rfl | rfl | rfl | rfl := he <;> rfl
  · simp only [reservedRows, List.mem_cons, List.not_mem_nil, or_false] at he
    obtain rfl | rfl | rfl := he <;> rfl

section
variable {s : State} {h : W32} {o : Op} {opcode : Nat} {opt : CollD → Bool}

/-- A head of the opcode and options, with its waits taken and room on its channel, is retired, held or launched as the epochs of its
axes stand (10 R287, R315). -/
theorem State.startColl_of_head (hhead : s.headOfChan h = some o) (hkind : o.kind = 3) (hop : (CollD.of o.desc).opcode = opcode)
    (hopt : opt (CollD.of o.desc) = true) (hwaits : o.waitsTaken = true) (hroom : s.collStarted h < 4) :
    s.startColl h opcode opt =
      if (s.epochDiff o).any (fun e => decide (128 ≤ e.2)) then s.failColl o .epochRetired Status.badArg.code
      else if (s.epochDiff o).any (fun e => decide (e.2 ≠ 0)) ∨ s.collHeld o then s
      else s.launchColl o := by
  rw [State.startColl, hhead]
  exact if_neg (by simp [hkind, hop, hopt, hwaits, hroom])

end

/-- Settles O37: with every axis at the epoch of the collective, the head is launched. -/
theorem collectivesStart : Obligations.CollectivesStart := by
  intro e he s h o hhead hkind hop hopt hwaits hroom _ hheld hepoch
  have hcurrent : (s.epochDiff o).any (fun d => decide (128 ≤ d.2)) = false :=
    List.any_eq_false.mpr fun d hd => by simp [hepoch d hd]
  have hsame : (s.epochDiff o).any (fun d => decide (d.2 ≠ 0)) = false :=
    List.any_eq_false.mpr fun d hd => by simp [hepoch d hd]
  rw [exec_collStart he, State.startColl_of_head hhead hkind hop hopt hwaits hroom, hcurrent, hsame, hheld]
  rfl

/-- Settles O38: one axis whose epoch the tag lies behind retires the head. -/
theorem epochRetired : Obligations.EpochRetired := by
  intro e he s h o d hhead hkind hop hopt hwaits hroom hd hbehind
  have hretired : (s.epochDiff o).any (fun d => decide (128 ≤ d.2)) = true :=
    List.any_eq_true.mpr ⟨d, hd, decide_eq_true hbehind⟩
  rw [exec_collStart he, State.startColl_of_head hhead hkind hop hopt hwaits hroom, if_pos hretired]
  rfl

/-! ### The packets of a collective -/

section
variable {s : State} {k c : Nat} {p : Packet} {o : Op}

/-- A packet of a started collective that is ready for it, of the current epoch and of a kind and message that the command takes,
is served (10 R290, R318). -/
theorem State.serveColl_serves {kinds msgs : List Nat} {ready : Op → Packet → Bool} (f : State → Op → Packet → State)
    (hp : s.rxOpen[k]? = some (c, p)) (hkind : p.kind ∈ kinds) (hmsg : p.collMsg ∈ msgs)
    (hfresh : s.staleEpoch c p = false) (hcoll : s.collOfPacket c p = some o) (hready : ready o p = true) :
    s.serveColl k kinds msgs ready f = f { s with rxOpen := s.rxOpen.eraseIdx k } o p := by
  rw [State.serveColl, hp]
  dsimp only
  rw [if_neg (by simp [hkind, hmsg]), if_neg (by simp [hfresh]), hcoll]
  exact if_pos hready

/-- A signature that arrives is noted, and the start round looked at (10 R288). -/
theorem exec_collSignature (hp : s.rxOpen[k]? = some (c, p)) (hkind : p.kind = 0x12) (hmsg : p.collMsg = 2)
    (hfresh : s.staleEpoch c p = false) (hcoll : s.collOfPacket c p = some o) (hheld : s.collHeld o = false) :
    exec (.collSignature k) s = .next (((({ s with rxOpen := s.rxOpen.eraseIdx k } : State).modRun o.id (fun x => { x with
      sigs := x.sigs ++ [(s.srcAxis p, s.srcRank p, BitVec.ofNat 32 (fieldN p.body 31 0))] })).checkSigs o.id).settle) := by
  show execCollSignature k s = _
  rw [execCollSignature, State.serveColl_serves _ hp (by simp [hkind]) (by simp [hmsg]) hfresh hcoll (by simp [hheld])]
  rfl

/-- Data of a collective whose start round has ended are received (10 R301, R308). -/
theorem exec_collData (hp : s.rxOpen[k]? = some (c, p)) (hkind : p.kind = 0x10) (hmsg : p.collMsg = 0)
    (hfresh : s.staleEpoch c p = false) (hcoll : s.collOfPacket c p = some o) (hready : s.collReady o p = true) :
    exec (.collData k) s = .next ((({ s with rxOpen := s.rxOpen.eraseIdx k } : State).recvData o p).settle) := by
  show execCollData k s = _
  rw [execCollData, State.serveColl_serves _ hp (by simp [hkind]) (by simp [hmsg]) hfresh hcoll hready, if_neg (by simp [hmsg])]

/-- The data of a receive slot of a collective are added (10 R299, R301). -/
theorem exec_collHopAdd {op : Nat} (slot : Nat) (hop : s.op? op = some o) (hkind : o.kind = 3) :
    exec (.collHopAdd op slot) s = .next (s.hopAdd o slot).settle := by
  show execCollHopAdd op slot s = _
  rw [execCollHopAdd, hop]
  exact if_pos hkind

/-- A credit of a collective arrives (10 R301). -/
theorem exec_collCredit (hp : s.rxOpen[k]? = some (c, p)) (hkind : p.kind = 0x11) (hmsg : p.collMsg = 1)
    (hfresh : s.staleEpoch c p = false) (hcoll : s.collOfPacket c p = some o) :
    exec (.collCredit k) s = .next (({ s with rxOpen := s.rxOpen.eraseIdx k } : State).recvCredit o p) := by
  show execCollCredit k s = _
  rw [execCollCredit, State.serveColl_serves _ hp (by simp [hkind]) (by simp [hmsg]) hfresh hcoll rfl]

/-- An abort that reports no hardware fault ends the collective here, and goes on to its other axes (10 R319; log 93). -/
theorem exec_collAborted {st : BitVec 16} (hp : s.rxOpen[k]? = some (c, p)) (hkind : p.kind = 0x12) (hmsg : p.collMsg = 4)
    (hfresh : s.staleEpoch c p = false) (hcoll : s.collOfPacket c p = some o) (hst : BitVec.ofNat 16 (fieldN p.body 15 0) = st)
    (hsoft : st ≠ Status.hwFault.code) :
    exec (.collAborted k) s = .next (((((({ s with rxOpen := s.rxOpen.eraseIdx k } : State).sendAbort o
      ((collAxes o.desc).filter (· != s.srcAxis p)) (abortCause p) st).emptySlots o).modOp o.id (fun x => { x with
        abortStatus := st })).failOp o.id (abortCause p)).settle) := by
  show execCollAborted k s = _
  rw [execCollAborted, State.serveColl_serves _ hp (by simp [hkind]) (by simp [hmsg]) hfresh hcoll rfl]
  dsimp only
  rw [hst, if_neg hsoft]
  rfl

end

/-! ### Changes that change nothing -/

/-- Writing the entry that a key has leaves the table as it is. -/
theorem smPut_of_smGet? {α : Type} {m : SMap α} {n : Nat} {v : α} (h : smGet? m n = some v) : smPut m n v = m := by
  induction m with
  | nil => cases h
  | cons e t ih =>
    rw [smGet?] at h
    rw [smPut]
    split at h
    · next hkey =>
      obtain rfl := Option.some.inj h
      rw [if_pos hkey, ← hkey]
    · next hkey =>
      split at h
      · cases h
      · next hpast => rw [if_neg hkey, if_neg hpast, ih h]

/-- A change of a context that gives each context back changes nothing. -/
theorem State.modCtx_id (s : State) (c : Nat) : s.modCtx c (fun x => x) = s := by
  have hsame : smMod s.ctxs c (fun x => x) = s.ctxs := by
    unfold smMod
    split
    · rfl
    · next hx => exact smPut_of_smGet? hx
  rw [State.modCtx, hsame]

/-- With no opened packet there is none to drop (10 R318). -/
theorem State.dropStale_of_nil {s : State} (hnone : s.rxOpen = []) : s.dropStale = s := by
  simp only [State.dropStale, hnone, List.filter_nil, List.foldl_nil]
  rw [← hnone]

/-! ### The fence of an epoch -/

section
variable {s : State} {h : W32} {o : Op} {a : Axis} {e : BitVec 8} {x : Ctx}

/-- A fence that finds no older collective tells every rank that this one has drained (10 R317). -/
theorem exec_collDrained (hfence : s.fenceAt h = some (o, a, e)) (hnoOlder : s.olderColl o.ctx a e = false) (hx : s.ctx? o.ctx = some x)
    (hnew : x.drained.contains (a, e, s.rank a) = false) :
    exec (.collDrained h) s = .next ((s.otherRanks a).foldl (fun s r => s.tellRank o a r 3 e.toNat)
      (s.dropStale.modCtx o.ctx (fun x => { x with drained := x.drained ++ [(a, e, s.rank a)] }))) := by
  show execCollDrained h s = _
  rw [execCollDrained, hfence]
  exact if_neg (by simpa [hnoOlder, hx] using hnew)

/-- Once every rank of the axis has drained, the axis takes the new epoch and the fence starts (10 R317). -/
theorem exec_epochAdvance (hfence : s.fenceAt h = some (o, a, e)) (hnone : s.rxOpen = []) (hx : s.ctx? o.ctx = some x)
    (hall : ∀ r, r < s.boxExt a → x.drained.contains (a, e, r) = true) :
    exec (.epochAdvance h) s = .next ((s.modCtx o.ctx (fun x => { x.setEpoch a e with
      drained := x.drained.filter (fun y => !(y.1 == a && y.2.1 == e)) })).startColl h 0xC3 (fun _ => true)).settle := by
  have hstill : ({ s with rxOpen := [] } : State) = s := by rw [← hnone]
  show execEpochAdvance h s = _
  simp only [execEpochAdvance, hfence, hnone, List.filter_nil, List.map_nil, List.append_nil, hstill, State.dropStale_of_nil hnone,
    State.modCtx_id, hx]
  exact if_pos (by simpa using hall)

end

/-! ### Completion -/

section
variable {s : State} {op : Nat} {o : Op} {run : CollRun}

/-- A collective without `STEP` or `CLOSE` whose parts are all done completes (10 R289; 07 R211). -/
theorem exec_collectiveComplete (hop : s.op? op = some o) (hkind : o.kind = 3) (hrun : o.coll = some run)
    (hdone : run.done (CollD.of o.desc) = true) (hstep : (CollD.of o.desc).step = false) (hclose : (CollD.of o.desc).close = false) :
    exec (.collectiveComplete op) s = .next (((if (CollD.of o.desc).priv then s.holdAgreed o.ctx run.cur else s).noteScatter o
      (CollD.of o.desc) run).completeHere o) := by
  show execCollectiveComplete op s = _
  simp only [execCollectiveComplete, hop, hrun]
  exact if_neg (by simp [hkind, hdone, hstep, hclose])

/-- The first verdict collective of a step sets the verdict of its context as it completes (07 R199). -/
theorem exec_verdictSet_first (hop : s.op? op = some o) (hkind : o.kind = 3) (hrun : o.coll = some run)
    (hdone : run.done (CollD.of o.desc) = true) (hstep : (CollD.of o.desc).step = true) (hfirst : run.firstVerdict = true) :
    exec (.verdictSet op) s = .next ((s.modCtx o.ctx (fun x => { x with
      verdict := if run.cur.headD 0 = 0 then .commit else .skip })).completeHere o) := by
  show execVerdictSet op s = _
  simp only [execVerdictSet, hop, hrun, hfirst, if_true]
  exact if_neg (by simp [hkind, hdone, hstep])

/-- A close that signals nothing begins, or waits for the one under way, as its barrier completes (07 R216). -/
theorem exec_stepClose (hop : s.op? op = some o) (hkind : o.kind = 3) (hrun : o.coll = some run)
    (hdone : run.done (CollD.of o.desc) = true) (hclose : (CollD.of o.desc).close = true) (hsignal : o.sync.signal = none) :
    exec (.stepClose op) s = .next ((s.completeOp op false).modCtx o.ctx (fun x =>
      if x.closing = .idle then x.beginClose none else { x with closeQ := x.closeQ ++ [none] })) := by
  show execStepClose op s = _
  simp only [execStepClose, hop, hrun, hsignal, Option.map_none]
  exact if_neg (by simp [hkind, hdone, hclose])

end

/-- Settles O39: command by command. -/
theorem collectiveCommandsComplete : Obligations.CollectiveCommandsComplete :=
  ⟨fun _ _ _ _ _ hp hkind hmsg hfresh _ => exec_collSignature hp hkind hmsg hfresh,
    fun _ _ _ _ _ => exec_collData,
    fun _ _ slot => exec_collHopAdd slot,
    fun _ _ _ _ _ => exec_collCredit,
    fun _ _ _ _ _ _ => exec_collDrained,
    fun _ _ _ _ _ _ => exec_epochAdvance,
    fun _ _ _ _ _ hp hkind hmsg hfresh hcoll hst => exec_collAborted hp hkind hmsg hfresh hcoll (by rw [hst]; rfl) (by decide),
    fun _ _ _ => exec_collectiveComplete,
    fun _ _ _ => exec_verdictSet_first,
    fun _ _ _ => exec_stepClose⟩

end Sys2Proof.Machine
end

section
/-! Partition commands: the fabric coordinate, the partition, its fault mode, levees, grants, and what a port expects of its peer
(11 R322 to R325, R333, R338 to R341; 09 R264, R266). -/

namespace Sys2Proof.Machine

section
variable {s : State} {n : Fin 64} {seq : W32} {x : Sess} {r : Req}

/-! ### Checks that pass -/

/-- The outcome of a list of checks that each pass is the effect. -/
theorem checked_of_all_pass {cs : List Check} {k : CmdOut} (hpass : ∀ c ∈ cs, c.1 = false) : checked cs k = k :=
  checked_pass k (List.find?_eq_none.mpr fun c hc => by simp [hpass c hc])

/-- At a request's turn the package state allows it (12 R371). -/
theorem State.atTurn.pkgCheck_passes {op : Nat} (h : s.atTurn n seq op x r) : (s.pkgCheck r).1 = false := by
  obtain ⟨-, -, -, -, hpkg⟩ := h
  exact hpkg

/-- A test that no axis meets. -/
theorem any_axis_eq_false {p : Axis → Bool} (hp : ∀ a : Fin 3, p a.val = false) : [0, 1, 2].any p = false := by
  simpa [Fin.forall_fin_succ] using hp

/-! ### Coordinate, partition and fault mode -/

/-- Outside a partition, a coordinate that lies within the fabric's extents is written (11 R322). -/
theorem exec_partSetCoord {v : W32} (h : s.atTurn n seq 0x0301 x r) (hv : v = BitVec.ofNat 32 (r.num 0 4) &&& ~~~(0xF8#32))
    (hfree : s.ptag = 0) (hin : ∀ a : Fin 3, coordOf v 31 a.val < coordOf v 19 a.val + 1) :
    exec (.partSetCoord n seq) s = .next (s.answer n.val r (.ok { s with part := { s.part with fabCfg := v } })) := by
  have hbad : ([0, 1, 2].any fun a => decide (coordOf v 19 a + 1 ≤ coordOf v 31 a)) = false :=
    any_axis_eq_false fun a => decide_eq_false (Nat.not_le.mpr (hin a))
  show execPartSetCoord n seq s = _
  rw [execPartSetCoord, aidar_at_turn h]
  dsimp only
  rw [← hv, hbad]
  simp [h.pkg, hfree]

/-- A partition that the module can join is written while no context is bound to the present one (11 R323, R325). -/
theorem exec_partJoin {v : W64} (h : s.atTurn n seq 0x0302 x r) (hv : v = BitVec.ofNat 64 (r.num 0 8) &&& ~~~(0x7FF#64))
    (htag : cfgPtag v ≠ 0) (hgood : s.joinBad v = false) (hunbound : s.onPartition = false) :
    exec (.partJoin n seq) s = .next (s.answer n.val r (.ok { s with part := { s.part with partCfg := v } })) := by
  show execPartJoin n seq s = _
  rw [execPartJoin, aidar_at_turn h]
  dsimp only
  rw [← hv, if_neg htag]
  simp [h.pkg, hgood, hunbound]

/-- `REPLAY` can always be set (11 R341). -/
theorem exec_faultModeSet_replay (h : s.atTurn n seq 0x0305 x r) (hmode : r.num 0 1 = 1) :
    exec (.faultModeSet n seq) s = .next (s.answer n.val r (.ok { s with
      part := { s.part with partCfg := (s.part.partCfg &&& ~~~(0x800#64)) ||| 0x800#64 } })) := by
  show execFaultModeSet n seq s = _
  rw [execFaultModeSet, aidar_at_turn h]
  simp [h.pkg, hmode]

/-- `FENCE` is set where the module holds no grant and no axis of its box is `TRANSIT` (11 R338, R341). -/
theorem exec_faultModeSet_fence (h : s.atTurn n seq 0x0305 x r) (hmode : r.num 0 1 = 0) (hgrant : s.holdsGrant = false)
    (haxis : ∀ a : Fin 3, cfgMode s.part.partCfg a.val ≠ 2) :
    exec (.faultModeSet n seq) s = .next (s.answer n.val r (.ok { s with
      part := { s.part with partCfg := s.part.partCfg &&& ~~~(0x800#64) } })) := by
  have htransit : ([0, 1, 2].any fun a => cfgMode s.part.partCfg a == 2) = false :=
    any_axis_eq_false fun a => beq_false_of_ne (haxis a)
  show execFaultModeSet n seq s = _
  rw [execFaultModeSet, aidar_at_turn h]
  simp only [htransit]
  simp [h.pkg, hmode, hgrant]

/-! ### Levees -/

/-- A module without a grant has no handle that names one. -/
theorem State.not_grant_of_none (hnone : s.holdsGrant = false) {e : Nat × HObj} (hmem : e ∈ s.handles.live) (g : Grant) :
    e.2 ≠ .grant g := by
  intro hgrant
  rw [State.holdsGrant, List.any_eq_false] at hnone
  simpa [hgrant] using hnone e hmem

/-- A module without a grant raises the levees that are named (11 R340). -/
theorem exec_leveeRaise_raises (h : s.atTurn n seq 0x0306 x r) (hclean : r.clean [(0, 3)] = true) (hmask : r.num 0 2 < 4096)
    (hact : r.num 2 1 = 1) (hgrant : s.holdsGrant = false) :
    exec (.leveeRaise n seq) s = .next (s.answer n.val r (.done
      { s with part := { s.part with levee := s.part.levee ||| BitVec.ofNat 12 (r.num 0 2) } } .ok
      ((s.part.levee ||| BitVec.ofNat 12 (r.num 0 2)).setWidth 3456) 2)) := by
  show execLeveeRaise n seq s = _
  rw [execLeveeRaise, aidar_at_turn h]
  dsimp only
  rw [checked_of_all_pass, if_pos hact]
  simp only [List.forall_mem_cons]
  refine ⟨by simp [badArg, hclean, hmask, hact], h.pkgCheck_passes, ?_, nofun⟩
  rw [Bool.and_eq_false_iff, List.any_eq_false]
  refine .inr fun e hmem => ?_
  split
  · next g hg => exact absurd hg (State.not_grant_of_none hgrant hmem g)
  · exact Bool.false_ne_true

/-- The levees that are named are lowered, grant or none (11 R340). -/
theorem exec_leveeRaise_lowers (h : s.atTurn n seq 0x0306 x r) (hclean : r.clean [(0, 3)] = true) (hmask : r.num 0 2 < 4096)
    (hact : r.num 2 1 = 0) :
    exec (.leveeRaise n seq) s = .next (s.answer n.val r (.done
      { s with part := { s.part with levee := s.part.levee &&& ~~~(BitVec.ofNat 12 (r.num 0 2)) } } .ok
      ((s.part.levee &&& ~~~(BitVec.ofNat 12 (r.num 0 2))).setWidth 3456) 2)) := by
  show execLeveeRaise n seq s = _
  rw [execLeveeRaise, aidar_at_turn h]
  simp [h.pkg, hclean, Nat.not_le.mpr hmask, hact]

/-! ### Grants -/

/-- A grant that the module can take is installed if the operator signed it, and refused otherwise (11 R333). -/
theorem exec_transitGrant {b : BitVec 128} {g : W32} {s1 : State} (h : s.atTurn n seq 0x0304 x r)
    (hb : b = BitVec.ofNat 128 (r.num 0 16)) (hserial : fieldN b 127 64 = s.sec.serial.toNat) (haxis : fieldN b 47 46 ≠ 3)
    (hshare : fieldN b 45 40 ≤ 50) (hzero : fieldN b 39 32 = 0)
    (hissue : ∀ i, smGet? s.part.issues (fieldN b 63 48) = some i → i.toNat < fieldN b 31 0)
    (hmode : s.ptag = 0 ∨ cfgReplay s.part.partCfg = true) (hother : fieldN b 63 48 ≠ s.ptag) (hroom : s.grants < 8)
    (hsum : s.newShare b ≤ 50) (hnew : s.newHandle (.grant { body := b }) = some (g, s1)) :
    exec (.transitGrant n seq) s = .next (s.answer n.val r (if s.operatorSigned 128 b.toNat (r.num 16 96) then
      .done { s1 with part := { s1.part with issues := smPut s1.part.issues (fieldN b 63 48) (BitVec.ofNat 32 (fieldN b 31 0)) } } .ok
        (g.setWidth 3456) 4
      else .refuse .authFailed 0)) := by
  have hconflict : ((s.ptag != 0 && !cfgReplay s.part.partCfg) || fieldN b 63 48 == s.ptag) = false := by
    obtain hnone | hreplay := hmode
    · simpa [hnone] using hother
    · simp [hreplay, hother]
  show execTransitGrant n seq s = _
  rw [execTransitGrant, aidar_at_turn h]
  dsimp only
  rw [← hb, hnew]
  by_cases hsigned : s.operatorSigned 128 b.toNat (r.num 16 96) = true
  · rw [if_pos hsigned, checked_of_all_pass]
    simp only [List.forall_mem_cons]
    refine ⟨by simp [hsigned], by simp [badArg, hserial, haxis, hshare, hzero], ?_, h.pkgCheck_passes, hconflict,
      by simp [hroom, hsum], nofun⟩
    split
    · next i hi => simpa using hissue i hi
    · rfl
  · simp [hsigned]

/-! ### Expectations of a port -/

/-- Action 2 of a port's entry takes away what the port expects (09 R264). -/
theorem State.linkAction_clears {j : Nat} (hact : r.linkAct j = 2) :
    s.linkAction r j = s.modPort j (fun p => { p with expect := none }) := by
  simp only [State.linkAction, hact]

/-- A `LINK_EXPECT` that names port 0 alone takes away what it expects, and installs the fabric key that it brings. -/
theorem exec_linkExpect_clears (h : s.atTurn n seq 0x0303 x r)
    (hclean : r.clean ([(0, 2), (400, 32)] ++ (List.range 12).map (fun j => (16 + 24 * j, 13))) = true) (hmask : r.num 0 2 = 1)
    (hkey : r.num 400 32 ≠ 0) (hact : r.linkAct 0 = 2) (hdue : s.scopeDue = []) :
    exec (.linkExpect n seq) s = .next (s.answer n.val r (.ok { s with
      sec := { s.sec with fabricKey := some (BitVec.ofNat 256 (r.num 400 32)) }
      ports := modAt s.ports 0 (fun p => { p with expect := none }) })) := by
  have hports : (List.range 12).filter (fun j => Nat.testBit 1 j) = [0] := by decide
  show execLinkExpect n seq s = _
  rw [execLinkExpect, aidar_at_turn h]
  simp only [hmask, hports, hclean, hkey, List.foldl_cons, List.foldl_nil, if_false, State.linkAction_clears hact]
  rw [State.settle_of_none_due]
  · simp [h.pkg, hact, State.modPort]
  · exact hdue

end

/-- Settles O18: command by command; a grant is installed or refused as its signature stands. -/
theorem partitionCommandsComplete : Obligations.PartitionCommandsComplete :=
  ⟨fun _ _ _ _ _ h => exec_partSetCoord h rfl,
    fun _ _ _ _ _ _ => exec_partJoin,
    fun _ _ _ _ _ => exec_faultModeSet_replay,
    fun _ _ _ _ _ => exec_faultModeSet_fence,
    fun _ _ _ _ _ => exec_leveeRaise_raises,
    fun _ _ _ _ _ => exec_leveeRaise_lowers,
    fun _ _ _ _ _ _ _ _ => exec_transitGrant,
    fun _ _ _ _ _ => exec_linkExpect_clears⟩

end Sys2Proof.Machine
end

section
/-! Sessions: the records of a request, the checks before its effect, the session commands and the mailbox (12 R360 to R371). -/

namespace Sys2Proof.Machine

/-- A change of a listed entry is a write of it. -/
theorem smMod_of_smGet? {α : Type} {m : SMap α} {n : Nat} {v : α} (h : smGet? m n = some v) (f : α → α) :
    smMod m n f = smPut m n (f v) := by
  simp [smMod, h]

section
variable {s : State} {n : Nat} {x : Sess}

/-- An open session after its change. -/
theorem State.sess?_modSess (h : s.sess? n = some x) (f : Sess → Sess) : (s.modSess n f).sess? n = some (f x) := by
  have hget : smGet? s.sess n = some x := h
  rw [State.sess?, State.modSess_sess, smGet?_smMod_self, hget, Option.map_some]

/-! ### Records (12 R364, R365, R376) -/

/-- No record is written while the ring is full. -/
theorem flushLoop_of_full (hfull : x.ringFree = false) (t fuel : Nat) (acc : List Out) : flushLoop n t fuel x acc = (x, acc) := by
  cases fuel <;> simp [flushLoop, hfull]

/-- None is written where none waits. -/
theorem flushLoop_of_none {t : Nat} (hnone : x.nextRecord t = none) (fuel : Nat) (acc : List Out) :
    flushLoop n t fuel x acc = (x, acc) := by
  cases fuel <;> simp [flushLoop, hnone]

/-- Where the ring has room, the next record is written and the rest follow. -/
theorem flushLoop_of_next {t : Nat} {rec : Record} {y : Sess} (hfree : x.ringFree = true) (hnext : x.nextRecord t = some (rec, y))
    (fuel : Nat) (acc : List Out) :
    flushLoop n t (fuel + 1) x acc = flushLoop n t fuel (y.write n rec).1 (acc ++ [(y.write n rec).2]) := by
  simp [flushLoop, hfree, hnext]

/-- A session with no result, event or overflow has no record to write. -/
theorem Sess.nextRecord_eq_none (hres : x.results = []) (hev : x.events = []) (hovf : x.overflow = 0) (t : Nat) :
    x.nextRecord t = none := by
  simp [Sess.nextRecord, hres, hev, hovf]

/-- A session that has written a record in clear. -/
def Sess.wrote (x : Sess) (rec : Record) : Sess := { x with written := x.written + 1, sealOn := x.sealOn || rec.fin }

/-- A session without keys writes its records in clear. -/
theorem Sess.write_of_no_keys (hkeys : x.keys = none) (n : Nat) (rec : Record) :
    x.write n rec = (x.wrote rec,
      .record n (x.written.toNat % x.ringSize) (rec.image ((x.written.toNat / x.ringSize) % 2 == 0))) := by
  simp [Sess.write, Sess.wrote, hkeys]

/-- The flush of a session from which nothing is written changes nothing. -/
theorem State.flush_of_idle (h : s.sess? n = some x) (hidle : x.ringFree = false ∨ x.nextRecord s.now = none) :
    (s.flush n).sess? n = some x ∧ (s.flush n).out = s.out := by
  have hloop : flushLoop n s.now (x.results.length + x.events.length + 1) x [] = (x, []) :=
    hidle.elim (flushLoop_of_full · _ _ _) (flushLoop_of_none · _ _)
  simp only [State.flush, h, hloop]
  exact ⟨smGet?_smPut_self _ n x, List.append_nil _⟩

/-- The session of a request that completes, with its result record behind those that wait. -/
def Sess.completes (x : Sess) (r : Req) (rec : Record) : Sess :=
  { x with reqs := x.reqs.filter (fun q => q.order != r.order), results := x.results ++ [rec] }

section
variable {r : Req} (h : s.sess? n = some x) (st : BitVec 16) (code : BitVec 8) (body : BitVec 3456) (len : Nat) (fin : Bool)
include h

/-- A request that needs no acknowledgement leaves its result record behind those that wait, and these go to the ring. -/
theorem State.finishReq_prompt (hown : r.issuer = none) (hack : r.acked = true ∨ s.now ≤ r.takenAt + 50000) :
    s.finishReq n r st code body len fin = (s.modSess n (·.completes r (r.record 2 st code body len s.now fin))).flush n := by
  have hlate : (!r.acked && decide (r.takenAt + 50000 < s.now)) = false := by
    obtain hack | hack := hack
    · simp [hack]
    · simp [Nat.not_lt.mpr hack]
  have hget : smGet? s.sess n = some x := h
  simp only [State.finishReq, h, hown, hlate, State.modSess, smMod_of_smGet? hget]
  simp [Sess.completes]

/-- A request of an ended session, whose number an open one has taken, leaves no record (12 R376). -/
theorem State.finishReq_orphan (horphan : r.issuer.isSome = true) (hopen : x.closed = false) :
    s.finishReq n r st code body len fin = s.modSess n (fun x' => { x' with reqs := x.reqs.filter (fun q => q.order != r.order) }) := by
  simp [State.finishReq, h, horphan, hopen]

end

/-- The one record that waits goes to the entry that is next, where the ring has room. -/
theorem State.flush_one {rec : Record} (h : s.sess? n = some x) (hres : x.results = [rec]) (hev : x.events = [])
    (hovf : x.overflow = 0) (hkeys : x.keys = none) (hfree : x.ringFree = true) :
    (s.flush n).out = s.out ++
      [.record n (x.written.toNat % x.ringSize) (rec.image ((x.written.toNat / x.ringSize) % 2 == 0))] := by
  have hnext : x.nextRecord s.now = some (rec, { x with results := [] }) := by simp [Sess.nextRecord, hres]
  have hwrite := Sess.write_of_no_keys (x := { x with results := [] }) hkeys n rec
  simp only [State.flush, h, flushLoop_of_next hfree hnext, hwrite]
  have hnone := Sess.nextRecord_eq_none (x := ({ x with results := [] } : Sess).wrote rec) rfl hev hovf s.now
  rw [flushLoop_of_none hnone]
  rfl

/-! ### Ends of a session -/

/-- A session that no `BYE` has asked to close stays. -/
theorem State.closeBye_of_not_bye (h : s.sess? n = some x) (hbye : x.bye = false) : s.closeBye n = s := by
  simp [State.closeBye, h, hbye]

/-- A session that ends with nothing left to run goes, with no more to do where it holds no debug session. -/
theorem State.endSession_of_idle (h : s.sess? n = some x) (hreqs : x.reqs = []) (hdbg : s.sec.debug ≠ some n) :
    s.endSession n = { s with sess := smErase s.sess n } := by
  simp [State.endSession, h, hreqs, hdbg]

end

/-! ### The session commands (12 R370, R371, R373) -/

section
variable {s : State} {n : Fin 64} {seq : W32} {x : Sess} {r : Req}

/-- The session of a request that waits, which its checks see as it stood when the request was taken. -/
theorem State.atTurn.sess {op : Nat} (h : s.atTurn n seq op x r) : ∃ y, s.sess? n.val = some y ∧ x = y.asOf r := by
  obtain ⟨hwait, -⟩ := h
  simp only [State.waiting?] at hwait
  split at hwait
  · cases hwait
  · next y hy =>
    obtain ⟨q, -, hq⟩ := Option.map_eq_some_iff.mp hwait
    cases hq
    exact ⟨y, hy, rfl⟩

/-- How the checks see a session leaves its requests as they are. -/
theorem Sess.asOf_reqs (x : Sess) (r : Req) : (x.asOf r).reqs = x.reqs := by
  unfold Sess.asOf
  split <;> rfl

/-- `HELLO` of revision 2 and 4 bytes opens the interface, with the lower of the two minors and no event masked. -/
theorem exec_hello (h : s.atTurn n seq 0x0001 x r) (hfirst : x.helloDone = false ∨ x.restarted = true) (hrev : r.num 0 2 = 2)
    (hlen : r.len = 4) :
    exec (.hello n seq) s = .next (s.answer n.val r (.done (s.modSess n.val (fun y => { y with
      helloDone := true, restarted := false, minor := min (r.num 2 2) 3, mask := 0 })) .ok
      (s.helloBody n.val x (min (r.num 2 2) 3)) 22)) := by
  have hopen : (x.helloDone && !x.restarted) = false := by
    obtain hfirst | hfirst := hfirst <;> simp [hfirst]
  show execHello n seq s = _
  rw [execHello, aidar_at_turn h]
  simp [h.pkg, hopen, hrev, hlen]

/-- `BYE` runs once it is the only request of its session. -/
theorem exec_bye (h : s.atTurn n seq 0x0002 x r) (hlast : x.reqs.length = 1) :
    exec (.bye n seq) s = .next ((s.answer n.val r (.ok (s.modSess n.val (fun y => { y with bye := true })))).closeBye n.val) := by
  obtain ⟨y, hy, rfl⟩ := h.sess
  rw [Sess.asOf_reqs] at hlast
  have hown : ¬ 1 < y.own.length := Nat.not_lt.mpr (hlast ▸ List.length_filter_le _ _)
  have hrun := aidar_at_turn h (fun _ r => checked [s.pkgCheck r] (.ok (s.modSess n.val (fun y => { y with bye := true }))))
  rw [h.pkg, checked_nil, aidar, Host.Outcome.next.injEq] at hrun
  show execBye n seq s = _
  simp only [execBye, hy, if_neg hown]
  rw [hrun]

/-- `PING` answers the next sequence number, tide and the package state. -/
theorem exec_ping (h : s.atTurn n seq 0x0003 x r) :
    exec (.ping n seq) s = .next (s.answer n.val r (.done s .ok (pack 3456
      [(31, 0, (x.nextSeq.getD 0).toNat), (95, 32, s.now), (103, 96, 0x10 + s.pkg.st.num),
        (111, 104, b2n (s.degWhy != 0))]) 14)) := by
  show execPing n seq s = _
  rw [execPing, aidar_at_turn h, h.pkg, checked_nil]

/-! ### The mailbox (12 R360 to R364) -/

/-- A connection opens the lowest free session, where a queue pair and the size of the ring allow it. -/
theorem exec_aidarConnect {port : Fin 8} {va : BitVec 64} {rkey : W32} {log2 : BitVec 8} {n : Nat} (htakes : s.takesSessions = true)
    (hup : (s.ethPort port.val).up = true) (hfree : (List.range 64).find? s.sessFree = some n) (hlo : 6 ≤ log2.toNat)
    (hhi : log2.toNat ≤ 12) (hroom : s.qpCount < 4096) :
    exec (.aidarConnect port va rkey log2) s = .next { s with
      sess := smPut s.sess n { port := port.val, ringVa := va, rkey := rkey, log2 := log2.toNat, qpn := s.newQp
                               areaKey := Config.freeBits 32 s.draw, reqs := ((s.sess? n).map (·.reqs)).getD [] }
      out := s.out ++ [.cmAccept port.val s.newQp (BitVec.ofNat 64 (0xFF00FF800000 + n * 0x8000)) (Config.freeBits 32 s.draw) n]
      draw := s.draw + 1 } := by
  show execAidarConnect port va rkey log2 s = _
  simp only [execAidarConnect, hfree]
  rw [if_neg (by simp [htakes, hup]), if_neg (by omega)]
  rfl

/-- A slot written as `POSTED` stands posted. -/
theorem Sess.post_of_posted (x : Sess) (slot : Nat) {img : Image512} (howner : slotOwner img = 1) :
    x.post slot img = { x with slots := smPutD 0 x.slots slot img, posted := x.posted ||| (1#32 <<< slot) } := by
  simp [Sess.post, howner]

/-- The host writes such a slot of an open session. -/
theorem exec_slotPost {slot : Fin 32} {img : Image512} (h : s.sess? n.val = some x) (hopen : x.closed = false)
    (howner : slotOwner img = 1) :
    exec (.slotPost n slot img) s = .next (s.modSess n.val (fun y => { y with
      slots := smPutD 0 y.slots slot.val img, posted := y.posted ||| (1#32 <<< slot.val) })) := by
  show execSlotPost n slot img s = _
  simp only [execSlotPost, h, Sess.post_of_posted _ _ howner]
  simp [hopen]

/-- The session whose next request has been taken from a slot, while it holds no keys. -/
def Sess.takes (x : Sess) (slot : Nat) (r : Req) : Sess :=
  { x with
    slots := smPutD 0 x.slots slot (smGet 0 x.slots slot &&& ~~~(0xFF#4096))
    posted := x.posted &&& ~~~(1#32 <<< slot)
    nextSeq := some (slotSeq (smGet 0 x.slots slot) + 1)
    reqs := x.reqs ++ [r] }

/-- The request that a session without keys takes from a slot. -/
def State.clearReq (s : State) (x : Sess) (slot : Nat) : Req :=
  takenReq slot (smGet 0 x.slots slot) (BitVec.ofNat 3456 (fieldN (smGet 0 x.slots slot) 3967 512)) s.takeOrder s.now

/-- A session without keys takes the request of a slot as it stands, where it has room and a row runs the opcode. -/
theorem State.takeSlot_of_no_keys {n slot : Nat} (hkeys : x.keys = none) (hroom : x.own.length < 32)
    (hknown : (opInfo (s.clearReq x slot).opcode.toNat).isSome = true) :
    s.takeSlot n slot x = { s with sess := smPut s.sess n (x.takes slot (s.clearReq x slot)), takeOrder := s.takeOrder + 1 } := by
  have hbody : x.openSlot (smGet 0 x.slots slot) = some (BitVec.ofNat 3456 (fieldN (smGet 0 x.slots slot) 3967 512)) := by
    simp [Sess.openSlot, hkeys]
  have hfull : decide (32 ≤ x.own.length) = false := decide_eq_false (Nat.not_le.mpr hroom)
  rw [State.clearReq] at hknown
  simp only [State.takeSlot, hbody, hfull, hknown, hkeys, Option.getD_some, Option.isSome_some, Option.map_none, Bool.not_false,
    Bool.and_self, if_true, Sess.takes, State.clearReq]

/-- The package manager takes a posted request that is next in order. -/
theorem exec_requestTake {slot : Fin 32} (h : s.sess? n.val = some x) (hopen : x.closed = false) (hbye : x.bye = false)
    (hreqs : x.reqs = []) (hposted : x.posted.getLsbD slot.val = true)
    (hseq : x.nextSeq.getD (slotSeq (smGet 0 x.slots slot.val)) = slotSeq (smGet 0 x.slots slot.val))
    (hmgr : s.pkg.mgr.st = .running) : exec (.requestTake n slot) s = .next (s.takeSlot n.val slot.val x) := by
  show execRequestTake n slot s = _
  simp only [execRequestTake, h]
  rw [if_neg]
  cases hnext : x.nextSeq with
  | none => simp [hopen, hbye, hreqs, hposted, hmgr]
  | some q =>
    rw [hnext, Option.getD_some] at hseq
    simp [hopen, hbye, hreqs, hposted, hmgr, hseq]

/-- The record of a request that has its outcome is written. -/
theorem exec_commandComplete {v : BitVec 16 × BitVec 8 × BitVec 3456 × Nat} (h : s.sess? n.val = some x)
    (hfind : x.reqs.find? (fun r => r.seq == seq && r.result.isSome) = some r) (hres : r.result = some v) :
    exec (.commandComplete n seq) s = .next (s.finishReq n.val r v.1 v.2.1 v.2.2.1 v.2.2.2 false) := by
  show execCommandComplete n seq s = _
  simp only [execCommandComplete, h, hfind, hres]

/-- A write of `RING_CONSUMER` to an open session lets its records go. -/
theorem exec_ringConsumerWrite (h : s.sess? n.val = some x) (hopen : x.closed = false) (v : W32) :
    exec (.ringConsumerWrite n v) s =
      .next (((s.modSess n.val (fun x => { x with consumer := v })).flush n.val).closeBye n.val) := by
  show execRingConsumerWrite n v s = _
  simp [execRingConsumerWrite, h, hopen]

end

/-- Settles O8: the session is changed once, and its flush stops at a full ring or after the one record that waits. -/
theorem resultRecord : Obligations.ResultRecord := by
  refine ⟨fun s n x r st code body len fin h hown _ hfull hack => ?_,
    fun s n x r st code body len fin h hown _ hres hev hovf hkeys hfree hack => ?_,
    fun s n x r st code body len fin h horphan hopen => ?_⟩
  · have hy := State.sess?_modSess h (·.completes r (r.record 2 st code body len s.now fin))
    obtain ⟨hsess, hout⟩ := State.flush_of_idle hy (.inl hfull)
    rw [State.finishReq_prompt h st code body len fin hown hack]
    exact ⟨_, hsess, rfl, rfl, hout⟩
  · have hy := State.sess?_modSess h (·.completes r (r.record 2 st code body len s.now fin))
    rw [State.finishReq_prompt h st code body len fin hown hack]
    have hflush := State.flush_one hy (congrArg (· ++ _) hres) hev hovf hkeys hfree
    exact hflush
  · rw [State.finishReq_orphan h st code body len fin horphan hopen]
    exact ⟨State.sess?_modSess h _, rfl⟩

/-- Settles O9: the check that fails stands before the effect, and the refusal is the request's record alone. -/
theorem checksInOrder : Obligations.ChecksInOrder :=
  fun _ _ _ _ _ _ core _ hwait hmgr hidle hcheck => congrArg _ (runReq_refused core hwait hmgr hidle hcheck)

/-- Settles O10: command by command. -/
theorem sessionCommandsComplete : Obligations.SessionCommandsComplete :=
  ⟨fun _ _ _ _ _ => exec_hello, fun _ _ _ _ _ => exec_bye, fun _ _ _ _ _ => exec_ping⟩

/-- Settles O11: command by command; a write of `RING_CONSUMER` finds no record that waits. -/
theorem mailboxCommandsComplete : Obligations.MailboxCommandsComplete := by
  refine ⟨fun s port va rkey log2 n => exec_aidarConnect, fun s n x h hreqs hdbg => congrArg _ (State.endSession_of_idle h hreqs hdbg),
    fun s n slot img x => exec_slotPost, fun s n slot x h hopen hbye hreqs hposted hkeys hseq hmgr hknown => ?_,
    fun s n seq x r v => exec_commandComplete, fun s n v x h hopen hbye hres hev hovf => ?_⟩
  · have htake := exec_requestTake h hopen hbye hreqs hposted hseq hmgr
    rw [State.takeSlot_of_no_keys hkeys (by simp [Sess.own, hreqs]) hknown] at htake
    refine ⟨_, x.takes slot.val (s.clearReq x slot.val), _, htake, smGet?_smPut_self _ _ _, rfl, congrArg (· ++ _) hreqs, ?_, rfl⟩
    · simp [Sess.takes]
  · have hy := State.sess?_modSess h (fun x => { x with consumer := v })
    obtain ⟨hsess, hout⟩ := State.flush_of_idle hy (.inr (Sess.nextRecord_eq_none (x := { x with consumer := v }) hres hev hovf _))
    refine ⟨_, exec_ringConsumerWrite h hopen v, ?_⟩
    rw [State.closeBye_of_not_bye hsess hbye]
    exact ⟨hsess, hout⟩

end Sys2Proof.Machine
end

section
/-! Data queue pairs and Ethernet ports: their commands, the frames of a port, and RDMA (12 R352 to R359, R372; 14 R411). -/

namespace Sys2Proof.Machine

/-! ### Queue pairs as a table -/

/-- The later of two writes at one key stands. -/
theorem smPut_smPut {α : Type} (m : SMap α) (n : Nat) (v w : α) : smPut (smPut m n v) n w = smPut m n w := by
  induction m with
  | nil => simp [smPut]
  | cons e t ih =>
    simp only [smPut]
    split
    · simp [smPut]
    · split
      · simp [smPut]
      · next hne hlt => simp [smPut, hne, hlt, ih]

section
variable {s : State} {n : Nat} {q : Qp}

/-- A change of a queue pair writes its entry. -/
theorem State.modQp_of_qp? (h : s.qp? n = some q) (f : Qp → Qp) : s.modQp n f = { s with qps := smPut s.qps n (f q) } := by
  rw [State.modQp, smMod_of_smGet? h]

/-- A queue pair after its change. -/
theorem State.qp?_modQp (h : s.qp? n = some q) (f : Qp → Qp) : (s.modQp n f).qp? n = some (f q) := by
  rw [State.modQp_of_qp? h]
  exact smGet?_smPut_self _ _ _

/-- A queue pair that serves requests: it is connected, and its port and the package are up. -/
theorem State.qpLive_eq_some : s.qpLive n = some q ↔
    s.qp? n = some q ∧ s.serves = true ∧ q.st = .connected ∧ (s.ethPort q.port).up = true := by
  unfold State.qpLive
  cases s.qp? n with
  | none => simp
  | some p =>
    simp only [Option.ite_none_right_eq_some, Option.some.injEq]
    constructor
    · rintro ⟨hserves, rfl⟩
      exact ⟨rfl, hserves⟩
    · rintro ⟨rfl, hserves⟩
      exact ⟨hserves, rfl⟩

/-! ### Requests that arrive -/

/-- Whether a request is held does not depend on what else is outstanding. -/
theorem State.rdmaHeld_work (s : State) (q : Qp) (ws : List RdmaReq) (w : RdmaReq) :
    s.rdmaHeld { q with work := ws } w = s.rdmaHeld q w := by
  cases w <;> rfl

/-- Nor does how it is served. -/
theorem State.serveRdma_work (s : State) (n : Nat) (q : Qp) (ws : List RdmaReq) (w : RdmaReq) :
    s.serveRdma n { q with work := ws } w = s.serveRdma n q w := by
  cases w <;> rfl

/-- Whether a request is held does not depend on the queue pairs either. -/
theorem State.rdmaHeld_modQp (s : State) (n : Nat) (f : Qp → Qp) (q : Qp) (w : RdmaReq) :
    (s.modQp n f).rdmaHeld q w = s.rdmaHeld q w := by
  cases w <;> rfl

/-- A queue pair put back as it was. -/
theorem State.modQp_modQp_back (hqp : s.qp? n = some q) (f : Qp → Qp) {g : Qp → Qp} (hback : g (f q) = q) :
    (s.modQp n f).modQp n g = s := by
  rw [State.modQp_of_qp? (State.qp?_modQp hqp f), State.modQp_of_qp? hqp, hback]
  simp only [smPut_smPut, smPut_of_smGet? hqp]

/-- A request that arrives at a queue pair with none outstanding waits there if it is held, and is served at once if not. -/
theorem State.takeRdma_of_idle (hlive : s.qpLive n = some q) (hwork : q.work = []) (w : RdmaReq) :
    s.takeRdma n w = if s.rdmaHeld q w then s.modQp n (fun _ => { q with work := [w] }) else s.serveRdma n q w := by
  obtain ⟨hqp, hserves, hst, hup⟩ := State.qpLive_eq_some.mp hlive
  have hreads : ¬ 16 < ({ q with work := [w] } : Qp).reads :=
    Nat.not_lt.mpr (Nat.le_trans (List.length_filter_le _ _) (by decide : 1 ≤ 16))
  have hlive' : (s.modQp n (fun _ => { q with work := [w] })).qpLive n = some { q with work := [w] } :=
    State.qpLive_eq_some.mpr ⟨State.qp?_modQp hqp _, hserves, hst, hup⟩
  have hback := State.modQp_modQp_back hqp (fun _ => { q with work := [w] }) (g := fun q => { q with work := [] }) (by rw [← hwork])
  simp only [State.takeRdma, hlive, hwork, List.nil_append, if_neg hreads, List.length_nil, State.serveQp,
    hlive', State.rdmaHeld_work, State.rdmaHeld_modQp, hback, State.serveRdma_work]

/-! ### What a write of ciphertext leaves alone -/

/-- A write of a context's memory changes tier memory, its poison and the watches of channels only (06 R169, 08 R239). -/
theorem State.store_frame (s : State) (c a : Nat) (bs : List Byte) :
    ∃ ha ti tp, s.store c a bs = { s with handles := ha, tier := ti, tierPoison := tp } := by
  refine foldl_keeps (Q := fun t : State => ∃ ha ti tp, t = { s with handles := ha, tier := ti, tierPoison := tp }) _
    ⟨s.handles, _, _, rfl⟩ ?_
  rintro _ p ⟨_, ti, tp, rfl⟩
  exact ⟨_, ti, tp, rfl⟩

/-- So does a write of ciphertext lines. -/
theorem State.storeCipher_frame (s : State) (c a : Nat) (ls : List (List Byte)) :
    ∃ ha ti tp, s.storeCipher c a ls = { s with handles := ha, tier := ti, tierPoison := tp } := by
  induction ls generalizing s a with
  | nil => exact ⟨s.handles, s.tier, s.tierPoison, rfl⟩
  | cons l ls ih =>
    obtain ⟨_, _, _, hstore⟩ := s.store_frame c a
      (toBytes 64 (Config.xtsDec (s.memKeyOf c) (s.tweak c a) (BitVec.ofNat 512 (ofBytes l))).toNat)
    obtain ⟨ha, ti, tp, hrest⟩ := ih (s.store c a _) (a + 64)
    exact ⟨ha, ti, tp, by rw [State.storeCipher, hrest, hstore]⟩

end

/-! ### Queue-pair commands (12 R355, R356, R358, R372) -/

section
variable {s : State} {n : Fin 64} {seq : W32} {x : Sess} {r : Req} {q : Qp} {y : Ctx}

/-- The context that a request names is the session's own (12 R368, check 6). -/
theorem ctxCheck_of_owner {c : Nat} (hctx : s.ctx? c = some y) (hrole : x.role = .tenant y.owner) :
    ctxCheck s x c = [(false, .denied, 0)] := by
  simp [ctxCheck, hctx, hrole]

/-- So is the queue pair. -/
theorem State.qpCheck_of_owner {k : Nat} (hqp : s.qp? k = some q) (hctx : s.ctx? q.ctx = some y) (hrole : x.role = .tenant y.owner) :
    s.qpCheck x k = (false, .denied, 0) := by
  simp [State.qpCheck, hqp, hctx, hrole]

/-- A context that is not being destroyed can take queue pairs. -/
theorem ctxStCheck_of_not_destroying {c : Nat} (hctx : s.ctx? c = some y) (hst : y.st ≠ .destroying) :
    ctxStCheck s c [.created, .bound, .running, .quiesced] = (false, .stateConflict, 0x20 + y.st.num) := by
  cases hy : y.st with
  | destroying => exact absurd hy hst
  | created | bound | running | quiesced => simp [ctxStCheck, hctx, hy]

/-- A tenant's context takes a queue pair while there is room for one, under a number and a service ID of its own. -/
theorem exec_qpCreate (h : s.atTurn n seq 0x0206 x r) (hctx : s.ctx? (r.num 0 1) = some y) (hrole : x.role = .tenant y.owner)
    (hst : y.st ≠ .destroying) (hclean : r.clean [(0, 3), (16, 16)] = true) (hport : r.num 1 1 ≤ 7) (hmtu : r.num 2 1 ≤ 2)
    (hroom : s.qpCount < 4096) (hown : (s.qps.filter (fun e => e.2.ctx == r.num 0 1)).length < 1024) :
    exec (.qpCreate n seq) s = .next (s.answer n.val r (.done
      { s with qps := smPut s.qps s.newQp { ctx := r.num 0 1, port := r.num 1 1, mtu := r.num 2 1,
                                            partner := BitVec.ofNat 128 (r.be 16 16), service := s.newService s.newQp } }
      .ok (pack 3456 [(23, 0, s.newQp), (127, 64, (s.newService s.newQp).toNat)]) 16)) := by
  show execQpCreate n seq s = _
  rw [execQpCreate, aidar_at_turn h]
  simp [ctxCheck_of_owner hctx hrole, ctxStCheck_of_not_destroying hctx hst, h.pkg, hclean, Nat.not_lt.mpr hport, Nat.not_lt.mpr hmtu,
    Nat.not_le.mpr hroom, Nat.not_le.mpr hown]

section
variable (hqp : s.qp? (r.num 0 4) = some q) (hctx : s.ctx? q.ctx = some y) (hrole : x.role = .tenant y.owner)
include hqp hctx hrole

/-- A queue pair without an outstanding request takes its new partner; one in its error state stays there. -/
theorem exec_qpModify_idle (h : s.atTurn n seq 0x0207 x r) (hclean : r.clean [(0, 4), (16, 16)] = true) (hwork : q.work = []) :
    exec (.qpModify n seq) s = .next (s.answer n.val r (.done (s.modQp (r.num 0 4) (fun q => { q with
      partner := BitVec.ofNat 128 (r.be 16 16), st := if q.st = .error then .error else .idle, psn := 0 })) .ok
      (pack 3456 [(127, 64, q.service.toNat)]) 16)) := by
  show execQpModify n seq s = _
  rw [execQpModify, aidar_at_turn h]
  simp [State.qpCheck_of_owner hqp hctx hrole, h.pkg, hclean, hqp, hwork]

/-- One with a request outstanding is refused. -/
theorem exec_qpModify_busy (h : s.atTurn n seq 0x0207 x r) (hclean : r.clean [(0, 4), (16, 16)] = true) (hwork : q.work ≠ []) :
    exec (.qpModify n seq) s = .next (s.answer n.val r (.refuse .stateConflict 0x5C)) := by
  have hbusy : q.work.isEmpty = false := List.isEmpty_eq_false_iff.mpr hwork
  show execQpModify n seq s = _
  rw [execQpModify, aidar_at_turn h]
  simp [State.qpCheck_of_owner hqp hctx hrole, h.pkg, hclean, hqp, hbusy]

/-- A queue pair is destroyed. -/
theorem exec_qpDestroy (h : s.atTurn n seq 0x0208 x r) :
    exec (.qpDestroy n seq) s = .next (s.answer n.val r (.ok { s with qps := smErase s.qps (r.num 0 4) })) := by
  show execQpDestroy n seq s = _
  rw [execQpDestroy, aidar_at_turn h]
  simp [State.qpCheck_of_owner hqp hctx hrole, h.pkg]

end

/-- The one connection of a queue pair is accepted from its named partner. -/
theorem exec_qpConnect {qp : BitVec 24} {p : BitVec 128} (hqp : s.qp? qp.toNat = some q) (hserves : s.serves = true)
    (hup : (s.ethPort q.port).up = true) (hst : q.st = .idle) (hpartner : q.partner = p) :
    exec (.qpConnect qp p) s = .next { s with
      qps := smPut s.qps qp.toNat { q with st := .connected, psn := 0 }, out := s.out ++ [.qpAccept qp.toNat] } := by
  show execQpConnect qp p s = _
  simp only [execQpConnect, hqp]
  rw [if_neg (by simp [hserves, hup]), if_pos ⟨hst, hpartner⟩, State.modQp_of_qp? hqp]
  rfl

/-- A connected queue pair whose retries are exhausted enters its error state. -/
theorem exec_qpRetryExhausted_data {qp : BitVec 24} (hdata : s.sessOfQp qp.toNat = none) (hqp : s.qp? qp.toNat = some q)
    (hst : q.st = .connected) :
    exec (.qpRetryExhausted qp) s = .next { s with qps := smPut s.qps qp.toNat { q with st := .error, work := [] } } := by
  show execQpRetryExhausted qp s = _
  simp only [execQpRetryExhausted, hdata, hqp]
  rw [if_pos hst, State.modQp_of_qp? hqp]
  rfl

/-- A session ends with its queue pair. -/
theorem exec_qpRetryExhausted_session {qp : BitVec 24} {k : Nat} (hsess : s.sessOfQp qp.toNat = some (k, x)) :
    exec (.qpRetryExhausted qp) s = .next (s.endSession k) := by
  show execQpRetryExhausted qp s = _
  simp only [execQpRetryExhausted, hsess]

/-- A SEND or an atomic request is answered as invalid, and puts the queue pair in its error state. -/
theorem exec_sendOrAtomicRequest {qp : BitVec 24} (hlive : s.qpLive qp.toNat = some q) (hwork : q.work = []) :
    exec (.sendOrAtomicRequest qp) s = .next { s with
      qps := smPut s.qps qp.toNat { q with st := .error, work := [] }, out := s.out ++ [.nak qp.toNat 1] } := by
  obtain ⟨hqp, -⟩ := State.qpLive_eq_some.mp hlive
  show execSendOrAtomicRequest qp s = _
  rw [execSendOrAtomicRequest, State.takeRdma_of_idle hlive hwork, if_neg (by simp [State.rdmaHeld]), State.serveRdma,
    State.modQp_of_qp? hqp]
  rfl

/-! ### Ports (12 R353, R354, R372, R373; 14 R418) -/

/-- `NET_CONFIG` with every mask bit set gives one port its addresses, VLAN, priorities, DSCP values and MACsec key. -/
theorem exec_netConfig_all (h : s.atTurn n seq 0x0307 x r) (hclean : r.clean [(0, 2), (16, 26), (48, 64)] = true) (hport : r.num 0 1 ≤ 7)
    (hmask : r.num 1 1 = 31) (hprioData : r.num 38 1 ≤ 7) (hprioCtrl : r.num 39 1 ≤ 7) (hdscpData : r.num 40 1 ≤ 63)
    (hdscpCtrl : r.num 41 1 ≤ 63) :
    exec (.netConfig n seq) s = .next (s.answer n.val r (.ok (s.modEth (r.num 0 1) (fun p => { p with
      ipv6 := BitVec.ofNat 128 (r.be 16 16), ipv4 := BitVec.ofNat 32 (r.be 32 4), vlan := BitVec.ofNat 16 (r.num 36 2)
      prioData := BitVec.ofNat 8 (r.num 38 1), prioCtrl := BitVec.ofNat 8 (r.num 39 1), dscpData := BitVec.ofNat 8 (r.num 40 1)
      dscpCtrl := BitVec.ofNat 8 (r.num 41 1), macsec := some (BitVec.ofNat 256 (r.num 48 32), BitVec.ofNat 256 (r.num 80 32)) })))) := by
  have hbits : Nat.testBit 31 0 = true ∧ Nat.testBit 31 1 = true ∧ Nat.testBit 31 2 = true ∧ Nat.testBit 31 3 = true ∧
      Nat.testBit 31 4 = true := by decide
  show execNetConfig n seq s = _
  rw [execNetConfig, aidar_at_turn h]
  simp [h.pkg, hclean, hmask, hbits, Nat.not_lt.mpr hport, Nat.not_lt.mpr hprioData, Nat.not_lt.mpr hprioCtrl,
    Nat.not_lt.mpr hdscpData, Nat.not_lt.mpr hdscpCtrl]

section
variable {port prio : Fin 8} {f : EthFrame} (hserves : s.serves = true) (hup : (s.ethPort port.val).up = true)
include hserves hup

/-- An unprotected frame that is no EAPOL-MKA frame is dropped and counted. -/
theorem exec_ethFrameRx_unprotected (hbody : f.body ≠ .mka) (hprot : f.protected_ = false) (hcross : f.crosses = false) :
    exec (.ethFrameRx port f) s = .next (s.modEth port.val (fun p => { p with dropped := p.dropped + 1 })) := by
  show execEthFrameRx port f s = _
  simp [execEthFrameRx, EthPort.pauses, hserves, hup, hbody, hprot, hcross]

/-- The port answers a protected frame that verifies and that it implements. -/
theorem exec_ethFrameRx_taken (hprot : f.protected_ = true) (hver : f.verifies = true) (hcross : f.crosses = false)
    (hlisted : frameListed f (s.ethPort port.val) = true) :
    exec (.ethFrameRx port f) s = .next { s with out := s.out ++ (s.ethPort port.val).replies port.val f } := by
  show execEthFrameRx port f s = _
  simp [execEthFrameRx, EthPort.pauses, hserves, hup, hprot, hver, hcross, hlisted]

/-- A pause stops the sending of a lossless priority. -/
theorem exec_pfcPauseRx_on
    (hprio : (s.ethPort port.val).prioData.toNat = prio.val ∨ (s.ethPort port.val).prioCtrl.toNat = prio.val)
    (hrunning : (s.ethPort port.val).paused.getLsbD prio.val = false) :
    exec (.pfcPauseRx port prio true) s = .next { s.modEth port.val (fun p => { p with
      paused := p.paused ||| (1#8 <<< prio.val), pausedAt := modAt p.pausedAt prio.val (fun _ => s.now) })
      with out := s.out ++ [.paused port.val prio.val true] } := by
  have hlossless : ¬ ((s.ethPort port.val).prioData.toNat ≠ prio.val ∧ (s.ethPort port.val).prioCtrl.toNat ≠ prio.val) :=
    fun ⟨hdata, hctrl⟩ => hprio.elim hdata hctrl
  show execPfcPauseRx port prio true s = _
  simp only [execPfcPauseRx]
  rw [if_neg (by simp [hserves, hup]), if_neg hlossless, if_pos trivial, if_neg (by rw [hrunning]; decide)]
  rfl

end

/-! ### RDMA (12 R356, R357, R361; 14 R409, R411) -/

/-- A session's queue pair may not write below its own mailbox area. -/
theorem exec_rdmaWrite_below_area {qp : BitVec 24} {k : Nat} {va : BitVec 64} (hsess : s.sessOfQp qp.toNat = some (k, x))
    (hva : va.toNat < mailboxAt k) (data : List (BitVec 8)) :
    exec (.rdmaWrite qp x.areaKey va data) s = .next ((s.emit (.nak x.qpn 2)).endSession k) := by
  show execRdmaWrite qp x.areaKey va data s = _
  simp only [execRdmaWrite, hsess, State.writeMailbox]
  rw [if_neg (by omega)]

section
variable {qp : BitVec 24} {rkey : W32} {va : BitVec 64} (hdata : s.sessOfQp qp.toNat = none) (hlive : s.qpLive qp.toNat = some q)
  (hwork : q.work = [])
include hdata hlive hwork

/-- A WRITE at a data queue pair with none outstanding waits where its memory is held, and is served otherwise. -/
theorem exec_rdmaWrite_of_idle (data : List (BitVec 8)) :
    exec (.rdmaWrite qp rkey va data) s = .next (
      if s.rdmaOk q rkey va data.length && s.accessHeld q.ctx va.toNat data.length then
        s.modQp qp.toNat (fun _ => { q with work := [.write rkey va.toNat data] })
      else if s.rdmaOk q rkey va data.length then
        ((s.storeCipher q.ctx va.toNat (linesOf data.length data)).modQp qp.toNat (·.pass data.length)).emit (.rdmaAck qp.toNat)
      else s.nakQp qp.toNat 2 q.ctx) := by
  show execRdmaWrite qp rkey va data s = _
  simp only [execRdmaWrite, hdata, State.takeRdma_of_idle hlive hwork, State.rdmaHeld, State.serveRdma, BitVec.ofNat_toNat,
    BitVec.setWidth_eq]

/-- A READ within a window whose memory is neither held nor poisoned returns the ciphertext of its lines. -/
theorem exec_rdmaRead_served {len : W32} (hok : s.rdmaOk q rkey va len.toNat = true)
    (hfree : s.accessHeld q.ctx va.toNat len.toNat = false) (hsound : s.tierBad q.ctx va.toNat len.toNat = false) :
    exec (.rdmaRead qp rkey va len) s = .next { s with
      qps := smPut s.qps qp.toNat (q.pass len.toNat)
      out := s.out ++ [.rdmaData qp.toNat (s.cipherLines q.ctx va.toNat len.toNat)] } := by
  obtain ⟨hqp, -⟩ := State.qpLive_eq_some.mp hlive
  show execRdmaRead qp rkey va len s = _
  simp only [execRdmaRead, hdata, State.takeRdma_of_idle hlive hwork, State.rdmaHeld, State.serveRdma, BitVec.ofNat_toNat,
    BitVec.setWidth_eq, hok, hfree, hsound, State.modQp_of_qp? hqp]
  rfl

end

end

/-- Settles O16: command by command. -/
theorem queuePairCommandsComplete : Obligations.QueuePairCommandsComplete :=
  ⟨fun _ _ _ _ _ _ => exec_qpCreate,
    fun _ _ _ _ _ _ _ h hqp hctx hrole => exec_qpModify_idle hqp hctx hrole h,
    fun _ _ _ _ _ _ _ h hqp hctx hrole => exec_qpModify_busy hqp hctx hrole h,
    fun _ _ _ _ _ _ _ h hqp hctx hrole => exec_qpDestroy hqp hctx hrole h,
    fun _ _ _ _ => exec_qpConnect,
    fun _ _ _ => exec_qpRetryExhausted_data,
    fun _ _ _ _ => exec_qpRetryExhausted_session,
    fun _ _ _ => exec_sendOrAtomicRequest,
    fun _ _ _ _ _ => exec_netConfig_all,
    fun _ _ _ => exec_ethFrameRx_unprotected,
    fun _ _ _ => exec_ethFrameRx_taken,
    fun _ _ _ => exec_pfcPauseRx_on⟩

/-- Settles O17: each case of a request that finds none outstanding; a write of ciphertext leaves the queue pairs, operations,
tiles and contexts alone. -/
theorem rdmaCompletes : Obligations.RdmaCompletes := by
  refine ⟨fun s qp rkey va data q hdata hlive hwork hok hfree => ?_, fun s qp rkey va data q hdata hlive hwork hok hheld => ?_,
    fun s n x qp va data hsess hva => exec_rdmaWrite_below_area hsess hva data,
    fun s qp rkey va len q hdata hlive hwork => exec_rdmaRead_served hdata hlive hwork,
    fun s qp rkey va data q hdata hlive hwork hbad => ?_⟩
  · have hexec := exec_rdmaWrite_of_idle (rkey := rkey) (va := va) hdata hlive hwork data
    rw [hok, hfree, if_neg (by decide), if_pos rfl] at hexec
    obtain ⟨hqp, -⟩ := State.qpLive_eq_some.mp hlive
    obtain ⟨ha, ti, tp, hstore⟩ := s.storeCipher_frame q.ctx va.toNat (linesOf data.length data)
    refine ⟨_, hexec, rfl, ?_⟩
    rw [hstore]
    exact ⟨smMod_of_smGet? hqp _, rfl, rfl, rfl, List.getLast?_concat⟩
  · obtain ⟨hqp, -⟩ := State.qpLive_eq_some.mp hlive
    rw [exec_rdmaWrite_of_idle hdata hlive hwork, hok, hheld, if_pos (by decide), State.modQp_of_qp? hqp]
  · rw [exec_rdmaWrite_of_idle hdata hlive hwork, hbad]
    rfl

end Sys2Proof.Machine
end

section
/-! Managers and their images: managers and classes after a change, restarts, staging, and the waves of an activation
(13 R379, R384, R387 to R393; 01 R28). -/

namespace Sys2Proof.Machine

/-! ### Dies and managers after a change -/

section
variable {s : State} {n e : Nat}

/-- A die after its change. -/
theorem State.die_modDie_self (hn : n < s.dies.length) (f : Die → Die) : (s.modDie n f).die n = f (s.die n) :=
  getD_modAt_self hn f _

/-- A change of a die leaves every other die alone. -/
theorem State.die_modDie_ne (h : e ≠ n) (f : Die → Die) : (s.modDie n f).die e = s.die e := getD_modAt_ne h f _

/-- A die's manager after its change. -/
theorem State.mgr_modMgr_self (hn : n < 88) (hdies : s.dies.length = 88) (f : Mgr → Mgr) : (s.modMgr n f).mgr n = f (s.mgr n) := by
  have hne : n ≠ 88 := Nat.ne_of_lt hn
  simp only [State.modMgr, State.mgr, if_neg hne, State.die_modDie_self (hdies ▸ hn)]

/-- A change of a die's manager leaves every other manager alone. -/
theorem State.mgr_modMgr_ne (hn : n < 88) (h : e ≠ n) (f : Mgr → Mgr) : (s.modMgr n f).mgr e = s.mgr e := by
  simp only [State.modMgr, State.mgr, if_neg (Nat.ne_of_lt hn), State.die_modDie_ne h, State.modDie_pkg]

end

/-- Settles O21: a start changes the one manager, and writes its state, slot, start and trial. -/
theorem managerRunsSlot : Obligations.ManagerRunsSlot := by
  intro s d slot hd hdies
  have hself : (s.runSlot d slot).mgr d = _ := State.mgr_modMgr_self hd hdies _
  rw [hself]
  exact ⟨rfl, rfl, rfl, rfl, rfl, fun e _ hne => State.mgr_modMgr_ne hd hne _⟩

/-! ### Restarts and the failure of a router -/

section
variable {s : State}

/-- A die manager that runs no trial restarts on its recorded slot or on the other one, or its die is fenced (13 R384, R391). -/
theorem exec_mgrRestarted_of_no_trial {d : Fin 88} (hst : (s.mgr d.val).st = .restarting) (hback : (s.mgr d.val).rollBack = false)
    (htrial : (s.mgr d.val).trial = none) :
    exec (.mgrRestarted d) s = .next (match s.startMgr d.val with
      | none => s.bothFail d.val
      | some s1 => s1.event 0x0508 2 d.val none 0) := by
  show execMgrRestarted d s = _
  simp only [execMgrRestarted, htrial]
  rw [if_neg (by simp [hst, hback])]
  cases s.startMgr d.val with
  | none => rfl
  | some s1 => rfl

/-- The package manager that restarts after a crash gets its certificate anew, closes what it was asked and needs its sessions
greeted again; where both images fail, it does not restart (13 R384, R393; 14 R398). -/
theorem exec_pkgManagerRestart_of_crash (hst : s.pkg.mgr.st = .restarting) :
    exec .pkgManagerRestart s = .next (match s.startMgr 88 with
      | none => s
      | some s1 => (s1.event 0x0508 2 s.primaryDie none 0).issueAlias.abandonRequests.greetAgain) := by
  show execPkgManagerRestart s = _
  simp only [execPkgManagerRestart, hst]
  cases s.startMgr 88 with
  | none => rfl
  | some s1 => rfl

/-- A failed router takes the module out of service and darkens its ports (01 R28). -/
theorem exec_routerFailure (s : State) (d : Fin 64) :
    ∃ t : State, exec (.routerFailure d) s = .next (t.directHealth (dieObj d.val) .failed .router).settle ∧ t.pkg.outOfService = true ∧
      t.dies = modAt s.dies d.val (fun x => { x with routerFailed := true }) ∧
      t.ports = s.ports.map (fun p => { p with st := if p.st = .fenced then .fenced else .dark, light := false }) :=
  ⟨_, rfl, rfl, rfl, rfl⟩

end

/-- Settles O51: command by command; a router that fails marks its die and every port. -/
theorem managerCommandsComplete : Obligations.ManagerCommandsComplete := by
  refine ⟨fun _ _ _ => ⟨rfl, rfl⟩, fun _ _ => exec_mgrRestarted_of_no_trial, fun _ => exec_pkgManagerRestart_of_crash, fun s d => ?_⟩
  obtain ⟨t, ht, hout, hdies, hports⟩ := exec_routerFailure s d
  refine ⟨t, ht, hout, fun hlen => ?_, by rw [hports, List.length_map], fun p hp => ?_⟩
  · rw [State.die, hdies, getD_modAt_self (by omega)]
  · rw [hports] at hp
    obtain ⟨q, -, rfl⟩ := List.mem_map.mp hp
    by_cases hfenced : q.st = .fenced
    · exact ⟨.inl (if_pos hfenced), rfl⟩
    · exact ⟨.inr (if_neg hfenced), rfl⟩

/-! ### Staging (13 R387) -/

/-- A request at its turn runs its effect, its outcome is answered, and what its rule puts after a success follows. -/
theorem State.runThen_at_turn {s : State} {n : Fin 64} {seq : W32} {op : Nat} {x : Sess} {r : Req} (h : s.atTurn n seq op x r)
    (core : Sess → Req → CmdOut) (after : Req → State → State) :
    s.runThen n.val seq op core after =
      if (core x r).isOk then after r (s.answer n.val r (core x r)) else s.answer n.val r (core x r) := by
  obtain ⟨hw, hm, hb, he, -⟩ := h
  simp [State.runThen, State.runReq, hw, hm, hb, checked_pass _ he]

section
variable {s : State} {n : Fin 64} {seq : W32} {x : Sess} {r : Req}

/-- What is sent leaves the turn of a request as it is. -/
theorem State.atTurn.emit {op : Nat} (h : s.atTurn n seq op x r) (o : Out) : (s.emit o).atTurn n seq op x r := h

/-- The image is read once the request is at its turn and names a class and a length that the class allows. -/
theorem State.stageRead_at_turn (h : s.atTurn n seq 0x0501 x r) (hargs : stageArgs r = badArg false) :
    s.stageRead n.val seq = s.emit (.rdmaRead x.qpn (r.num 8 8) (r.num 16 4) (r.num 4 4)) := by
  obtain ⟨hw, hm, hb, he, -⟩ := h
  have hpass : (earlyChecks x r ++ [stageArgs r]).all (fun c => !c.1) = true := by
    rw [List.find?_eq_none] at he
    simpa [hargs, badArg] using he
  simp only [State.stageRead, hw, hm, hb, hpass]
  rfl

/-- An idle class takes into its inactive slot an image that verifies, and no other. -/
theorem State.stageOut_idle {data : List Byte} (h : s.atTurn n seq 0x0501 x r) (hargs : stageArgs r = badArg false)
    (hlen : r.num 4 4 ≤ data.length) (hact : (s.fwClass (r.num 0 1)).act = 0)
    (hdies : s.diesOn (r.num 0 1) (s.fwClass (r.num 0 1)).inactive = 0) :
    s.stageOut r data .equal =
      if s.verifies (r.num 0 1) (readImage (data.take (r.num 4 4))) = true then
        .ok (s.modFw (r.num 0 1) (fun c => c.setImage c.inactive (some (readImage (data.take (r.num 4 4))))))
      else .refuse .authFailed 0 := by
  have hflash : (FlashWrite.equal == FlashWrite.differs) = false := rfl
  simp only [State.stageOut, hargs, checked_badArg, hact, hdies, hflash]
  cases hver : s.verifies (r.num 0 1) (readImage (data.take (r.num 4 4))) with
  | true => simp [h.pkg, Nat.not_lt.mpr hlen]
  | false => simp

/-- `FW_STAGE` of an idle class reads the image, writes and stages it if it verifies, and refuses it if not. -/
theorem exec_fwStage_idle {data : List Byte} (h : s.atTurn n seq 0x0501 x r) (hargs : stageArgs r = badArg false)
    (hlen : r.num 4 4 ≤ data.length) (hact : (s.fwClass (r.num 0 1)).act = 0)
    (hdies : s.diesOn (r.num 0 1) (s.fwClass (r.num 0 1)).inactive = 0) {s1 : State}
    (hs1 : s1 = s.emit (.rdmaRead x.qpn (r.num 8 8) (r.num 16 4) (r.num 4 4))) :
    exec (.fwStage n seq data true false) s = .next (
      if s.verifies (r.num 0 1) (readImage (data.take (r.num 4 4))) = true then
        (s1.answer n.val r (.ok (s1.modFw (r.num 0 1) (fun c => c.setImage c.inactive
          (some (readImage (data.take (r.num 4 4)))))))).staged r .equal
      else s1.answer n.val r (.refuse .authFailed 0)) := by
  subst hs1
  have hver : ∀ o, (s.emit o).verifies = s.verifies := fun _ => rfl
  show execFwStage n seq data true false s = _
  simp only [execFwStage, State.stageRead_at_turn h hargs, if_true, Bool.false_eq_true, if_false]
  rw [State.runThen_at_turn (h.emit _), State.stageOut_idle (h.emit _) hargs hlen hact hdies, hver]
  split
  · rfl
  · rfl

/-! ### Activation (13 R388 to R390) -/

/-- `FW_ACTIVATE` outside an emergency starts the first wave of the managers that it names. -/
theorem exec_fwActivate_starts {k : Nat} {todo : List Nat} (h : s.atTurn n seq 0x0502 x r) (hk : k = r.num 0 1) (hk6 : k < 6)
    (hclean : r.clean [(0, 1), (4, 11), (16, 4)] = true) (hwindow : r.num 16 4 ≤ 86400)
    (hstaged : ((s.fwClass k).staged || s.mixed k) = true) (hact : (s.fwClass k).act = 0) (hemerg : s.power.emerg = false)
    (htodo : todo = (s.liveMgrs k).filter (fun n => (n == 88 || (r.num 4 11).testBit n) && (s.mgr n).slot != !(s.fwClass k).bootSlot))
    (hsome : todo ≠ []) :
    exec (.fwActivate n seq) s = .next (s.answer n.val r (.wait ((s.modFw k (fun c => { c with
      todo := todo, wave := [], cut := false,
      windowEnd := r.takenAt + (if r.num 16 4 = 0 then 600 else r.num 16 4) * 10 ^ 9 })).startWave k))) := by
  subst hk htodo
  show execFwActivate n seq s = _
  rw [execFwActivate, aidar_at_turn h]
  simp only [hclean, hstaged, hact, hemerg, List.isEmpty_eq_false_iff.mpr hsome]
  simp [h.pkg, Nat.not_le.mpr hk6, Nat.not_lt.mpr hwindow]

section
variable {cls : Fin 6}

/-- A wave whose managers all report is followed by the next, where one is left and no emergency holds. -/
theorem exec_activationWave_next (hact : (s.fwClass cls.val).act = 1) (hmgr : s.pkg.mgr.st = .running)
    (hwave : (s.fwClass cls.val).wave.any s.waveStuck = false) (htodo : (s.fwClass cls.val).todo ≠ []) (hemerg : s.emergency = false) :
    exec (.activationWave cls) s =
      .next ((((s.fwClass cls.val).wave.foldl State.reports s).modFw cls.val (fun c => { c with wave := [] })).startWave cls.val) := by
  show execActivationWave cls s = _
  simp only [execActivationWave]
  rw [if_neg (by simp [hact, hmgr, hwave]), if_neg (by simpa using htodo), if_neg (by simp [hemerg])]

/-- A deferred or paused activation goes on with its next wave once no emergency holds. -/
theorem exec_activationResume_next (hact : (s.fwClass cls.val).act = 2) (hmgr : s.pkg.mgr.st = .running) (hemerg : s.emergency = false) :
    exec (.activationResume cls) s = .next (s.startWave cls.val) := by
  show execActivationResume cls s = _
  simp only [execActivationResume]
  rw [if_neg (by simp [hact, hmgr, hemerg])]

/-- An activation that is paused at the end of its window ends, with its event. -/
theorem exec_fwActivationExpired_paused (hact : (s.fwClass cls.val).act = 2) (hwave : (s.fwClass cls.val).wave = []) :
    exec (.fwActivationExpired cls) s = .next (((s.modFw cls.val (fun c => { c with todo := [], cut := true })).event 0x0502 0 0 none
      (pack 3328 [(7, 0, cls.val)])).endActivation cls.val) := by
  show execFwActivationExpired cls s = _
  simp only [execFwActivationExpired]
  rw [if_neg (by simp [hact]), if_pos (by simp [hwave])]

end

/-- A manager whose trial failed restarts on its previous slot, outside an activation. -/
theorem exec_fwRolledBack_restarting {die : Fin 88} {old : Bool} (htrial : (s.mgr die.val).trial = some old)
    (hst : (s.mgr die.val).st = .restarting) (hact : (s.fwClass (mgrClass die.val)).act = 0) :
    exec (.fwRolledBack die) s = .next ((match s.startOn die.val old with
      | none => s.bothFail die.val
      | some s1 => (s1.recordSlot die.val old).event 0x0508 2 die.val none 0).event 0x0503 2 die.val none 0) := by
  show execFwRolledBack die s = _
  simp only [execFwRolledBack, htrial, hst, hact]
  cases s.startOn die.val old with
  | none => rfl
  | some s1 => rfl

end

/-- Settles O20: command by command. -/
theorem firmwareCommandsComplete : Obligations.FirmwareCommandsComplete := by
  refine ⟨fun s s1 n seq x r data img k h hk hk6 hclean hlimit hlen himg hact hdies hs1 => ?_,
    fun _ _ _ _ _ _ _ => exec_fwActivate_starts,
    fun _ _ => exec_activationWave_next,
    fun _ _ => exec_activationResume_next,
    fun s cls hact hwave => ⟨_, _, exec_fwActivationExpired_paused hact hwave, rfl, rfl⟩,
    fun _ _ _ => exec_fwRolledBack_restarting⟩
  subst hk himg
  have hargs : stageArgs r = badArg false := by
    simp [stageArgs, hclean, Nat.not_le.mpr hk6, Nat.not_lt.mpr hlimit]
  exact exec_fwStage_idle h hargs hlen hact hdies hs1

end Sys2Proof.Machine
end

section
/-! Package states: the state after reset, `STANDBY`, the inputs, cold restart, boot steps and `SAFE` (13 R380 to R384; 18 R496,
R497). -/

namespace Sys2Proof.Machine

/-- Settles O7: each is a value that the state after reset is written with. -/
theorem resetValues : Obligations.ResetValues := ⟨rfl, rfl, rfl, rfl, rfl, rfl, rfl, rfl, rfl, rfl⟩

/-! ### What leaves the package alone -/

section
variable {s : State}

/-- A notice to the baseboard adds to what leaves the module only (18 R503). -/
theorem State.bbNotify_frame (s old : State) : ∃ o, s.bbNotify old = { s with out := o } := by
  unfold State.bbNotify
  split
  · exact ⟨_, rfl⟩
  · exact ⟨s.out, rfl⟩

@[simp] theorem State.bbNotify_pkg (old : State) : (s.bbNotify old).pkg = s.pkg := by
  obtain ⟨o, h⟩ := s.bbNotify_frame old
  rw [h]

@[simp] theorem State.bbNotify_ctxs (old : State) : (s.bbNotify old).ctxs = s.ctxs := by
  obtain ⟨o, h⟩ := s.bbNotify_frame old
  rw [h]

theorem State.setChan_pkg (h : W32) (f : Chan → Chan) : (s.setChan h f).pkg = s.pkg := by
  unfold State.setChan State.writeCtl
  split
  · rfl
  · rfl

theorem State.touchQueue_pkg (o : Op) : (s.touchQueue o).pkg = s.pkg := by
  unfold State.touchQueue
  split
  · rfl
  · rfl

theorem State.discard_pkg (p : Op → Bool) : (s.discard p).pkg = s.pkg :=
  foldl_keeps (Q := fun t : State => t.pkg = s.pkg) _ (b := s.dropOps p) rfl fun _ _ h => (State.touchQueue_pkg _).trans h

theorem State.stopChans_pkg (c : Nat) : (s.stopChans c).pkg = s.pkg :=
  foldl_keeps (Q := fun t : State => t.pkg = s.pkg) _ (State.discard_pkg _) fun _ _ h => (State.setChan_pkg ..).trans h

theorem State.safeQuiesce_pkg (c : Nat) : (s.safeQuiesce c).pkg = s.pkg := by
  unfold State.safeQuiesce
  split
  · rfl
  · split
    · exact State.stopChans_pkg c
    · rfl

end

/-! ### `STANDBY` and the inputs (13 R380; 18 R496, R497) -/

/-- `t` is the module in `STANDBY`, entered from `s`: it holds no context, session, handle, operation, tier memory or queue pair, and
keeps the trip pin, the repair record, the binding, tide, the fabric key and the queue. -/
structure State.InStandby (s t : State) : Prop where
  st : t.pkg.st = .standby
  alert : t.pkg.alert = false
  ctxs : t.ctxs = []
  sess : t.sess = []
  handles : t.handles = State.reset.handles
  ops : t.ops = []
  tier : t.tier = []
  qps : t.qps = []
  ports : t.ports = State.reset.ports
  debug : t.sec.debug = none
  thermTrip : t.pkg.thermTrip = s.pkg.thermTrip
  flashA : t.pkg.flashA = s.pkg.flashA
  flashB : t.pkg.flashB = s.pkg.flashB
  phys : ∀ l, t.phys l = s.phys l
  generation : t.pkg.generation = s.pkg.generation
  time : t.time = s.time
  fabricKey : t.sec.fabricKey = s.sec.fabricKey
  queue : t.pending = s.pending

/-- A notice to the baseboard leaves the module in `STANDBY`. -/
theorem State.InStandby.bbNotify {s t : State} (h : s.InStandby t) (old : State) : s.InStandby (t.bbNotify old) := by
  obtain ⟨o, hframe⟩ := t.bbNotify_frame old
  rw [hframe]
  exact { h with }

/-- Every way into `STANDBY` discards and keeps the same (13 R380). -/
theorem State.inStandby_toStandby (s : State) : s.InStandby s.toStandby := by
  refine State.InStandby.bbNotify ?_ s
  exact ⟨rfl, rfl, rfl, rfl, rfl, rfl, rfl, rfl, rfl, rfl, rfl, rfl, rfl, fun _ => rfl, rfl, rfl, rfl, rfl⟩

section
variable {s : State}

/-- With standby power, the assertion of `MOD_RESET_N` and the loss of the main input both enter `STANDBY`. -/
theorem exec_modResetAssert (hstby : s.power.stbyOn = true) (mainLost : Bool) :
    ∃ rh pw, exec (.modResetAssert mainLost) s =
      .next ({ s with pkg := { s.pkg with resetHigh := rh }, power := pw } : State).toStandby := by
  show ∃ rh pw, execModResetAssert mainLost s = _
  simp only [execModResetAssert, if_pos hstby]
  cases mainLost with
  | true => exact ⟨s.pkg.resetHigh, _, rfl⟩
  | false => exact ⟨_, s.power, rfl⟩

/-- Without the standby input the module is in `STANDBY`, and what the headwater domains hold is lost. -/
theorem exec_standbyLow (hstby : s.power.stbyOn = true) : exec .standbyLow s = .next s.losePower := if_pos hstby

/-- The main input returns within its range. -/
theorem exec_mainInputReturn (hmain : s.power.mainOn = false) :
    exec .mainInputReturn s = .next (({ s with power := { s.power with mainOn := true, inputRange := false } } : State).bbNotify s) := by
  show execMainInputReturn s = _
  rw [execMainInputReturn, if_neg (by simp [hmain])]

end

/-! ### Cold restart and boot (13 R383, R384) -/

section
variable {s : State}

/-- A new owner and the entries that fail authentication change the security state and the Ethernet ports only. -/
theorem State.takeOwner_unseal_frame (s : State) (bad : BitVec 10) :
    ∃ sc e, (s.unseal bad).takeOwner = { s with sec := sc, eth := e } := by
  unfold State.takeOwner
  split
  · exact ⟨_, _, rfl⟩
  · exact ⟨_, _, rfl⟩

/-- A cold restart with both inputs in range begins boot: tide starts from 0 without a fabric key, E is 14,000 W, and health is
that of the repair record. -/
theorem exec_coldRestart {sel : Bool} {bad : BitVec 10} (hst : s.pkg.st = .standby) (hreset : s.pkg.resetHigh = false)
    (hstby : s.power.stbyOn = true) (hmain : s.power.mainOn = true) (hrange : s.power.inputRange = false) :
    ∃ t : State, exec (.coldRestart ⟨sel, bad⟩) s = .next t ∧ t.pkg.st = .boot ∧ t.pkg.primary = sel ∧ t.power.envelope = 14000 ∧
      t.time.ns = 0 ∧ t.time.sync = .unlocked ∧ t.sec.fabricKey = none ∧ t.telem.health = s.pkg.record.health ∧
      t.handles = s.handles := by
  show ∃ t, execColdRestart ⟨sel, bad⟩ s = .next t ∧ _
  obtain ⟨sc, e, howner⟩ := s.takeOwner_unseal_frame bad
  simp only [execColdRestart, howner]
  rw [if_neg (by simp [hst, hreset, hstby]), if_neg (by simp [hmain, hrange])]
  refine ⟨_, rfl, ?_⟩
  generalize hs2 : State.mk .. = s2
  obtain ⟨o, h⟩ := s2.bbNotify_frame s
  rw [h, ← hs2]
  exact ⟨rfl, rfl, rfl, rfl, rfl, rfl, rfl, rfl⟩

/-- What the verifier finds in the flash slots changes the image classes only. -/
theorem State.noteAltered_frame (s : State) (f : BootFacts) : ∃ fw, s.noteAltered f = s.modPkg (fun p => { p with fw := fw }) := by
  refine foldl_keeps (Q := fun t : State => ∃ fw, t = s.modPkg (fun p => { p with fw := fw })) _ ⟨s.pkg.fw, rfl⟩ ?_
  rintro _ e ⟨fw, rfl⟩
  exact ⟨_, rfl⟩

section
variable {f : BootFacts} (hst : s.pkg.st = .boot) (hfail : s.pkg.bootFail = 0)
  (hdies : s.dies.any (fun d => d.mgr.st == .restarting) = false) (hmgr : s.pkg.mgr.st ≠ .restarting)
include hst hfail hdies hmgr

/-- A root of trust that fails its test holds boot at step 0, with an alert. -/
theorem exec_bootStepEnd_selfTest_fails (hstep : s.pkg.bootStep = 0) (htest : f.selfTest = false) :
    ∃ t : State, exec (.bootStepEnd f) s = .next t ∧ t.pkg.bootFail = 2 ∧ t.pkg.alert = true ∧ t.pkg.st = .boot := by
  show ∃ t, execBootStepEnd f s = .next t ∧ _
  obtain ⟨fw, hfw⟩ := s.noteAltered_frame f
  simp only [execBootStepEnd, hstep, hfw]
  rw [if_neg (by simp [hst, hfail, hdies, hmgr]), if_pos trivial]
  refine ⟨_, rfl, ?_⟩
  rw [State.bbNotify_pkg, State.bootStep1, if_pos (by simp [htest])]
  exact ⟨rfl, rfl, hst⟩

/-- Step 12 ends boot in `READY`, once no sparing is under way. -/
theorem exec_bootStepEnd_last (hstep : s.pkg.bootStep = 11) (hspare : s.pkg.sparings = []) {s1 : State}
    (hs1 : s1 = (((s.noteAltered f).bootWork 12 f).modPkg (fun p => { p with bootStep := 12 })).settle) :
    exec (.bootStepEnd f) s = .next ((s1.modPkg (fun p => { p with st := .ready })).bbNotify s) := by
  subst hs1
  show execBootStepEnd f s = _
  simp only [execBootStepEnd, hstep]
  rw [if_neg (by simp [hst, hfail, hdies, hmgr]), if_neg (by decide), if_neg (by simp [hspare]), if_neg (by decide)]

end

/-! ### `SAFE` (13 R380, R382) -/

/-- A weir emergency is a cause of `SAFE`. -/
theorem State.safeCauses_emergency_ne_zero (s : State) : s.safeCauses true ≠ 0 := by
  unfold State.safeCauses
  cases s.dies.any (·.trip) <;> cases s.power.inputRange <;> decide

/-- A running package enters `SAFE` for its causes, with an alert. -/
theorem State.enterSafe_pkg {why : BitVec 3} (hst : s.pkg.st = .ready ∨ s.pkg.st = .active) (hwhy : why ≠ 0) :
    (s.enterSafe why).pkg = { s.pkg with st := .safe, safeWhy := why, alert := true } := by
  have hne : s.pkg.st ≠ .safe := by
    obtain hst | hst := hst <;> simp [hst]
  rw [State.enterSafe, if_neg hne, if_pos ⟨hst, hwhy⟩, State.bbNotify_pkg]
  exact foldl_keeps (Q := fun t : State => t.pkg = _) _ rfl fun _ _ h => (State.safeQuiesce_pkg _).trans h

/-- In a weir emergency the causes of R382 that hold are those with the emergency among them. -/
theorem exec_safeEntry_emergency (hemerg : s.power.emerg = true) :
    exec .safeEntry s = .next (s.enterSafe (s.safeCauses true)) := by
  show execSafeEntry s = _
  rw [execSafeEntry, hemerg]

/-- Without a running context a package that is not `ACTIVE` stays as it is. -/
theorem State.syncActive_of_none_running (hst : s.pkg.st ≠ .active) (hidle : (s.ctxs.any (fun e => e.2.st == .running)) = false) :
    s.syncActive = s := by
  simp [State.syncActive, hst, hidle]

/-- The package leaves `SAFE` for `READY` when no cause holds and no context runs. -/
theorem exec_safeExit_idle (hst : s.pkg.st = .safe) (hemerg : s.emergency = false)
    (hidle : (s.ctxs.any (fun e => e.2.st == .running)) = false) :
    exec .safeExit s = .next ((s.modPkg (fun p => { p with st := .ready, safeWhy := 0, alert := false })).bbNotify s) := by
  show execSafeExit s = _
  rw [execSafeExit, if_neg (by simp [hst, hemerg]), State.syncActive_of_none_running (by simp) (by simpa using hidle)]

end

/-- Settles O50: command by command; what `STANDBY` discards and retains is said once, for every way into it. -/
theorem resetCommandsComplete : Obligations.ResetCommandsComplete := by
  refine ⟨fun s mainLost hstby => ?_, fun s hstby => ?_, fun _ => rfl, fun _ => exec_mainInputReturn, fun _ _ _ => exec_coldRestart,
    fun _ _ => exec_bootStepEnd_selfTest_fails,
    fun _ _ _ hst hfail hdies hmgr hstep hspare => exec_bootStepEnd_last hst hfail hdies hmgr hstep hspare,
    fun s hst hemerg => ?_, fun s hst hemerg hidle => ?_⟩
  · obtain ⟨rh, pw, hexec⟩ := exec_modResetAssert hstby mainLost
    have h := State.inStandby_toStandby { s with pkg := { s.pkg with resetHigh := rh }, power := pw }
    exact ⟨_, hexec, h.st, h.ctxs, h.sess, h.handles, h.ops, h.tier, h.qps, h.ports, h.alert, h.thermTrip, h.flashA, h.flashB, h.phys,
      h.generation, h.time, h.debug, h.fabricKey, h.queue⟩
  · have h := s.inStandby_toStandby
    exact ⟨_, exec_standbyLow hstby, rfl, h.st, rfl, rfl, rfl, rfl, h.ctxs, rfl⟩
  · have hpkg := State.enterSafe_pkg hst s.safeCauses_emergency_ne_zero
    refine ⟨_, exec_safeEntry_emergency hemerg, ?_⟩
    rw [hpkg]
    exact ⟨rfl, rfl, rfl⟩
  · refine ⟨_, exec_safeExit_idle hst hemerg hidle, ?_⟩
    rw [State.bbNotify_pkg]
    exact ⟨rfl, rfl, rfl⟩

end Sys2Proof.Machine
end

section
/-! What every command answers, and what it does to the queue: the block form of the model (log 1). -/

namespace Sys2Proof.Machine

/-- An answer that is a next state. -/
def Answers (a : Ans) : Prop := ∃ t, a = .next t

theorem Answers.next (t : State) : Answers (.next t) := ⟨t, rfl⟩

/-- A choice between two next states. -/
theorem Answers.ite {c : Prop} [Decidable c] {a b : Ans} (ha : Answers a) (hb : Answers b) : Answers (if c then a else b) := by
  split
  · exact ha
  · exact hb

/-- Every command answers a next state: some in one way, some by whether their event can occur, and the rest at each leaf of their
branches. -/
theorem exec_answers (c : Instr) (s : State) : Answers (exec c s) := by
  cases c with
  | hello | ping | ctxCreate | ctxBind | ctxQuiesce | ctxDestroy | chanCreate | chanStart | chanStop | chanDestroy | chanQuery | qpCreate
  | qpModify | qpDestroy | partSetCoord | partJoin | linkExpect | transitGrant | faultModeSet | leveeRaise | netConfig | gaugeSubscribe
  | snapshotSchedule | timeRoleSet | fwStage | fwActivate | bistRun | dieFence | dieRelease | dieSpare | attest | sessionKey
  | ctxKeyInstall | powerEnvelopeSet | debugOpen | regRead | regWrite | sessionEnd | matmul | ewMul | vconvert | vadd | vsub | vmul
  | vfma | vaxpby | vmax | vmin | vdiv | vclamp | vscale | vcmp | vexp | vlog | vrsqrt | vrecip | vsqrt | vtanh | vsigmoid | vgelu
  | vsilu | normApply | softmaxApply | softmaxBwd | normBwd | topk | topkMerge | rowStats | rowStatsMerge | rowDot | colSum | amax
  | compress | expand | routeBuild | ucWfiWake | stepVerdict | privAgreement | tableAgreement | allGather | reduceScatter | allReduce
  | permute | broadcast | barrier | flagOr | scaleMax | collSignature | collData | collCredit | collAborted | copy | transpose | retile
  | lower | rillGather | rillScatter | lineRead | lcInterval | devTempRead | laneSpare | packetRoute | passage | flowGaugeWindow
  | tileFenced | safeEntry | watchdogExpiry | weirUpdate | ppsEdge | gaugePeriod | liveExport | snapshotExport | healthDecay
  | healthPersist | slackReport | standbyInputPresent | ref10mInValid | unrecoverableTrap | routerFailure | sendOrAtomicRequest => exact .next _
  | ucSignal | ucTake | ucFault | tilePowerOff | tilePowerUp | lineSpare | linkSilence | laneFailNoSpare | lightDetect | trainingRetry
  | identRefresh | retrainRealigned | retrainTimeout | linkFenced | partnerTakeover | failback | neighbourLost | modResetAssert
  | safeExit | standbyLow | activationResume | budgetReport | allocation | staleAlloc | weirClear | thermTrip | tripRecover
  | tripShutdown | laserSwapped | ppsOut | timeHoldover | sealGeneration | eyeScan | serWindow | limitInterval | w1cClear | registerWrite
  | i3cPrivateRead | entdaa | setdasa | rstdaa | enec | disec | getpid | getbcr | getdcr | getstatus | bbReadingUpdate | bypass | idcode
  | mainInputReturn => exact .ite (.next _) (.next _)
  | bye | ctxQuiesceDone | ctxClearComplete | windowZeroFillDone | chanStopDone | hbmRepair | debugSessionEnd | aidarConnect | slotPost
  | requestTake | commandComplete | ringConsumerWrite | qpConnect | rdmaWrite | rdmaRead | qpRetryExhausted | ethFrameRx | pfcPauseRx
  | producerWrite | descriptorFetch | cplConsumerWrite | drainRow | operationComplete | mrGrant | millraceSend | mrRow | mrAck
  | syncSignal | syncWait | waitRetry | xlateReadDone | queuePark | tileWake | wakeTokenRequest | wakeTokenGrant | verdictSet | stepClose
  | closeFlip | collHopAdd | collDrained | epochAdvance | collectiveComplete | rillQueueFree | copyWr | copyWrAck | copyRdReq | copyRdRsp
  | scrub | autoLineSpare | remapChange | remapFlip | sparePrepare | warmMove | coldMove | bistDone | frameRx | trainingAttemptEnd
  | ident | linkCtrl | multicast | packetOpen | coldRestart | bootStepEnd | mgrRestarted | pkgManagerRestart | activationWave
  | fwActivationExpired | fwRolledBack | inputRange | laserFailed | ptpEventMessage | tideExchange | tide | gaugeSample | datagramSend
  | snapshotInstant | opticalRead | i3cPrivateWrite =>
    dsimp only [exec,
      execBye, execCtxQuiesceDone, execCtxClearComplete, execWindowZeroFillDone, execChanStopDone, execHbmRepair, execDebugSessionEnd,
      execAidarConnect, execSlotPost, execRequestTake, execCommandComplete, execRingConsumerWrite, execQpConnect, execRdmaWrite,
      execRdmaRead, execQpRetryExhausted, execEthFrameRx, execPfcPauseRx, execProducerWrite, execDescriptorFetch, execCplConsumerWrite,
      execDrainRow, execOperationComplete, execMrGrant, execMillraceSend, execMrRow, execMrAck, execSyncSignal, execSyncWait,
      execWaitRetry, execXlateReadDone, execQueuePark, execTileWake, execWakeTokenRequest, execWakeTokenGrant, execVerdictSet,
      execStepClose, execCloseFlip, execCollHopAdd, execCollDrained, execEpochAdvance, execCollectiveComplete, execRillQueueFree,
      execCopyWr, execCopyWrAck, execCopyRdReq, execCopyRdRsp, execScrub, execAutoLineSpare, execRemapChange, execRemapFlip,
      execSparePrepare, execWarmMove, execColdMove, execBistDone, execFrameRx, execTrainingAttemptEnd, execIdent, execLinkCtrl,
      execMulticast, execPacketOpen, execColdRestart, execBootStepEnd, execMgrRestarted, execPkgManagerRestart, execActivationWave,
      execFwActivationExpired, execFwRolledBack, execInputRange, execLaserFailed, execPtpEventMessage, execTideExchange, execTide,
      execGaugeSample, execDatagramSend, execSnapshotInstant, execOpticalRead, execI3cPrivateWrite]
    (repeat' split) <;> exact .next _

/-- Settles O3. -/
theorem everyCommandAnswers : Obligations.EveryCommandAnswers := exec_answers

/-- Settles O4: of what every command keeps, the queue. -/
theorem queueKept : Obligations.QueueKept := by
  intro c s t h
  have hc : KeepsAns False s (exec c s) := exec_keeps (.refl s) fun _ => id
  rw [h] at hc
  exact hc.queue

/-- Settles O1: the queue's rest is the queue that the command was put in front of. -/
theorem stepRunsFront : Obligations.StepRunsFront := fun _ _ => rfl

end Sys2Proof.Machine
end

section
/-! Tide: the time registers after each operation that may touch them, the period of the tide clock, and the commands that measure
an offset (15 R442 to R449). -/

namespace Sys2Proof.Machine

open State

section
variable (s : State)

/-! ### What leaves the time registers alone -/

@[simp] theorem State.event_time (code objKind obj : Nat) (ctx : Option Nat) (data : BitVec 3328) :
    (s.event code objKind obj ctx data).time = s.time := by
  obtain ⟨pk, se, o, h⟩ := s.event_frame code objKind obj ctx data
  rw [h]

theorem State.freeFlits_time (j v n : Nat) : (s.freeFlits j v n).time = s.time := by
  unfold State.freeFlits
  extract_lets s1
  split <;> rfl

/-- A packet that is taken out of a buffer leaves the time registers alone. -/
theorem State.takeIn_time {s s1 : State} {j : Nat} {f : Nat → Packet → Bool} {p : Packet} (h : s.takeIn j f = some (p, s1)) :
    s1.time = s.time := by
  obtain ⟨r, -, hr⟩ := Option.map_eq_some_iff.mp h
  cases hr
  exact State.freeFlits_time ..

/-- What tide reads, below the end of its 80 bits. -/
theorem State.tide16_advanceTide {d : Nat} (h : s.tide16 + d < 2 ^ 80) : (s.advanceTide d).tide16 = s.tide16 + d := by
  have hns : (s.tide16 + d) / 2 ^ 16 < 2 ^ 64 := by omega
  show (BitVec.ofNat 64 ((s.tide16 + d) / 2 ^ 16)).toNat * 2 ^ 16 + (BitVec.ofNat 16 (s.tide16 + d)).toNat = s.tide16 + d
  rw [BitVec.toNat_ofNat, BitVec.toNat_ofNat, Nat.mod_eq_of_lt hns]
  exact Nat.div_add_mod' _ _

/-! ### A period of the tide clock (15 R442, R444) -/

/-- Without the standby input tide stands, and nothing happens. -/
theorem State.tick_of_no_standby (hstby : s.power.stbyOn = false) : s.tick = s := by simp [State.tick, hstby]

end

section
variable {s : State}

/-- Of all that a period does, only the advance of tide touches tide and its rate. -/
theorem State.tick_advances (hstby : s.power.stbyOn = true) (hrate : 0 ≤ 2 ^ 15 + s.time.rate)
    (hroom : s.tide16 + (2 ^ 15 + s.time.rate).toNat < 2 ^ 80) :
    (s.tick.tide16 : Int) = s.tide16 + 2 ^ 15 + s.time.rate ∧ s.tick.time.rate = s.time.rate := by
  have hafter : Keeps True (s.noteAble.advanceTide (2 ^ 15 + s.time.rate).toNat) s.tick := by
    rw [State.tick, if_pos hstby]
    exact Keeps.foldl (followBoot_keeps (serveQps_keeps (askAll_keeps (coresAct_keeps (wakeGated_keeps (.refl _))))))
      fun _ _ h => ackSess_keeps h
  refine ⟨?_, hafter.rate trivial⟩
  have htide : s.tick.tide16 = s.tide16 + (2 ^ 15 + s.time.rate).toNat :=
    (hafter.tide trivial).trans (State.tide16_advanceTide s.noteAble hroom)
  omega

/-! What finds nothing to do -/

theorem State.noteAble_of_no_op (hops : s.ops = []) : s.noteAble = s := by
  rw [State.noteAble, hops]
  exact congrArg (fun ops => { s with ops := ops }) hops.symm

theorem State.wakeGated_of_no_tile (htiles : s.tiles = []) : s.wakeGated = s := by
  rw [State.wakeGated, htiles]
  rfl

theorem State.coresAct_of_no_tile (htiles : s.tiles = []) : s.coresAct = s := by
  rw [State.coresAct, State.runningCores, htiles]
  rfl

theorem State.askAll_of_no_op (hops : s.ops = []) : s.askAll = s := by
  rw [State.askAll, hops]
  rfl

theorem State.serveQps_of_no_qp (hqps : s.qps = []) : s.serveQps = s := by
  rw [State.serveQps, hqps]
  rfl

theorem State.followBoot_of_none_mixed (hmixed : ∀ k, k < 6 → s.mixed k = false) : s.followBoot = s := by
  have hnone : (List.range 6).filter s.mixed = [] :=
    List.filter_eq_nil_iff.mpr fun k hk => by simp [hmixed k (List.mem_range.mp hk)]
  rw [State.followBoot, hnone]
  rfl

/-- A module that holds no session, operation, tile in use or queue pair, and of which no class awaits a boot slot, does no more
than advance tide. -/
theorem State.tick_of_idle (hstby : s.power.stbyOn = true) (hsess : s.sess = []) (hops : s.ops = []) (htiles : s.tiles = [])
    (hqps : s.qps = []) (hmixed : ∀ k, k < 6 → s.mixed k = false) : s.tick = s.advanceTide (2 ^ 15 + s.time.rate).toNat := by
  rw [State.tick, if_pos hstby, State.noteAble_of_no_op hops]
  have hidle : ∀ u : State, u.sess = [] → u.ops = [] → u.tiles = [] → u.qps = [] → (∀ k, k < 6 → u.mixed k = false) →
      u.wakeGated.coresAct.askAll.serveQps.followBoot = u := by
    intro u _ hops htiles hqps hmixed
    rw [State.wakeGated_of_no_tile htiles, State.coresAct_of_no_tile htiles, State.askAll_of_no_op hops, State.serveQps_of_no_qp hqps,
      State.followBoot_of_none_mixed hmixed]
  have h := hidle (s.advanceTide (2 ^ 15 + s.time.rate).toNat) hsess hops htiles hqps hmixed
  simp only [h]
  show (s.sess.map (·.1)).foldl State.ackSess _ = _
  rw [hsess]
  rfl

end

/-- Settles O2. -/
theorem idleTick : Obligations.IdleTick := by
  have hstep (s : State) (hq : s.pending = []) : step s = .next s.tick := by rw [step, hq]
  refine ⟨fun s hq hstby => ?_, fun s hq hstby hrate hroom => ?_, fun s hq hstby hsess hops htiles hqps hmixed hrate hroom => ?_⟩
  · rw [hstep s hq, s.tick_of_no_standby hstby]
  · exact ⟨_, hstep s hq, State.tick_advances hstby hrate hroom⟩
  · obtain ⟨htide, hkept⟩ := State.tick_advances hstby hrate hroom
    refine ⟨_, hstep s hq, htide, ?_, hkept, ?_⟩ <;>
      rw [State.tick_of_idle hstby hsess hops htiles hqps hmixed] <;> rfl

/-! ### A measured offset (15 R444, R449) -/

/-- Tide reads the same, and its rate is within the bound of 15 R444. -/
def State.TideHeld (s t : State) : Prop := t.tide16 = s.tide16 ∧ -6 ≤ t.time.rate ∧ t.time.rate ≤ 6

section
variable {s t u : State}

theorem State.TideHeld.refl (hlo : -6 ≤ s.time.rate) (hhi : s.time.rate ≤ 6) : s.TideHeld s := ⟨rfl, hlo, hhi⟩

/-- An operation that keeps tide and its rate, after one that holds tide. -/
theorem State.TideHeld.keeps (h : s.TideHeld t) (hk : Keeps True t u) : s.TideHeld u := by
  obtain ⟨htide, hlo, hhi⟩ := h
  rw [State.TideHeld, hk.tide trivial, hk.rate trivial]
  exact ⟨htide, hlo, hhi⟩

/-- A rate is cut to its bound. -/
theorem cutRate_bounds (r : Int) : -6 ≤ cutRate r ∧ cutRate r ≤ 6 := by
  unfold cutRate rateMax
  omega

/-- The module steps tide no more: it has done so, or it is not `UNLOCKED`. -/
def State.SlewsOnly (s : State) : Prop := s.time.stepped = true ∨ s.time.sync ≠ .unlocked

/-- A measured offset sets the rate, where the module steps tide no more. -/
theorem State.measured_tideHeld (hslew : s.SlewsOnly) (theta : Int) : s.TideHeld (s.measured theta) := by
  have hno : ¬ (s.time.sync = .unlocked ∧ (!s.time.stepped) = true ∧ 0 < theta) := by
    rintro ⟨hsync, hstep, -⟩
    obtain hstepped | hlocked := hslew
    · simp [hstepped] at hstep
    · exact hlocked hsync
  rw [State.measured, if_neg hno]
  split
  · extract_lets +onlyGivenNames tm s1
    have h1 : s.TideHeld s1 := ⟨rfl, show -6 ≤ -rateMax by decide, show -rateMax ≤ 6 by decide⟩
    exact h1.keeps (.ite (.refl _) (timeFault_keeps (.refl _)))
  · extract_lets +onlyGivenNames f x good tm s1 s2
    have h1 : s.TideHeld s1 := ⟨rfl, cutRate_bounds _⟩
    exact h1.keeps (.ite (event_keeps (gaugeSample_keeps (.refl _))) (gaugeSample_keeps (.refl _)))

/-- A response of the parent is a fault, or its offset is measured. -/
theorem State.tideResponse_tideHeld (hslew : s.SlewsOnly) (hlo : -6 ≤ s.time.rate) (hhi : s.time.rate ≤ 6) (j : Nat) (b : BitVec 256) :
    s.TideHeld (s.tideResponse j b) := by
  have hs := State.TideHeld.refl hlo hhi
  unfold State.tideResponse
  split
  · exact hs
  · split
    · exact hs
    · extract_lets +onlyGivenNames tm s1 t4
      have h1 : s.TideHeld s1 := ⟨rfl, hlo, hhi⟩
      split
      · exact h1.keeps (holdOver_keeps (timeFault_keeps (.refl _)))
      · exact State.measured_tideHeld (s := s1) hslew _

end

/-! ### The commands that measure an offset -/

/-- The answer of a command holds tide, when it is a next state. -/
def AnsTideHeld (s : State) : Ans → Prop
  | .next t => s.TideHeld t
  | _ => True

theorem AnsTideHeld.ite {s : State} {c : Prop} [Decidable c] {a b : Ans} (ha : AnsTideHeld s a) (hb : AnsTideHeld s b) :
    AnsTideHeld s (if c then a else b) := by
  split
  · exact ha
  · exact hb

/-- A command that keeps tide and its rate holds tide. -/
theorem KeepsAns.tideHeld {s : State} {a : Ans} (h : KeepsAns True s a) (hlo : -6 ≤ s.time.rate) (hhi : s.time.rate ≤ 6) :
    AnsTideHeld s a := by
  cases a with
  | next t => exact (State.TideHeld.refl hlo hhi).keeps h
  | fault _ | refused _ => trivial

section
variable {s : State} (hslew : s.SlewsOnly) (hlo : -6 ≤ s.time.rate) (hhi : s.time.rate ≤ 6)
include hslew hlo hhi

theorem execTide_tideHeld (j : Fin 12) : AnsTideHeld s (execTide j s) := by
  unfold execTide
  extract_lets +onlyGivenNames j'
  split
  · exact State.TideHeld.refl hlo hhi
  · next p t htake =>
    have htime := State.takeIn_time htake
    have ht : Keeps True s t := takeIn_keeps (.refl s) htake
    have hheld := (State.TideHeld.refl hlo hhi).keeps ht
    refine .ite hheld (.ite (hheld.keeps (sendTide_keeps (use_keeps (.refl t)))) (.ite ?_ hheld))
    obtain ⟨htide, hrate⟩ := State.tideResponse_tideHeld (s := t) (by rw [State.SlewsOnly, htime]; exact hslew) (by rw [htime]; exact hlo)
      (by rw [htime]; exact hhi) j' p.body
    exact ⟨htide.trans (ht.tide trivial), hrate⟩

theorem execPtpEventMessage_tideHeld (p : Fin 4) (sent oneStep : Bool) (c : BitVec 64) (theta : Option (BitVec 64)) :
    AnsTideHeld s (execPtpEventMessage p sent oneStep c theta s) := by
  have hs := State.TideHeld.refl hlo hhi
  unfold execPtpEventMessage
  refine .ite hs ?_
  extract_lets +onlyGivenNames upd c' t
  have htime : t.time = s.time := by
    show (if upd = true then s.use 1 else s).time = s.time
    split <;> rfl
  have ht : s.TideHeld t := hs.keeps (emit_keeps (.ite (use_keeps (.refl s)) (.refl s)))
  split
  · exact ht
  · next x =>
    refine .ite ?_ ht
    obtain ⟨htide, hrate⟩ := State.measured_tideHeld (s := t) (by rw [State.SlewsOnly, htime]; exact hslew) x.toInt
    exact ⟨htide.trans ht.1, hrate⟩

theorem execPpsEdge_tideHeld : AnsTideHeld s (execPpsEdge s) := by
  unfold execPpsEdge
  extract_lets +onlyGivenNames inSpan good tm s1 s2
  have h2 : s.TideHeld s2 := by
    unfold s2
    split
    · exact State.measured_tideHeld (s := s1) hslew _
    · exact ⟨rfl, hlo, hhi⟩
  exact h2

/-- But for the loss of the standby input and a cold restart, no command moves tide. -/
theorem exec_tideHeld {c : Instr} (hlow : c ≠ .standbyLow) (hcold : ∀ how, c ≠ .coldRestart how) : AnsTideHeld s (exec c s) := by
  cases hmoves : movesTide c with
  | false => exact (exec_keeps (P := True) (.refl s) (by simp [hmoves])).tideHeld hlo hhi
  | true =>
    cases c with
    | standbyLow => exact absurd rfl hlow
    | coldRestart how => exact absurd rfl (hcold how)
    | tide j => exact execTide_tideHeld hslew hlo hhi j
    | ptpEventMessage p sent oneStep correction theta => exact execPtpEventMessage_tideHeld hslew hlo hhi p sent oneStep correction theta
    | ppsEdge => exact execPpsEdge_tideHeld hslew hlo hhi
    | _ => cases hmoves

end

/-- Settles O55: tide advances by a period of its clock when the queue is empty, and every command holds it. -/
theorem tideNeverBack : Obligations.TideNeverBack := by
  intro s t hlo hhi hslew hroom hlow hcold hstep
  rw [step] at hstep
  split at hstep
  · cases hstep
    cases hstby : s.power.stbyOn with
    | false =>
      rw [s.tick_of_no_standby hstby]
      omega
    | true =>
      obtain ⟨htide, hrate⟩ := State.tick_advances hstby (by omega) (by omega)
      omega
  · next c cs hq =>
    have hheld := exec_tideHeld (s := { s with pending := cs }) (c := c) hslew hlo hhi (by rintro rfl; simp [hq] at hlow)
      (by rintro how rfl; simp [hq] at hcold)
    rw [hstep] at hheld
    obtain ⟨htide, hrate⟩ := hheld
    have heq : t.tide16 = s.tide16 := htide
    omega

end Sys2Proof.Machine
end

section
/-! The weir, trips, the main input and the light sources (15 R432 to R441; 17 R493). -/

namespace Sys2Proof.Machine

open State

section
variable (s : State)

/-! ### What events, stopped channels and notices leave alone -/

@[simp] theorem State.event_dies (code objKind obj : Nat) (ctx : Option Nat) (data : BitVec 3328) :
    (s.event code objKind obj ctx data).dies = s.dies := by
  obtain ⟨pk, se, o, h⟩ := s.event_frame code objKind obj ctx data
  rw [h]

@[simp] theorem State.event_power (code objKind obj : Nat) (ctx : Option Nat) (data : BitVec 3328) :
    (s.event code objKind obj ctx data).power = s.power := by
  obtain ⟨pk, se, o, h⟩ := s.event_frame code objKind obj ctx data
  rw [h]

/-- Of the package an event touches only the events that wait for the end of boot (13 R384). -/
theorem State.event_pkg (code objKind obj : Nat) (ctx : Option Nat) (data : BitVec 3328) :
    ∃ waiting, (s.event code objKind obj ctx data).pkg = { s.pkg with bootEvents := waiting } := by
  unfold State.event
  extract_lets e
  split
  · exact ⟨_, rfl⟩
  · obtain ⟨se, o, h⟩ := State.foldl_flush_frame _ _
    exact ⟨s.pkg.bootEvents, by rw [State.post, h]⟩

@[simp] theorem State.bbNotify_dies (old : State) : (s.bbNotify old).dies = s.dies := by
  obtain ⟨o, h⟩ := s.bbNotify_frame old
  rw [h]

@[simp] theorem State.bbNotify_power (old : State) : (s.bbNotify old).power = s.power := by
  obtain ⟨o, h⟩ := s.bbNotify_frame old
  rw [h]

theorem State.setChan_dies (h : W32) (f : Chan → Chan) : (s.setChan h f).dies = s.dies := by
  unfold State.setChan State.writeCtl
  split
  · rfl
  · rfl

theorem State.touchQueue_dies (o : Op) : (s.touchQueue o).dies = s.dies := by
  unfold State.touchQueue
  split
  · rfl
  · rfl

theorem State.stopChans_dies (c : Nat) : (s.stopChans c).dies = s.dies := by
  have hdiscard : (s.discard (fun o => o.ctx == c && o.isQueued)).dies = s.dies :=
    foldl_keeps (Q := fun t : State => t.dies = s.dies) _ (b := s.dropOps _) rfl fun _ _ h => (State.touchQueue_dies ..).trans h
  exact foldl_keeps (Q := fun t : State => t.dies = s.dies) _ hdiscard fun _ _ h => (State.setChan_dies ..).trans h

theorem State.safeQuiesce_dies (c : Nat) : (s.safeQuiesce c).dies = s.dies := by
  unfold State.safeQuiesce
  split
  · rfl
  · split
    · exact State.stopChans_dies ..
    · rfl

/-- `SAFE` leaves the dies as they are. -/
theorem State.enterSafe_dies (why : BitVec 3) : (s.enterSafe why).dies = s.dies := by
  unfold State.enterSafe
  split
  · rfl
  · split
    · rw [State.bbNotify_dies]
      exact foldl_keeps (Q := fun t : State => t.dies = s.dies) _ rfl fun _ _ h => (State.safeQuiesce_dies ..).trans h
    · rfl

/-- A module that boots does not enter `SAFE`. -/
theorem State.enterSafe_of_boot {s : State} (hboot : s.pkg.st = .boot) (why : BitVec 3) : s.enterSafe why = s := by
  simp [State.enterSafe, hboot]

end

/-! ### Budgets (15 R431 to R434) -/

section
variable {s : State} {d : Fin 88}

/-- A die whose manager runs reports its use and demand, and the stretch and serial that it last had. -/
theorem exec_budgetReport (hmgr : (s.die d.val).mgr.st = .running) (use dem : BitVec 16) :
    exec (.budgetReport d use dem) s = .next (((s.emit (.report d.val use.toNat dem.toNat (s.die d.val).stretchMax
      (s.die d.val).allocSerial)).modDie d.val (fun x => { x with
        use := use.toNat, demand := dem.toNat, stretchMax := x.stretch.foldl max 0 })).gaugeSample 0x13000001 (dieObj d.val)
          (use.setWidth 64)) := if_neg (not_not_intro hmgr)

/-- The shares that an allocation gives to the tiles of a die. -/
def sharesOf (d : Nat) (sh : BitVec 128) : List Nat := if d < 64 then eight16 sh else List.replicate 8 0

/-- A die that has taken an allocation at the present tide. -/
def State.allotted (s : State) (d a : Nat) (sh : List Nat) : State :=
  s.modDie d (fun x => { x with alloc := a, share := sh, allocSerial := x.allocSerial + 1, allocAt := s.now, staleAlloc := false })

/-- The weir of a die applies an allocation that its shares do not exceed. -/
theorem exec_allocation {a : BitVec 16} {sh : BitVec 128} (hpkg : s.pkg.mgr.st = .running) (hmgr : (s.die d.val).mgr.st = .running)
    (hsum : (sharesOf d.val sh).sum ≤ a.toNat) :
    ∃ o, exec (.allocation d a sh) s = .next ((s.allotted d.val a.toNat (sharesOf d.val sh)).emit o) := by
  show ∃ o, execAllocation d a sh s = _
  refine ⟨_, if_neg ?_⟩
  rintro (hstop | hstop | hmore)
  · exact hstop hpkg
  · exact hstop hmgr
  · exact Nat.not_lt.mpr hsum hmore

/-- An allocation that is not yet known to be stale becomes so. -/
theorem exec_staleAlloc (hfresh : (s.die d.val).staleAlloc = false) (hmgr : (s.die d.val).mgr.st ≠ .held) :
    exec (.staleAlloc d) s = .next ((s.modDie d.val (fun x => { x with staleAlloc := true })).event 0x0705 2 d.val none 0) := by
  show execStaleAlloc d s = _
  rw [execStaleAlloc, if_neg (by simp [hfresh, hmgr])]

end

/-! ### The weir (15 R435 to R438) -/

section
variable {s t : State}

/-- The weir may enter emergency: this marks the power registers and posts an event. -/
theorem State.enterEmergency_frame (s : State) : ∃ em at_ pk se o,
    s.enterEmergency = { s with power := { s.power with emerg := em, emergAt := at_ }, pkg := pk, sess := se, out := o } := by
  unfold State.enterEmergency
  split
  · exact ⟨_, _, _, _, _, rfl⟩
  · obtain ⟨pk, se, o, h⟩ := State.event_frame _ _ _ _ _ _
    exact ⟨true, s.now, pk, se, o, h⟩

/-- With a condition that holds, the module is in emergency, and its package is as it was but for the events that wait. -/
theorem State.enterEmergency_of_condition (hcond : s.weirCondition = true) :
    s.enterEmergency.power.emerg = true ∧ ∃ waiting, s.enterEmergency.pkg = { s.pkg with bootEvents := waiting } := by
  unfold State.enterEmergency
  split
  · next hin =>
    refine ⟨?_, _, rfl⟩
    simpa [hcond] using hin
  · rw [State.event_power]
    exact ⟨rfl, State.event_pkg ..⟩

/-- Samples of a list of objects are telemetry alone. -/
theorem State.foldl_gaugeSample_frame {α : Type} (s : State) (id : Nat) (obj : α → Nat) (v : α → BitVec 64) (l : List α) :
    ∃ te, l.foldl (fun s i => s.gaugeSample id (obj i) (v i)) s = { s with telem := te } := by
  refine foldl_keeps (Q := fun t : State => ∃ te, t = { s with telem := te }) l ⟨_, rfl⟩ ?_
  rintro _ i ⟨te, rfl⟩
  exact ⟨_, rfl⟩

/-- What a reading leaves of a die: its temperature, its stretches and their causes, and whether one of its own conditions holds. -/
def State.weighed (s : State) (d : Nat) (r : WeirReading) : State :=
  let st := s.stretches d r
  s.modDie d (fun x => { x with
    tj := r.tj.toInt
    stretch := st.1
    stretchMax := max x.stretchMax (st.1.foldl max 0)
    wcause := weirCauses r st.2 (!(s.runningTiles d).isEmpty)
    emerg := (decide (110 ≤ r.tj.toInt) && r.lasted.getLsbD 0) || (decide (192 ≤ r.railRaise.toNat) && r.lasted.getLsbD 1) })

/-- A reading of conditions that have not lasted leaves the input's condition clear; the stretches take their samples, and an
emergency of other cause may begin. -/
theorem exec_weirUpdate_frame {d : Fin 88} {r : WeirReading} (hlasted : r.lasted = 0) : ∃ em at_ pk se o te,
    exec (.weirUpdate d r) s = .next { s.weighed d.val r with
      power := { s.power with inputEmerg := false, emerg := em, emergAt := at_ }, pkg := pk, sess := se, out := o, telem := te } := by
  show ∃ em at_ pk se o te, execWeirUpdate d r s = _
  unfold execWeirUpdate
  extract_lets +onlyGivenNames d' st run hot slow full s1 pw s2 s3
  have hfull : full = false := by simp [full, hlasted]
  have h2 : s2 = { s.weighed d.val r with power := { s.power with inputEmerg := false } } := by
    unfold s2
    rw [hfull]
    rfl
  have h3 : ∃ te, s3 = { s2 with telem := te } := by
    unfold s3
    split
    · exact s2.foldl_gaugeSample_frame ..
    · exact ⟨_, rfl⟩
  obtain ⟨te, h3⟩ := h3
  obtain ⟨em, at_, pk, se, o, hem⟩ := s3.enterEmergency_frame
  refine ⟨em, at_, pk, se, o, te, ?_⟩
  rw [hem, h3, h2]

/-- The emergency ends when no condition holds. -/
theorem exec_weirClear (hemerg : s.power.emerg = true) (hcond : s.weirCondition = false) :
    exec .weirClear s = .next (({ s with power := { s.power with emerg := false } } : State).event 0x0701 0 0 none 0) := by
  show execWeirClear s = _
  rw [execWeirClear, if_neg (by simp [hemerg, hcond])]

end

/-! ### Trips and the main input (15 R437 to R440) -/

section
variable {s : State} {d : Fin 88} {tj : BitVec 8}

/-- The die has tripped, and `THERM_TRIP_N` is asserted. -/
def State.tripped (s : State) (d : Nat) (tj : Int) : State :=
  ((s.modDie d (fun x => { x with trip := true, tj := tj })).modPkg (fun p => { p with thermTrip := true })).event 0x0702 2 d none 0

theorem exec_thermTrip (hhot : 115 ≤ tj.toInt) (hnew : (s.die d.val).trip = false) :
    exec (.thermTrip d tj) s = .next (((s.tripped d.val tj.toInt).enterSafe 2).bbNotify s) := by
  show execThermTrip d tj s = _
  rw [execThermTrip, if_neg (by simp [hnew]; omega)]
  rfl

theorem State.tripped_pkg (s : State) (d : Nat) (tj : Int) :
    ∃ waiting, (s.tripped d tj).pkg = { s.pkg with thermTrip := true, bootEvents := waiting } := State.event_pkg ..

theorem State.tripped_dies (s : State) (d : Nat) (tj : Int) :
    (s.tripped d tj).dies = modAt s.dies d (fun x => { x with trip := true, tj := tj }) := State.event_dies ..

/-- The tripped die is marked, whatever state the package enters. -/
theorem State.trip_enterSafe_tripped (hdies : s.dies.length = 88) (why : BitVec 3) (old : State) :
    ((((s.tripped d.val tj.toInt).enterSafe why).bbNotify old).die d.val).trip = true := by
  have hd : d.val < s.dies.length := d.isLt.trans_eq hdies.symm
  rw [State.die, State.bbNotify_dies, State.enterSafe_dies, State.tripped_dies, getD_modAt_self hd]

theorem exec_tripRecover (hcool : tj.toInt < 100) (htrip : (s.die d.val).trip = true) :
    exec (.tripRecover d tj) s = .next (((s.modDie d.val (fun x => { x with trip := false, tj := tj.toInt })).modPkg (fun p => { p with
      thermTrip := (s.modDie d.val (fun x => { x with trip := false, tj := tj.toInt })).dies.any (·.trip) })).bbNotify s) := by
  show execTripRecover d tj s = _
  rw [execTripRecover, if_neg (by simp [htrip]; omega)]

theorem exec_tripShutdown (hhot : 120 ≤ tj.toInt) (htrip : (s.die d.val).trip = true) :
    exec (.tripShutdown d tj) s = .next (s.modDie d.val (fun x => { x with tj := tj.toInt })).toStandby := by
  show execTripShutdown d tj s = _
  rw [execTripShutdown, if_neg (by simp [htrip]; omega)]

/-- The main input has left its range (15 R437). -/
def State.offRange (s : State) : State :=
  ({ s with power := { s.power with inputRange := true } } : State).event 0x0703 0 0 none 0

theorem exec_inputRange_leaves {v : BitVec 16} (hmain : s.power.mainOn = true) (hstby : s.power.stbyOn = true)
    (hin : s.power.inputRange = false) (hout : v.toNat < 4600 ∨ 5600 < v.toNat) :
    exec (.inputRange v false) s = .next ((s.offRange.enterEmergency.enterSafe 4).bbNotify s) := by
  have hout' : (decide (v.toNat < 4600) || decide (5600 < v.toNat)) = true := by simpa using hout
  show execInputRange v false s = _
  simp only [execInputRange, hout', hin]
  simp [hmain, hstby, State.offRange]

end

/-! ### Light sources (17 R493) -/

section
variable {s : State} {b : Fin 16}

/-- The partner of a source that fails goes to full power. -/
theorem exec_laserFailed_partner (hon : s.laser b.val ≠ 0) (hpartner : s.laser (laserPartner b.val) ≠ 0) :
    exec (.laserFailed b) s = .next ((s.setLaser b.val 0).setLaser (laserPartner b.val) 2) := by
  show execLaserFailed b s = _
  simp only [execLaserFailed, if_neg hon, if_neg hpartner]

/-- A new source and its partner go to half power. -/
theorem exec_laserSwapped_partner (hoff : s.laser b.val = 0) (hmgr : (s.die (84 + b.val / 4)).mgr.st = .running)
    (hpartner : s.laser (laserPartner b.val) ≠ 0) :
    exec (.laserSwapped b) s = .next (((((s.setLaser b.val 1).setLaser (laserPartner b.val) 1).repairedHealth (objId 11 b.val)).event
      0x0587 2 (84 + b.val / 4) none (pack 3328 [(31, 0, objId 11 b.val)])).settle) := by
  show execLaserSwapped b s = _
  simp only [execLaserSwapped, if_neg hpartner]
  rw [if_neg (by simp [hoff, hmgr])]

end

/-- Settles O53: the trip marks the die and the pin, and `SAFE` is entered for its cause alone. -/
theorem tripEntersSafe : Obligations.TripEntersSafe := by
  intro s t d tj hhot hnew hdies hst hexec
  rw [exec_thermTrip hhot hnew] at hexec
  cases hexec
  obtain ⟨waiting, hpkg⟩ := s.tripped_pkg d.val tj.toInt
  have hst' : (s.tripped d.val tj.toInt).pkg.st = .ready ∨ (s.tripped d.val tj.toInt).pkg.st = .active := by rw [hpkg]; exact hst
  have hsafe := State.enterSafe_pkg hst' (why := 2) (by decide)
  have htrip := State.trip_enterSafe_tripped (d := d) (tj := tj) hdies 2 s
  rw [State.bbNotify_pkg, hsafe, hpkg]
  exact ⟨rfl, rfl, rfl, show (2#3).getLsbD 1 = true by decide, htrip⟩

/-- Settles O52, command by command. -/
theorem powerCommandsComplete : Obligations.PowerCommandsComplete := by
  refine ⟨fun _ _ _ _ => (exec_budgetReport · _ _), fun s d a sh hpkg hmgr hdies hsum => ?_, fun _ _ => exec_staleAlloc,
    fun s d r hdies _ hlasted => ?_, fun _ => exec_weirClear, fun s d tj hhot hnew hdies hboot _ => ?_,
    fun s d tj hcool htrip hdies => ?_, fun s d tj hhot htrip => ?_, fun s v hmain hstby hin hboot _ hout => ?_,
    fun _ _ => exec_laserFailed_partner, fun _ _ => exec_laserSwapped_partner⟩
  · obtain ⟨o, hexec⟩ := exec_allocation hpkg hmgr hsum
    have hdie : ((s.allotted d.val a.toNat (sharesOf d.val sh)).emit o).die d.val = _ := State.die_modDie_self (d.isLt.trans_eq hdies.symm) _
    refine ⟨_, hexec, ?_⟩
    rw [hdie]
    exact ⟨rfl, rfl, rfl, rfl, rfl⟩
  · obtain ⟨em, at_, pk, se, o, te, hexec⟩ := exec_weirUpdate_frame (s := s) (d := d) hlasted
    have hdie : (s.weighed d.val r).die d.val = _ := State.die_modDie_self (d.isLt.trans_eq hdies.symm) _
    refine ⟨_, hexec, ?_⟩
    show ((s.weighed d.val r).die d.val).tj = _ ∧ ((s.weighed d.val r).die d.val).stretch = _ ∧
      ((s.weighed d.val r).die d.val).emerg = _ ∧ _
    rw [hdie]
    exact ⟨rfl, rfl, by simp [hlasted], rfl, rfl, rfl⟩
  · obtain ⟨waiting, hpkg⟩ := s.tripped_pkg d.val tj.toInt
    have hboot' : (s.tripped d.val tj.toInt).pkg.st = .boot := by rw [hpkg]; exact hboot
    refine ⟨_, exec_thermTrip hhot hnew, State.trip_enterSafe_tripped hdies 2 s, ?_⟩
    rw [State.bbNotify_pkg, State.enterSafe_of_boot hboot', hpkg]
    exact ⟨rfl, hboot⟩
  · refine ⟨_, exec_tripRecover hcool htrip, ?_⟩
    rw [State.die, State.bbNotify_dies, State.bbNotify_pkg]
    refine ⟨?_, rfl⟩
    exact congrArg Die.trip (State.die_modDie_self (d.isLt.trans_eq hdies.symm) _)
  · have h := State.inStandby_toStandby (s.modDie d.val (fun x => { x with tj := tj.toInt }))
    exact ⟨_, exec_tripShutdown hhot htrip, h.st, h.ctxs, h.thermTrip⟩
  · have hrange : s.offRange.power.inputRange = true := by rw [State.offRange, State.event_power]
    obtain ⟨hemerg, waiting, hpkg⟩ := State.enterEmergency_of_condition (s := s.offRange) (by simp [State.weirCondition, hrange])
    obtain ⟨waiting', hpkg'⟩ : ∃ w, s.offRange.pkg = { s.pkg with bootEvents := w } := State.event_pkg ..
    have hboot' : s.offRange.enterEmergency.pkg.st = .boot := by rw [hpkg, hpkg']; exact hboot
    obtain ⟨em, at_, pk, se, o, hframe⟩ := s.offRange.enterEmergency_frame
    refine ⟨_, exec_inputRange_leaves hmain hstby hin hout, ?_⟩
    rw [State.bbNotify_power, State.bbNotify_pkg, State.enterSafe_of_boot hboot']
    refine ⟨?_, hemerg, hboot'⟩
    rw [hframe]
    exact hrange

end Sys2Proof.Machine
end

section
/-! The commands of the services: subscriptions and snapshots, time roles, the power envelope, and time (15 R431, R443 to R451;
14 R413; 16 R458, R464). -/

namespace Sys2Proof.Machine

open State

/-! ### Requests of the services -/

section
variable {s : State} {n : Fin 64} {seq : W32} {x : Sess} {r : Req}

/-- A subscription whose operands are good and for which there is a slot gets a handle (16 R458). -/
theorem exec_gaugeSubscribe {u : Sub} {g : W32} {s1 : State} (h : s.atTurn n seq 0x0401 x r)
    (hu : u = {
      owner := (match x.role with | .tenant i => some i | _ => none), kinds := BitVec.ofNat 5 (r.num 0 1), port := r.num 1 1
      k := r.num 2 2, udp := r.num 4 2, addr := BitVec.ofNat 128 (r.num 16 16), filters := r.filters })
    (hclean : r.clean [(0, 6), (16, 400)] = true) (hkinds : r.num 0 1 ≤ 31) (hport : r.num 1 1 ≤ 3) (hk : 1 ≤ r.num 2 2)
    (hk' : r.num 2 2 ≤ 6000) (hroom : s.subs.length < 64) (hnew : s.newHandle (.sub u) = some (g, s1)) :
    exec (.gaugeSubscribe n seq) s = .next (s.answer n.val r (.done s1 .ok (g.setWidth 3456) 4)) := by
  have hbad : (!r.clean [(0, 6), (16, 400)] || decide (31 < r.num 0 1) || decide (3 < r.num 1 1) || r.num 2 2 == 0
      || decide (6000 < r.num 2 2)) = false := by
    simp [hclean]
    omega
  subst hu
  show execGaugeSubscribe n seq s = _
  rw [execGaugeSubscribe, aidar_at_turn h]
  dsimp only
  rw [hbad]
  generalize hnew' : s.newHandle (.sub _) = new
  cases hnew'.symm.trans hnew
  simp [h.pkg, Nat.not_le.mpr hroom]

/-- One instant, at least 1 ms and at most a day away, joins the schedule while it has room (16 R464). -/
theorem exec_snapshotSchedule_one (h : s.atTurn n seq 0x0402 x r) (hclean : r.clean [(0, 10), (16, 8)] = true) (hn : r.num 8 2 = 1)
    (hp : r.num 16 8 = 0) (hsoon : s.now + 1000000 ≤ r.num 0 8) (hlate : r.num 0 8 ≤ s.now + 86400 * 10 ^ 9)
    (hroom : s.telem.series.length < 16) :
    exec (.snapshotSchedule n seq) s = .next (s.answer n.val r (.ok { s with telem := { s.telem with
      series := s.telem.series ++ [{ t := r.num 0 8, n := 1, p := 0 }] } })) := by
  show execSnapshotSchedule n seq s = _
  rw [execSnapshotSchedule, aidar_at_turn h]
  dsimp only
  rw [hn, hp, decide_eq_false (Nat.not_lt.mpr hlate)]
  simp [h.pkg, hclean, Nat.not_lt.mpr hsoon, Nat.not_le.mpr hroom]

/-- The choice of a parent changes the parent among the time registers (15 R448). -/
theorem State.setParent_time (s : State) : ∃ p, s.setParent.time = { s.time with parent := p } := by
  unfold State.setParent
  extract_lets p tm s1
  split
  · exact ⟨s.time.parent, rfl⟩
  · exact ⟨p, State.event_time ..⟩

/-- The time roles that a body gives. -/
def State.rolesOf (s : State) (r : Req) : Time :=
  { s.time with
    ptpRole := r.num 0 1
    profile := r.num 1 1
    domain := BitVec.ofNat 8 (r.num 2 1)
    portMask := BitVec.ofNat 4 (r.num 3 1)
    torusRole := r.num 4 1
    root := BitVec.ofNat 12 (r.num 5 2)
    prio := BitVec.ofNat 16 (r.num 8 2)
    clockClass := BitVec.ofNat 8 (r.num 10 1)
    ref10m := r.num 0 1 == 3 && s.time.refValid }

/-- Good roles are taken, and the parent is chosen anew; new roles forget the exchange and the offsets of the old ones. -/
theorem exec_timeRoleSet (h : s.atTurn n seq 0x0410 x r) (hclean : r.clean [(0, 7), (8, 3)] = true) (hrole : r.num 0 1 ≤ 4)
    (hprofile : r.num 1 1 ≤ 2) (hmask : r.num 3 1 ≤ 15) (htorus : r.num 4 1 ≤ 2) (hroot : r.num 5 2 ≤ 4095)
    (hports : r.num 0 1 = 1 ∨ r.num 0 1 = 2 → r.num 3 1 ≠ 0) :
    exec (.timeRoleSet n seq) s = .next (s.answer n.val r (.ok (State.setParent { s with
      time := if s.rolesOf r = s.time then s.rolesOf r else { s.rolesOf r with inFlight := none, filter := [], good := 0 } }))) := by
  have hslave : ((r.num 0 1 == 1 || r.num 0 1 == 2) && r.num 3 1 == 0) = false := by
    simpa [Bool.and_eq_false_iff, or_iff_not_imp_left, not_and_or] using hports
  show execTimeRoleSet n seq s = _
  rw [execTimeRoleSet, aidar_at_turn h]
  dsimp only
  rw [hslave]
  simp only [Nat.not_lt.mpr hrole, Nat.not_lt.mpr hprofile, Nat.not_lt.mpr hmask, Nat.not_lt.mpr htorus, Nat.not_lt.mpr hroot, hclean,
    decide_false, Bool.not_true, Bool.or_false, checked_badArg, Bool.false_eq_true, if_false, h.pkg, checked_nil]
  rfl

/-- A new envelope from 6,000 to 14,000 W is taken, and told (15 R431). -/
theorem exec_powerEnvelopeSet_new (h : s.atTurn n seq 0x0701 x r) (hclean : r.clean [(0, 4)] = true) (hlo : 6000 ≤ r.num 0 4)
    (hhi : r.num 0 4 ≤ 14000) (hnew : s.power.envelope ≠ r.num 0 4) :
    exec (.powerEnvelopeSet n seq) s = .next (s.answer n.val r (.ok
      ({ s with power := { s.power with envelope := r.num 0 4 } }.event 0x0704 0 0 none 0))) := by
  show execPowerEnvelopeSet n seq s = _
  rw [execPowerEnvelopeSet, aidar_at_turn h]
  simp [h.pkg, hclean, Nat.not_lt.mpr hlo, Nat.not_lt.mpr hhi, hnew]

/-- Another is refused. -/
theorem exec_powerEnvelopeSet_refused (h : s.atTurn n seq 0x0701 x r) (hbad : r.num 0 4 < 6000 ∨ 14000 < r.num 0 4) :
    exec (.powerEnvelopeSet n seq) s = .next (s.answer n.val r (.refuse .badArg 0)) := by
  show execPowerEnvelopeSet n seq s = _
  have hbad' : (!r.clean [(0, 4)] || decide (r.num 0 4 < 6000) || decide (14000 < r.num 0 4)) = true := by
    simp only [Bool.or_eq_true, decide_eq_true_eq]
    tauto
  rw [execPowerEnvelopeSet, aidar_at_turn h]
  dsimp only
  rw [hbad', checked_badArg, if_pos rfl]

end

/-- Settles O19, command by command. -/
theorem serviceCommandsComplete : Obligations.ServiceCommandsComplete := by
  refine ⟨fun _ _ _ _ _ _ _ _ => exec_gaugeSubscribe, fun _ _ _ _ _ => exec_snapshotSchedule_one,
    fun s n seq x r h hclean hrole hprofile hmask htorus hroot hports => ?_, fun _ _ _ _ _ => exec_powerEnvelopeSet_new,
    fun _ _ _ _ _ => exec_powerEnvelopeSet_refused⟩
  refine ⟨_, exec_timeRoleSet h hclean hrole hprofile hmask htorus hroot hports, ?_⟩
  obtain ⟨p, hp⟩ := State.setParent_time { s with
    time := if s.rolesOf r = s.time then s.rolesOf r else { s.rolesOf r with inFlight := none, filter := [], good := 0 } }
  rw [hp]
  dsimp only
  split
  · exact ⟨rfl, rfl, rfl, rfl, rfl, rfl, rfl, rfl, rfl, rfl⟩
  · exact ⟨rfl, rfl, rfl, rfl, rfl, rfl, rfl, rfl, rfl, rfl⟩

/-! ### Pins, messages and exchanges (15 R443 to R451; 14 R413) -/

section
variable {s : State}

/-- An edge that comes too soon after the last one is no second: what a module that is no grandmaster notes of it. -/
theorem exec_ppsEdge_early (hrole : s.time.ptpRole ≠ 3) (hearly : ∀ x, s.time.ppsAt = some x → s.now < x + 999999000) :
    exec .ppsEdge s = .next { s with time := { s.time with ppsGood := 0, ppsAt := some s.now } } := by
  have hspan : s.time.ppsAt.any (fun t => decide (t + 999999000 ≤ s.now) && decide (s.now ≤ t + 1000001000)) = false := by
    rw [Option.any_eq_false]
    intro t ht
    simp [Nat.not_le.mpr (hearly t ht)]
  show execPpsEdge s = _
  simp only [execPpsEdge, hspan]
  simp [hrole, State.now]

theorem exec_ppsOut (hsec : s.now % 10 ^ 9 = 0) (hstby : s.power.stbyOn = true) : exec .ppsOut s = .next (s.emit (.ppsOut s.now)) :=
  if_pos ⟨hsec, hstby⟩

/-- A message that is sent in two-step operation is stamped and goes out as it is. -/
theorem exec_ptpEventMessage_sent {p : Fin 4} (hup : (s.ethPort (4 + p.val)).up = true) (c : BitVec 64) :
    exec (.ptpEventMessage p true false c none) s = .next (s.emit (.ptp p.val (s.stamp / 2 ^ 15) c)) := by
  show execPtpEventMessage p true false c none s = _
  simp [execPtpEventMessage, hup]

/-- A parent that is still the right one stays. -/
theorem State.setParent_of_same {j : Nat} (hport : s.parentPort = some j) (hsame : s.time.parent = j) : s.setParent = s := by
  simp [State.setParent, hport, hsame]

/-- A follower asks its parent for the time. -/
theorem exec_tideExchange {j : Nat} (hport : s.parentPort = some j) (hsame : s.time.parent = j) (hup : (s.port j).st = .up) :
    exec .tideExchange s = .next (({ s with
      time := { s.time with reqId := s.time.reqId + 1, inFlight := some (s.time.reqId, s.stamp) }, draw := s.draw + 1 } : State).sendTide j
        (s.tideBody 0 0 s.time.reqId 0 (Config.freeBits 24 s.draw).toNat)) := by
  show execTideExchange s = _
  simp only [execTideExchange, State.setParent_of_same hport hsame, hport]
  rw [if_neg (not_not_intro hup)]

/-- A response under the right tag is taken; another is dropped. -/
theorem exec_tide_response {s1 : State} {j : Fin 12} {p : Packet} (hin : s.takeIn j.val (fun _ p => p.kind == 0x40) = some (p, s1))
    (hkey : s.sec.fabricKey.isSome = true) (hzero : fieldN p.body 31 0 = 0) (hmsg : fieldN p.body 59 58 = 1) :
    exec (.tide j) s = .next (if p.tag = linkTag (s.portLinkKey j.val) 256 p.body.toNat then s1.tideResponse j.val p.body else s1) := by
  show execTide j s = _
  simp only [execTide, hin, hkey, hzero, hmsg]
  by_cases htag : p.tag = linkTag (s.portLinkKey j.val) 256 p.body.toNat
  · simp [htag]
  · simp [htag]

/-- A grandmaster that has lost its source holds over (15 R447, R450). -/
theorem exec_timeHoldover_grandmaster (hrole : s.time.ptpRole = 3) (hsync : s.time.sync = .locked) :
    exec .timeHoldover s = .next (({ s with time := { s.time with sync := .holdover, good := 0, filter := [] } } : State).event
      0x0781 0 0 none 0) := by
  show execTimeHoldover s = _
  simp [execTimeHoldover, hrole, State.holdOver, hsync]

/-- The next generation of seals begins with the counts of the P-dies at 0. -/
theorem exec_sealGeneration (hnext : s.time.sealGen ≠ s.now / 2 ^ 33) :
    exec .sealGeneration s = .next { s with
      time := { s.time with sealGen := s.now / 2 ^ 33 }, sec := { s.sec with sealCount := List.replicate 4 0 } } :=
  if_neg (Ne.symm hnext)

/-- A grandmaster locks its reference to a valid signal (15 R425). -/
theorem exec_ref10mInValid_grandmaster (hrole : s.time.ptpRole = 3) :
    exec (.ref10mInValid true) s = .next { s with time := { s.time with refValid := true, ref10m := true } } := by
  show execRef10mInValid true s = _
  simp [execRef10mInValid, hrole]

end

/-- Settles O54, command by command. -/
theorem timeCommandsComplete : Obligations.TimeCommandsComplete :=
  ⟨fun _ => exec_ppsEdge_early, fun _ => exec_ppsOut, fun _ _ _ hup => exec_ptpEventMessage_sent hup _,
    fun _ _ hport hsame hup => ⟨_, exec_tideExchange hport hsame hup⟩, fun _ _ _ _ => exec_tide_response,
    fun _ hrole hsync => ⟨_, exec_timeHoldover_grandmaster hrole hsync, rfl, rfl, rfl⟩, fun _ => exec_sealGeneration,
    fun _ => exec_ref10mInValid_grandmaster⟩

end Sys2Proof.Machine
end

section
/-! The baseboard link and the test port (17 R494; 18 R499 to R503). -/

namespace Sys2Proof.Machine

section
variable {s : State} {a : BitVec 7}

/-! ### Private transfers -/

/-- One byte sets the read offset. -/
theorem exec_i3cPrivateWrite_one (haddr : s.bbAddressed a = true) (b : BitVec 8) :
    exec (.i3cPrivateWrite a [b]) s = .next { s with bb := { s.bb with offset := b } } := if_neg (by simp [haddr])

/-- The registers fill offsets 0 to 0x18. -/
theorem State.length_bbBytes (s : State) : s.bbBytes.length = 0x19 := by simp [State.bbBytes, toBytes]

/-- The values read off a list from a place within it, one by one, are a run of the list. -/
theorem map_range_getD_eq_take_drop {α : Type} {l : List α} {i n : Nat} (h : i + n ≤ l.length) (free : Nat → α) :
    (List.range n).map (fun k => (l[i + k]?).getD (free k)) = (l.drop i).take n := by
  refine List.ext_getElem (by simp; omega) fun k hk _ => ?_
  have hk' : i + k < l.length := by simp at hk; omega
  simp [hk']

/-- A read that stays within the registers gives their bytes. -/
theorem exec_i3cPrivateRead_within {n : BitVec 8} (haddr : s.bbAddressed a = true) (hin : s.bb.offset.toNat + n.toNat ≤ 0x19) :
    exec (.i3cPrivateRead a n) s = .next ((s.emit (.i3c ((s.bbBytes.drop s.bb.offset.toNat).take n.toNat))).use n.toNat) := by
  show execI3cPrivateRead a n s = _
  rw [execI3cPrivateRead, if_neg (by simp [haddr])]
  dsimp only
  rw [map_range_getD_eq_take_drop (s.length_bbBytes ▸ hin)]

/-! ### Common commands -/

section
variable (hstby : s.power.stbyOn = true)
include hstby

theorem exec_entdaa (hnone : s.bb.dynAddr = none) (addr : Option (BitVec 7)) :
    exec (.entdaa addr) s = .next { (s.emit (.i3c (pidBytes ++ [Config.i3cBcr, Config.i3cDcr]))) with bb := { s.bb with dynAddr := addr } } :=
  if_neg (by simp [hstby, hnone])

theorem exec_setdasa (hnone : s.bb.dynAddr = none) (addr : BitVec 7) :
    exec (.setdasa bbStatic addr) s = .next { s with bb := { s.bb with dynAddr := some addr } } := if_neg (by simp [hstby, hnone])

theorem exec_rstdaa : exec .rstdaa s = .next { s with bb := { s.bb with dynAddr := none } } := if_pos hstby

/-- A broadcast command is for the module. -/
theorem State.bbHears_none : s.bbHears none = true := by simp [State.bbHears, hstby]

theorem exec_enec {e : BitVec 8} (hbit : e.getLsbD 0 = true) :
    exec (.enec none e) s = .next { s with bb := { s.bb with ibiOn := true } } := if_pos ⟨State.bbHears_none hstby, hbit⟩

theorem exec_disec {e : BitVec 8} (hbit : e.getLsbD 0 = true) :
    exec (.disec none e) s = .next { s with bb := { s.bb with ibiOn := false } } := if_pos ⟨State.bbHears_none hstby, hbit⟩

/-- A command under the dynamic address is for the module. -/
theorem State.bbDirected_of_dynAddr (haddr : s.bb.dynAddr = some a) : s.bbDirected a = true := by simp [State.bbDirected, hstby, haddr]

/-! ### Readings and the test port -/

/-- The readings are noted, and the peak of the period begins anew. -/
theorem exec_bbReadingUpdate (mv mi sv iw ci co : BitVec 16) : ∃ tj,
    exec (.bbReadingUpdate mv mi sv iw ci co) s = .next { s with
      bb := { s.bb with mainV := mv, mainI := mi, stbyV := sv, inputW := iw, coolIn := ci, coolOut := co, tjMax := tj }
      power := { s.power with avg100 := iw.toNat, peak1 := s.power.peakRun, peakRun := 0 } } := by
  show ∃ tj, execBbReadingUpdate mv mi sv iw ci co s = _
  exact ⟨_, if_neg (by simp [hstby])⟩

theorem exec_bypass (tdi : W32) : exec (.bypass tdi) s = .next (s.emit (.tdo (tdi <<< 1))) := if_pos hstby

theorem exec_idcode : exec .idcode s = .next (s.emit (.tdo 0x1B020A5F)) := if_pos hstby

end

end

/-- Settles O57, command by command. -/
theorem baseboardCommandsComplete : Obligations.BaseboardCommandsComplete := by
  refine ⟨fun _ _ _ haddr => exec_i3cPrivateWrite_one haddr _, fun _ _ _ haddr hin => ⟨_, exec_i3cPrivateRead_within haddr hin, rfl, rfl⟩,
    fun _ _ hstby hnone => exec_entdaa hstby hnone _, fun _ _ hstby hnone => exec_setdasa hstby hnone _, fun _ => exec_rstdaa,
    fun _ _ hstby hbit => ⟨exec_enec hstby hbit, exec_disec hstby hbit⟩, fun s a hstby haddr => ?_,
    fun s mv mi sv iw ci co hstby => ?_, fun _ _ hstby => ⟨exec_bypass hstby _, exec_idcode hstby⟩⟩
  · have hdirected := State.bbDirected_of_dynAddr hstby haddr
    exact ⟨if_pos hdirected, if_pos hdirected, if_pos hdirected, _, if_pos hdirected⟩
  · obtain ⟨tj, hexec⟩ := exec_bbReadingUpdate hstby mv mi sv iw ci co
    exact ⟨_, hexec, rfl, rfl, rfl, rfl, rfl, rfl, rfl, rfl, rfl, rfl⟩

end Sys2Proof.Machine
end

section
/-! Attestation, the keying of sessions, and debug sessions (14 R405 to R408, R419 to R421). -/

namespace Sys2Proof.Machine

section
variable {s : State} {n : Fin 64} {seq : W32} {x : Sess} {r : Req}

/-- One message is answered as a responder. -/
theorem exec_attest (h : s.atTurn n seq 0x0601 x r) :
    exec (.attest n seq) s = .next (s.answer n.val r (.done ((s.modSess n.val (·.withChunks (s.spdm n.val x r.message).1)).use 1) .ok
      (bodyOf (s.spdm n.val x r.message).2) (s.spdm n.val x r.message).2.length)) := by
  show execAttest n seq s = _
  rw [execAttest, aidar_at_turn h]
  dsimp only
  rw [h.pkg, checked_nil]

/-! ### The flow of a key exchange (14 R407) -/

/-- A request of a session that has not ended sees the session as it stands. -/
theorem State.atTurn.sess_of_own {op : Nat} (h : s.atTurn n seq op x r) (hown : r.issuer = none) : s.sess? n.val = some x := by
  obtain ⟨y, hy, rfl⟩ := h.sess
  rwa [Sess.asOf, hown]

/-- `FINISH`, where it is expected, gives the session its role and keys. -/
theorem State.keyStep_finish (hflow : x.handshake = 2) (n : Nat) (msg : List Byte) :
    s.keyStep n x msg 4 = { x with handshake := 0, role := s.roleOf x.chainEnd x.chainLeaf, keys := some (newKeys s.draw) } := by
  simp [State.keyStep, hflow]

/-- Another message in its place ends the flow. -/
theorem State.keyStep_of_not_finish (hflow : x.handshake = 2) {meaning : Nat} (hother : meaning ≠ 4) (n : Nat) (msg : List Byte) :
    s.keyStep n x msg meaning = { x with handshake := 0 } := by
  simp [State.keyStep, hflow, hother]

/-- `FINISH`, where it is expected, does not fail. -/
theorem keyFails_finish (hflow : x.handshake = 2) : keyFails x 4 = false := by simp [keyFails, hflow]

/-- An ownership certificate that is presented leaves the sessions alone. -/
theorem State.presentOwner_sess (s : State) (c : Option (W64 × W32 × BitVec 768)) : (s.presentOwner c).sess = s.sess := by
  unfold State.presentOwner
  split
  · rfl
  · extract_lets stored have_
    split <;> rfl

/-- A whole request of the flow steps its session. -/
theorem State.sess?_keyFlow {m q : List Byte} {k : Nat} (hx : s.sess? k = some x) (hq : (x.spdmTake m).req = some q) :
    (s.keyFlow k x m).sess? k = some (s.keyStep k x q (s.flowMeaning k x q)) := by
  simp only [State.keyFlow, hq]
  rw [State.sess?, State.presentOwner_sess]
  exact State.sess?_modSess hx _

/-- A message of the flow is answered, with the status that a failure of the flow may have. -/
theorem exec_sessionKey (h : s.atTurn n seq 0x0602 x r) (hkeys : x.keys = none) :
    exec (.sessionKey n seq) s = .next (s.answer n.val r (.done
      (((s.keyFlow n.val x r.message).modSess n.val (·.withChunks (s.spdm n.val x r.message).1)).use 2)
      (if s.flowFails n.val x r.message && Config.freeBits 1 (s.draw + 1) == 1 then .authFailed else .ok)
      (bodyOf (s.spdm n.val x r.message).2) (s.spdm n.val x r.message).2.length)) := by
  show execSessionKey n seq s = _
  rw [execSessionKey, aidar_at_turn h]
  dsimp only
  rw [hkeys, Option.isSome_none, checked_cons_false, h.pkg, checked_nil]

/-! ### Debug sessions (14 R419, R420) -/

/-- An authorization for this module that has not expired opens a debug session where the operator signed it, after every context
is destroyed. -/
theorem exec_debugOpen (h : s.atTurn n seq 0x0F01 x r) (hserial : r.num 0 8 = s.sec.serial.toNat) (hvalid : s.now ≤ r.num 8 8)
    (hnone : s.sec.debug = none) :
    exec (.debugOpen n seq) s = .next (s.answer n.val r (if s.operatorSigned 128 (r.num 0 16) (r.num 16 96) then
      .ok { ((s.ctxs.map (·.1)).foldl State.destroyCtx s) with sec := { ((s.ctxs.map (·.1)).foldl State.destroyCtx s).sec with debug := some n.val, debugSeen := true } }
      else .refuse .authFailed 0)) := by
  have hdenied : (r.num 0 8 != s.sec.serial.toNat || decide (r.num 8 8 < s.now)) = false := by simp [hserial, Nat.not_lt.mpr hvalid]
  show execDebugOpen n seq s = _
  rw [execDebugOpen, aidar_at_turn h]
  dsimp only
  rw [hdenied, hnone]
  cases s.operatorSigned 128 (r.num 0 16) (r.num 16 96) with
  | false => rw [Bool.not_false, checked_cons_true, if_neg Bool.false_ne_true]
  | true => rw [Bool.not_true, checked_cons_false, checked_cons_false, h.pkg, Option.isSome_none, checked_cons_false, checked_nil, if_pos rfl]

end

/-- Settles O24: of a key exchange, what `FINISH` gives, and what any other message in its place leaves. -/
theorem securityCommandsComplete : Obligations.SecurityCommandsComplete := by
  refine ⟨fun _ _ _ _ _ => exec_attest, fun s n seq x r q h hown hkeys hflow hq => ⟨_, _, exec_sessionKey h hkeys, ?_⟩,
    fun _ _ _ _ _ => exec_debugOpen, fun s n hdebug => ?_⟩
  · have hsess := State.sess?_modSess (State.sess?_keyFlow (h.sess_of_own hown) hq) (·.withChunks (s.spdm n.val x r.message).1)
    refine ⟨fun hfinish => ⟨?_, _, hsess, ?_⟩, fun hother => ⟨_, hsess, ?_⟩⟩
    · simp [State.flowFails, hq, hfinish, keyFails_finish hflow]
    · rw [hfinish, State.keyStep_finish hflow]
      exact ⟨rfl, rfl⟩
    · rw [State.keyStep_of_not_finish hflow hother]
      exact ⟨rfl, hkeys, rfl⟩
  · show execDebugSessionEnd s = _
    rw [execDebugSessionEnd, hdebug]

end Sys2Proof.Machine
end

section
/-! Built-in test and repair: self-tests, fencing and release of dies, sparing, and repair of memory (17 R474 to R480, R484, R489). -/

namespace Sys2Proof.Machine

section
variable {s : State} {n : Fin 64} {seq : W32} {x : Sess} {r : Req}

/-! ### Self-tests (17 R477 to R480) -/

/-- A test that applies starts on a fenced die, while fewer than 16 run. -/
theorem exec_bistRun (h : s.atTurn n seq 0x0510 x r) (hdie : r.num 0 1 < 88) (happlies : bistApplies (r.num 0 1) (r.num 1 1) = true)
    (hrepair : r.num 2 1 ≤ 1) (hfenced : s.isFenced (r.num 0 1) = true) (hroom : (s.dies.filter (fun x => x.bist.isSome)).length < 16) :
    exec (.bistRun n seq) s = .next (s.answer n.val r (.wait (s.modDie (r.num 0 1) (fun x => { x with
      bist := some (r.num 1 1), bistRepair := r.num 2 1 == 1 })))) := by
  show execBistRun n seq s = _
  rw [execBistRun, aidar_at_turn h]
  dsimp only
  rw [decide_eq_false (Nat.not_le.mpr hdie), decide_eq_false (Nat.not_lt.mpr hrepair), decide_eq_false (Nat.not_le.mpr hroom), happlies,
    hfenced]
  simp [h.pkg]

/-- A die that fails a logic test is `FAILED`, and the request of the test completes with what the test found. -/
theorem exec_bistDone_fails {die : Fin 88} {sig : BitVec 64} (hrun : (s.die die.val).bist = some 1) (hsig : sig ≠ s.expectedSig die.val 1)
    (repairs us : W32) {body : Nat} (hbody : body = bistBody die.val 1 false 0 sig.toNat (s.expectedSig die.val 1).toNat us.toNat) :
    exec (.bistDone die sig true repairs us) s = .next ((State.resolve
      (((s.modDie die.val (fun x => { x with bist := none, bistRepair := false })).directHealth (dieObj die.val) .failed .bist).event
        0x0580 2 die.val none (BitVec.ofNat 3328 body))
      (fun q => q.opcode == 0x0510 && q.num 0 1 == die.val) .ok 0 (BitVec.ofNat 3456 body) 28).settle) := by
  have hfail : (sig == s.expectedSig die.val 1) = false := beq_false_of_ne hsig
  show execBistDone die sig true repairs us s = _
  simp only [execBistDone, hrun, hfail, Bool.false_and, Bool.not_false, if_true, State.applySram]
  rw [hbody]
  simp

/-! ### Fencing and release (17 R474 to R476) -/

/-- A request that is at its turn is the one that a command of its own action runs. -/
theorem State.atTurn.waiting_of_sel {op : Nat} (h : s.atTurn n seq op x r) {sel : Req → Bool} (hsel : sel r = true) :
    s.waiting? n.val seq op sel = some (x, r) := by
  obtain ⟨hwait, -⟩ := h
  simp only [State.waiting?] at hwait ⊢
  split at hwait
  · cases hwait
  · next y hy =>
    obtain ⟨q, hq, hqr⟩ := Option.map_eq_some_iff.mp hwait
    obtain ⟨rfl, rfl⟩ := Prod.mk.inj hqr
    obtain ⟨hmeets, before, after, hlist, hbefore⟩ := List.find?_eq_some_iff_append.mp hq
    rw [List.find?_eq_some_iff_append.mpr ⟨?_, before, after, hlist, fun a ha => ?_⟩, Option.map_some]
    · simpa [hsel] using hmeets
    · have := hbefore a ha
      simp only [Bool.and_true, Bool.not_eq_true'] at this ⊢
      rw [this, Bool.false_and]

/-- A request of `DIE_FENCE` or `DIE_RELEASE` at its turn runs its effect, as its action says. -/
theorem fenceCmd_at_turn {release : Bool} (h : s.atTurn n seq 0x0511 x r) (haction : (r.num 1 1 == 1) = release)
    (core : Sess → Req → CmdOut) : fenceCmd n seq release s core = .next (s.answer n.val r (core x r)) := by
  have hwait := h.waiting_of_sel (sel := fun r => (r.num 1 1 == 1) == release) (by simpa using haction)
  obtain ⟨-, hmgr, hbusy, hearly, -⟩ := h
  simp [fenceCmd, State.runReq, hwait, hmgr, hbusy, checked_pass _ hearly]

/-- Good operands are passed over. -/
theorem checked_fenceArgs (hargs : (s.fenceArgs r).1 = false) (cs : List Check) (k : CmdOut) :
    checked (s.fenceArgs r :: cs) k = checked cs k := by simp [checked, hargs]

/-- A die in service is fenced, and the fault scope acts on it. -/
theorem exec_dieFence (h : s.atTurn n seq 0x0511 x r) (haction : r.num 1 1 = 0) (hargs : (s.fenceArgs r).1 = false)
    (hopen : s.isFenced (r.num 0 1) = false) :
    exec (.dieFence n seq) s = .next (s.answer n.val r (.ok
      ((((s.fenceDie (r.num 0 1)).event 0x0581 2 (r.num 0 1) none 0).fenceScope (r.num 0 1)).settle))) := by
  show execDieFence n seq s = _
  rw [execDieFence, fenceCmd_at_turn h (by simp [haction])]
  dsimp only
  rw [checked_fenceArgs hargs, h.pkg, checked_nil, if_neg (by simp [hopen])]

/-- A fenced die that has not failed returns to service with its manager, or fails with both images. -/
theorem exec_dieRelease (h : s.atTurn n seq 0x0511 x r) (haction : r.num 1 1 = 1) (hargs : (s.fenceArgs r).1 = false)
    (hhealth : (s.health (dieObj (r.num 0 1))).st ≠ .failed) (hfenced : s.isFenced (r.num 0 1) = true) :
    exec (.dieRelease n seq) s = .next (s.answer n.val r (match s.startMgr (r.num 0 1) with
      | none => .refuse .hwFault 0
      | some s1 => .ok ((s1.backInService (r.num 0 1)).event 0x0582 2 (r.num 0 1) none 0).settle)) := by
  show execDieRelease n seq s = _
  rw [execDieRelease, fenceCmd_at_turn h (by simp [haction])]
  dsimp only
  rw [checked_fenceArgs hargs, h.pkg, beq_false_of_ne hhealth, checked_cons_false, checked_nil]
  refine congrArg (fun out => Host.Outcome.next (s.answer n.val r out)) ((if_pos hfenced).trans ?_)
  cases s.startMgr (r.num 0 1) <;> rfl

/-! ### Sparing (17 R484) -/

/-- A warm sparing of a whole die, to a target of the module's choice, begins. -/
theorem exec_dieSpare_whole {s1 : State} (h : s.atTurn n seq 0x0512 x r) (hdie : r.num 0 1 < 64) (hwhole : r.num 1 1 = 0)
    (htile : r.num 2 1 = 0) (hany : r.num 3 1 = 0xFF) (hbound : s.boundTo (r.num 0 1) none ≠ [])
    (hst : (s.die (r.num 0 1)).cstate = .enabled) (hstart : s.startSparing (r.num 0 1) none none true false = some s1) :
    exec (.dieSpare n seq) s = .next (s.answer n.val r (.wait s1)) := by
  show execDieSpare n seq s = _
  rw [execDieSpare, aidar_at_turn h]
  dsimp only
  rw [hwhole, htile, hany, hst, if_neg (by decide), if_pos rfl, decide_eq_false (Nat.not_le.mpr hdie)]
  have hcold : (CState.enabled == CState.fenced) = false := rfl
  rw [hcold, Bool.not_false, hstart]
  simp [h.pkg, hbound]

/-! ### Memory repair (17 R489) -/

/-- A soft repair of a row of a stack, while the device has the means, is recorded. -/
theorem exec_hbmRepair_soft {d : Nat} (h : s.atTurn n seq 0x0513 x r) (hcls : r.num 0 1 = 0) (hd : d = r.num 1 1) (hd20 : d < 20)
    (hact : r.num 2 1 = 0) (hclean : r.clean [(0, 3), (4, 2), (8, 8)] = true) (hmgr : (s.die (devDie d)).mgr.st = .running) :
    exec (.hbmRepair n seq true) s = .next (s.answer n.val r (.ok (((((s.modDev d (fun x => { x with
      softRepairs := x.softRepairs ++ [(r.num 4 1, r.num 5 1, r.num 8 4)] })).recordRepairs d).repairedHealth (devObj d)).event 0x0585 2
        (devDie d) none 0).settle))) := by
  subst hd
  show execHbmRepair n seq true s = _
  simp only [execHbmRepair, h.waiting_of_sel (sel := fun _ => true) rfl, hcls, if_true]
  rw [if_neg (by simp [hmgr]), aidar_at_turn h, hact, hclean, decide_eq_false (Nat.not_le.mpr hd20)]
  simp [h.pkg]

end

/-- Settles O22, command by command. -/
theorem repairCommandsComplete : Obligations.RepairCommandsComplete :=
  ⟨fun _ _ _ _ _ => exec_bistRun, fun _ _ _ _ _ hrun hsig _ => ⟨_, exec_bistDone_fails hrun hsig _ _ rfl, rfl⟩,
    fun _ _ _ _ _ => exec_dieFence, fun _ _ _ _ _ => exec_dieRelease, fun _ _ _ _ _ _ => exec_dieSpare_whole,
    fun _ _ _ _ _ _ => exec_hbmRepair_soft⟩

end Sys2Proof.Machine
end

section
/-! Telemetry: samples, live records, datagrams, snapshots, margins in service and the distance to limit (16 R453 to R473). -/

namespace Sys2Proof.Machine

/-- An entry of a table of one, after its change. -/
theorem smMod_singleton {α : Type} (n : Nat) (v : α) (f : α → α) : smMod [(n, v)] n f = [(n, f v)] := by
  simp [smMod, smGet?, smPut]

section
variable {s : State}

/-! ### Samples (16 R453) -/

/-- The input power of the module is a gauge of the catalogue. -/
theorem State.hasGauge_input (s : State) : s.hasGauge 0x13000005 0 = true := by
  have hobj : s.objects 0 = [0] := rfl
  simp [State.hasGauge, gaugeIds, objClass, hobj]

/-- A sample of the input power raises the peak of the interval that runs. -/
theorem exec_gaugeSample_input (s : State) (v : BitVec 64) : exec (.gaugeSample (.gauge 0x13000005 0 v)) s =
    .next { s.gaugeSample 0x13000005 0 v with power := { s.power with peakRun := max s.power.peakRun v.toNat } } := by
  show execGaugeSample (.gauge 0x13000005 0 v) s = _
  have hgauge : s.hasGauge (0x13000005 : BitVec 32).toNat (0 : BitVec 32).toNat = true := s.hasGauge_input
  have hvalue : s.sampleValue (0x13000005 : BitVec 32).toNat (0 : BitVec 32).toNat v = some v := rfl
  rw [execGaugeSample, hgauge, hvalue]
  exact congrArg Host.Outcome.next (if_pos rfl)

/-! ### Live records (16 R460) -/

/-- The subscriptions of a table that lists one handle, a subscription. -/
theorem State.subs_of_live {slot : Nat} {u : Sub} (h : s.handles.live = [(slot, .sub u)]) : s.subs = [(slot, u)] := by
  simp [State.subs, h]

/-- A gauge period at which no live records are due is counted. -/
theorem exec_liveExport_early {slot : Nat} {u : Sub} (h : s.handles.live = [(slot, .sub u)]) (hk : u.periods + 1 < u.k) :
    exec .liveExport s = .next { s with handles := { s.handles with live := [(slot, .sub { u with periods := u.periods + 1 })] } } := by
  show execLiveExport s = _
  have hdue : decide (u.k ≤ u.periods + 1) = false := decide_eq_false (by omega)
  rw [execLiveExport, State.subs_of_live h, List.foldl_cons, List.foldl_nil, hdue]
  dsimp only
  rw [if_neg (by decide), h, smMod_singleton]
  rfl

/-- A gauge period at which live records are due forms them, and the count begins anew. -/
theorem exec_liveExport_due {t : State} {slot : Nat} {u : Sub} (h : s.handles.live = [(slot, .sub u)]) (hk : u.k ≤ u.periods + 1)
    (ht : t = s.formList slot (s.liveRecords u)) :
    exec .liveExport s = .next { t with handles := { t.handles with live := smMod t.handles.live slot (fun o => match o with
      | .sub u => .sub { u with periods := 0, worst := [] }
      | o => o) } } := by
  subst ht
  show execLiveExport s = _
  rw [execLiveExport, State.subs_of_live h, List.foldl_cons, List.foldl_nil, decide_eq_true hk]
  dsimp only
  rw [if_pos rfl]
  refine congrArg (fun f => Host.Outcome.next { s.formList slot (s.liveRecords u) with
    handles := { (s.formList slot (s.liveRecords u)).handles with
      live := smMod (s.formList slot (s.liveRecords u)).handles.live slot f } }) (funext fun o => ?_)
  cases o <;> rfl

/-! ### Datagrams (16 R462) -/

/-- The next subscription in rotation sends the records at the front of its queue over a port that is up. -/
theorem exec_datagramSend {slot : Nat} {u : Sub} (hnext : s.nextSub = some (slot, u)) (hup : (s.ethPort (4 + u.port)).up = true) :
    exec .datagramSend s = .next (
      let s1 := s.emit (.datagram u.port u.udp u.addr
        (pack 128 [(31, 0, (s.handleAt slot (.sub u)).toNat), (63, 32, (u.sent + 1).toNat), (95, 64, (u.queue.take 32).length)])
        (images (u.queue.take 32) u.lost))
      { s1 with
        handles := { s1.handles with
          live := smPut s1.handles.live slot (.sub { u with queue := u.queue.drop 32, lost := 0, sent := u.sent + 1 }) }
        telem := { s1.telem with rotation := slot } }) := by
  show execDatagramSend s = _
  rw [execDatagramSend, hnext]
  exact if_neg (by simp [hup])

/-! ### Snapshots (16 R465 to R467) -/

/-- A record that is dropped leaves the pending series. -/
theorem State.dropRecord_series (s : State) (slot : Nat) : (s.dropRecord slot).telem.series = s.telem.series := by
  unfold State.dropRecord
  split <;> rfl

/-- A snapshot leaves the pending series. -/
theorem State.takeSnapshot_series (s : State) (t : Nat) : (s.takeSnapshot t).telem.series = s.telem.series := by
  unfold State.takeSnapshot
  extract_lets b s1 captured x s2
  have h1 : s1.telem.series = s.telem.series :=
    foldl_keeps (Q := fun u : State => u.telem.series = s.telem.series) _ rfl fun u d hu => (u.dropRecord_series d.1).trans hu
  have h2 : s2.telem.series = s1.telem.series := by
    unfold s2 State.setSnapBank
    cases b <;> rfl
  exact h2.trans h1

/-- With no series pending no instant is due. -/
theorem State.instantDue_of_no_series (h : s.telem.series = []) : s.instantDue = false := by
  rw [State.instantDue, h]
  rfl

/-- The command at the instant of the one series that is pending, of one instant: a snapshot is taken, or skipped for lying
less than 10 ms after the last one. -/
theorem execSnapshotInstant_last {t : Nat} (hseries : s.telem.series = [{ t := t, n := 1, p := 0 }]) (hnow : t ≤ s.now) :
    execSnapshotInstant s = .next (
      let s1 : State := { s with telem := { s.telem with series := [] } }
      let s2 := if s.telem.lastSnap.any (fun l => decide (t < l + 10 ^ 7)) then
          { s1 with telem := { s1.telem with skipped := s1.telem.skipped + 1 } }
        else s1.takeSnapshot t
      { s2 with telem := { s2.telem with cleared := [] } }) := by
  have hrest : nextSeries [{ t := t, n := 1, p := 0 }] t = [] := by simp [nextSeries]
  have hmin : (s.telem.series.map (·.t)).min? = some t := by
    rw [hseries]
    rfl
  rw [execSnapshotInstant, hmin]
  dsimp only
  rw [if_neg (Nat.not_lt.mpr hnow), hseries, hrest]
  refine congrArg Host.Outcome.next (if_neg ?_)
  rw [Bool.not_eq_true]
  apply State.instantDue_of_no_series
  split
  · rfl
  · exact State.takeSnapshot_series ..

/-- At its instant a snapshot is taken. -/
theorem exec_snapshotInstant_takes {t : Nat} (hseries : s.telem.series = [{ t := t, n := 1, p := 0 }]) (hnow : t ≤ s.now)
    (hlast : s.telem.lastSnap = none) :
    ∃ u : State, exec .snapshotInstant s = .next { u with telem := { u.telem with cleared := [] } } ∧
      u = ({ s with telem := { s.telem with series := [] } } : State).takeSnapshot t := by
  refine ⟨_, (execSnapshotInstant_last hseries hnow).trans ?_, rfl⟩
  rw [hlast]
  rfl

/-- An instant less than 10 ms after the last snapshot is skipped. -/
theorem exec_snapshotInstant_skips {t l : Nat} (hseries : s.telem.series = [{ t := t, n := 1, p := 0 }]) (hnow : t ≤ s.now)
    (hlast : s.telem.lastSnap = some l) (hsoon : t < l + 10 ^ 7) :
    exec .snapshotInstant s = .next { s with telem := { s.telem with series := [], skipped := s.telem.skipped + 1, cleared := [] } } := by
  refine (execSnapshotInstant_last hseries hnow).trans ?_
  rw [hlast, Option.any_some, decide_eq_true hsoon]
  rfl

/-- The one record due from a bank is formed. -/
theorem exec_snapshotExport_one {b : Bool} {n : BitVec 16} {d : Nat × Nat × Nat} (hdue : (s.snapBank b).due = [d])
    (hfresh : s.objStale d.2.2 = false) (hn : 1 ≤ n.toNat) : exec (.snapshotExport b n) s =
      .next ((s.formTo d.1 (s.snapRecord (s.snapBank b) d.2.1 d.2.2)).setSnapBank b { s.snapBank b with due := [] }) := by
  show execSnapshotExport b n s = _
  have hready : ([d].filter (fun d => !s.objStale d.2.2)).take n.toNat = [d] := by
    simpa [hfresh] using hn
  have hrest : [d].filter (fun e => !List.contains [d] e) = [] := by simp
  rw [execSnapshotExport]
  dsimp only
  rw [hdue, hready, hrest, List.foldl_cons, List.foldl_nil]

/-! ### Health (16 R470) -/

/-- The one part with a health decays. -/
theorem exec_healthDecay_one {id : Nat} {h : HealthRec} (hone : s.telem.health = [(id, h)]) :
    exec .healthDecay s = .next (s.decayOne id) := by
  show execHealthDecay s = _
  rw [execHealthDecay, hone]
  rfl

/-! ### Samples of the lanes of a port (16 R468) -/

/-- A table of gauges after a sample. -/
def sampleIn (g : SMap Gauge) (id obj : Nat) (v : BitVec 64) : SMap Gauge :=
  smPut g (telKey id obj) ((smGet {} g (telKey id obj)).sample v)

/-- The gauge of an object is listed, and has counted one sample more than in an earlier table. -/
def CountedOne (g g' : SMap Gauge) (key : Nat) : Prop :=
  ∃ x, smGet? g' key = some x ∧ x.count = (smGet {} g key).count + 1

/-- The state with another table of gauges. -/
def State.withGauges (s : State) (g : SMap Gauge) : State := { s with telem := { s.telem with gauges := g } }

@[simp] theorem State.withGauges_scopeDue (s : State) (g : SMap Gauge) : (s.withGauges g).scopeDue = s.scopeDue := rfl

@[simp] theorem State.withGauges_gauges (s : State) (g : SMap Gauge) : (s.withGauges g).telem.gauges = g := rfl

@[simp] theorem State.withGauges_health (s : State) (g : SMap Gauge) : (s.withGauges g).telem.health = s.telem.health := rfl

@[simp] theorem State.withGauges_port (s : State) (g : SMap Gauge) (j : Nat) : (s.withGauges g).port j = s.port j := rfl

/-- A gauge counts in the state as it counts in the table put there. -/
theorem CountedOne.withGauges {g g' : SMap Gauge} {key : Nat} (h : CountedOne g g' key) (s : State) :
    ∃ x, smGet? (s.withGauges g').telem.gauges key = some x ∧ x.count = (smGet {} g key).count + 1 := by
  rwa [s.withGauges_gauges]

/-- A sample of a state is one of its table. -/
theorem State.gaugeSample_withGauges (s : State) (g : SMap Gauge) (id obj : Nat) (v : BitVec 64) :
    (s.withGauges g).gaugeSample id obj v = s.withGauges (sampleIn g id obj v) := rfl

/-- The gauge that takes a sample counts it. -/
theorem countedOne_sampleIn (g : SMap Gauge) (id obj : Nat) (v : BitVec 64) : CountedOne g (sampleIn g id obj v) (telKey id obj) :=
  ⟨_, smGet?_smPut_self .., rfl⟩

/-- Every other gauge stays as it is. -/
theorem smGet?_sampleIn_ne {id obj key : Nat} (h : key ≠ telKey id obj) (g : SMap Gauge) (v : BitVec 64) :
    smGet? (sampleIn g id obj v) key = smGet? g key :=
  smGet?_smPut_ne g _ h

/-- Lanes of a port have gauges of their own. -/
theorem telKey_laneObj_ne {id j i k : Nat} (h : k ≠ i) : telKey id (laneObj j k) ≠ telKey id (laneObj j i) := by
  unfold telKey laneObj objId
  omega

/-- Gauges of two kinds stand apart, whatever the lanes. -/
theorem telKey_laneObj_ne_next {id j k : Nat} (i : Nat) (h : k < 9) : telKey id (laneObj j k) ≠ telKey (id + 1) (laneObj j i) := by
  unfold telKey laneObj objId
  omega

section
variable {step : SMap Gauge → Nat → SMap Gauge} {key k : Nat}

/-- A gauge that no step touches stays as it is. -/
theorem smGet?_foldl_of_not_mem {l : List Nat} (hk : k ∉ l) (hne : ∀ g i, k ≠ i → smGet? (step g i) key = smGet? g key)
    (g : SMap Gauge) : smGet? (l.foldl step g) key = smGet? g key := by
  induction l generalizing g with
  | nil => rfl
  | cons i l ih =>
    rw [List.mem_cons, not_or] at hk
    rw [List.foldl_cons, ih hk.2, hne g i hk.1]

/-- A gauge that one step of a fold samples, and the others leave, counts one sample. -/
theorem countedOne_foldl {l : List Nat} (hl : l.Nodup) (hk : k ∈ l) (hself : ∀ g, CountedOne g (step g k) key)
    (hne : ∀ g i, k ≠ i → smGet? (step g i) key = smGet? g key) (g : SMap Gauge) : CountedOne g (l.foldl step g) key := by
  induction l generalizing g with
  | nil => cases hk
  | cons i l ih =>
    obtain ⟨hil, hl⟩ := List.nodup_cons.mp hl
    rw [List.foldl_cons]
    by_cases hki : k = i
    · subst hki
      obtain ⟨x, hx, hcount⟩ := hself g
      exact ⟨x, (smGet?_foldl_of_not_mem hil hne _).trans hx, hcount⟩
    · obtain ⟨x, hx, hcount⟩ := ih hl ((List.mem_cons.mp hk).resolve_left hki) (step g i)
      refine ⟨x, hx, hcount.trans ?_⟩
      rw [smGet, hne g i hki, ← smGet]

end

/-- A fold whose steps change the table of gauges alone changes that alone. -/
theorem State.foldl_withGauges {step : State → Nat → State} {sampled : SMap Gauge → Nat → SMap Gauge} {l : List Nat}
    (h : ∀ g, ∀ k ∈ l, step (s.withGauges g) k = s.withGauges (sampled g k)) (g : SMap Gauge) :
    l.foldl step (s.withGauges g) = s.withGauges (l.foldl sampled g) := by
  induction l generalizing g with
  | nil => rfl
  | cons i l ih =>
    rw [List.foldl_cons, List.foldl_cons, h g i List.mem_cons_self]
    exact ih (fun g k hk => h g k (List.mem_cons_of_mem _ hk)) _

/-! ### Margins in service (16 R468, R469) -/

/-- Among counts that all stand at 0, one that is set to 0 changes nothing. -/
theorem modAt_zero_of_zeros {l : List Nat} {n : Nat} (h : l = List.replicate n 0) (k : Nat) : modAt l k (fun _ => 0) = l := by
  subst h
  refine List.ext_getElem (by simp [modAt]) fun i _ _ => ?_
  simp [modAt, List.getElem_modify]

/-- Among counts that all stand at 0 each reads 0. -/
theorem getD_zero_of_zeros {l : List Nat} {n : Nat} (h : l = List.replicate n 0) (k : Nat) : l.getD k 0 = 0 := by
  rw [h, List.getD_eq_getElem?_getD, List.getElem?_replicate]
  split <;> rfl

/-- The samples of one lane of an eye scan, in the table of gauges. -/
def eyeSamples (j : Nat) (v h : BitVec 144) (g : SMap Gauge) (k : Nat) : SMap Gauge :=
  sampleIn (sampleIn g 0x0E000001 (laneObj j k) ((nine16 v k).setWidth 64)) 0x0E000002 (laneObj j k) ((nine16 h k).setWidth 64)

/-- A scan whose margins stand beyond every threshold, over lanes with no bad scan before, takes its samples. -/
theorem exec_eyeScan_good {j : Fin 12} {v h : BitVec 144} (hmeas : s.measures j.val = true) (hdue : s.scopeDue = [])
    (hgood : ∀ k, k < 9 → 12 ≤ (nine16 v k).toNat ∧ 120 ≤ (nine16 h k).toNat)
    (hv : (s.port j.val).eyeBad = List.replicate 9 0) (hh : (s.port j.val).eyeBadH = List.replicate 9 0) :
    exec (.eyeScan j v h) s = .next (s.withGauges ((List.range 9).foldl (eyeSamples j.val v h) s.telem.gauges)) := by
  show execEyeScan j v h s = _
  rw [execEyeScan, hmeas]
  dsimp only
  rw [if_neg (by decide)]
  refine congrArg Host.Outcome.next (.trans (congrArg State.settle ?_) (State.settle_of_none_due ((s.withGauges_scopeDue _).trans hdue)))
  refine State.foldl_withGauges (fun g k hk => ?_) s.telem.gauges
  obtain ⟨ha, hb⟩ := hgood k (List.mem_range.mp hk)
  rw [State.gaugeSample_withGauges, State.gaugeSample_withGauges]
  simp only [if_neg (show ¬ (nine16 v k).toNat < 6 by omega), if_neg (show ¬ (nine16 h k).toNat < 60 by omega)]
  rw [State.modPort_eq_self]
  · rw [s.withGauges_port, getD_zero_of_zeros hv, getD_zero_of_zeros hh, decide_eq_false (show ¬ (nine16 v k).toNat < 12 by omega),
      decide_eq_false (show ¬ (nine16 h k).toNat < 120 by omega)]
    rfl
  · rw [s.withGauges_port, modAt_zero_of_zeros hv, modAt_zero_of_zeros hh]

/-- The sample of one lane of a window, in the table of gauges. -/
def serSample (j : Nat) (e : BitVec 288) (g : SMap Gauge) (k : Nat) : SMap Gauge :=
  sampleIn g 0x0E000003 (laneObj j k) (BitVec.ofNat 64 (nine32 e k))

/-- A window with few errors on every lane, over lanes with no bad window before, takes its samples. -/
theorem exec_serWindow_good {j : Fin 12} {e : BitVec 288} (hmeas : s.measures j.val = true) (hdue : s.scopeDue = [])
    (hgood : ∀ k, k < 9 → nine32 e k ≤ 20000) (hbad : (s.port j.val).serBad = List.replicate 9 0) :
    exec (.serWindow j e) s = .next (s.withGauges ((List.range 9).foldl (serSample j.val e) s.telem.gauges)) := by
  show execSerWindow j e s = _
  rw [execSerWindow, hmeas]
  dsimp only
  rw [if_neg (by decide)]
  refine congrArg Host.Outcome.next (.trans (congrArg State.settle ?_) (State.settle_of_none_due ((s.withGauges_scopeDue _).trans hdue)))
  refine State.foldl_withGauges (fun g k hk => ?_) s.telem.gauges
  have he := hgood k (List.mem_range.mp hk)
  rw [State.gaugeSample_withGauges]
  simp only [if_neg (show ¬ 200000 < nine32 e k by omega)]
  rw [State.modPort_eq_self]
  · rw [s.withGauges_port, getD_zero_of_zeros hbad, decide_eq_false (show ¬ 20000 < nine32 e k by omega)]
    rfl
  · rw [s.withGauges_port, modAt_zero_of_zeros hbad]

/-- An eye scan samples the vertical margin of each lane once. -/
theorem countedOne_eyeSamples (j : Nat) (v h : BitVec 144) (g : SMap Gauge) {k : Nat} (hk : k < 9) :
    CountedOne g ((List.range 9).foldl (eyeSamples j v h) g) (telKey 0x0E000001 (laneObj j k)) := by
  have hother : ∀ i, telKey 0x0E000001 (laneObj j k) ≠ telKey 0x0E000002 (laneObj j i) := fun i => telKey_laneObj_ne_next i hk
  refine countedOne_foldl List.nodup_range (List.mem_range.mpr hk) (fun g => ?_) (fun g i hki => ?_) g
  · obtain ⟨x, hx, hcount⟩ := countedOne_sampleIn g 0x0E000001 (laneObj j k) ((nine16 v k).setWidth 64)
    exact ⟨x, (smGet?_sampleIn_ne (hother k) _ _).trans hx, hcount⟩
  · exact (smGet?_sampleIn_ne (hother i) _ _).trans (smGet?_sampleIn_ne (telKey_laneObj_ne hki) _ _)

/-- A window samples the errors of each lane once. -/
theorem countedOne_serSample (j : Nat) (e : BitVec 288) (g : SMap Gauge) {k : Nat} (hk : k < 9) :
    CountedOne g ((List.range 9).foldl (serSample j e) g) (telKey 0x0E000003 (laneObj j k)) :=
  countedOne_foldl List.nodup_range (List.mem_range.mpr hk) (fun _ => countedOne_sampleIn ..)
    (fun _ _ hki => smGet?_sampleIn_ne (telKey_laneObj_ne hki) _ _) g

/-- The optical powers of the lanes of a measured port are read. -/
theorem exec_opticalRead_lanes {j : Fin 12} (hmeas : s.measures j.val = true) (rx tx : BitVec 144) :
    exec (.opticalRead (.lanes j rx tx)) s = .next (s.readLanes j.val rx tx).settle :=
  if_pos hmeas

/-- A slack below the margin, before the margin's second has passed, is counted; another ends the count. -/
theorem exec_slackReport_counts {d : Fin 88} {i : Fin 4} (x : W32) (hdies : s.dies.length = 88)
    (hcount : (s.die d.val).slackBad.getD i.val 0 < 99999) (hlen : (s.die d.val).slackBad.length = 4) :
    ∃ t : State, exec (.slackReport d i x) s = .next t ∧ (t.die d.val).slackBad.getD i.val 0 =
      (if 2 * x.toInt < 3 * Config.calSlack s.calHeader d.val i.val then (s.die d.val).slackBad.getD i.val 0 + 1 else 0) := by
  show ∃ t : State, execSlackReport d i x s = .next t ∧ _
  unfold execSlackReport
  extract_lets d' i' x' cal s1 s2
  have hread : (s2.die d').slackBad.getD i' 0 = if 2 * x' < 3 * cal then min 100000 ((s.die d').slackBad.getD i' 0 + 1) else 0 := by
    unfold s2
    rw [State.die_modDie_self (show d' < s1.dies.length from hdies.symm ▸ d.isLt)]
    exact getD_modAt_self (show i' < (s.die d').slackBad.length from hlen.symm ▸ i.isLt) _ _
  have hn : (s.die d').slackBad.getD i' 0 < 99999 := hcount
  rw [Nat.min_eq_right (by omega)] at hread
  have hearly : ¬ 100000 ≤ (s2.die d').slackBad.getD i' 0 := by
    rw [hread]
    split <;> omega
  exact ⟨s2, congrArg Host.Outcome.next (if_neg hearly), hread⟩

/-! ### Distance to limit (16 R472, R473) -/

/-- An interval of a measure of no context is entered in its measure; one that counts below no floor raises nothing. -/
theorem exec_limitInterval {m : Measure} {f : W32} {held : Bool} (hm : ∀ c, m ≠ .scatter c)
    (hfloor : held = true → s.countsFor m = true → ltV (ofF32 f) (.ofRat (measureFloor m)) = false) :
    ∃ t : State, exec (.limitInterval m f held) s = .next t ∧ t.out = s.out ∧
      ((held && s.countsFor m) = false → t.handles = s.handles) ∧
      t.telem.limits = smPut s.telem.limits (measureKey m)
        ((smGet {} s.telem.limits (measureKey m)).interval f (held && s.countsFor m) false) := by
  show ∃ t : State, execLimitInterval m f held s = .next t ∧ _
  unfold execLimitInterval
  extract_lets +onlyGivenNames key gone counted below telem s1 handles s2
  have hgone : gone = false := by
    unfold gone
    split
    · exact absurd rfl (hm _)
    · rfl
  have hbelow : below = false := by
    unfold below counted
    rw [Bool.and_eq_false_imp, Bool.and_eq_true]
    exact fun ⟨hheld, hcounts⟩ => hfloor hheld hcounts
  have hlimits : s1.telem.limits = smPut s.telem.limits key ((smGet {} s.telem.limits key).interval f counted false) := by
    unfold s1
    rw [hbelow]
  rw [hgone, hbelow]
  refine ⟨s2, congrArg Host.Outcome.next (if_neg Bool.false_ne_true), ?_, fun hfree => ?_, ?_⟩
  · unfold s2
    split <;> rfl
  · have hs2 : s2 = s1 := if_neg (Bool.eq_false_iff.mp hfree)
    rw [hs2]
  · rw [← hlimits]
    unfold s2
    split <;> rfl

end

/-- Settles O56, command by command. -/
theorem telemetryCommandsComplete : Obligations.TelemetryCommandsComplete := by
  refine ⟨exec_gaugeSample_input, fun _ => rfl, fun _ _ _ => exec_liveExport_early, fun _ _ _ _ => exec_liveExport_due,
    fun s slot u hnext hup => ⟨_, _, exec_datagramSend hnext hup, rfl, rfl, smGet?_smPut_self .., rfl⟩,
    fun _ _ => exec_snapshotInstant_takes, fun _ _ _ => exec_snapshotInstant_skips, fun _ _ _ _ => exec_snapshotExport_one,
    fun _ _ _ => exec_healthDecay_one, fun _ => rfl,
    fun s j v h hmeas hdue hgood _ hv hh =>
      ⟨_, exec_eyeScan_good hmeas hdue hgood hv hh,
        fun k hk => (countedOne_eyeSamples j.val v h _ hk).withGauges s, s.withGauges_health _⟩,
    fun s j e hmeas hdue hgood _ hbad =>
      ⟨_, exec_serWindow_good hmeas hdue hgood hbad,
        fun k hk => (countedOne_serSample j.val e _ hk).withGauges s, s.withGauges_health _⟩,
    fun _ _ rx tx hmeas => exec_opticalRead_lanes hmeas rx tx,
    fun _ _ _ x hdies hcount hlen => exec_slackReport_counts x hdies hcount hlen, fun s m f hm => ⟨?_, fun hcounts hfloor => ?_⟩⟩
  · obtain ⟨t, hstep, hout, hhandles, hlimits⟩ := exec_limitInterval (s := s) (f := f) (held := false) hm (fun h => nomatch h)
    exact ⟨t, hstep, hhandles rfl, hout, hlimits⟩
  · obtain ⟨t, hstep, hout, -, hlimits⟩ := exec_limitInterval (s := s) (held := true) hm (fun _ _ => hfloor)
    rw [hcounts] at hlimits
    exact ⟨t, hstep, hout, hlimits⟩

end Sys2Proof.Machine
end

section
/-! Handle slots: which one a new handle takes, and what becomes of a retired one (06 R163, R164). -/

namespace Sys2Proof.Machine

section
variable {s : State} {h : W32}

/-- While slots are left that were never used, the lowest of them is next (06 R163). -/
theorem Handles.nextSlot_of_unused {hs : Handles} (hfresh : hs.fresh < 16384) :
    hs.nextSlot = some (hs.fresh, { hs with fresh := hs.fresh + 1 }) := if_pos hfresh

/-- With every slot used, the one freed longest ago is next (06 R163). -/
theorem Handles.nextSlot_of_freed {hs : Handles} {slot : Nat} {rest : List Nat} (hfresh : 16384 ≤ hs.fresh)
    (hfreed : hs.freed = slot :: rest) : hs.nextSlot = some (slot, { hs with freed := rest }) := by
  rw [Handles.nextSlot, if_neg (by omega), hfreed]

/-- With every slot used and none freed, there is none. -/
theorem Handles.nextSlot_of_none_freed {hs : Handles} (hfresh : 16384 ≤ hs.fresh) (hfreed : hs.freed = []) : hs.nextSlot = none := by
  rw [Handles.nextSlot, if_neg (by omega), hfreed]

/-- A new handle names its object in the next slot, with the slot's generation. -/
theorem State.newHandle_of_nextSlot {slot : Nat} {hs : Handles} (hnext : s.handles.nextSlot = some (slot, hs)) (o : HObj) :
    s.newHandle o = some (mkHandle o.kind slot (hs.genOf slot), { s with handles := { hs with live := smPut hs.live slot o } }) := by
  simp [State.newHandle, hnext]

/-- With no slot free there is no new handle. -/
theorem State.newHandle_of_no_slot (hnext : s.handles.nextSlot = none) (o : HObj) : s.newHandle o = none := by
  simp [State.newHandle, hnext]

/-- A retired handle's slot advances its generation by one, wrapping (06 R163). -/
theorem State.genOf_retire_self (hgen : smSorted s.handles.gen = true) :
    (s.retire h).handles.genOf (hSlot h) =
      if s.handles.genOf (hSlot h) = 16383 then 1 else s.handles.genOf (hSlot h) + 1 := smGet_smPutD_self hgen ..

/-- Every other slot keeps its generation. -/
theorem State.genOf_retire_ne (hgen : smSorted s.handles.gen = true) {k : Nat} (hk : k ≠ hSlot h) :
    (s.retire h).handles.genOf k = s.handles.genOf k := smGet_smPutD_ne hgen 1 _ hk

/-- A handle whose generation is not its slot's names nothing (06 R163). -/
theorem State.hobj?_of_gen_ne (hne : hGen h ≠ s.handles.genOf (hSlot h)) : s.hobj? h = none := if_neg hne

end

/-- Settles O15: the generation that the handle carries is no longer that of its slot. -/
theorem retiredHandleIsStale : Obligations.RetiredHandleIsStale := by
  intro s h hgen hcurrent _
  refine ⟨State.hobj?_of_gen_ne ?_, State.genOf_retire_self hgen⟩
  rw [State.genOf_retire_self hgen, hcurrent]
  split <;> omega

/-- Settles O58: the slot is read off the lists of slots, and the generation off the table. -/
theorem handleAllocation : Obligations.HandleAllocation :=
  ⟨fun _ o hfresh => ⟨_, State.newHandle_of_nextSlot (Handles.nextSlot_of_unused hfresh) o, rfl, rfl, rfl⟩,
    fun _ o _ _ hfresh hfreed => ⟨_, State.newHandle_of_nextSlot (Handles.nextSlot_of_freed hfresh hfreed) o, rfl, rfl⟩,
    fun _ o hfresh hfreed => State.newHandle_of_no_slot (Handles.nextSlot_of_none_freed hfresh hfreed) o,
    fun _ _ hgen => ⟨rfl, State.genOf_retire_self hgen, fun _ hk => State.genOf_retire_ne hgen hk, rfl⟩, fun _ _ => rfl, rfl, rfl⟩

end Sys2Proof.Machine
end

section
/-! The issue of a head: when it happens, what holds it, and what it changes (06 R178 to R183, 07 R200, 10 R301). -/

namespace Sys2Proof.Machine

section
variable {s : State} {o x : Op}

/-- An incomplete operation fetched earlier on the tile that conflicts is a hazard (06 R178). -/
theorem State.hazard_of_conflict (hx : x ∈ s.ops) (hkind : x.kind = 1) (htile : x.tile = o.tile) (hearlier : x.id < o.id)
    (hincomplete : x.phase ≠ .held) (hconflict : (OpD.of x.desc).conflicts (OpD.of o.desc) = true) : s.hazard o = true :=
  List.any_eq_true.mpr ⟨x, hx, by simp [hkind, htile, hearlier, Op.incomplete, hincomplete, hconflict]⟩

/-- A head with a hazard cannot issue (06 R178). -/
theorem State.not_issuable_of_hazard (h : s.hazard o = true) : s.issuable o = false := by simp [State.issuable, h]

/-- A head that is not frozen, and not under `GUARD` while the verdict is `SKIP`, does not complete without running. -/
theorem State.headSkips_eq_false (hfrozen : (OpD.of o.desc).frozen = false)
    (hguard : (OpD.of o.desc).guard = true → s.verdictOn o.tile ≠ .skip) : s.headSkips o = false := by
  simpa [State.headSkips, hfrozen] using hguard

/-- The verdict that a tile sees is not `SKIP` while that of the context it is bound to is not. -/
theorem State.verdictOn_ne_skip {l : Nat} (h : ∀ y, (s.ctxOfTile l).bind s.ctx? = some y → y.verdict ≠ .skip) :
    s.verdictOn l ≠ .skip := by
  unfold State.verdictOn
  cases hy : (s.ctxOfTile l).bind s.ctx? with
  | none => simp
  | some y => exact h y hy

end

/-- Settles O36: the hazard holds the head. -/
theorem hazardHolds : Obligations.HazardHolds := by
  intro e he s l q o x hhead htile hstay hfrozen hguard hx hkind hxtile hearlier hincomplete hconflict
  have hskip : s.headSkips o = false :=
    State.headSkips_eq_false hfrozen fun hg => htile ▸ State.verdictOn_ne_skip (hguard hg)
  have hissue : s.issuable o = false :=
    State.not_issuable_of_hazard (State.hazard_of_conflict hx hkind (hxtile.trans htile.symm) hearlier hincomplete hconflict)
  rw [exec_tileOpcode he, State.runHead_of_not_goesOn e.2.2 hstay, State.tryHead_stays hhead hskip hissue]

/-- Settles O31: nothing holds the head, and it is chosen. -/
theorem tileOperationsIssue : Obligations.TileOperationsIssue := by
  intro e he s l q o c hhead hc hstay htile hopcode hwaits hfrozen hguard hhazard hbusy hhop hpark hmove hdie hchosen
  rw [← htile] at hguard hhop
  have hskip : s.headSkips o = false := State.headSkips_eq_false hfrozen fun hg => by simp [hguard hg]
  have hverdict : ((OpD.of o.desc).guard && s.verdictOn o.tile == .pending) = false := by
    rw [Bool.and_eq_false_imp]
    intro hg
    rw [hguard hg]
    rfl
  have hvector : (engineOf o.opcode == 1 && s.hopPending o.tile) = false := by
    rw [Bool.and_eq_false_imp, beq_iff_eq, show o.opcode = e.2.1 from hopcode]
    exact hhop
  have hissue : s.issuable o = true := by simp [State.issuable, hwaits, hskip, hverdict, hhazard, hbusy, hvector]
  have hopen : s.tileOpen l.val = true := by simp [State.tileOpen, hpark, hmove, hdie]
  rw [exec_tileOpcode he, State.runHead_of_not_goesOn e.2.2 hstay,
    State.tryHead_issues hhead hopcode hc hwaits hskip hissue hopen hchosen]

/-! ### What is left alone -/

/-- A state that differs from `s` in what is noted of operations only: tile `p` keeps its scratchpad, its accumulator memory
and its utility core, every other tile stays as it is, and so do tier memory, the handles, the dies and the binding. -/
structure State.NotesAt (s : State) (p : Nat) (t : State) : Prop where
  sorted : smSorted t.tiles = true
  sp : (t.tileP p).sp = (s.tileP p).sp
  acc : (t.tileP p).acc = (s.tileP p).acc
  uc : (t.tileP p).uc = (s.tileP p).uc
  others : ∀ k, k ≠ p → t.tileP k = s.tileP k
  tier : t.tier = s.tier
  handles : t.handles = s.handles
  dies : t.dies = s.dies
  binding : t.binding = s.binding
  count : t.ops.length = s.ops.length

/-- A tile's number in the binding. -/
theorem State.phys_of_binding {s t : State} (h : t.binding = s.binding) (l : Nat) : t.phys l = s.phys l := by
  have hb : ∀ u : State, u.phys l = (if u.binding.activeBank then u.binding.bank1 else u.binding.bank0).getD l 0 := fun _ => rfl
  rw [hb, hb, h]

/-- A change of one tile leaves every other alone. -/
theorem State.tileP_modTileP_ne {s : State} (hsorted : smSorted s.tiles = true) {p k : Nat} (h : k ≠ p) (f : Tile → Tile) :
    (s.modTileP p f).tileP k = s.tileP k := smGet_smPutD_ne hsorted _ _ h

@[simp] theorem State.event_ops (s : State) (code objKind obj : Nat) (ctx : Option Nat) (data : BitVec 3328) :
    (s.event code objKind obj ctx data).ops = s.ops := by
  obtain ⟨pk, se, o, h⟩ := s.event_frame code objKind obj ctx data
  rw [h]

namespace State.NotesAt

variable {s t : State} {p : Nat}

theorem refl (hsorted : smSorted s.tiles = true) (p : Nat) : s.NotesAt p s :=
  ⟨hsorted, rfl, rfl, rfl, fun _ _ => rfl, rfl, rfl, rfl, rfl, rfl⟩

theorem tileL (h : s.NotesAt p t) {l : Nat} (hp : s.phys l = p) : t.tileL l = t.tileP p := by
  rw [State.tileL, State.phys_of_binding h.binding, hp]

/-- A change of the tile that keeps its memories. -/
theorem modTileP (h : s.NotesAt p t) {f : Tile → Tile} (hsp : (f (t.tileP p)).sp = (t.tileP p).sp)
    (hacc : (f (t.tileP p)).acc = (t.tileP p).acc) (huc : (f (t.tileP p)).uc = (t.tileP p).uc) : s.NotesAt p (t.modTileP p f) := by
  have hself := State.tileP_modTileP_self h.sorted p f
  exact {
    sorted := smSorted_smPutD h.sorted _ _ _
    sp := by rw [hself, hsp, h.sp]
    acc := by rw [hself, hacc, h.acc]
    uc := by rw [hself, huc, h.uc]
    others := fun k hk => (State.tileP_modTileP_ne h.sorted hk f).trans (h.others k hk)
    tier := h.tier
    handles := h.handles
    dies := h.dies
    binding := h.binding
    count := h.count }

theorem event (h : s.NotesAt p t) (code objKind obj : Nat) (ctx : Option Nat) (data : BitVec 3328) :
    s.NotesAt p (t.event code objKind obj ctx data) := by
  have hb := State.binding_event (s := t) code objKind obj ctx data
  obtain ⟨pk, se, o, he⟩ := t.event_frame code objKind obj ctx data
  rw [he] at hb ⊢
  exact ⟨h.sorted, h.sp, h.acc, h.uc, h.others, h.tier, h.handles, h.dies, hb.trans h.binding, h.count⟩

theorem accFlag (h : s.NotesAt p t) (i n : Nat) : s.NotesAt p (t.accFlag p i n) := by
  unfold State.accFlag
  split
  · exact h
  · extract_lets x t1
    have h1 : s.NotesAt p t1 := h.modTileP rfl rfl rfl
    split
    · exact h1.event ..
    · exact h1

theorem vecFlag (h : s.NotesAt p t) (i n : Nat) : s.NotesAt p (t.vecFlag p i n) := by
  unfold State.vecFlag
  split
  · exact h
  · extract_lets x t1
    have h1 : s.NotesAt p t1 := h.modTileP rfl rfl rfl
    split
    · exact h1.event ..
    · exact h1

theorem modCtx (h : s.NotesAt p t) (c : Nat) (f : Ctx → Ctx) : s.NotesAt p (t.modCtx c f) :=
  ⟨h.sorted, h.sp, h.acc, h.uc, h.others, h.tier, h.handles, h.dies, h.binding, h.count⟩

/-- A change of the operations that keeps their number. -/
theorem mapOps (h : s.NotesAt p t) (f : Op → Op) : s.NotesAt p { t with ops := t.ops.map f } :=
  ⟨h.sorted, h.sp, h.acc, h.uc, h.others, h.tier, h.handles, h.dies, h.binding, (List.length_map f).trans h.count⟩

theorem modOp (h : s.NotesAt p t) (id : Nat) (f : Op → Op) : s.NotesAt p (t.modOp id f) := h.mapOps _

theorem use (h : s.NotesAt p t) (k : Nat) : s.NotesAt p (t.use k) :=
  ⟨h.sorted, h.sp, h.acc, h.uc, h.others, h.tier, h.handles, h.dies, h.binding, h.count⟩

theorem opEvents (h : s.NotesAt p t) (o : Op) (e : Ev) : s.NotesAt p (t.opEvents o p e) := by
  have hflags := (((h.accFlag 0 e.sat).accFlag 1 e.nf).vecFlag 0 e.inv).vecFlag 1 e.dz
  unfold State.opEvents State.stepHealth
  refine modOp ?_ ..
  split
  · split
    · exact hflags
    · exact hflags.modCtx ..
  · exact hflags

theorem touchQueue (h : s.NotesAt p t) {o : Op} (hp : s.phys o.tile = p) : s.NotesAt p (t.touchQueue o) := by
  unfold State.touchQueue State.modTileL
  rw [State.phys_of_binding h.binding, hp]
  split
  · exact h.modTileP rfl rfl rfl
  · exact h

/-- An operation that leaves the head of a queue is noted at its tile only (06 R193). -/
theorem leave (h : s.NotesAt p t) {o : Op} (hp : s.phys o.tile = p) (f : Op → Op) : s.NotesAt p (t.leave o f) :=
  ((h.modOp o.id f).touchQueue hp).mapOps _

end State.NotesAt

/-- Settles O33: the head completes as it leaves its queue, and no engine runs. -/
theorem frozenAndSkipped : Obligations.FrozenAndSkipped := by
  intro e he s l q o c y hsorted hhead hop htile hc hy hstay hopcode hwaits hwhy
  have hskip : s.headSkips o = true := by
    simpa [State.headSkips, htile, State.verdictOn_of_ctx hc hy] using hwhy
  have hnotes := (State.NotesAt.refl hsorted _).leave (o := o) rfl
    (fun x => { x with phase := .finished, frozen := (OpD.of o.desc).frozen, skipped := !(OpD.of o.desc).frozen })
  have htileL := hnotes.tileL rfl
  rw [htile] at hnotes htileL
  rw [exec_tileOpcode he, State.runHead_of_not_goesOn e.2.2 hstay, State.tryHead_skips hhead hopcode hc hwaits hskip]
  refine ⟨_, _, rfl, State.op?_skipHead hop _, rfl, rfl, rfl, ?_, ?_, hnotes.tier⟩
  · rw [State.skipHead, htileL, hnotes.sp]
    rfl
  · rw [State.skipHead, htileL, hnotes.acc]
    rfl

/-! ### What an issue changes -/

section
variable {s : State} {o x : Op}

/-- Flag events of one bit are not among the operations. -/
@[simp] theorem State.accFlag_ops (p i n : Nat) : (s.accFlag p i n).ops = s.ops := by
  unfold State.accFlag
  split
  · rfl
  · extract_lets t s1
    split
    · exact s1.event_ops ..
    · rfl

@[simp] theorem State.vecFlag_ops (p i n : Nat) : (s.vecFlag p i n).ops = s.ops := by
  unfold State.vecFlag
  split
  · rfl
  · extract_lets t s1
    split
    · exact s1.event_ops ..
    · rfl

@[simp] theorem State.stepHealth_ops (c n : Nat) : (s.stepHealth c n).ops = s.ops := by
  unfold State.stepHealth
  split <;> rfl

/-- What the flag events of a run add to the operation (06 R175). -/
def Op.counting (x : Op) (e : Ev) : Op :=
  { x with
    satEv := sat32 (x.satEv + e.sat)
    nfEv := sat32 (x.nfEv + e.nf)
    inv := x.inv || decide (e.inv ≠ 0)
    dz := x.dz || decide (e.dz ≠ 0) }

/-- The operation is found with its flag events added. -/
theorem State.op?_opEvents (hop : s.op? o.id = some x) (p : Nat) (e : Ev) : (s.opEvents o p e).op? o.id = some (x.counting e) := by
  unfold State.opEvents
  refine State.op?_modOp ?_ fun _ => rfl
  split <;> simpa [State.op?] using hop

/-- Leaving the head of a queue touches the tiles and the operations only. -/
theorem State.leave_frame (s : State) (o : Op) (f : Op → Op) : ∃ ti ops, s.leave o f = { s with tiles := ti, ops := ops } := by
  unfold State.leave State.touchQueue
  split
  · exact ⟨_, _, rfl⟩
  · exact ⟨_, _, rfl⟩

/-- What the issue notes in an operation: its instant, and what it reads of its context (06 R180; 07 R217). -/
def State.issued (s : State) (o x : Op) : Op :=
  { x with
    phase := OpPhase.issued
    ableAt := none
    issueAt := s.now
    stepAt := ((s.ctx? o.ctx).map (·.stepCount)).getD 0
    expAt := (smGet 0 (s.tileL o.tile).privExp (OpD.of o.desc).privIdx).toInt }

/-- A head that receives nothing from the millrace runs as it issues (06 R180; 04 R121). -/
theorem State.issueHead_runs (h : (OpD.of o.desc).opcode ≤ 2 → (OpD.of o.desc).accInit ≠ 2) (run : OpD → IssueCtx → Nat → Tile → RunRes) :
    s.issueHead o run = (s.leave o (s.issued o)).runOp (s.issued o o) run := by
  unfold State.issueHead
  exact if_neg fun ⟨h1, h2⟩ => h h1 h2

/-- What a run leaves of its operation (06 R180; 04 R114, R123). -/
def Op.ran (x o : Op) (r : RunRes) : Op :=
  let rows := (if r.cause ≠ .none ∧ (OpD.of o.desc).accOut = 2 ∧ !o.granted then [] else o.rowsDue) ++ r.rows
  { x with
    cause := r.cause
    rowsDue := rows
    rowIssues := r.issued
    phase := if r.waits then .issued else if rows.isEmpty ∧ x.rowsSent.isEmpty then .finished else .running }

/-- The result of a run is written to the tile, its flag events are counted, and the operation holds what the run leaves of it. -/
theorem State.runOp_eq (run : OpD → IssueCtx → Nat → Tile → RunRes) {r : RunRes}
    (hr : r = run (OpD.of o.desc) (s.issueCtx o) s.draw (s.tileP (s.phys o.tile))) :
    s.runOp o run = ((((s.modTileP (s.phys o.tile) fun _ => r.tile).use r.drawn).opEvents o (s.phys o.tile) r.ev).modOp o.id
      fun x => x.ran o r) := by
  subst hr
  rfl

/-- A run leaves every tile but its own, tier memory, the handles, the dies and the binding as they are. -/
theorem State.notesAt_runOp (run : OpD → IssueCtx → Nat → Tile → RunRes) (hsorted : smSorted s.tiles = true) {r : RunRes}
    (hr : r = run (OpD.of o.desc) (s.issueCtx o) s.draw (s.tileP (s.phys o.tile))) :
    (s.modTileP (s.phys o.tile) fun _ => r.tile).NotesAt (s.phys o.tile) (s.runOp o run) := by
  have hrefl := State.NotesAt.refl (s := s.modTileP (s.phys o.tile) fun _ => r.tile) (smSorted_smPutD hsorted ..) (s.phys o.tile)
  rw [State.runOp_eq run hr]
  exact ((hrefl.use _).opEvents ..).modOp ..

/-- The operation of a run is found with its flag events and with what the run leaves of it. -/
theorem State.op?_runOp (run : OpD → IssueCtx → Nat → Tile → RunRes) (hop : s.op? o.id = some x) {r : RunRes}
    (hr : r = run (OpD.of o.desc) (s.issueCtx o) s.draw (s.tileP (s.phys o.tile))) :
    (s.runOp o run).op? o.id = some ((x.counting r.ev).ran o r) := by
  have hcounted := State.op?_opEvents (s := (s.modTileP (s.phys o.tile) fun _ => r.tile).use r.drawn) hop (s.phys o.tile) r.ev
  rw [State.runOp_eq run hr, State.op?_modOp (f := fun x => x.ran o r) hcounted fun _ => rfl]

/-- What an operation of which the head leaves its queue reads of its context as it runs (07 R217). -/
theorem State.issueCtx_issued (f : Op → Op) : (s.leave o f).issueCtx (s.issued o o) =
    ⟨((s.ctx? o.ctx).map (·.seed)).getD 0, ((s.ctx? o.ctx).map (·.stepCount)).getD 0, o.ctx,
      (smGet 0 (s.tileL o.tile).privExp (OpD.of o.desc).privIdx).toInt, o.rowIssues, o.landed, o.granted⟩ := by
  obtain ⟨ti, ops, h⟩ := s.leave_frame o f
  rw [h]
  rfl

/-- No free value is used as an operation leaves its queue. -/
theorem State.leave_draw (f : Op → Op) : (s.leave o f).draw = s.draw := by
  obtain ⟨ti, ops, h⟩ := s.leave_frame o f
  rw [h]

end

/-- Settles O32: the operation leaves its queue, the engine's result stands on its tile, and its flag events are counted. -/
theorem issueEffect : Obligations.IssueEffect := by
  intro s t o run hsorted hop hkind ht hmill
  have hleft := (State.NotesAt.refl hsorted (s.phys o.tile)).leave rfl (s.issued o)
  have hopen := State.op?_leave (f := s.issued o) hop (fun _ => rfl) rfl
  have hphys : (s.leave o (s.issued o)).phys (s.issued o o).tile = s.phys o.tile := State.phys_of_binding hleft.binding _
  obtain ⟨r, hr⟩ : ∃ r, r = run (OpD.of (s.issued o o).desc) ((s.leave o (s.issued o)).issueCtx (s.issued o o)) (s.leave o (s.issued o)).draw
    ((s.leave o (s.issued o)).tileP ((s.leave o (s.issued o)).phys (s.issued o o).tile)) := ⟨_, rfl⟩
  have hran := State.notesAt_runOp run hleft.sorted hr
  have hfound := State.op?_runOp (o := s.issued o o) run hopen hr
  rw [← State.issueHead_runs hmill, ht] at hran hfound
  rw [hphys] at hr hran
  rw [State.issueCtx_issued, State.leave_draw] at hr
  have hwrote := State.tileP_modTileP_self hleft.sorted (s.phys o.tile) fun _ => r.tile
  have htile : t.tileL o.tile = t.tileP (s.phys o.tile) := by
    rw [State.tileL, State.phys_of_binding (hran.binding.trans hleft.binding)]
  refine ⟨⟨_, (s.leave o (s.issued o)).tileP (s.phys o.tile), r, hfound, rfl, rfl, rfl, hleft.sp, hleft.acc, hleft.uc, hr, rfl, rfl, ?_, ?_,
    ?_, ?_⟩, fun k hk => ?_, hran.tier.trans hleft.tier, hran.handles.trans hleft.handles, hran.dies.trans hleft.dies,
    hran.count.trans hleft.count⟩
  · simp [Op.ran, Op.counting, State.issued]
  · rfl
  · rw [htile, hran.sp, hwrote]
  · rw [htile, hran.acc, hwrote]
  · rw [hran.others k hk, State.tileP_modTileP_ne hleft.sorted hk, hleft.others k hk]

end Sys2Proof.Machine
end

section
/-! Parking and waking of tiles, command by command (06 R193 to R196; 15 R429, R430). -/

namespace Sys2Proof.Machine

section
variable {s : State} {l : Fin 480} {q : Fin 8}

/-- The last queue that parks clock-gates its tile (06 R193). -/
theorem exec_queuePark_last (hhead : s.headAble l.val q.val = false) (hruns : s.queueRuns l.val q.val = false)
    (hthresh : (s.tileL l.val).qcfg.getD q.val 250 ≠ 0xFFFFFF) (hdie : s.dieRuns (s.phys l.val) = true)
    (hquiet : s.tileQuiet l.val = true) (hpark : (s.tileL l.val).park = .running)
    (hlast : (s.tileL l.val).parked ||| (1#8 <<< q.val) = 0xFF) :
    exec (.queuePark l q) s = .next (s.modTileL l.val (fun t => { t with parked := 0xFF, park := .gated, parkedAt := s.now })) := by
  show execQueuePark l q s = _
  unfold execQueuePark
  dsimp only
  rw [if_neg (by simp [hhead, hruns, hdie, -List.getD_eq_getElem?_getD, hthresh]), if_pos ⟨hlast, hpark, hquiet⟩, hlast]

/-- A clock-gated tile with an `OFF_DELAY` powers its engines off (06 R193). -/
theorem exec_tilePowerOff_gated (hpark : (s.tileL l.val).park = .gated) (hdelay : (s.tileL l.val).offDelay ≠ 0xFFFFFF) :
    exec (.tilePowerOff l) s = .next (s.modTileL l.val (fun t => { t with park := .off })) := if_pos ⟨hpark, hdelay⟩

/-- A tile of which a head can issue has such a queue. -/
theorem State.any_headAble (hhead : s.headAble l.val q.val = true) : (List.range 8).any (s.headAble l.val) = true :=
  List.any_eq_true.mpr ⟨q.val, List.mem_range.mpr q.isLt, hhead⟩

/-- From clock-gated it wakes and notes the instant (06 R196). -/
theorem exec_tileWake_gated (hpark : (s.tileL l.val).park = .gated) (hhead : s.headAble l.val q.val = true) :
    exec (.tileWake l) s = .next (s.modTileL l.val (fun t => { t with park := .waking, wakeAt := some s.now })) := by
  show execTileWake l s = _
  rw [execTileWake, if_neg (by simp [State.any_headAble hhead]), hpark]

/-- From powered off it waits for wake admission (06 R196). -/
theorem exec_tileWake_off (hpark : (s.tileL l.val).park = .off) (hhead : s.headAble l.val q.val = true) :
    exec (.tileWake l) s = .next (s.modTileL l.val (fun t => { t with park := .waking })) := by
  show execTileWake l s = _
  rw [execTileWake, if_neg (by simp [State.any_headAble hhead]), hpark]

/-- A waking tile asks for a token of its die (15 R429). -/
theorem exec_wakeTokenRequest_die (hpark : (s.tileL l.val).park = .waking) (hat : (s.tileL l.val).wakeAt = none)
    (htoken : (s.die (s.phys l.val / 8)).tokens.contains (s.phys l.val) = false)
    (hwait : (s.die (s.phys l.val / 8)).tokenWait.contains (s.phys l.val) = false) :
    exec (.wakeTokenRequest l) s =
      .next (s.modDie (s.phys l.val / 8) (fun d => { d with tokenWait := d.tokenWait ++ [s.phys l.val] })) := by
  show execWakeTokenRequest l s = _
  rw [State.tileL] at hpark hat
  simp only [execWakeTokenRequest, hpark, hat, htoken, hwait]
  rfl

/-- The pool of a die grants a token to the earliest request (15 R429). -/
theorem exec_wakeTokenGrant_die {d : Fin 64} {p : Nat} {ps : List Nat} (hwait : (s.die d.val).tokenWait = p :: ps)
    (hroom : (s.die d.val).tokens.length < 2) :
    exec (.wakeTokenGrant (some d)) s = .next (s.modDie d.val (fun x => { x with tokens := x.tokens ++ [p], tokenWait := ps })) := by
  show execWakeTokenGrant (some d) s = _
  simp only [execWakeTokenGrant, hwait]
  rw [if_pos hroom]

/-- So does the pool of the panel. -/
theorem exec_wakeTokenGrant_panel {p : Nat} {ps : List Nat} (hwait : s.power.panelWait = p :: ps) (hroom : s.power.panel.length < 16) :
    exec (.wakeTokenGrant none) s =
      .next { s with power := { s.power with panel := s.power.panel ++ [p], panelWait := ps } } := by
  show execWakeTokenGrant none s = _
  simp only [execWakeTokenGrant, hwait]
  rw [if_pos hroom]

/-- The state in which a tile has powered up and returned both tokens (15 R430). -/
def State.poweredUp (s : State) (l : Nat) : State :=
  { (s.unpark l).modDie (s.phys l / 8) (fun d => { d with tokens := d.tokens.filter (· != s.phys l) }) with
    power := { s.power with panel := s.power.panel.filter (· != s.phys l) } }

/-- A waking tile that holds both tokens powers up (15 R430). -/
theorem exec_tilePowerUp_admitted (hpark : (s.tileL l.val).park = .waking) (hdie : s.dieRuns (s.phys l.val) = true)
    (htoken : (s.die (s.phys l.val / 8)).tokens.contains (s.phys l.val) = true)
    (hpanel : s.power.panel.contains (s.phys l.val) = true) : exec (.tilePowerUp l) s = .next (s.poweredUp l.val) :=
  if_pos ⟨hpark, hdie, htoken, hpanel⟩

/-- It runs. -/
theorem State.park_poweredUp (hsorted : smSorted s.tiles = true) (k : Nat) : ((s.poweredUp k).tileL k).park = .running := by
  have hunpark : (s.unpark k).tileP (s.phys k) = _ := State.tileP_modTileP_self hsorted (s.phys k) _
  exact congrArg Tile.park hunpark

/-- A number taken out of a list is not in it. -/
theorem contains_filter_ne (ps : List Nat) (p : Nat) : (ps.filter (· != p)).contains p = false := by simp

/-- A die that holds a token is one of the module. -/
theorem State.lt_length_dies_of_token {d p : Nat} (h : (s.die d).tokens.contains p = true) : d < s.dies.length := by
  by_contra hlt
  rw [State.die, List.getD_eq_default _ _ (by omega)] at h
  exact Bool.false_ne_true h

end

/-- Settles O30, command by command; of a tile that has powered up, its state and both token pools. -/
theorem parkCommandsComplete : Obligations.ParkCommandsComplete := by
  refine ⟨fun _ _ _ => exec_queuePark_last, fun _ _ => exec_tilePowerOff_gated, fun _ _ _ => exec_tileWake_gated,
    fun _ _ _ => exec_tileWake_off, fun _ _ => exec_wakeTokenRequest_die, fun _ _ _ _ => exec_wakeTokenGrant_die,
    fun _ _ _ => exec_wakeTokenGrant_panel, fun s l hsorted hpark hdie htoken hpanel =>
      ⟨s.poweredUp l.val, exec_tilePowerUp_admitted hpark hdie htoken hpanel, State.park_poweredUp hsorted _, ?_, contains_filter_ne ..⟩⟩
  have hreturned := State.die_modDie_self (State.lt_length_dies_of_token htoken)
    fun d => { d with tokens := d.tokens.filter (· != s.phys l.val) }
  exact (congrArg (fun d => d.tokens.contains (s.phys l.val)) hreturned).trans (contains_filter_ne ..)

end Sys2Proof.Machine
end

section
/-! Objects under their handles, and the write-watches of channels: what a change of an object leaves of it, and what a write of
memory fires (06 R163, R169). -/

namespace Sys2Proof.Machine

/-! ### Objects and channels -/

section
variable {s t : State} {h : W32} {o : HObj} {c : Chan}

/-- What a handle names. -/
theorem State.hobj?_eq_some : s.hobj? h = some o ↔
    hGen h = s.handles.genOf (hSlot h) ∧ smGet? s.handles.live (hSlot h) = some o ∧ o.kind = hKind h := by
  unfold State.hobj?
  by_cases hgen : hGen h = s.handles.genOf (hSlot h)
  · cases hlive : smGet? s.handles.live (hSlot h) with
    | none => simp
    | some x =>
      by_cases hkind : x.kind = hKind h
      · simp only [hgen, hkind, if_true, Option.some.injEq, true_and]
        exact ⟨fun hx => ⟨hx, hx ▸ hkind⟩, And.left⟩
      · simp only [hgen, hkind, if_true, if_false, Option.some.injEq, true_and, reduceCtorEq, false_iff]
        exact fun ⟨hx, hk⟩ => hkind (hx ▸ hk)
  · simp [hgen]

/-- The channel that a handle names. -/
theorem State.chan?_eq_some : s.chan? h = some c ↔ s.hobj? h = some (.chan c) := by
  unfold State.chan?
  split
  · next c' hc => simp [hc]
  · next hne => simpa using hne c

/-- What a handle names depends on the handles alone. -/
theorem State.hobj?_congr (hha : t.handles = s.handles) (h : W32) : t.hobj? h = s.hobj? h := by rw [State.hobj?, State.hobj?, hha]

theorem State.chan?_congr (hha : t.handles = s.handles) (h : W32) : t.chan? h = s.chan? h := by
  rw [State.chan?, State.chan?, State.hobj?_congr hha]

/-- An object after a change that keeps its kind. -/
theorem State.hobj?_modObj_self (ho : s.hobj? h = some o) {f : HObj → HObj} (hkind : (f o).kind = o.kind) :
    (s.modObj h f).hobj? h = some (f o) := by
  obtain ⟨hgen, hlive, hk⟩ := State.hobj?_eq_some.mp ho
  have hnew : smGet? (s.modObj h f).handles.live (hSlot h) = some (f o) := by
    rw [State.modObj, smGet?_smMod_self, hlive, Option.map_some]
  exact State.hobj?_eq_some.mpr ⟨hgen, hnew, hkind.trans hk⟩

/-- A channel after a change that keeps its kind. -/
theorem State.chan?_modChan_self (hc : s.chan? h = some c) {f : Chan → Chan} (hkind : (f c).kind = c.kind) :
    (s.modChan h f).chan? h = some (f c) :=
  State.chan?_eq_some.mpr (State.hobj?_modObj_self (f := fun o => match o with | .chan c => .chan (f c) | o => o)
    (State.chan?_eq_some.mp hc) hkind)

/-- A control block is written to tier memory (06 R167). -/
theorem State.writeCtl_frame (s : State) (h : W32) : ∃ ti tp, s.writeCtl h = { s with tier := ti, tierPoison := tp } := by
  unfold State.writeCtl
  split
  · exact ⟨_, _, rfl⟩
  · exact ⟨_, _, rfl⟩

@[simp] theorem State.writeCtl_handles (s : State) (h : W32) : (s.writeCtl h).handles = s.handles := by
  obtain ⟨ti, tp, hw⟩ := s.writeCtl_frame h
  rw [hw]

/-- A channel after a change that is written to its control block. -/
theorem State.chan?_setChan_self (hc : s.chan? h = some c) {f : Chan → Chan} (hkind : (f c).kind = c.kind) :
    (s.setChan h f).chan? h = some (f c) :=
  (State.chan?_congr (State.writeCtl_handles ..) h).trans (State.chan?_modChan_self hc hkind)

end

/-! ### Write-watches -/

section
variable {s : State} {h : W32} {c : Chan}

/-- A read of a table of which each entry has changed. -/
theorem smGet?_map_entry {α : Type} (m : SMap α) (g : Nat → α → α) (n : Nat) :
    smGet? (m.map (fun e => (e.1, g e.1 e.2))) n = (smGet? m n).map (g n) := by
  induction m with
  | nil => rfl
  | cons e m ih =>
    simp only [List.map_cons, smGet?, ih]
    by_cases heq : e.1 = n
    · simp [heq]
    · by_cases hlt : n < e.1 <;> simp [heq, hlt]

/-- The write-watch of a channel is armed: the channel is `RUNNING` or holds completed operations (06 R169). -/
def State.watchArmed (s : State) (h : W32) (c : Chan) : Bool := c.st == .running || s.ops.any (fun o => o.ch == h && o.phase == .held)

/-- An object after a write of the `k` bytes from `b`, at which the watch of a channel may fire. -/
def State.watched (s : State) (b k slot : Nat) (o : HObj) : HObj :=
  match o with
  | .chan c =>
    let a := s.xaddr c.ctx c.ctrl
    if s.watchArmed (s.handleAt slot o) c && decide (b < a + 64) && decide (a < b + k) then .chan { c with fired := true } else o
  | o => o

/-- The objects after a write, slot by slot. -/
theorem State.live_fireWatches (s : State) (b k : Nat) :
    (s.fireWatches b k).handles.live = s.handles.live.map (fun e => (e.1, s.watched b k e.1 e.2)) := by
  refine List.map_congr_left fun e _ => ?_
  obtain ⟨slot, o⟩ := e
  cases o with
  | chan c => exact (apply_ite (Prod.mk slot) ..).symm
  | window | sync | sub | grant => rfl

/-- A write to the first line of the control block of a `RUNNING` channel fires its write-watch (06 R169). -/
theorem State.chan?_fireWatches_running (hc : s.chan? h = some c) (hrun : c.st = .running) {b k : Nat} (hlo : b < s.xaddr c.ctx c.ctrl + 64)
    (hhi : s.xaddr c.ctx c.ctrl < b + k) : (s.fireWatches b k).chan? h = some { c with fired := true } := by
  obtain ⟨hgen, hlive, hkind⟩ := State.hobj?_eq_some.mp (State.chan?_eq_some.mp hc)
  refine State.chan?_eq_some.mpr (State.hobj?_eq_some.mpr ⟨hgen, ?_, hkind⟩)
  rw [State.live_fireWatches, smGet?_map_entry, hlive, Option.map_some]
  simp [State.watched, State.watchArmed, hrun, hlo, hhi]

/-- A context without a bank table writes to the one range that it names. -/
theorem State.store_of_no_bank {x : Nat} (hbank : ∀ y, s.ctx? x = some y → y.bank = []) (a : Nat) (bs : List Byte) :
    s.store x a bs = (s.tierWrite x a bs).fireWatches a bs.length := by
  simp [State.store, State.spans_of_no_bank hbank]

end

/-! ### Writes of `PRODUCER` and `CPL_CONSUMER` -/

section
variable {s : State} {h v : W32} {c : Chan}

/-- `PRODUCER` is written into the control block (06 R168). -/
theorem exec_producerWrite_open (hc : s.chan? h = some c) (hopen : s.accessHeld c.ctx c.ctrl 4 = false) :
    exec (.producerWrite h v) s = .next (s.store c.ctx c.ctrl (toBytes 4 v.toNat)) := by
  show execProducerWrite h v s = _
  simp only [execProducerWrite, hc, hopen, Bool.false_eq_true, if_false]

/-- So is `CPL_CONSUMER`, and no record is released of a channel that holds none (06 R174). -/
theorem exec_cplConsumerWrite_none_held (hc : s.chan? h = some c) (hopen : s.accessHeld c.ctx c.ctrl 8 = false)
    (hnone : s.ops.any (fun o => o.ch == h && o.phase == .held) = false) :
    exec (.cplConsumerWrite h v) s = .next (s.store c.ctx (c.ctrl + 4) (toBytes 4 v.toNat)) := by
  show execCplConsumerWrite h v s = _
  simp only [execCplConsumerWrite, hc, hopen, hnone, Bool.false_eq_true, and_false, if_false]
  split <;> rfl

/-- The bytes of a number give it back, as far as they hold it (00 R12). -/
theorem ofBytes_toBytes (k n : Nat) : ofBytes (toBytes k n) = n % 256 ^ k := by
  induction k generalizing n with
  | zero => simp [toBytes, ofBytes, Nat.mod_one]
  | succ k ih =>
    have hnext (i : Nat) : byteOf n (i + 1) = byteOf (n / 256) i := by
      rw [byteOf, byteOf, Nat.mul_succ, Nat.add_comm, Nat.shiftRight_add, Nat.shiftRight_eq_div_pow n 8]
    have htail : toBytes (k + 1) n = byteOf n 0 :: toBytes k (n / 256) := by
      simp [toBytes, List.range_succ_eq_map, hnext]
    have hlow : (byteOf n 0).toNat = n % 256 := by simp [byteOf]
    rw [htail, ofBytes, ih, hlow, Nat.pow_succ', Nat.mod_mul]

theorem ofBytes_toBytes_toNat (v : W32) : ofBytes (toBytes 4 v.toNat) = v.toNat := by
  rw [ofBytes_toBytes, Nat.mod_eq_of_lt (by exact v.isLt)]

end

/-- Settles O27: the context reaches its control block where it names it, and the write meets the channel's own watch. -/
theorem producerFires : Obligations.ProducerFires := by
  intro s t h v c hmem hc hrun hopen hbank ht
  rw [exec_producerWrite_open hc hopen, State.store_of_no_bank hbank] at ht
  obtain rfl := Host.Outcome.next.inj ht
  have hlen : (toBytes 4 v.toNat).length = 4 := by simp [toBytes]
  have haddr : s.xaddr c.ctx c.ctrl = c.ctrl := State.xaddr_of_no_bank hbank _
  have htier := State.tierWrite_tier_of_no_bank hbank c.ctrl (toBytes 4 v.toNat)
  refine ⟨?_, fun a ha => ?_, ?_, rfl, rfl⟩
  · show memReadN (s.tierWrite ..).tier c.ctrl 4 = _
    have hread := memReadN_memWrite_self hmem c.ctrl (toBytes 4 v.toNat)
    rw [hlen, ofBytes_toBytes_toNat] at hread
    rw [htier, hread]
  · show memGet (s.tierWrite ..).tier a = _
    rw [htier, memGet_memWrite_out hmem _ _ (by rwa [hlen])]
  · refine State.chan?_fireWatches_running (s := s.tierWrite c.ctx c.ctrl (toBytes 4 v.toNat)) hc hrun ?_ ?_
    · show c.ctrl < s.xaddr c.ctx c.ctrl + 64
      omega
    · show s.xaddr c.ctx c.ctrl < c.ctrl + _
      omega

end Sys2Proof.Machine
end

section
/-! The fetch of a descriptor, and the completion of an operation (06 R168 to R176). -/

namespace Sys2Proof.Machine

/-! ### The millrace sides of a descriptor -/

section
variable {s : State} {c l : Nat} {d : OpD}

/-- A millrace side of a matrix operation of a context is one that it may use (04 R120, 11 R327). -/
def State.mrSideOk (s : State) (c : Nat) (d : OpD) (half : W64) : Bool :=
  mrValid half && mrCtx half == c && mrFmt half == b2n d.accInt
    && (!mrRemote half || s.inBox (xyzOn (mrXyz half) 0) (xyzOn (mrXyz half) 1) (xyzOn (mrXyz half) 2))

/-- The millrace sides that a matrix operation uses are its tile's. -/
theorem State.mrOk_eq : s.mrOk c l d = (decide (2 < d.opcode) ||
    ((d.accInit != 2 || s.mrSideOk c d (smGet 0 (s.tileL l).mrIn d.link))
      && (d.accOut != 2 || s.mrSideOk c d (smGet 0 (s.tileL l).mrOut d.link)))) := rfl

/-- A side that is not in the table is not valid. -/
theorem State.mrSideOk_zero (s : State) (c : Nat) (d : OpD) : s.mrSideOk c d 0 = false := by
  simp [State.mrSideOk, mrValid, bitN]

/-- A tile that holds something reads as it was written. -/
theorem State.tileP_modTileP_of_ne {p : Nat} {f : Tile → Tile} (h : f (s.tileP p) ≠ {}) : (s.modTileP p f).tileP p = f (s.tileP p) := by
  rw [State.tileP, State.modTileP_tiles, smPutD, if_neg h, smGet, smGet?_smPut_self, Option.getD_some]

/-- Noting the channel that a tile fetches from leaves valid what was valid: an operation without millrace sides needs none of the
tile, and a tile with millrace links keeps them. -/
theorem State.mrOk_fetchAt (h : s.mrOk c l d = true) (n : Nat) :
    (s.modTileL l (fun t => { t with fetchAt := n })).mrOk c l d = true := by
  by_cases hempty : { s.tileL l with fetchAt := n } = ({} : Tile)
  · have hin : (s.tileL l).mrIn = [] := congrArg Tile.mrIn hempty
    have hout : (s.tileL l).mrOut = [] := congrArg Tile.mrOut hempty
    have hzero : smGet (0 : W64) [] d.link = 0 := rfl
    rw [State.mrOk_eq, hin, hout, hzero, State.mrSideOk_zero] at h
    rw [State.mrOk_eq]
    simp only [Bool.or_false, Bool.or_eq_true, Bool.and_eq_true] at h ⊢
    exact h.imp_right (And.imp Or.inl Or.inl)
  · have htile : (s.modTileL l (fun t => { t with fetchAt := n })).tileL l = { s.tileL l with fetchAt := n } :=
      State.tileP_modTileP_of_ne hempty
    rw [State.mrOk_eq, htile]
    exact h

end

/-! ### The validation of a descriptor -/

section
variable {s t : State} {h : W32} {c : Chan} {raw : BitVec 1024}

/-- Which memory windows cover depends on the windows alone (08 R229). -/
theorem State.covered_congr {x : Nat} (hwin : t.windowsOf x = s.windowsOf x) (a k : Nat) : t.covered x a k = s.covered x a k := by
  have hby (n a k : Nat) : t.coveredBy x n a k = s.coveredBy x n a k := by
    induction n generalizing a k with
    | zero => rfl
    | succ n ih => simp only [State.coveredBy, hwin, ih]
  rw [State.covered, State.covered, hwin, hby]

/-- Validation does not ask the memory devices what they count (06 R172; 08 R236; 10 R293). -/
theorem State.fetchCause_devices (s : State) (c : Chan) (raw : BitVec 1024) (dv : List Device) :
    ({ s with devices := dv } : State).fetchCause c raw = s.fetchCause c raw := by
  have hcovered (x a k : Nat) : ({ s with devices := dv } : State).covered x a k = s.covered x a k :=
    State.covered_congr (s := s) (t := { s with devices := dv }) rfl a k
  have hreaches (x a k : Nat) : ({ s with devices := dv } : State).reaches x a k = s.reaches x a k := by
    unfold State.reaches
    rw [hcovered]
    rfl
  have hown (x : Nat) (g : W64) (k : Nat) : ({ s with devices := dv } : State).ownAddr x g k = s.ownAddr x g k := by
    unfold State.ownAddr
    rw [hreaches]
    rfl
  have htile : ({ s with devices := dv } : State).tileOk c.ctx c.tile raw = s.tileOk c.ctx c.tile raw := rfl
  have hcopy : ({ s with devices := dv } : State).copyOk c.ctx raw = s.copyOk c.ctx raw := rfl
  have hcoll : ({ s with devices := dv } : State).collOk c.ctx raw = s.collOk c.ctx raw := by
    unfold State.collOk
    simp only [hown]
    rfl
  have hsync : ({ s with devices := dv } : State).syncsOk c.ctx (syncF c.kind raw) = s.syncsOk c.ctx (syncF c.kind raw) := rfl
  have hwindow : ({ s with devices := dv } : State).copyWindowOk c.ctx raw = s.copyWindowOk c.ctx raw := by
    unfold State.copyWindowOk State.inWindows
    simp only [hcovered]
    rfl
  rw [State.fetchCause, State.fetchCause, htile, hcopy, hcoll, hsync, hwindow]

/-- A descriptor for a tile is accepted when the tile can run it and its syncs are valid (06 R172, R186). -/
theorem State.fetchCause_compute (hkind : c.kind = 1) : s.fetchCause c raw =
    if s.tileOk c.ctx c.tile raw && s.syncsOk c.ctx (syncF 1 raw) then .none else .validation := by
  by_cases htile : s.tileOk c.ctx c.tile raw <;> by_cases hsync : s.syncsOk c.ctx (syncF 1 raw) <;>
    simp [State.fetchCause, hkind, htile, hsync]

/-- A descriptor of a compute channel that is accepted stays so when its tile notes which channel it fetches from. -/
theorem State.fetchCause_fetchAt (hkind : c.kind = 1) (h : s.fetchCause c raw = .none) (n : Nat) :
    (s.modTileL c.tile (fun t => { t with fetchAt := n })).fetchCause c raw = .none := by
  rw [State.fetchCause_compute hkind] at h ⊢
  have hok : s.tileOk c.ctx c.tile raw = true ∧ s.syncsOk c.ctx (syncF 1 raw) = true := by
    by_contra hbad
    rw [if_neg (by simpa using hbad)] at h
    cases h
  obtain ⟨htile, hsync⟩ := hok
  have htile' : (s.modTileL c.tile (fun t => { t with fetchAt := n })).tileOk c.ctx c.tile raw = true := by
    unfold State.tileOk at htile ⊢
    dsimp only at htile ⊢
    rw [Bool.and_eq_true, Bool.and_eq_true] at htile ⊢
    obtain ⟨⟨hcommon, hmr⟩, hengine⟩ := htile
    exact ⟨⟨hcommon, State.mrOk_fetchAt hmr n⟩, hengine⟩
  have hsync' : (s.modTileL c.tile (fun t => { t with fetchAt := n })).syncsOk c.ctx (syncF 1 raw) = true := hsync
  rw [htile', hsync']
  rfl

end

/-! ### One descriptor is taken -/

section
variable {s : State} {h : W32} {c : Chan} {raw : BitVec 1024}

/-- A latency-critical read counts in the devices it reaches (08 R231, R232). -/
theorem State.lcRead_frame (s : State) (x a k : Nat) : ∃ dv, s.lcRead x a k = { s with devices := dv } := by
  refine foldl_keeps (Q := fun t : State => ∃ dv, t = { s with devices := dv }) _ ⟨s.devices, rfl⟩ ?_
  rintro _ l ⟨dv, rfl⟩
  split
  · exact ⟨_, rfl⟩
  · exact ⟨dv, rfl⟩

/-- The operation that a fetched descriptor becomes (06 R172, R176). -/
def State.fetchedOp (s : State) (h : W32) (c : Chan) (raw : BitVec 1024) : Op :=
  { id := s.nextOp, ch := h, idx := c.nextFetch, desc := raw, ctx := c.ctx, tile := c.tile
    queue := (if c.kind = 1 then (OpD.of raw).queue else 0), seq := if c.kind = 3 then s.nextSeq h c else 0 }

/-- The state in which it has joined its queue. -/
def State.joined (s : State) (h : W32) (c : Chan) (raw : BitVec 1024) : State :=
  (({ s with nextOp := s.nextOp + 1, ops := s.ops ++ [s.fetchedOp h c raw] } : State).modChan h
    (fun c => { c with nextFetch := c.nextFetch + 1 })).refreshHeads

/-- An accepted descriptor joins its queue; a queue that was empty counts its wait anew, and the channel may choose its engine. -/
theorem State.take_of_accepted (hcause : s.fetchCause c raw = .none) : s.take h c raw =
    (if (s.headLike (s.fetchedOp h c raw)).isNone then (s.joined h c raw).touchQueue (s.fetchedOp h c raw)
      else s.joined h c raw).chooseEngine h c raw := by
  unfold State.take
  rw [hcause]
  rfl

/-- A queue's wait is noted in the tiles. -/
theorem State.touchQueue_frame (s : State) (o : Op) : ∃ ti, s.touchQueue o = { s with tiles := ti } := by
  unfold State.touchQueue
  split
  · exact ⟨_, rfl⟩
  · exact ⟨s.tiles, rfl⟩

/-- The choice of an engine changes the channel's engine at most (08 R233). -/
theorem State.chooseEngine_frame (s : State) (h : W32) (c : Chan) (raw : BitVec 1024) :
    s.chooseEngine h c raw = s ∨ ∃ e, s.chooseEngine h c raw = s.modChan h (fun y => { y with engine := e }) := by
  unfold State.chooseEngine
  dsimp only
  split
  · split
    · exact .inr ⟨_, rfl⟩
    · exact .inl rfl
  · exact .inl rfl

/-- What a state holds once an accepted descriptor has been taken: the operation with its queue, and the channel one descriptor on. -/
theorem State.take_accepted (hc : s.chan? h = some c) (hcause : s.fetchCause c raw = .none) :
    ∃ ti ha e, s.take h c raw = { s.joined h c raw with tiles := ti, handles := ha } ∧
      (s.take h c raw).chan? h = some { c with nextFetch := c.nextFetch + 1, engine := e } := by
  have hjoined : ∃ ti, (if (s.headLike (s.fetchedOp h c raw)).isNone then (s.joined h c raw).touchQueue (s.fetchedOp h c raw)
      else s.joined h c raw) = { s.joined h c raw with tiles := ti } := by
    split
    · exact State.touchQueue_frame ..
    · exact ⟨_, rfl⟩
  obtain ⟨ti, hjoined⟩ := hjoined
  rw [State.take_of_accepted hcause, hjoined]
  have hchan : ({ s.joined h c raw with tiles := ti } : State).chan? h = some { c with nextFetch := c.nextFetch + 1 } :=
    State.chan?_modChan_self (s := { s with nextOp := s.nextOp + 1, ops := s.ops ++ [s.fetchedOp h c raw] }) hc rfl
  obtain hsame | ⟨e, hchosen⟩ := State.chooseEngine_frame ({ s.joined h c raw with tiles := ti } : State) h c raw
  · exact ⟨ti, _, c.engine, hsame, by rw [hsame, hchan]⟩
  · exact ⟨ti, _, e, hchosen, by rw [hchosen, State.chan?_modChan_self hchan rfl]⟩

/-- The fetched operation stands last among the operations, queued, with its number, index and descriptor. -/
theorem State.getLast?_joined (s : State) (h : W32) (c : Chan) (raw : BitVec 1024) :
    ∃ o, (s.joined h c raw).ops.getLast? = some o ∧ o.id = s.nextOp ∧ o.ch = h ∧ o.desc = raw ∧ o.idx = c.nextFetch ∧ o.phase = .queued := by
  simp only [State.joined, State.refreshHeads, State.modChan_ops, List.getLast?_map, List.getLast?_append, List.getLast?_singleton,
    Option.some_or, Option.map_some]
  split
  · exact ⟨_, rfl, rfl, rfl, rfl, rfl, rfl⟩
  · exact ⟨_, rfl, rfl, rfl, rfl, rfl, rfl⟩

theorem State.length_ops_joined : (s.joined h c raw).ops.length = s.ops.length + 1 := by
  simp [State.joined, State.refreshHeads]

end

/-! ### `DESCRIPTOR_FETCH` and `OPERATION_COMPLETE` -/

section
variable {s : State} {h : W32} {c : Chan} {raw : BitVec 1024}

/-- A channel that has fetched all that was written fetches no more (06 R168). -/
theorem State.fetchLoop_of_none_next (hc : s.chan? h = some c) (hnext : c.hasNext = false) (n : Nat) (first : Bool) :
    State.fetchLoop h n first s = s := by
  cases n with
  | zero => rfl
  | succ n => simp [State.fetchLoop, hc, hnext]

/-- The one descriptor that was written and not fetched is taken, and no other (06 R168, R176). -/
theorem State.fetchLoop_last (hc : s.chan? h = some c) (hrun : c.st = .running)
    (hone : (c.producer - c.consumer).toNat = (c.nextFetch - c.consumer).toNat + 1) (hfits : (c.producer - c.consumer).toNat ≤ c.ringN)
    (hclean : s.tierBad c.ctx (c.ring + entryBytes c.kind * (c.nextFetch.toNat % c.ringN)) (entryBytes c.kind) = false)
    (hraw : raw = BitVec.ofNat 1024 (s.tierRead c.ctx (c.ring + entryBytes c.kind * (c.nextFetch.toNat % c.ringN)) (entryBytes c.kind)))
    (hroom : s.fetchRoom h c raw = true) (hcause : s.fetchCause c raw = .none) (n : Nat) :
    State.fetchLoop h (n + 1) true s =
      (s.lcRead c.ctx (c.ring + entryBytes c.kind * (c.nextFetch.toNat % c.ringN)) (entryBytes c.kind)).take h c raw := by
  have hnext : c.hasNext = true := by
    rw [Chan.hasNext, Bool.and_eq_true, decide_eq_true_eq, decide_eq_true_eq]
    exact ⟨by omega, hfits⟩
  obtain ⟨dv, hread⟩ := s.lcRead_frame c.ctx (c.ring + entryBytes c.kind * (c.nextFetch.toNat % c.ringN)) (entryBytes c.kind)
  have hcause' := (State.fetchCause_devices s c raw dv).trans hcause
  obtain ⟨ti, ha, e, -, hchan⟩ := State.take_accepted (s := { s with devices := dv }) (h := h) hc hcause'
  have hdone : Chan.hasNext { c with nextFetch := c.nextFetch + 1, engine := e } = false := by
    have hall : c.nextFetch + 1 - c.consumer = c.producer - c.consumer := by bv_omega
    rw [Chan.hasNext, hall, decide_eq_false (Nat.lt_irrefl _), Bool.false_and]
  rw [State.fetchLoop, hc]
  dsimp only
  rw [if_neg (by simp [hrun, hnext]), if_neg (by simp [hclean]), ← hraw, if_neg (by simp [hroom, hcause]), hread,
    State.fetchLoop_of_none_next hchan hdone]

/-- A compute channel whose fetch is due is the one that its tile fetches from last (06 R176). -/
def State.noteFetcher (s : State) (h : W32) (c : Chan) : State :=
  if c.kind = 1 ∧ s.fetchDue h c then s.modTileL c.tile (fun t => { t with fetchAt := hSlot h }) else s

/-- That is noted in the tiles, and an accepted descriptor stays accepted. -/
theorem State.noteFetcher_frame (h : W32) (hcause : s.fetchCause c raw = .none) :
    ∃ ti, s.noteFetcher h c = { s with tiles := ti } ∧ ({ s with tiles := ti } : State).fetchCause c raw = .none := by
  unfold State.noteFetcher
  split
  · next hnote => exact ⟨_, rfl, State.fetchCause_fetchAt hnote.1 hcause _⟩
  · exact ⟨s.tiles, rfl, hcause⟩

/-- `PRODUCER` at most a ring ahead of `CONSUMER` is no overrun (06 R168). -/
theorem State.checkOverrun_of_fits (hfits : (c.producer - c.consumer).toNat ≤ c.ringN) : s.checkOverrun h c = s :=
  if_neg fun hover => absurd hover.2 (Nat.not_lt.mpr hfits)

/-- The fetch engine of a channel in its turn, whose watch has not fired, takes the one descriptor that was written (06 R168, R176). -/
theorem exec_descriptorFetch_last (hc : s.chan? h = some c) (hrun : c.st = .running) (hfired : c.fired = false) (hdue : s.scopeDue = [])
    (hopen : s.fetchOpen c = true) (hturn : s.itsTurn h c = true)
    (hone : (c.producer - c.consumer).toNat = (c.nextFetch - c.consumer).toNat + 1) (hfits : (c.producer - c.consumer).toNat ≤ c.ringN)
    (hclean : s.tierBad c.ctx (c.ring + entryBytes c.kind * (c.nextFetch.toNat % c.ringN)) (entryBytes c.kind) = false)
    (hraw : raw = BitVec.ofNat 1024 (s.tierRead c.ctx (c.ring + entryBytes c.kind * (c.nextFetch.toNat % c.ringN)) (entryBytes c.kind)))
    (hroom : s.fetchRoom h c raw = true) (hcause : s.fetchCause c raw = .none) :
    ∃ ti dv, ({ s with tiles := ti, devices := dv } : State).fetchCause c raw = .none ∧
      exec (.descriptorFetch h) s = .next (({ s with tiles := ti, devices := dv } : State).take h c raw) := by
  obtain ⟨ti, hnoted, haccept⟩ := State.noteFetcher_frame h hcause
  have hloop := State.fetchLoop_last (s := { s with tiles := ti }) (h := h) hc hrun hone hfits hclean hraw hroom haccept 7
  obtain ⟨dv, hread⟩ := State.lcRead_frame { s with tiles := ti } c.ctx
    (c.ring + entryBytes c.kind * (c.nextFetch.toNat % c.ringN)) (entryBytes c.kind)
  have haccept := (State.fetchCause_devices { s with tiles := ti } c raw dv).trans haccept
  obtain ⟨ti', ha, e, htake, -⟩ := State.take_accepted (s := { s with tiles := ti, devices := dv }) (h := h) hc haccept
  have hsettled : (({ s with tiles := ti, devices := dv } : State).take h c raw).scopeDue = [] := by
    rw [htake]
    exact hdue
  refine ⟨ti, dv, haccept, ?_⟩
  show execDescriptorFetch h s = _
  simp only [execDescriptorFetch, hc]
  rw [if_neg (by simp [hopen, hturn]), if_neg (by simp [hfired]), State.checkOverrun_of_fits hfits]
  rw [State.noteFetcher] at hnoted
  rw [hnoted, hloop, hread, State.settle_of_none_due hsettled]

/-- A finished operation completes (06 R173). -/
theorem exec_operationComplete_finished {o : Op} (hop : s.op? o.id = some o) (hphase : o.phase = .finished) :
    exec (.operationComplete o.id) s = .next (s.completeHere o).settle := by
  show execOperationComplete o.id s = _
  simp only [execOperationComplete, hop, hphase, if_true]

end

/-- Settles O26, command by command; the fetch engine takes the one descriptor that was written, and its channel then has no other. -/
theorem ringCommandsComplete : Obligations.RingCommandsComplete := by
  refine ⟨fun _ _ _ _ => exec_producerWrite_open, fun _ _ _ _ => exec_cplConsumerWrite_none_held,
    fun s h c raw hc hrun hfired hdue hctrl hring hfetch hturn hone hfits hclean hraw hroom hcause => ?_,
    fun _ _ => exec_operationComplete_finished⟩
  have hopen : s.fetchOpen c = true := by simp [State.fetchOpen, hfetch, hctrl, hring]
  obtain ⟨ti, dv, hcause, hexec⟩ := exec_descriptorFetch_last hc hrun hfired hdue hopen hturn hone hfits hclean hraw hroom hcause
  obtain ⟨ti', ha, e, htake, hchan⟩ := State.take_accepted (s := { s with tiles := ti, devices := dv }) (h := h) hc hcause
  obtain ⟨o, hlast, hid, hch, hdesc, hidx, hphase⟩ := State.getLast?_joined { s with tiles := ti, devices := dv } h c raw
  refine ⟨_, _, o, hexec, hchan, rfl, ?_, ?_, hid, hch, hdesc, hidx, hphase, ?_, ?_⟩
  · rw [htake]
    exact State.length_ops_joined
  · rw [htake]
    exact hlast
  · rw [htake]
    rfl
  · rw [htake]
    rfl

end Sys2Proof.Machine
end

section
/-! Waits, signals and the utility core's sync port, command by command (06 R186 to R192). -/

namespace Sys2Proof.Machine

/-! ### Cells -/

section
variable {s : State} {t : Tile} {c id l : Nat} {x : Cell}

/-- A cell after a change that keeps its ID and context. -/
theorem Tile.cell?_modCell (hx : t.cell? c id = some x) {f : Cell → Cell} (hf : ∀ y, y.id = id → y.ctx = c → (f y).id = id ∧ (f y).ctx = c) :
    (t.modCell c id f).cell? c id = some (f x) := by
  have hsame : ((fun y : Cell => y.id == id && y.ctx == c) ∘ fun y => if y.id == id && y.ctx == c then f y else y) =
      fun y => y.id == id && y.ctx == c := by
    funext y
    simp only [Function.comp_apply]
    split
    · next hy =>
      obtain ⟨hid, hctx⟩ : y.id = id ∧ y.ctx = c := by simpa using hy
      obtain ⟨hid', hctx'⟩ := hf y hid hctx
      rw [hid', hctx', hid, hctx]
    · rfl
  have hit : (x.id == id && x.ctx == c) = true := by simpa using List.find?_some hx
  rw [Tile.cell?, Tile.modCell, List.find?_map, hsame, show t.cells.find? _ = some x from hx, Option.map_some, if_pos hit]

/-- A tile with a cell holds something. -/
theorem Tile.ne_empty_of_cell (hx : t.cell? c id = some x) : t ≠ {} := by
  rintro rfl
  exact absurd hx (by simp [Tile.cell?])

/-- A cell of a tile of the module after such a change. -/
theorem State.cell?_modTileL_modCell (hx : (s.tileL l).cell? c id = some x) {f : Cell → Cell}
    (hf : ∀ y, y.id = id → y.ctx = c → (f y).id = id ∧ (f y).ctx = c) :
    ((s.modTileL l (fun t => t.modCell c id f)).tileL l).cell? c id = some (f x) := by
  have hcell := Tile.cell?_modCell hx hf
  have htile : (s.modTileL l (fun t => t.modCell c id f)).tileL l = (s.tileL l).modCell c id f :=
    State.tileP_modTileP_of_ne (Tile.ne_empty_of_cell hcell)
  rw [htile, hcell]

/-- A cell that is marked as used keeps the rest. -/
theorem State.cell?_useCell (hx : (s.tileL l).cell? c id = some x) :
    ((s.useCell l c id).tileL l).cell? c id = some { x with used := s.useCount } :=
  State.cell?_modTileL_modCell (s := { s with useCount := s.useCount + 1 }) hx fun _ hid hctx => ⟨hid, hctx⟩

/-- A cell on which nothing waits grants nothing. -/
theorem State.serveCell_of_no_wait (hx : (s.tileL l).cell? c id = some x) (hwaits : x.waits = []) :
    s.serveCell l c id = s.modTileL l (fun t => t.modCell c id (fun _ => x)) := by
  unfold State.serveCell
  rw [hx]
  dsimp only
  rw [hwaits]
  rfl

/-- The cell that a context and an ID find is theirs. -/
theorem Tile.cell?_key (hx : t.cell? c id = some x) : x.id = id ∧ x.ctx = c := by simpa using List.find?_some hx

end

/-! ### Waits, signals and reads of entries -/

section
variable {s : State} {l : Fin 480} {q : Fin 8} {o : Op}

/-- A head that requests no wait now and whose tile is not held requests its next (06 R186). -/
theorem exec_syncWait_requests (hhead : s.headOf l.val q.val = some o) (htile : o.tile = l.val) (hpend : o.waitPend = false)
    (hretry : o.retry = false) (hheld : s.isHeld l.val = false) : exec (.syncWait (.queue l q)) s = .next (s.requestWait o) := by
  show execSyncWait (.queue l q) s = _
  simp only [execSyncWait, State.headAt, hhead]
  rw [if_neg (by simp [hpend, hretry, State.opHeld, htile, hheld])]

/-- A refused wait is repeated (06 R188). -/
theorem exec_waitRetry_requests (hhead : s.headOf l.val q.val = some o) (htile : o.tile = l.val) (hretry : o.retry = true)
    (hheld : s.isHeld l.val = false) : exec (.waitRetry (.queue l q)) s = .next (s.requestWait o) := by
  show execWaitRetry (.queue l q) s = _
  simp only [execWaitRetry, State.headAt, hhead]
  rw [if_pos (by simp [hretry, State.opHeld, htile, hheld])]

/-- The state in which a cell has granted a wait: it has lost `TAKE`, and the operation has one wait more (06 R186). -/
def State.granted (s : State) (home c id op : Nat) : State :=
  ((s.modTileL home (fun t => t.modCell c id (fun x => { x with count := x.count - x.take }))).useCell home c id).grant op

/-- A wait with a cached translation, at a cell that has enough and where nothing waits, is granted at once (06 R186, R188). -/
theorem State.requestWait_grants {id : Nat} {x : Xlate} {c : Cell} (hkind : o.kind = 1) (hloc : o.sync.loc = false)
    (hid : o.sync.waits[o.waits]? = some id) (hcached : s.cached o.tile id = some x) (hheld : s.isHeld x.home = false)
    (hcell : (s.tileL x.home).cell? o.ctx id = some c) (hwaits : c.waits = []) (henough : c.take ≤ c.count) :
    s.requestWait o = s.granted x.home o.ctx id o.id := by
  unfold State.requestWait
  simp only [hid, hloc, hkind, hcached, hheld, Bool.false_eq_true, if_true, if_false, State.waitHome, hcell]
  rw [if_pos ⟨by simp [hwaits], henough⟩]
  rfl

/-- A granted wait, in the operation and in the cell. -/
theorem State.granted_effect {home id : Nat} {c : Cell} (hop : s.op? o.id = some o)
    (hcell : (s.tileL home).cell? o.ctx id = some c) :
    (s.granted home o.ctx id o.id).op? o.id = some { o with waits := o.waits + 1, waitPend := false, retry := false, noCell := false } ∧
      ((s.granted home o.ctx id o.id).tileL home).cell? o.ctx id = some { c with count := c.count - c.take, used := s.useCount } := by
  constructor
  · exact State.op?_modOp (s := (s.modTileL home fun t => t.modCell o.ctx id fun x => { x with count := x.count - x.take }).useCell home
      o.ctx id) (f := fun o => { o with waits := o.waits + 1, waitPend := false, retry := false, noCell := false }) hop fun _ => rfl
  · exact State.cell?_useCell (State.cell?_modTileL_modCell (f := fun x => { x with count := x.count - x.take }) hcell
      fun _ hid hctx => ⟨hid, hctx⟩)

/-- A translated signal whose home is not held reaches it (06 R186). -/
theorem exec_syncSignal_arrives {k home add : Nat} {g : Signal} (hg : s.signals[k]? = some g) (hloc : g.loc = false)
    (hdest : g.dest = some (home, add)) (htile : s.isHeld g.tile = false) (hhome : s.isHeld home = false) :
    exec (.syncSignal k) s = .next (({ s with signals := s.signals.eraseIdx k } : State).signalHome g home add) := by
  show execSyncSignal k s = _
  simp only [execSyncSignal, hg, hdest]
  rw [if_neg (by simp [htile, hhome])]
  simp only [State.deliverSignal, hloc, hdest, Bool.false_eq_true, if_false]

/-- The state in which a cell has taken a signal (06 R186). -/
def State.signalled (s : State) (home c id add : Nat) (x : Cell) : State :=
  ((s.modTileL home (fun t => t.modCell c id (fun x => { x with count := x.count + add }))).useCell home c id).modTileL home
    (fun t => t.modCell c id (fun _ => { x with count := x.count + add, used := s.useCount }))

/-- A signal within the limit adds to a cell, where nothing waits for it (06 R186). -/
theorem State.signalHome_adds {g : Signal} {home add : Nat} {c : Cell} (hcell : (s.tileL home).cell? g.ctx g.id = some c)
    (hwaits : c.waits = []) (hfits : c.count + add ≤ 16777215) : s.signalHome g home add = s.signalled home g.ctx g.id add c := by
  have hadded : ((s.modTileL home (fun t => t.modCell g.ctx g.id (fun x => { x with count := x.count + add }))).tileL home).cell?
      g.ctx g.id = some { c with count := c.count + add } := State.cell?_modTileL_modCell hcell fun _ hid hctx => ⟨hid, hctx⟩
  unfold State.signalHome
  simp only [hcell]
  rw [if_neg (by simp [syncMax, Nat.not_lt.mpr hfits]), State.serveCell_of_no_wait (State.cell?_useCell hadded) hwaits]
  rfl

/-- The cell that has taken a signal. -/
theorem State.cell?_signalled {home c id add : Nat} {x : Cell} (hcell : (s.tileL home).cell? c id = some x) :
    ((s.signalled home c id add x).tileL home).cell? c id = some { x with count := x.count + add, used := s.useCount } := by
  obtain ⟨hid, hctx⟩ := Tile.cell?_key hcell
  exact State.cell?_modTileL_modCell (f := fun _ => { x with count := x.count + add, used := s.useCount })
    (State.cell?_useCell (State.cell?_modTileL_modCell (f := fun x => { x with count := x.count + add }) hcell
      fun _ hid hctx => ⟨hid, hctx⟩)) fun _ _ _ => ⟨hid, hctx⟩

/-- A read of an entry that nothing holds returns, the first of those for its cell (06 R188). -/
theorem exec_xlateReadDone_returns {k a : Nat} {x : XlateRead} (hx : s.xlates[k]? = some x) (haddr : s.entryAddr x.ctx x.id = some a)
    (hbank : s.bankHeld x.ctx a 8 = false) (hhold : s.pkg.remapHold = []) (hfirst : (s.xlates.take k).any x.sameCell = false) :
    exec (.xlateReadDone k) s =
      .next (((({ s with xlates := s.xlates.eraseIdx k } : State).lcRead x.ctx a 8).xlateDone x).settle) := by
  show execXlateReadDone k s = _
  simp only [execXlateReadDone, hx, haddr]
  rw [if_neg (by simp [hbank, State.isHeld, hhold, hfirst])]

end

/-! ### The utility core -/

section
variable {s : State} {l : Fin 480} {id : BitVec 16} {c : Nat}

/-- A running core signals a local register of its tile (06 R190). -/
theorem exec_ucSignal_local (hrun : (s.tileL l.val).uc.st = .running) (hctx : s.ctxOfTile l.val = some c) (hid : id.toNat < 48) :
    exec (.ucSignal l true id) s = .next { s with
      signals := s.signals ++ [{ ctx := c, id := id.toNat, loc := true, tile := l.val, ch := 0, idx := 0 }] } := by
  show execUcSignal l true id s = _
  rw [execUcSignal, if_pos hrun]
  simp [State.ucSignal, hctx, hid]

/-- A tile whose core runs reads as it was written. -/
theorem State.tileL_modTileL_of_running {k : Nat} {f : Tile → Tile} (hrun : (f (s.tileL k)).uc.st = .running) :
    (s.modTileL k f).tileL k = f (s.tileL k) := by
  refine State.tileP_modTileP_of_ne fun hempty => ?_
  have hst : (f (s.tileL k)).uc.st = .noImage := congrArg (fun t : Tile => t.uc.st) hempty
  rw [hrun] at hst
  cases hst

/-- The take of a local register that a core requests (06 R190). -/
def State.takeAsked (s : State) (k r : Nat) : State := s.modUc k (fun u => { u with takeResult := 1, takeLocal := true, takeId := r })

/-- The state in which it is granted: the register has lost 1. -/
def State.takeGranted (s : State) (k r : Nat) : State :=
  ((s.takeAsked k r).modTileL k (fun t => { t with lsync := modAt t.lsync r (· - 1) })).endTake k true

/-- The tile whose core requests a take. -/
theorem State.tileL_takeAsked {k : Nat} (hrun : (s.tileL k).uc.st = .running) (r : Nat) : (s.takeAsked k r).tileL k =
    { s.tileL k with uc := { (s.tileL k).uc with takeResult := 1, takeLocal := true, takeId := r } } :=
  State.tileL_modTileL_of_running (f := fun t => { t with uc := { t.uc with takeResult := 1, takeLocal := true, takeId := r } }) hrun

/-- A running core takes from a local register that holds something (06 R190). -/
theorem exec_ucTake_local (hrun : (s.tileL l.val).uc.st = .running) (hctx : s.ctxOfTile l.val = some c) (hid : id.toNat < 48)
    (hsome : 1 ≤ (s.tileL l.val).lsync.getD id.toNat 0) :
    exec (.ucTake l true id) s = .next (s.takeGranted l.val id.toNat) := by
  have hlsync : ((s.takeAsked l.val id.toNat).tileL l.val).lsync = (s.tileL l.val).lsync := by
    rw [State.tileL_takeAsked hrun]
  show execUcTake l true id s = _
  rw [execUcTake, if_pos hrun]
  unfold State.ucTake
  simp only [hctx, if_true]
  refine congrArg Host.Outcome.next (if_pos ⟨hid, ?_⟩)
  show 1 ≤ ((s.takeAsked l.val id.toNat).tileL l.val).lsync.getD id.toNat 0
  rwa [hlsync]

/-- A granted take, in the core and in the register. -/
theorem State.tileL_takeGranted {k r : Nat} (hrun : (s.tileL k).uc.st = .running) :
    ((s.takeGranted k r).tileL k).uc.takeResult = 2 ∧ ((s.takeGranted k r).tileL k).lsync = modAt (s.tileL k).lsync r (· - 1) := by
  have hasked := State.tileL_takeAsked hrun r
  have htaken := State.tileL_modTileL_of_running (s := s.takeAsked k r) (k := k) (f := fun t => { t with lsync := modAt t.lsync r (· - 1) })
    (by rw [hasked]; exact hrun)
  have hended := State.tileL_modTileL_of_running (s := (s.takeAsked k r).modTileL k fun t => { t with lsync := modAt t.lsync r (· - 1) })
    (k := k) (f := fun t => { t with uc := { t.uc with takeResult := 2, takeHeld := none, wfi := false } })
    (by rw [htaken, hasked]; exact hrun)
  have hgranted : (s.takeGranted k r).tileL k = _ := hended
  rw [hgranted, htaken, hasked]
  exact ⟨rfl, rfl⟩

/-- An exception of a core with a handler is taken to it (06 R192). -/
theorem State.ucException_trap {k : Nat} (hmtvec : (s.tileL k).uc.mtvec ≠ 0) (hhandler : (s.tileL k).uc.inHandler = false)
    (pc : W64) (mcause : Nat) (tval : W64) : s.ucException k pc mcause tval = s.modUc k (fun u => u.trap pc mcause tval) :=
  if_neg (not_or.mpr ⟨hmtvec, by simp [hhandler]⟩)

/-- A running core with a handler takes an exception to it (06 R192). -/
theorem exec_ucFault_handled {pc : BitVec 48} {m : BitVec 8} (hrun : (s.tileL l.val).uc.st = .running)
    (hmtvec : (s.tileL l.val).uc.mtvec ≠ 0) (hhandler : (s.tileL l.val).uc.inHandler = false) :
    exec (.ucFault l pc m) s = .next (s.modUc l.val (fun u => u.trap (pc.setWidth 64) m.toNat 0)) := by
  show execUcFault l pc m s = _
  rw [execUcFault, if_pos hrun, State.ucException_trap hmtvec hhandler]

/-- Bytes of the local memory of a core (06 R192). -/
theorem State.ucRead_own {k o n : Nat} (hfits : o + n ≤ ucSize) :
    s.ucRead k (ucBase + o) n = .done (memReadN (s.tileL k).uc.mem o n) s := by
  have hplace : s.ucPlace k (ucBase + o) n = .own o := by
    rw [State.ucPlace, if_pos ⟨Nat.le_add_right .., by omega⟩, Nat.add_sub_cancel_left]
  rw [State.ucRead, hplace]

/-- An instruction of four bytes in local memory is fetched in two parcels and carried out (06 R192). -/
theorem State.ucInstr_own {k o : Nat} {w : W32} (hpc : (s.tileL k).uc.pc.toNat = ucBase + o) (hfits : o + 4 ≤ ucSize)
    (hlong : w.toNat % 4 = 3) (hlo : memReadN (s.tileL k).uc.mem o 2 = w.toNat % 65536)
    (hhi : memReadN (s.tileL k).uc.mem (o + 2) 2 = w.toNat / 65536) :
    s.ucInstr k = (s.ucExec k (s.tileL k).uc w 4).getD (s.ucException k (s.tileL k).uc.pc 2 (w.setWidth 64)) := by
  have hword : BitVec.ofNat 32 (w.toNat % 65536 + w.toNat / 65536 * 65536) = w := by
    rw [Nat.mod_add_div', BitVec.ofNat_toNat, BitVec.setWidth_eq]
  have hparcel : w.toNat % 65536 % 4 = 3 := by omega
  unfold State.ucInstr
  simp only [hpc]
  rw [State.ucRead_own (by omega), Nat.add_assoc, hlo]
  simp only [State.ucThen, hparcel, if_true, State.ucRead_own (show o + 2 + 2 ≤ ucSize by omega), hhi, hword, BitVec.ofNat_toNat]

/-- `ADDI` adds its immediate (log 91). -/
theorem State.ucExec_addi {k : Nat} {u : UtilCore} {w : W32} (hop : fieldN w 6 0 = 0x13) (hf3 : rvF3 w = 0) :
    s.ucExec k u w 4 = some (s.ucNext k (u.setX (rvRd w) (u.getX (rvRs1 w) + rvImmI w)) (u.pc + 4)) := by
  unfold State.ucExec
  simp only [hop, rvOpImm, hf3, rvOp, Option.map_some]
  rfl

/-- An aligned load or store that its bounds refuse raises the access fault of its kind (06 R192; 01 R50). -/
theorem State.ucAccess_refused {k a n : Nat} {u : UtilCore} {next : W64} {get : Nat → UtilCore} (haligned : a % n = 0)
    (hrefused : s.ucPlace k a n = .refused) :
    s.ucLoad k u a n next get = s.ucException k u.pc 5 (BitVec.ofNat 64 a) ∧
      ∀ v, s.ucStore k u a n v next = s.ucException k u.pc 7 (BitVec.ofNat 64 a) := by
  constructor
  · rw [State.ucLoad, if_neg (by simp [haligned]), State.ucRead, hrefused]
    rfl
  · intro v
    rw [State.ucStore, if_neg (by simp [haligned]), State.ucWrite, hrefused]
    rfl

end

/-- Settles O28, command by command. -/
theorem syncCommandsComplete : Obligations.SyncCommandsComplete := by
  refine ⟨fun s l q o id x c hhead hop htile hkind hloc hid hpend hretry hheld hcached hhome hcell hwaits henough => ?_,
    fun s l q o hhead _ htile hretry hheld => exec_waitRetry_requests hhead htile hretry hheld,
    fun s k g home add c hg hloc hdest htile hhome hcell hwaits hfits => ?_, fun _ _ _ _ => exec_xlateReadDone_returns,
    fun _ _ _ _ => exec_ucSignal_local, fun s l id c hrun hctx hid hsome hlen => ?_, fun _ _ _ _ => exec_ucFault_handled,
    fun _ _ _ => rfl, fun _ _ _ _ => State.ucInstr_own, fun _ _ _ _ => State.ucExec_addi, fun _ _ _ _ _ _ _ => State.ucAccess_refused⟩
  · obtain ⟨hp, hd⟩ := State.granted_effect hop hcell
    rw [← htile] at hcached
    refine ⟨_, _, _, ?_, hp, rfl, rfl, hd, rfl, rfl, hwaits⟩
    rw [exec_syncWait_requests hhead htile hpend hretry hheld,
      State.requestWait_grants hkind hloc hid hcached hhome hcell hwaits henough]
  · refine ⟨_, _, ?_, rfl, State.cell?_signalled (s := { s with signals := s.signals.eraseIdx k }) hcell, rfl, rfl, rfl, rfl⟩
    rw [exec_syncSignal_arrives hg hloc hdest htile hhome,
      State.signalHome_adds (s := { s with signals := s.signals.eraseIdx k }) hcell hwaits hfits]
  · obtain ⟨hresult, hregister⟩ := State.tileL_takeGranted (r := id.toNat) hrun
    refine ⟨_, exec_ucTake_local hrun hctx hid hsome, hresult, ?_, rfl⟩
    rw [hregister, getD_modAt_self (by omega)]

end Sys2Proof.Machine
end

section
/-! The commands of contexts, one by one (06 R158 to R161; 12 R374; 14 R409). -/

namespace Sys2Proof.Machine

/-! ### Checks of a context's commands (12 R368) -/

section
variable {s : State} {x : Sess} {y : Ctx} {c : Nat}

/-- A handle that the session may use passes its check (06 R164). -/
theorem checkHandle_of_own {h : W32} {kinds : List Nat} {o : HObj} (hown : s.ownHandle x h kinds o) :
    checkHandle s h kinds (roleOwns s x.role) = .ok o := by
  obtain ⟨hne, hkind, hobj, howns⟩ := hown
  rw [checkHandle, if_neg (not_or.mpr ⟨hne, ne_false_of_eq_true hkind⟩)]
  simp [hobj, howns]

/-- A tenant owns the sync spaces of its contexts. -/
theorem roleOwns_sync {z : SyncSpace} (hctx : s.ctx? z.ctx = some y) : roleOwns s (.tenant y.owner) (.sync z) = true := by
  simp [roleOwns, HObj.ctx?, hctx]

/-- A context in one of the states that a command takes passes its check. -/
theorem ctxStCheck_of_mem {states : List CtxSt} (hctx : s.ctx? c = some y) (hst : y.st ∈ states) :
    ctxStCheck s c states = (false, .stateConflict, 0x20 + y.st.num) := by
  simp [ctxStCheck, hctx, hst]

/-- A tenant gets a context under the lowest free ID (06 R160). -/
theorem exec_ctxCreate {n : Fin 64} {seq : W32} {r : Req} {i : BitVec 384} (h : s.atTurn n seq 0x0101 x r) (hrole : x.role = .tenant i)
    (hfree : (List.range 64).find? (fun c => (s.ctx? c).isNone) = some c) :
    exec (.ctxCreate n seq) s = .next (s.answer n.val r (.done
      { s with ctxs := smPut s.ctxs c { owner := i, seed := BitVec.ofNat 64 (r.num 0 8), stepCount := BitVec.ofNat 64 (r.num 8 8)
                                        inDebug := Option.isSome s.sec.debug } }
      .ok (BitVec.ofNat 3456 c) 1)) := by
  show execCtxCreate n seq s = _
  rw [execCtxCreate, aidar_at_turn h]
  dsimp only
  rw [hfree, h.pkg, hrole]
  simp

end

/-! ### Keys, binding, quiescing, destroying -/

section
variable {s : State} {n : Fin 64} {seq : W32} {x : Sess} {r : Req} {y : Ctx} (hctx : s.ctx? (r.num 0 1) = some y)
  (hrole : x.role = .tenant y.owner)
include hctx hrole

/-- A created context without a key takes its two keys (14 R409). -/
theorem exec_ctxKeyInstall (h : s.atTurn n seq 0x0603 x r) (hst : y.st = .created) (hkey : y.memKey = none)
    (hclean : r.clean [(0, 1), (8, 98)] = true) (hdiffer : r.num 8 32 ≠ r.num 40 32) (htag : r.num 104 2 ≠ 0) :
    exec (.ctxKeyInstall n seq) s = .next (s.answer n.val r (.done (s.modCtx (r.num 0 1) (fun y => { y with
      memKey := some (BitVec.ofNat 512 (r.num 8 64)), partKey := some (BitVec.ofNat 16 (r.num 104 2), BitVec.ofNat 256 (r.num 72 32)) }))
      .ok ((Config.sha384 256 (r.num 72 32)).setWidth 32 |>.setWidth 3456) 4)) := by
  show execCtxKeyInstall n seq s = _
  rw [execCtxKeyInstall, aidar_at_turn h]
  simp [ctxCheck_of_owner hctx hrole, ctxStCheck_of_mem hctx (states := [.created]) (by simp [hst]), h.pkg, hclean, hdiffer, htag, hctx, hkey]

/-- A created context with a key, its sync space and a good bind table is bound, where no other context holds a tile or an
entry of a bank table (06 R160, 12 R374, 14 R410). -/
theorem exec_ctxBind {z : SyncSpace} {b : BindTable} (h : s.atTurn n seq 0x0102 x r) (hst : y.st = .created)
    (hkey : y.memKey.isSome = true) (hown : s.ownHandle x (BitVec.ofNat 32 (r.num 4 4)) [5] (.sync z)) (hz : z.ctx = r.num 0 1)
    (hclean : r.clean [(0, 1), (4, 18), (32, 60)] = true) (htag : r.num 20 2 = s.ptag)
    (hgood : s.tierBad (r.num 0 1) (r.num 8 8) (r.num 16 4) = false) (htable : s.bindTable (r.num 0 1) r = some b)
    (hclash : s.keyClash (r.num 0 1) = false) (hfree : ∀ e ∈ s.ctxs, e.2.bank = [] ∧ (e.1 ≠ r.num 0 1 → e.2.tiles = []))
    (hbank : b.bank.length ≤ 4096) :
    exec (.ctxBind n seq) s = .next (s.answer n.val r (.ok (s.bindCtx (r.num 0 1) r b))) := by
  obtain ⟨key, hkey⟩ := Option.isSome_iff_exists.mp hkey
  have htaken : ((List.range 480).any fun l => (r.num 32 64).testBit l && s.ctxs.any (fun e => e.1 != r.num 0 1 && e.2.tiles.contains l)) = false := by
    simp only [List.any_eq_false, Bool.and_eq_true, List.any_eq_true, not_and, not_exists]
    intro l _ _ e he hother
    rw [(hfree e he).2 (by simpa using hother)]
    simp
  have hsum : (s.ctxs.map (fun e => e.2.bank.length)).sum = 0 := by
    rw [List.sum_eq_zero_iff]
    intro k hk
    obtain ⟨e, he, rfl⟩ := List.mem_map.mp hk
    rw [(hfree e he).1, List.length_nil]
  show execCtxBind n seq s = _
  rw [execCtxBind, aidar_at_turn h]
  dsimp only
  rw [checkHandle_of_own hown, htable, htaken, hsum, hgood]
  simp [ctxCheck_of_owner hctx hrole, ctxStCheck_of_mem hctx (states := [.created]) (by simp [hst]), h.pkg, hclean, hz, htag, hclash, hctx,
    hkey, Nat.not_lt.mpr hbank, Nat.not_lt.mpr (Nat.le_trans hbank (show 4096 ≤ 16384 by decide))]

/-- A running context begins to quiesce (06 R160). -/
theorem exec_ctxQuiesce (h : s.atTurn n seq 0x0103 x r) (hst : y.st = .running) :
    exec (.ctxQuiesce n seq) s = .next (s.answer n.val r (.wait ((s.stopChans (r.num 0 1)).modCtx (r.num 0 1) (fun y => { y with
      quiescing := true, rewindDue := true })))) := by
  show execCtxQuiesce n seq s = _
  rw [execCtxQuiesce, aidar_at_turn h]
  simp [ctxCheck_of_owner hctx hrole, ctxStCheck_of_mem hctx (states := [.running]) (by simp [hst]), h.pkg]

/-- A context that is not being destroyed begins to be (06 R161). -/
theorem exec_ctxDestroy (h : s.atTurn n seq 0x0104 x r) (hst : y.st ≠ .destroying) :
    exec (.ctxDestroy n seq) s = .next (s.answer n.val r (.ok (s.destroyCtx (r.num 0 1)))) := by
  show execCtxDestroy n seq s = _
  rw [execCtxDestroy, aidar_at_turn h]
  simp [ctxCheck_of_owner hctx hrole, ctxStCheck_of_not_destroying hctx hst, h.pkg]

end

/-! ### The end of a quiesce -/

section
variable (s : State)

theorem State.setChan_ctxs (h : W32) (f : Chan → Chan) : (s.setChan h f).ctxs = s.ctxs := by
  obtain ⟨ti, tp, hw⟩ := (s.modChan h f).writeCtl_frame h
  rw [State.setChan, hw, State.modChan_ctxs]

theorem State.touchQueue_ctxs (o : Op) : (s.touchQueue o).ctxs = s.ctxs := by
  obtain ⟨ti, ht⟩ := s.touchQueue_frame o
  rw [ht]

theorem State.discard_ctxs (p : Op → Bool) : (s.discard p).ctxs = s.ctxs :=
  foldl_keeps (Q := fun t : State => t.ctxs = s.ctxs) _ (b := s.dropOps p) rfl fun _ _ h => (State.touchQueue_ctxs ..).trans h

theorem State.stopChans_ctxs (c : Nat) : (s.stopChans c).ctxs = s.ctxs :=
  foldl_keeps (Q := fun t : State => t.ctxs = s.ctxs) _ (State.discard_ctxs ..) fun _ _ h => (State.setChan_ctxs ..).trans h

theorem State.haltCores_ctxs (c : Nat) : (s.haltCores c).ctxs = s.ctxs :=
  foldl_keeps (Q := fun t : State => t.ctxs = s.ctxs) _ rfl fun _ _ h => h

theorem State.syncActive_ctxs : s.syncActive.ctxs = s.ctxs := by
  unfold State.syncActive
  dsimp only
  split
  · rw [State.bbNotify_ctxs, State.modPkg_ctxs]
  · split
    · rw [State.bbNotify_ctxs, State.modPkg_ctxs]
    · rfl

end

/-- The context that a rewind to the start of the step leaves (11 R346). -/
def Ctx.rewound (x : Ctx) : Ctx :=
  { x with
    verdict := .pending
    stepHealth := false
    sampled := false
    agreed := none
    replaying := false
    drained := []
    epochX := x.closeEpochs.1
    epochY := x.closeEpochs.2.1
    epochZ := x.closeEpochs.2.2
    streams := x.closeStreams }

/-- A rewind changes its context in that way. -/
theorem State.ctx?_rewind (s : State) (c : Nat) : (s.rewind c).ctx? c = (s.ctx? c).map Ctx.rewound := by
  unfold State.rewind
  split
  · next hnone => rw [hnone, Option.map_none]
  · next x _ =>
    have hctxs : (x.tiles.foldl (fun s l => s.modTileL l fun t => { t with privAmax := [] }) (s.modCtx c Ctx.rewound)).ctxs
        = (s.modCtx c Ctx.rewound).ctxs :=
      foldl_keeps (Q := fun t : State => t.ctxs = (s.modCtx c Ctx.rewound).ctxs) _ rfl fun _ _ h => h
    exact (congrArg (smGet? · c) hctxs).trans (State.ctx?_modCtx_self c Ctx.rewound)

/-- The quiescing context, once quiesced. -/
def Ctx.quiesced (x : Ctx) : Ctx := { x with st := .quiesced, quiescing := false, rewindDue := false }

/-- A quiescing context with nothing in flight and no close under way becomes `QUIESCED`, at the start of its step or where it
stood (06 R160, 11 R346). -/
theorem exec_ctxQuiesceDone {s : State} {c : Fin 64} {y : Ctx} (hctx : s.ctx? c.val = some y) (hst : y.st = .running)
    (hq : y.quiescing = true) (hflight : s.inFlight c.val = false) (hclosing : y.closing = .idle) (hcloseQ : y.closeQ = []) :
    ∃ t, exec (.ctxQuiesceDone c) s = .next t ∧ (t.ctx? c.val = some y.quiesced ∨ t.ctx? c.val = some y.quiesced.rewound) := by
  have hquiesced : (((s.stopChans c.val).haltCores c.val).modCtx c.val Ctx.quiesced).ctx? c.val = some y.quiesced := by
    rw [State.ctx?_modCtx_self, State.ctx?, State.haltCores_ctxs, State.stopChans_ctxs]
    exact congrArg (Option.map Ctx.quiesced) hctx
  show ∃ t, execCtxQuiesceDone c s = _ ∧ _
  simp only [execCtxQuiesceDone, hctx]
  rw [if_neg (by simp [hst, hq, hflight, hclosing, hcloseQ])]
  refine ⟨_, rfl, ?_⟩
  rw [State.ctx?, State.syncActive_ctxs]
  split
  · exact .inr ((State.ctx?_rewind ..).trans (congrArg (Option.map Ctx.rewound) hquiesced))
  · exact .inl hquiesced

/-- The ID of a cleared context is free, and the event of its end is posted (06 R161). -/
theorem exec_ctxClearComplete {s : State} {c : Fin 64} {y : Ctx} (hctx : s.ctx? c.val = some y) (hst : y.st = .destroying) :
    ∃ t, exec (.ctxClearComplete c) s = .next t ∧ t.ctxs = smErase s.ctxs c.val ∧
      t = { s with ctxs := t.ctxs, sess := t.sess, out := t.out, pkg := { s.pkg with bootEvents := t.pkg.bootEvents } } := by
  obtain ⟨pk, se, o, hevent⟩ := s.event_frame 0x0401 5 c.val (some c.val) 0
  obtain ⟨waiting, hpkg⟩ := s.event_pkg 0x0401 5 c.val (some c.val) 0
  refine ⟨{ s with ctxs := smErase s.ctxs c.val, sess := se, out := o, pkg := pk }, ?_, rfl, ?_⟩
  · show execCtxClearComplete c s = _
    simp only [execCtxClearComplete, hctx]
    rw [if_neg (not_not.mpr hst), hevent]
  · rw [hevent] at hpkg
    cases hpkg
    rfl

/-- Settles O12, command by command. -/
theorem contextCommandsComplete : Obligations.ContextCommandsComplete := by
  refine ⟨fun _ _ _ _ _ _ _ h hrole => exec_ctxCreate h hrole,
    fun _ _ _ _ _ _ h hctx hrole => exec_ctxKeyInstall hctx hrole h,
    fun s n seq x r y z b h hctx hrole hst hkey hne hkind hobj hz => exec_ctxBind hctx hrole h hst hkey
      ⟨hne, by simp [hkind], hobj, by rw [hrole]; exact roleOwns_sync (hz ▸ hctx)⟩ hz,
    fun _ _ _ _ _ _ h hctx hrole => exec_ctxQuiesce hctx hrole h,
    fun s c y hctx hst hq hflight hclosing hcloseQ => ?_,
    fun _ _ _ _ _ _ h hctx hrole => exec_ctxDestroy hctx hrole h, fun _ _ _ => exec_ctxClearComplete⟩
  obtain ⟨t, ht, hquiesced | hrewound⟩ := exec_ctxQuiesceDone hctx hst hq hflight hclosing hcloseQ
  · exact ⟨t, _, ht, hquiesced, rfl, rfl, rfl, rfl, rfl⟩
  · exact ⟨t, _, ht, hrewound, rfl, rfl, rfl, rfl, rfl⟩

end Sys2Proof.Machine
end

section
/-! The commands of channels, windows and sync spaces, one by one (06 R159 to R171; 08 R227, R228). -/

namespace Sys2Proof.Machine

section
variable {s s1 : State} {n : Fin 64} {seq : W32} {x : Sess} {r : Req} {y : Ctx} {h : W32}

/-! ### `CHAN_CREATE` -/

/-- A ring on a good target, of a context that can hold channels, is created where there is room for it (06 R166, R167). -/
theorem State.createRing_done {c : Chan} (hturn : s.atTurn n seq 0x0201 x r) (hc : c = r.chan (if r.num 0 1 = 2 then r.num 4 1 else 0))
    (hkind : r.num 0 1 = 1 ∨ r.num 0 1 = 2 ∨ r.num 0 1 = 3) (hctx : s.ctx? c.ctx = some y) (hrole : x.role = .tenant y.owner)
    (hst : y.st ∈ [CtxSt.bound, .running, .quiesced])
    (hclean : r.clean [(0, 2), (4, if r.num 0 1 = 2 then 1 else 2), (8, 12), (24, 12), (40, 8)] = true) (hring : s.ringOk c = true)
    (htile : r.num 0 1 = 1 → y.tiles.contains c.tile = true ∧ (s.chansWhere (fun z => z.kind == 1 && z.tile == c.tile)).length < 4)
    (hengine : r.num 0 1 = 2 → r.num 4 1 = 0xFF ∨ c.engine < 20)
    (hstream : r.num 0 1 = 3 → s.chansWhere (fun z => z.kind == 3 && z.ctx == c.ctx && z.stream == c.stream) = [])
    (hwatches : s.watchesOn ((s.deviceAt c.ctrl).getD 0) < 1024) (hnew : s.newHandle (.chan c) = some (h, s1)) :
    s.createRing r x = .done (s1.writeCtl h) .ok (h.setWidth 3456) 4 := by
  unfold State.createRing
  extract_lets k own c' named tiles target stack full new
  obtain rfl : c = c' := hc
  have htarget : target = true := by
    obtain hk | hk | hk := hkind
    · simpa [target, k, hk, tiles, hctx] using (htile hk).1
    · simpa [target, k, hk, own] using hengine hk
    · simpa [target, k, hk] using hstream hk
  have hroom : full = false := by
    by_cases hk : r.num 0 1 = 1
    · simpa [full, k, hk, stack] using ⟨(htile hk).2, hwatches⟩
    · simpa [full, k, hk, stack] using hwatches
  have hhandle : new = some (h, s1) := hnew
  rw [htarget, hroom, hhandle]
  simp [ctxCheck_of_owner hctx hrole, ctxStCheck_of_mem hctx hst, hturn.pkg, named, k, hclean, hring]

/-- `CHAN_CREATE` of a ring. -/
theorem exec_chanCreate_ring (hturn : s.atTurn n seq 0x0201 x r) (hkind : r.num 0 1 = 1 ∨ r.num 0 1 = 2 ∨ r.num 0 1 = 3) :
    exec (.chanCreate n seq) s = .next (s.answer n.val r (s.createRing r x)) := by
  show execChanCreate n seq s = _
  rw [execChanCreate, aidar_at_turn hturn]
  obtain hk | hk | hk := hkind <;> simp only [hk]

/-- A window takes its frames and waits for its zero fill (08 R227, R228). -/
theorem exec_chanCreate_window (hturn : s.atTurn n seq 0x0201 x r) (hkind : r.num 0 1 = 4) (hctx : s.ctx? r.window.ctx = some y)
    (hrole : x.role = .tenant y.owner) (hst : y.st ≠ .destroying) (hkey : y.memKey.isSome = true)
    (hclean : r.clean [(0, 2), (4, 2), (8, 21)] = true) (hgood : s.windowOk r = true)
    (hframes : (r.window.devices.all (fun d => decide (r.window.framesEach ≤ (s.freeFramesOf d).length))) = true)
    (hroom : (s.windowsOf r.window.ctx).length < 1024) (hnew : s.newHandle (.window r.window) = some (h, s1)) :
    exec (.chanCreate n seq) s = .next (s.answer n.val r (.wait (s1.takeFrames h r.window))) := by
  obtain ⟨key, hkey⟩ := Option.isSome_iff_exists.mp hkey
  show execChanCreate n seq s = _
  rw [execChanCreate, aidar_at_turn hturn]
  simp only [hkind, State.createWindow, hnew, hframes]
  simp [ctxCheck_of_owner hctx hrole, ctxStCheck_of_not_destroying hctx hst, hturn.pkg, hclean, hgood, hctx, hkey, Nat.not_le.mpr hroom]

/-- A created context takes one sync space (06 R159, R185). -/
theorem exec_chanCreate_sync (hturn : s.atTurn n seq 0x0201 x r) (hkind : r.num 0 1 = 5) (hctx : s.ctx? (r.num 1 1) = some y)
    (hrole : x.role = .tenant y.owner) (hst : y.st = .created) (hclean : r.clean [(0, 2), (8, 12)] = true) (hsome : 0 < r.num 16 4)
    (hfits : r.num 16 4 ≤ 65536) (hin : s.inWindow (r.num 1 1) (r.num 8 8) (8 * r.num 16 4) true = true)
    (hfirst : s.holdsSync (r.num 1 1) = false)
    (hnew : s.newHandle (.sync { ctx := r.num 1 1, table := r.num 8 8, entries := r.num 16 4 }) = some (h, s1)) :
    exec (.chanCreate n seq) s = .next (s.answer n.val r (.done s1 .ok (h.setWidth 3456) 4)) := by
  show execChanCreate n seq s = _
  rw [execChanCreate, aidar_at_turn hturn]
  simp only [hkind, State.createSync, hnew]
  simp [ctxCheck_of_owner hctx hrole, ctxStCheck_of_mem hctx (states := [.created]) (by simp [hst]), hturn.pkg, hclean,
    Nat.ne_of_gt hsome, Nat.not_lt.mpr hfits, hin, hfirst]

end

/-! ### The end of a zero fill -/

/-- The state in which the frames of a window are zero and the window can be used (08 R228). -/
def State.zeroFilled (s : State) (h : W32) (w : Window) : State :=
  ({ s with
      tier := memClear s.tier w.base w.length
      tierPoison := s.tierPoison.filter (fun e => !(decide (w.base ≤ 64 * e.1) && decide (64 * e.1 < w.base + w.length))) } : State).modObj
    h (fun o => match o with | .window w => .window { w with ready := true } | o => o)

/-- The zero fill of a window ends (08 R228). -/
theorem exec_windowZeroFillDone {s : State} {h : W32} {w : Window} (hobj : s.hobj? h = some (.window w)) (hready : w.ready = false) :
    exec (.windowZeroFillDone h) s = .next ((s.zeroFilled h w).resolve
      (fun q => q.opcode == 0x0201 && q.num 0 1 == 4 && q.num 1 1 == w.ctx && q.num 8 8 == w.base) .ok 0 (h.setWidth 3456) 4) := by
  show execWindowZeroFillDone h s = _
  simp only [execWindowZeroFillDone, hobj]
  rw [if_neg (by simp [hready])]
  rfl

/-- The window is ready; the bytes in it are 0 and those outside it as they were. -/
theorem State.zeroFilled_effect {s : State} {h : W32} {w : Window} (hobj : s.hobj? h = some (.window w)) :
    (s.zeroFilled h w).hobj? h = some (.window { w with ready := true }) ∧
      (∀ a, w.base ≤ a → a < w.base + w.length → memWf s.tier = true → memGet (s.zeroFilled h w).tier a = 0) ∧
      ∀ a, memWf s.tier = true → (a < w.base ∨ w.base + w.length ≤ a) → memGet (s.zeroFilled h w).tier a = memGet s.tier a := by
  refine ⟨?_, fun a hlo hhi hwf => ?_, fun a hwf hout => ?_⟩
  · exact State.hobj?_modObj_self (f := fun o => match o with | .window w => .window { w with ready := true } | o => o)
      (o := .window w) hobj rfl
  · exact (memGet_memClear hwf ..).trans (if_neg (by omega))
  · exact (memGet_memClear hwf ..).trans (if_pos hout)

/-! ### Commands that name a channel or another object -/

section
variable {s : State} {n : Fin 64} {seq : W32} {x : Sess} {r : Req} {h : W32} {c : Chan} {o : HObj}

/-- A handle that the session may use passes its check (12 R368, check 6). -/
theorem handleCheck_of_own {kinds : List Nat} (hown : s.ownHandle x h kinds o) : handleCheck s x h kinds = (false, .ok, 0) := by
  rw [handleCheck, checkHandle_of_own hown]

/-- A handle of a ring that the session may use. -/
theorem State.ownHandle_of_ring (hne : h ≠ 0) (hkind : hKind h = 1 ∨ hKind h = 2 ∨ hKind h = 3) (hobj : s.hobj? h = some o)
    (howns : roleOwns s x.role o = true) : s.ownHandle x h [1, 2, 3] o := ⟨hne, by simpa using hkind, hobj, howns⟩

/-- A channel in one of the states that a command takes passes its check. -/
theorem chanStCheck_of_mem {states : List ChSt} (hc : s.chan? h = some c) (hst : c.st ∈ states) :
    chanStCheck s h states = (false, .stateConflict, 0x30 + c.st.num) := by
  simp [chanStCheck, hc, hst]

/-- A request at its turn that a test selects runs its effect. -/
theorem State.runReq_at_turn {op : Nat} (hturn : s.atTurn n seq op x r) {sel : Req → Bool} (hsel : sel r = true)
    (core : Sess → Req → CmdOut) : s.runReq n.val seq op sel core = s.answer n.val r (core x r) := by
  have hwait := hturn.waiting_of_sel hsel
  obtain ⟨-, hmgr, hbusy, hearly, -⟩ := hturn
  simp [State.runReq, hwait, hmgr, hbusy, checked_pass _ hearly]

/-- An idle or stopped channel starts, unless its context quiesces or is being spared (06 R171). -/
theorem exec_chanStart (hturn : s.atTurn n seq 0x0202 x r) (hh : h = BitVec.ofNat 32 (r.num 0 4)) (hquiet : s.quiescingOf h = false)
    (hown : s.ownHandle x h [1, 2, 3] (.chan c)) (hst : c.st ∈ [ChSt.idle, .stopped]) (hclean : r.clean [(0, 5), (8, 4)] = true)
    (hrestart : r.num 4 1 ≤ 1) (hsparing : s.sparingOf c.ctx = false) :
    exec (.chanStart n seq) s = .next (s.answer n.val r (.ok (s.startChan h c
      (if r.num 4 1 = 1 then some (BitVec.ofNat 32 (r.num 8 4)) else none)))) := by
  obtain ⟨-, -, hobj, -⟩ := id hown
  have hc := State.chan?_eq_some.mpr hobj
  show execChanStart n seq s = _
  rw [execChanStart, State.runReq_at_turn hturn (by rw [← hh, hquiet, Bool.not_false])]
  dsimp only
  rw [← hh, handleCheck_of_own hown, chanStCheck_of_mem hc hst, hc]
  simp [hturn.pkg, hclean, Nat.not_lt.mpr hrestart, hsparing]

section
variable (hturn : s.atTurn n seq 0x0203 x r) (hh : h = BitVec.ofNat 32 (r.num 0 4)) (hown : s.ownHandle x h [1, 2, 3] (.chan c))
include hturn hh hown

/-- A running channel stops once what it issued is complete (06 R171). -/
theorem exec_chanStop_running (hst : c.st = .running) :
    exec (.chanStop n seq) s = .next (s.answer n.val r (.wait ((s.discard (fun o => o.ch == h && o.isQueued)).setChan h (fun y => { y with
      st := .stopped, stopping := true })))) := by
  obtain ⟨-, -, hobj, -⟩ := id hown
  have hc := State.chan?_eq_some.mpr hobj
  show execChanStop n seq s = _
  rw [execChanStop, aidar_at_turn hturn]
  dsimp only
  rw [← hh, handleCheck_of_own hown, chanStCheck_of_mem hc (by simp [hst]), hc]
  simp [hturn.pkg, hst]

/-- A faulted channel stops with no other action (06 R171). -/
theorem exec_chanStop_faulted (hst : c.st = .faulted) :
    exec (.chanStop n seq) s = .next (s.answer n.val r (.ok (s.setChan h (fun y => { y with st := .stopped })))) := by
  obtain ⟨-, -, hobj, -⟩ := id hown
  have hc := State.chan?_eq_some.mpr hobj
  show execChanStop n seq s = _
  rw [execChanStop, aidar_at_turn hturn]
  dsimp only
  rw [← hh, handleCheck_of_own hown, chanStCheck_of_mem hc (by simp [hst]), hc]
  simp [hturn.pkg, hst]

end

/-- A stopping channel with no operation left has stopped, and its command has its outcome (06 R171). -/
theorem exec_chanStopDone (hc : s.chan? h = some c) (hstop : c.stopping = true) (hnone : s.ops.all (fun o => o.ch != h) = true) :
    exec (.chanStopDone h) s = .next ((s.modChan h (fun y => { y with stopping := false })).resolve
      (fun q => q.opcode == 0x0203 && q.num 0 4 == h.toNat) .ok 0 0 0) := by
  have hops : (s.ops.any fun o => o.ch == h) = false := by simpa using hnone
  show execChanStopDone h s = _
  simp only [execChanStopDone, hc]
  rw [if_neg (by simp [hstop, hops])]

/-- A handle whose object may be destroyed is retired, with what the object holds (06 R163, R171; 08 R228). -/
theorem exec_chanDestroy (hturn : s.atTurn n seq 0x0204 x r) (hh : h = BitVec.ofNat 32 (r.num 0 4))
    (hown : s.ownHandle x h [1, 2, 3, 4, 5, 6, 7] o) (hrole : (destroyRole x h).1 = false) (hst : (s.destroyCheck h).1 = false) :
    exec (.chanDestroy n seq) s = .next (s.answer n.val r (.ok ((s.discard (fun o => o.ch == h && o.isQueued)).retireObj h))) := by
  show execChanDestroy n seq s = _
  rw [execChanDestroy, aidar_at_turn hturn]
  dsimp only
  rw [← hh, handleCheck_of_own hown, checked_of_all_pass (by simp [hrole, hst, hturn.pkgCheck_passes])]

/-- A query reads the object (12 R373). -/
theorem exec_chanQuery (hturn : s.atTurn n seq 0x0205 x r) (hh : h = BitVec.ofNat 32 (r.num 0 4))
    (hown : s.ownHandle x h [1, 2, 3, 4, 5, 6, 7] o) :
    exec (.chanQuery n seq) s = .next (s.answer n.val r (.done s .ok (queryBody h o) 64)) := by
  obtain ⟨-, -, hobj, -⟩ := id hown
  show execChanQuery n seq s = _
  rw [execChanQuery, aidar_at_turn hturn]
  dsimp only
  rw [← hh, handleCheck_of_own hown, hobj, checked_cons_false, hturn.pkg, checked_nil]

end

/-- Settles O14, command by command. -/
theorem channelCommandsComplete : Obligations.ChannelCommandsComplete := by
  refine ⟨fun s n seq x r y c h s1 hturn hc hkind hctx hrole hst hclean hring htile hengine hstream hwatches hnew => ?_,
    fun _ _ _ _ _ _ _ _ => exec_chanCreate_window, fun _ _ _ _ _ _ _ _ => exec_chanCreate_sync,
    fun s h w hobj hready => ⟨_, exec_windowZeroFillDone hobj hready, State.zeroFilled_effect hobj⟩,
    fun s n seq x r h c hturn hh hquiet hne hkind hobj howns hst => exec_chanStart hturn hh hquiet
      (State.ownHandle_of_ring hne hkind hobj howns) (by simpa using hst),
    fun s n seq x r h c hturn hh hne hkind hobj howns => exec_chanStop_running hturn hh (State.ownHandle_of_ring hne hkind hobj howns),
    fun s n seq x r h c hturn hh hne hkind hobj howns => exec_chanStop_faulted hturn hh (State.ownHandle_of_ring hne hkind hobj howns),
    fun s h c hc hstop hnone => ⟨_, exec_chanStopDone hc hstop hnone, State.chan?_modChan_self hc rfl, rfl, rfl⟩,
    fun _ _ _ _ _ _ _ => exec_chanDestroy, fun _ _ _ _ _ _ _ => exec_chanQuery⟩
  rw [exec_chanCreate_ring hturn hkind, State.createRing_done hturn hc hkind hctx hrole (by simpa using hst) hclean hring htile hengine hstream
    hwatches hnew]

end Sys2Proof.Machine
end

section
/-! A signal past the limit of a count: the fault of its channel, and the count that it leaves (06 R186). -/

namespace Sys2Proof.Machine

/-! ### Entries of a map that stay -/

section
variable {α : Type} {m : SMap α} {n : Nat} {v : α}

/-- An entry stays when the entry of another key is removed. -/
theorem smGet?_smErase_of_some (hn : smGet? m n = some v) {k : Nat} (hk : k ≠ n) : smGet? (smErase m k) n = some v := by
  induction m with
  | nil => exact hn
  | cons e m ih =>
    obtain ⟨j, w⟩ := e
    by_cases hjn : j = n
    · subst hjn
      simp only [smErase, hk.symm, if_false]
      split <;> simpa [smGet?] using hn
    · have hlt : ¬n < j := fun hlt => by simp [smGet?, hjn, hlt] at hn
      have hrest : smGet? m n = some v := by simpa [smGet?, hjn, hlt] using hn
      simp only [smErase]
      split
      · exact hrest
      · split
        · exact hn
        · simpa [smGet?, hjn, hlt] using ih hrest

/-- An entry that a filter keeps stays. -/
theorem smGet?_filter_of_some (hn : smGet? m n = some v) {p : Nat × α → Bool} (hp : p (n, v) = true) :
    smGet? (m.filter p) n = some v := by
  induction m with
  | nil => exact hn
  | cons e m ih =>
    obtain ⟨j, w⟩ := e
    by_cases hjn : j = n
    · subst hjn
      obtain rfl : w = v := by simpa [smGet?] using hn
      simp [hp, smGet?]
    · have hlt : ¬n < j := fun hlt => by simp [smGet?, hjn, hlt] at hn
      have hrest : smGet? m n = some v := by simpa [smGet?, hjn, hlt] using hn
      rw [List.filter_cons]
      split
      · simpa [smGet?, hjn, hlt] using ih hrest
      · exact ih hrest

end

/-! ### The count of a cell -/

/-- The home of a cell holds it, with a count of `v`. -/
def State.CellCounts (s : State) (home c id v : Nat) : Prop := ∃ d, (s.tileL home).cell? c id = some d ∧ d.count = v

section
variable {s t : State} {home c id v l : Nat}

/-- A tile with a cell is listed. -/
theorem State.smGet?_tiles_of_cell {p : Nat} {d : Cell} (hcell : (s.tileP p).cell? c id = some d) :
    smGet? s.tiles p = some (s.tileP p) := by
  rw [State.tileP, smGet] at hcell ⊢
  cases hget : smGet? s.tiles p with
  | none =>
    rw [hget] at hcell
    exact absurd rfl (Tile.ne_empty_of_cell hcell)
  | some T => rfl

/-- The count depends on the tiles and on the binding of logical to physical tiles alone. -/
theorem State.CellCounts.congr (h : s.CellCounts home c id v) (htiles : t.tiles = s.tiles) (hbinding : t.binding = s.binding) :
    t.CellCounts home c id v := by
  have htile : t.tileL home = s.tileL home := by
    rw [State.tileL, State.tileL, State.phys_of_binding hbinding, State.tileP, State.tileP, htiles]
  rwa [State.CellCounts, htile]

/-- A change of a tile that keeps its cells keeps the count. -/
theorem State.CellCounts.modTileL (h : s.CellCounts home c id v) {f : Tile → Tile} (hcells : ∀ t, (f t).cells = t.cells) :
    (s.modTileL l f).CellCounts home c id v := by
  obtain ⟨d, hd, hcount⟩ := h
  refine ⟨d, ?_, hcount⟩
  show ((s.modTileP (s.phys l) f).tileP (s.phys home)).cell? c id = some d
  by_cases hsame : s.phys l = s.phys home
  · have hnew : (f (s.tileP (s.phys home))).cell? c id = some d := by rwa [Tile.cell?, hcells]
    rw [hsame, State.tileP_modTileP_of_ne (Tile.ne_empty_of_cell hnew), hnew]
  · have hlisted := State.smGet?_tiles_of_cell hd
    have hget : smGet? (s.modTileP (s.phys l) f).tiles (s.phys home) = some (s.tileP (s.phys home)) := by
      rw [State.modTileP_tiles, smPutD]
      split
      · exact smGet?_smErase_of_some hlisted hsame
      · rw [smGet?_smPut_ne _ _ (Ne.symm hsame), hlisted]
    rw [State.tileP, smGet, hget, Option.getD_some]
    exact hd

/-- A tile without the waits of operations that are gone. -/
def Tile.withoutWaits (t : Tile) (gone : List Nat) : Tile :=
  { t with
    cells := t.cells.map (fun c => { c with waits := c.waits.filter (fun w => !gone.contains w.op) })
    lwaits := t.lwaits.filter (fun w => !gone.contains w.2) }

/-- Its cells keep their counts. -/
theorem Tile.cell?_withoutWaits {t : Tile} {d : Cell} (hd : t.cell? c id = some d) (gone : List Nat) :
    (t.withoutWaits gone).cell? c id = some { d with waits := d.waits.filter (fun w => !gone.contains w.op) } := by
  rw [Tile.cell?, Tile.withoutWaits, List.find?_map]
  exact congrArg (Option.map _) hd

/-- Operations that are taken out leave the counts (06 R171). -/
theorem State.CellCounts.dropOps (h : s.CellCounts home c id v) (p : Op → Bool) : (s.dropOps p).CellCounts home c id v := by
  obtain ⟨d, hd, hcount⟩ := h
  have hcell := Tile.cell?_withoutWaits hd ((s.ops.filter p).map (·.id))
  have hget : smGet? (s.dropOps p).tiles (s.phys home) = some ((s.tileL home).withoutWaits ((s.ops.filter p).map (·.id))) := by
    refine smGet?_filter_of_some ?_ (decide_eq_true (Tile.ne_empty_of_cell hcell))
    have hentry := smGet?_map_entry s.tiles (fun _ t => t.withoutWaits ((s.ops.filter p).map (·.id))) (s.phys home)
    rw [State.smGet?_tiles_of_cell hd] at hentry
    exact hentry
  have htile : (s.dropOps p).tileL home = (s.tileL home).withoutWaits ((s.ops.filter p).map (·.id)) := by
    show smGet {} (s.dropOps p).tiles (s.phys home) = _
    rw [smGet, hget, Option.getD_some]
  refine ⟨_, (congrArg (·.cell? c id) htile).trans hcell, ?_⟩
  exact hcount

/-- So does a queue whose wait counts anew. -/
theorem State.CellCounts.touchQueue (h : s.CellCounts home c id v) (o : Op) : (s.touchQueue o).CellCounts home c id v := by
  unfold State.touchQueue
  split
  · exact h.modTileL fun _ => rfl
  · exact h

end

/-! ### The fault of a channel (06 R171) -/

section
variable {s : State} {h : W32} {c : Chan}

/-- A channel as a fault leaves it. -/
def Chan.faultedBy (c : Chan) (cause : Cause) (index : W32) : Chan :=
  { c with cause := cause, faultIndex := index, st := if c.st = .running then .faulted else c.st }

/-- What the discarded operations leave behind, in the tiles and the operations. -/
theorem State.touchDropped_frame (s old : State) : ∃ ti ops, s.touchDropped old = { s with tiles := ti, ops := ops } := by
  obtain ⟨ti, ops, htouched⟩ : ∃ ti ops, (old.ops.filter (fun o => o.isQueued && ((old.headLike o).map (·.id) == some o.id)
      && (s.op? o.id).isNone)).foldl State.touchQueue s = { s with tiles := ti, ops := ops } := by
    refine foldl_keeps (Q := fun t : State => ∃ ti ops, t = { s with tiles := ti, ops := ops }) _ ⟨_, _, rfl⟩ ?_
    rintro _ o ⟨ti, ops, rfl⟩
    obtain ⟨ti', ht⟩ := ({ s with tiles := ti, ops := ops } : State).touchQueue_frame o
    exact ⟨ti', ops, ht⟩
  rw [State.touchDropped, htouched]
  exact ⟨ti, _, rfl⟩

theorem State.CellCounts.touchDropped {home x id v : Nat} (hcount : s.CellCounts home x id v) (old : State) :
    (s.touchDropped old).CellCounts home x id v :=
  (foldl_keeps (Q := fun t : State => t.CellCounts home x id v) _ hcount fun _ _ h => h.touchQueue _).congr rfl rfl

/-- A running channel that faults: what it fetched and did not issue is discarded, and an event is posted. -/
theorem State.faultCh_running (hc : s.chan? h = some c) (hrun : c.st = .running) (cause : Cause) (index : W32) :
    s.faultCh h cause index false = (((s.setChan h (·.faultedBy cause index)).dropOps (fun o => o.ch == h && !o.isIssued)).event
      0x0400 1 h.toNat (some c.ctx) (pack 3328 [(7, 0, cause.num), (63, 32, index.toNat)])).touchDropped s := by
  rw [State.faultCh, State.faultChan, hc]
  dsimp only
  rw [if_pos hrun]
  rfl

/-- It is `FAULTED`, with its cause and index; the signals and the counts of the cells are as they were. -/
theorem State.faultCh_effect (hc : s.chan? h = some c) (hrun : c.st = .running) (cause : Cause) (index : W32) :
    (s.faultCh h cause index false).chan? h = some (c.faultedBy cause index) ∧
      (s.faultCh h cause index false).signals = s.signals ∧
      ∀ {home x id v : Nat}, s.CellCounts home x id v → (s.faultCh h cause index false).CellCounts home x id v := by
  rw [State.faultCh_running hc hrun]
  generalize hdropped : (s.setChan h (·.faultedBy cause index)).dropOps (fun o => o.ch == h && !o.isIssued) = dropped
  generalize hdata : pack 3328 [(7, 0, cause.num), (63, 32, index.toNat)] = data
  obtain ⟨tier, poison, hctl⟩ := (s.modChan h (·.faultedBy cause index)).writeCtl_frame h
  obtain ⟨pk, se, out, hevent⟩ := dropped.event_frame 0x0400 1 h.toNat (some c.ctx) data
  obtain ⟨ti, ops, htouched⟩ := (dropped.event 0x0400 1 h.toNat (some c.ctx) data).touchDropped_frame s
  have hchan := State.chan?_setChan_self hc (f := (·.faultedBy cause index)) rfl
  refine ⟨?_, ?_, fun hcount => ?_⟩
  · rw [htouched, hevent, ← hdropped]
    exact hchan
  · rw [htouched, hevent, ← hdropped, State.setChan, hctl]
    rfl
  · have hset : (s.setChan h (·.faultedBy cause index)).CellCounts _ _ _ _ :=
      hcount.congr (by rw [State.setChan, hctl]; rfl) (by rw [State.setChan, hctl]; rfl)
    have hdrop := hset.dropOps (fun o => o.ch == h && !o.isIssued)
    rw [hdropped] at hdrop
    exact (hdrop.congr (State.event_tiles ..) (State.binding_event ..)).touchDropped s

end

/-- A signal past the limit faults its channel (06 R186). -/
theorem State.signalHome_overflows {s : State} {g : Signal} {home add : Nat} {c : Cell}
    (hcell : (s.tileL home).cell? g.ctx g.id = some c) (hover : 16777215 < c.count + add) :
    s.signalHome g home add = (s.useCell home g.ctx g.id).faultCh g.ch .syncOverflow g.idx false := by
  unfold State.signalHome
  simp only [hcell]
  exact if_pos hover

/-- Settles O29: the cell is marked as used, and the fault of the channel leaves its count. -/
theorem signalOverflowFaults : Obligations.SignalOverflowFaults := by
  intro s k g home add c ch hg hloc hdest htile hhome hcell hover hchan hrun _
  have hused := State.cell?_useCell (s := { s with signals := s.signals.eraseIdx k }) hcell
  obtain ⟨hfaulted, hsignals, hcounts⟩ := State.faultCh_effect
    (s := ({ s with signals := s.signals.eraseIdx k } : State).useCell home g.ctx g.id) hchan hrun .syncOverflow g.idx
  refine ⟨_, _, ?_, hfaulted, if_pos hrun, rfl, rfl, hsignals, hcounts ⟨_, hused, rfl⟩⟩
  rw [exec_syncSignal_arrives hg hloc hdest htile hhome,
    State.signalHome_overflows (s := { s with signals := s.signals.eraseIdx k }) hcell hover]

end Sys2Proof.Machine
end
